-- ==== Sys2Proof/Word.lean ====
section
/-! DEFINITION. Word widths of the N24 and their plainest arithmetic (R6, R7). -/

namespace Sys2Proof

/-- A 64-bit register, CSR or memory word. -/
abbrev Word := BitVec 64
/-- One byte. -/
abbrev Byte := BitVec 8
/-- The 64 bytes of one line, byte 0 in the least significant bits (R8). -/
abbrev Line := BitVec 512

/-- One below `2 ^ 64`, the value the N24 uses for "none" in several 64-bit objects. -/
abbrev ones64 : Nat := 2 ^ 64 - 1

end Sys2Proof
end

