-- ==== Sys2Proof/Syntax.lean ====
section
/-! DEFINITION. The commands of the N24, one constructor per row of opcode_table.json, and the types of
their operands. An operand is what the world outside decides: a value written, a frame that arrives, the outcome
of a test, an error found in an array. -/

namespace Sys2Proof

/-- One party that sends Catalogue requests (R396): a DTLS session slot 0-7, a CAN FD client, a mailbox. -/
inductive Requester where
  | session (n : Nat)
  | can (id : Nat)
  | mailbox (p : Nat)
deriving DecidableEq, Repr

/-- What step 2 of R80 finds (R433): a self-test that fails, or whether the signature and the digest of the image in each Curator bank are
good. -/
inductive BootOutcome where
  | selfTestFailed
  | banks (good0 good1 : Bool)
deriving DecidableEq, Repr

/-- One DIMM as its channel detects it (R156). -/
structure Dimm where
  gib : Nat
  ranks : Nat
  width : Nat
  registered : Bool
  ecc : Bool
deriving DecidableEq, Repr

/-- Identification of a site over the sideband (R52, R55). -/
structure SiteId where
  major : Nat := 2
  minor : Nat := 0
  features : Nat := 3
deriving DecidableEq, Repr

/-- How a drain into OFF is broken off (R381, R482): after the programs of `units`, by a rail that leaves its limits or, with none, by a
fall of PORESET_N. -/
structure DrainCut where
  rail : Option Nat
  units : List Nat
deriving DecidableEq, Repr

/-- What a power-up finds beside the boot bank (R80): the Archive dies that answer and the failed lanes of their modules,
16 bits a die (R44); the dies at which each reference is present (R75); the DIMMs; the sites' identifications; the security
records whose tags fail, owner keys 0 to 3 and then trust anchors 0 to 7 (R432); what the boot flash holds of a target that no install
has written, for its first bytes (R435). -/
structure BootEnv where
  diesUp : BitVec 4
  archiveLanes : BitVec 64 := 0
  optical : BitVec 28
  electrical : BitVec 28
  dimms : List (List Dimm)
  idents : List (Nat × SiteId)
  badTags : BitVec 12 := 0
  factory : List (Nat × List Byte) := []
deriving DecidableEq, Repr

/-- A temperature sensor of R493. -/
inductive Sensor where
  | site (n : Nat)
  | rotunda
  | stack (n : Nat)
  | archive (n : Nat)
deriving DecidableEq, Repr

/-- An encoder line (R92). -/
inductive EncLine where
  | a | b | z
deriving DecidableEq, Repr

/-- A newly accepted level: of one line, or of A and B in one accepted step (R93). -/
inductive EncChange where
  | a (level : Bool)
  | b (level : Bool)
  | z (level : Bool)
  | ab (levelA levelB : Bool)
deriving DecidableEq, Repr

/-- How the training of one die's modules ends: past 2 ms (R43), or with the lanes of CM0-CM3 that failed. `unseen`: modules
whose retirement of lanes the far end did not see (R49). -/
inductive Training where
  | timeout
  | done (bad0 bad1 bad2 bad3 : BitVec 16) (unseen : BitVec 4)
deriving DecidableEq, Repr

/-- What one read finds in the array (R177, R187): nothing, an error that the code corrects (for DDR5 in the named
device), an uncorrectable error in the words of the mask. -/
inductive Finding where
  | clean
  | correctable (device : Nat)
  | uncorrectable (words : BitVec 8)
deriving DecidableEq, Repr

/-- What an access to an SRAM array finds (R176): nothing, an error that its code corrects, one that it does not. -/
inductive ArrayFinding where
  | clean
  | corrected
  | uncorrectable
deriving DecidableEq, Repr

/-- An error in an array of a gallery, met by an access of a hart (R176, R443). `core`: the arrays of KIND 01h by SUB, the entry
by its line number (arrays 0 to 2), its place in the store buffer, or its place among the translations held. `l2`: the data or
tag array of a way, in a set; `words`: the failing words of the line. -/
inductive ArrayError where
  | core (array entry : Nat) (words : BitVec 8) (fatal : Bool)
  | l2 (tag : Bool) (way set : Nat) (words : BitVec 8) (fatal : Bool)
deriving DecidableEq, Repr

/-- Service classes of R158. -/
inductive SvcClass where
  | ingest | demand | io | scrub
deriving DecidableEq, Repr

/-- A source of the memory controllers, between whose requests R162 keeps order: an L2, a load queue of the Dray, a Mosaic ring, the
Archive controller, the patrol scrubber, the checker test mode (R191). `lane`, `package`: the receive path of a lane, and what the
Curator, the error log and the debug module send; R162 names no source for them, and each is one of its own (DESIGN CHOICE). -/
inductive MemSource where
  | l2 (gallery : Nat)
  | queue (q : Nat)
  | ring (r : Nat)
  | archive
  | scrubber
  | checker
  | lane (l : Nat)
  | package
deriving DecidableEq, Repr

/-- What a memory request asks (R161): a read, or a write of the bytes in the mask. -/
inductive MemOp where
  | read
  | write (data : Line) (mask : BitVec 64)
deriving DecidableEq, Repr

/-- A memory resource with its own scheduler: pseudo-channel `stack * 32 + pc`, or a DDR5 channel (R158). -/
inductive MemCh where
  | hbm (pc : Nat)
  | ddr (ch : Nat)
deriving DecidableEq, Repr

/-- Form of a GVSP packet on a lane (R131). -/
inductive GvspForm where
  | leader (payloadType pixelFormat sizeX sizeY timestamp : Nat)
  | payload (bytes : List Byte)
  | trailer
  | allIn (payloadType pixelFormat sizeX sizeY timestamp : Nat) (bytes : List Byte)
  | other
deriving DecidableEq, Repr

/-- A UDP packet to the lane's address that may be a stream packet (R126, R131). -/
structure StreamPkt where
  srcIp : Nat
  dstPort : Nat
  extendedId : Bool
  status : Nat
  blockId : Nat
  packetId : Nat
  form : GvspForm
deriving DecidableEq, Repr

/-- What a frame on a lane carries (R121): an ARP packet, IPv4 UDP without options and not fragmented, or anything else. `delayReq`: the
payload is a Delay_Req message; `actionAck`: it carries the GVCP acknowledge code of ACTION_ACK; `bytes`: its length. -/
inductive LanePacket where
  | arp (request : Bool) (targetIp : Nat)
  | udp (srcIp dstIp dstPort bytes : Nat) (delayReq actionAck : Bool)
  | other
deriving DecidableEq, Repr

/-- A frame that arrives on a lane (R119, R121): the bytes that wait in the lane's buffer as it arrives (R145), its length, whether its
checks are good (FCS, IPv4 header checksum, a non-zero UDP checksum), and its destination address. -/
structure LaneFrame where
  waiting : Nat
  length : Nat
  checksGood : Bool
  dstMac : Nat
  packet : LanePacket
deriving DecidableEq, Repr

/-- An NMT frame on the CAN FD port (R413): whether it is a classical CAN frame, and the node that it addresses, 0 for all. -/
structure CanFrame where
  classical : Bool
  node : Nat
deriving DecidableEq, Repr

/-- What happens to the CAN FD port's error state (R414, ISO 11898-1): error passive, error active again, bus-off, recovered from it. -/
inductive CanChange where
  | passive | active | busOff | recovered
deriving DecidableEq, Repr

/-- A frame on a field port (R410); `accessUnit`: a DTLS record of a session that holds one access unit, as its bytes (R405, R411);
`badRecord`: a DTLS record of a session that holds anything but one access unit (R411). -/
inductive FieldFrame where
  | arpRequest (targetIp : Nat)
  | icmpEcho (targetIp : Nat)
  | catalogue
  | accessUnit (session : Nat) (unit : List Byte)
  | badRecord (session : Nat)
  | time
  | other
deriving DecidableEq, Repr

/-- Access kinds of a hint (R295). -/
inductive HintKind where
  | i | r | w
deriving DecidableEq, Repr

/-- AMO operations of the A extension (R195). -/
inductive AmoOp where
  | swap | add | xor | and | or | min | max | minu | maxu
deriving DecidableEq, Repr

/-- Integer operations of RV64I, M, Zba, Zbb and Zbs (R195). `w` forms work on 32 bits and sign-extend. -/
inductive AluOp where
  | add | sub | sll | slt | sltu | xor | srl | sra | or | and
  | addw | subw | sllw | srlw | sraw
  | mul | mulh | mulhsu | mulhu | div | divu | rem | remu | mulw | divw | divuw | remw | remuw
  | adduw | sh1add | sh2add | sh3add | sh1adduw | sh2adduw | sh3adduw | slliuw
  | andn | orn | xnor | clz | ctz | cpop | clzw | ctzw | cpopw | max | maxu | min | minu
  | sextb | sexth | zexth | rol | ror | rolw | rorw | orcb | rev8
  | bclr | bext | binv | bset
deriving DecidableEq, Repr

/-- Branch conditions of RV64I. -/
inductive BranchOp where
  | eq | ne | lt | ge | ltu | geu
deriving DecidableEq, Repr

/-- CSR instructions of Zicsr. -/
inductive CsrOp where
  | rw | rs | rc
deriving DecidableEq, Repr

/-- Floating-point operations of F and D with a floating-point result (R195); `cvt` converts from the other format. -/
inductive FpOp where
  | add | sub | mul | div | sqrt | min | max | madd | msub | nmsub | nmadd | sgnj | sgnjn | sgnjx | cvt
deriving DecidableEq, Repr

/-- Floating-point operations with an integer result. -/
inductive FpToInt where
  | cvtW | cvtWu | cvtL | cvtLu | mv | eq | lt | le | cls
deriving DecidableEq, Repr

/-- Integer operands into a floating-point register. -/
inductive IntToFp where
  | cvtW | cvtWu | cvtL | cvtLu | mv
deriving DecidableEq, Repr

/-- The second operand of an integer instruction; the AVL and the vtype of vsetvl and its forms. -/
inductive Src2 where
  | reg (n : Nat)
  | imm (v : Word)
deriving DecidableEq, Repr

/-- A scalar instruction as decoded by DE (R203); `len` is 2 for a compressed form and 4 otherwise. `fetch` is the step
before it: the fetch of the `len` bytes at the pc, with what the memory read of a miss finds (R203, R255). `arrayError` is no
instruction: an access of the hart meets an error in an array (R176). Nor is `walkError`: what memory finds at the first line that the
hart's next walk reads there, whatever instruction the walk is for (R291). -/
inductive RvInsn where
  | alu (op : AluOp) (rd rs1 : Nat) (src2 : Src2)
  | lui (rd : Nat) (imm : Word)
  | auipc (rd : Nat) (imm : Word)
  | jal (rd : Nat) (offset : Word)
  | jalr (rd rs1 : Nat) (offset : Word)
  | branch (op : BranchOp) (rs1 rs2 : Nat) (offset : Word)
  | fp (op : FpOp) (dbl : Bool) (rd rs1 rs2 rs3 rm : Nat)
  | fpToInt (op : FpToInt) (dbl : Bool) (rd rs1 rs2 rm : Nat)
  | intToFp (op : IntToFp) (dbl : Bool) (rd rs1 rm : Nat)
  | csr (op : CsrOp) (rd num : Nat) (src : Src2)
  | ecall
  | ebreak
  | mret
  | sret
  | fetch (finding walk : Finding)
  | custom0 (word : BitVec 32)
  | illegal (bits : Word)
  | arrayError (e : ArrayError)
  | walkError (found : Finding)
deriving DecidableEq, Repr

/-- Element addresses of a vector memory instruction (R211): consecutive, at a stride, by an index; whole registers (vl1r to vl8r,
vs1r to vs8r); mask bits (vlm, vsm). -/
inductive VecAddr where
  | unit
  | strided (rs2 : Nat)
  | indexed (vs2 eew : Nat)
  | whole (regs : Nat)
  | maskBits
deriving DecidableEq, Repr

/-- Integer and fixed-point operations of V on elements of SEW; the comparisons write mask bits. `merge` is vmerge where masked and
vmv.v where not. -/
inductive VAlu where
  | add | sub | rsub | and | or | xor | sll | srl | sra | minu | min | maxu | max
  | mul | mulh | mulhu | mulhsu | divu | div | remu | rem | macc | nmsac | madd | nmsub | merge
  | mseq | msne | msltu | mslt | msleu | msle | msgtu | msgt
  | saddu | sadd | ssubu | ssub | aaddu | aadd | asubu | asub | smul | ssrl | ssra
deriving DecidableEq, Repr

/-- Widening operations: two elements of SEW, or with `wide` vs2 of 2 × SEW, into 2 × SEW. -/
inductive VWiden where
  | addu | add | subu | sub | mulu | mul | mulsu
deriving DecidableEq, Repr

/-- Narrowing operations: vs2 of 2 × SEW into SEW. -/
inductive VNarrow where
  | srl | sra | clipu | clip
deriving DecidableEq, Repr

/-- Integer reductions of V. -/
inductive VRed where
  | sum | and | or | xor | minu | min | maxu | max
deriving DecidableEq, Repr

/-- Mask-register operations of V. -/
inductive VMask where
  | and | nand | andn | xor | or | nor | orn | xnor
deriving DecidableEq, Repr

/-- vmsbf, vmsif and vmsof. -/
inductive VFirstMask where
  | before | including | only
deriving DecidableEq, Repr

/-- The first source of a vector instruction: a register group, an x or f register, or an immediate. -/
inductive VecSrc where
  | vec (n : Nat)
  | scalar (n : Nat)
  | fpr (n : Nat)
  | imm (v : Word)
deriving DecidableEq, Repr

/-- Floating-point operations of V with two or three sources. -/
inductive VFp where
  | add | sub | rsub | mul | div | rdiv | min | max | sgnj | sgnjn | sgnjx
  | macc | nmacc | msac | nmsac | madd | nmadd | msub | nmsub
deriving DecidableEq, Repr

/-- Floating-point operations of V with one source. -/
inductive VFp1 where
  | sqrt | rec7 | rsqrt7 | cls
deriving DecidableEq, Repr

/-- Floating-point comparisons of V; gt and ge have scalar forms only. -/
inductive VFpCmp where
  | eq | ne | lt | le | gt | ge
deriving DecidableEq, Repr

/-- Conversions of V: to an integer, `rtz` toward zero; from an integer; between formats, `odd` rounding to odd. -/
inductive VCvt where
  | toInt (signed rtz : Bool)
  | fromInt (signed : Bool)
  | format (odd : Bool)
deriving DecidableEq, Repr

/-- The width of a conversion's result against SEW: the same, from SEW to 2 × SEW, from 2 × SEW to SEW. -/
inductive VWidth where
  | same | widen | narrow
deriving DecidableEq, Repr

/-- Floating-point reductions of V. -/
inductive VFpRed where
  | osum | usum | min | max
deriving DecidableEq, Repr

/-- Vector arithmetic forms (R195, R209, R210): every instruction of V but loads and stores. -/
inductive VecOp where
  | arith (op : VAlu) (vd : Nat) (src1 : VecSrc) (vs2 : Nat) (masked : Bool)
  | carry (subtract toMask carryIn : Bool) (vd : Nat) (src1 : VecSrc) (vs2 : Nat)
  | widen (op : VWiden) (wide : Bool) (vd : Nat) (src1 : VecSrc) (vs2 : Nat) (masked : Bool)
  | wmacc (signed1 signed2 : Bool) (vd : Nat) (src1 : VecSrc) (vs2 : Nat) (masked : Bool)
  | narrow (op : VNarrow) (vd : Nat) (src1 : VecSrc) (vs2 : Nat) (masked : Bool)
  | extend (signed : Bool) (factor vd vs2 : Nat) (masked : Bool)
  | reduce (op : VRed) (vd vs1 vs2 : Nat) (masked : Bool)
  | wreduce (signed : Bool) (vd vs1 vs2 : Nat) (masked : Bool)
  | mask (op : VMask) (vd vs1 vs2 : Nat)
  | setFirst (op : VFirstMask) (vd vs2 : Nat) (masked : Bool)
  | iota (vd vs2 : Nat) (masked : Bool)
  | vid (vd : Nat) (masked : Bool)
  | slide (up : Bool) (vd : Nat) (src1 : VecSrc) (vs2 : Nat) (masked : Bool)
  | slide1 (up : Bool) (vd : Nat) (src1 : VecSrc) (vs2 : Nat) (masked : Bool)
  | gather (index16 : Bool) (vd : Nat) (src1 : VecSrc) (vs2 : Nat) (masked : Bool)
  | compress (vd vs1 vs2 : Nat)
  | moveRegs (regs vd vs2 : Nat)
  | fp (op : VFp) (wideD wide2 : Bool) (vd : Nat) (src1 : VecSrc) (vs2 : Nat) (masked : Bool)
  | fp1 (op : VFp1) (vd vs2 : Nat) (masked : Bool)
  | fpCompare (op : VFpCmp) (vd : Nat) (src1 : VecSrc) (vs2 : Nat) (masked : Bool)
  | fpMerge (vd fs1 vs2 : Nat) (masked : Bool)
  | fpConvert (op : VCvt) (width : VWidth) (vd vs2 : Nat) (masked : Bool)
  | fpReduce (op : VFpRed) (widen : Bool) (vd vs1 vs2 : Nat) (masked : Bool)
  | setvl (rd : Nat) (avl vtype : Src2)
  | mvXS (rd vs2 : Nat)
  | mvSX (vd rs1 : Nat)
  | mvFS (rd vs2 : Nat)
  | mvSF (vd rs1 : Nat)
  | cpop (rd vs2 : Nat) (masked : Bool)
  | first (rd vs2 : Nat) (masked : Bool)
deriving DecidableEq, Repr

/-- An instruction in the debug module's program buffer (R469), decoded. -/
inductive ProgInsn where
  | scalar (insn : RvInsn) (len : Nat)
  | load (rd rs1 : Nat) (offset : Word) (size : Nat) (signed fp : Bool) (len : Nat)
  | store (rs1 rs2 : Nat) (offset : Word) (size : Nat) (fp : Bool) (len : Nat)
  | vector (op : VecOp)
  | vectorLoad (vd eew rs1 fields : Nat) (addrs : VecAddr) (masked faultFirst : Bool)
  | vectorStore (vs eew rs1 fields : Nat) (addrs : VecAddr) (masked : Bool)
deriving DecidableEq, Repr

/-- A predecessor or successor set of a fence: device input and output, memory reads and writes. -/
structure FenceSet where
  i : Bool := false
  o : Bool := false
  r : Bool := false
  w : Bool := false
deriving DecidableEq, Repr

/-- An agent of the coherent fabric that sends REQ (R305). -/
inductive CohAgent where
  | l2 (g : Nat)
  | hart (h : Nat)
  | vitrine (v : Nat)
deriving DecidableEq, Repr

/-- What an L2 keeps when it answers a snoop (R306). -/
inductive RspKind where
  | i | s | e | d | miss | wb
deriving DecidableEq, Repr

/-- The part of a directory entry an error lies in, and whether it is correctable (R326). -/
inductive DirError where
  | correctable
  | partB
  | partA (copy0 copy1 copy2 : Nat)
deriving DecidableEq, Repr

/-- Operations of a Catalogue request (R396). -/
inductive CatOp where
  | read | write | take
deriving DecidableEq, Repr

/-- A request: tag, node handle, index, subindex and the value's bytes (R405). -/
structure CatReq where
  tag : Nat
  node : Nat
  index : Nat
  sub : Nat
  value : List Byte
deriving DecidableEq, Repr

/-- What a REGISTER_WRITE writes: a Catalogue object, a CSR of a hart, a mailbox byte range, a doorbell or interrupt-file
register without a row of its own (R14, R196, R407). -/
inductive RegTarget where
  | object (who : Requester) (node index sub : Nat) (value : Nat)
  | csr (hart num : Nat) (value : Word)
  | mailboxWord (hart : Nat) (va : Word) (page offset : Nat) (value : BitVec 32)
  | deviceWord (hart : Nat) (va : Word) (addr : Nat) (value : Word) (size : Nat)
deriving DecidableEq, Repr

/-- The client certificate chain of a handshake (R436): how many certificates, whether every signature is
ecdsa_secp384r1_sha384 and good, and the anchor whose key signed the last (none: no anchor). -/
structure CertChain where
  length : Nat
  signaturesGood : Bool
  anchor : Option Nat
deriving DecidableEq, Repr

/-- A register named by the abstract Access Register command (R469). -/
inductive DbgReg where
  | gpr (n : Nat)
  | fpr (n : Nat)
  | csr (num : Nat)
deriving DecidableEq, Repr

/-- What a transition into RUN, KEEP or SERVICE meets (R85): the sites that fail self-test or training, each with the
REASON of R56, the L2 ways that fail (site and ways, R278), the memory resources that fail their test, and whether REFCLK,
the Archive and some HBM stack are available; the lanes that fail in the trainings, 16 bits a module, of each die (R44); the
corrected errors that an entry into KEEP finds in L2 data, each with its gallery, way and set (R193); the partitions whose
automatic start meets a read error of the boot flash (R424); the sectors in which the drain of an entry into KEEP or SERVICE finds an
error, each with whether it is uncorrectable (R383). -/
structure TransEnv where
  badSites : List (Nat × Nat)
  badWays : List (Nat × BitVec 16)
  badPcs : List Nat
  badChannels : List Nat
  available : Bool
  badLanes : List (Nat × BitVec 64) := []
  keepErrors : List (Nat × Nat × Nat) := []
  flashErrors : List Nat := []
  archive : List (Nat × Bool) := []
deriving DecidableEq, Repr

/-- The commands. One constructor per row of opcode_table.json, in the table's order. -/
inductive Instr where
  -- power, modes, clocks
  | powerOnReset (boot : BootOutcome) (env : BootEnv)
  | powerUpModeRequest
  | imageVerification
  | packageReset (who : Requester) (value : Nat)
  | modeRequest (who : Requester) (value : Nat)
  | modeTransitionComplete (env : TransEnv)
  | acknowledgeLoss (who : Requester) (value : Nat) (flashErrors : List Nat)
  | powerFail (rises : Bool) (found : List (Nat × Bool)) (cut : Option DrainCut)
  | railOutOfLimits (rail : Nat)
  | thermalTrip (sensor : Sensor)
  | thermalThrottleEntry (site : Nat)
  | thermalThrottleExit (site : Nat)
  | refclkLoss
  | referenceLossStop (found : List (Nat × Bool)) (cut : Option DrainCut)
  | dieReferenceLoss (die : Nat) (optical engine : Bool)
  | referenceHoldoverExpiry (die : Nat)
  | revertToOptical (who : Requester) (value : Nat)
  | syncMessageReceived (port : Nat) (ieee1588 : Bool) (offset : Int)
  | holdoverEntry
  -- couplings and galleries
  | flitCrcError (die module : Nat) (again : Bool)
  | recoveryRetraining (die module : Nat)
  | trainingComplete (die : Nat) (result : Training)
  | trainingTimeout (die : Nat)
  | couplingEndReset (die : Nat) (rotundaEnd : Bool)
  | retireGallery (who : Requester) (value : Nat)
  | galleryRetirement (gallery reason : Nat)
  | retestSite (who : Requester) (value : Nat)
  -- Hodometer
  | encoderLevelAccepted (encoder : Nat) (change : EncChange) (edge : Nat)
  | encoderLineFault (encoder : Nat) (line : EncLine)
  | speedTimeout (encoder : Nat)
  | loadPresetNow (who : Requester) (encoder : Nat)
  | loadPresetAtIndex (who : Requester) (encoder : Nat)
  | faultWordClear (who : Requester) (encoder value : Nat)
  | interpolatedTrigger (program : Nat)
  | timeTrigger (program : Nat)
  | extrapolatedTrigger (program : Nat)
  | extrapolationLimitExpiry (program : Nat)
  | faultClearIntervalEnd (encoder : Nat)
  | outputPulseEnd (output : Nat)
  | testFire (who : Requester) (value : Nat)
  | programConfigWrite (who : Requester) (program sub value : Nat)
  -- Accession
  | arpRequest (lane senderMac senderIp targetIp : Nat)
  | delayReq (lane srcIp sequenceId portIdentity arrival : Nat)
  | ptpSyncTimer (lane : Nat)
  | ptpAnnounceTimer (lane : Nat)
  | controlPacketReceived (lane srcIp srcPort dstPort : Nat) (payload : List Byte)
  | controlTransmitEntry (lane : Nat)
  | streamPacket (lane : Nat) (pkt : StreamPkt) (context : ArrayFinding)
  | sealTimeout (ring line : Nat)
  | lineSeal (ring : Nat)
  | completionPost (ring : Nat)
  | disarmSealTimeout
  | laneLinkLoss (lane : Nat)
  | laneLinkReturn (lane : Nat)
  | laneEnable (who : Requester) (lane value : Nat)
  | streamContextEnable (who : Requester) (context value : Nat)
  | ringEnable (who : Requester) (ring value : Nat)
  -- memory
  | memoryRequest (cls : SvcClass) (source : MemSource) (addr : Nat) (op : MemOp) (finding : Finding)
  | hbmRefreshDue (pc : Nat) (bank : Nat) (readsPending : Bool)
  | ddr5RefreshDue (channel : Nat)
  | idleSelfRefreshEntry (channel : Nat)
  | ddr5InitComplete
  | clearRetirements (who : Requester) (value : Nat)
  | scrubReadDue (ch : MemCh) (finding : Finding)
  | scrubWake (channel : Nat) (findings : List Finding)
  | testWriteData (who : Requester)
  | testWriteCheck (who : Requester)
  | testReadRaw (who : Requester)
  | testPoison (who : Requester)
  -- cores
  | load (hart rd rs1 : Nat) (offset : Word) (size : Nat) (signed fp : Bool) (len : Nat) (finding walk : Finding)
      (prefetch : List Int)
  | store (hart rs1 rs2 : Nat) (offset : Word) (size : Nat) (fp : Bool) (len : Nat) (walk : Finding)
  | storeBufferDrain (hart : Nat)
  | amo (hart : Nat) (op : AmoOp) (size rd rs1 rs2 : Nat)
  | lr (hart size rd rs1 : Nat)
  | sc (hart size rd rs1 rs2 : Nat)
  | lrSnoopHoldEnd (gallery line : Nat)
  | fence (hart : Nat) (pred succ : FenceSet) (tso : Bool)
  | fenceI (hart : Nat)
  | sfenceVma (hart rs1 rs2 : Nat)
  | satpWrite (hart : Nat) (value : Word)
  | vectorLoad (hart vd eew rs1 fields : Nat) (addrs : VecAddr) (masked faultFirst : Bool) (prefetch : List (Nat × Int))
  | vectorStore (hart vs eew rs1 fields : Nat) (addrs : VecAddr) (masked : Bool)
  | vectorArithmetic (hart : Nat) (op : VecOp)
  | interruptTake (hart : Nat)
  | wfi (hart : Nat)
  | mntimecmpWrite (hart : Nat) (value : Word)
  | mnerrWrite (hart : Nat) (addrReg : Bool) (value : Word)
  | mncfgWrite (hart : Nat) (value : Word)
  | cboClean (hart rs1 : Nat)
  | cboFlush (hart rs1 : Nat)
  | cboInval (hart rs1 : Nat)
  | cboZero (hart rs1 : Nat)
  | prefetchHint (hart : Nat) (kind : HintKind) (rs1 : Nat) (offset : Word)
  -- caches
  | lockOpen (who : Requester) (gallery value : Nat)
  | lockLock (who : Requester) (gallery value : Nat)
  | lockUnlock (who : Requester) (gallery value : Nat)
  | lockCancel (who : Requester) (gallery value : Nat)
  | wayMethodWrite (who : Requester) (gallery value : Nat)
  | clearDisabledWays (who : Requester) (gallery value : Nat)
  -- Vitrine
  | vitLoad (hart rd rs1 rs2 : Nat)
  | vitArm (hart rd rs1 : Nat)
  | vitDisarm (hart rd rs1 : Nat)
  | vitRun (hart rd rs1 rs2 : Nat)
  | vitWait (hart rd rs1 : Nat)
  | vitStat (hart rd rs1 : Nat)
  | sealNotice (vitrine ring line cover : Nat)
  | vitrineStep (vitrine : Nat) (lineBuffer : ArrayFinding)
  | vitrineJobRow (vitrine : Nat) (lineBuffer : ArrayFinding)
  -- Concourse
  | rds (gallery domain line : Nat) (core victim : Option Nat)
  | rdx (gallery domain line : Nat) (core victim : Option Nat)
  | upg (gallery domain line : Nat) (victim : Option Nat)
  | claimz (gallery domain line : Nat) (core victim : Option Nat)
  | crd (agent : CohAgent) (domain line : Nat)
  | cwr (agent : CohAgent) (domain line : Nat) (data : Line) (mask : BitVec 64) (whole : BitVec 8)
  | cmoClean (gallery domain line : Nat)
  | cmoFlush (gallery domain line : Nat)
  | cmoInval (gallery domain line : Nat)
  | snps (gallery line : Nat)
  | snpx (gallery line : Nat)
  | snpinv (gallery line : Nat)
  | snpcln (gallery line : Nat)
  | wbd (gallery line : Nat)
  | snoopResponse (gallery line : Nat)
  | snpdata (gallery line : Nat)
  | data (agent : CohAgent) (line : Nat)
  | cmp (agent : CohAgent) (line : Nat)
  | wback (gallery line : Nat)
  | ack (gallery line : Nat)
  | transactionWatchdog (line : Nat)
  | domainClear (domain : Nat)
  | directoryEntryError (slice set way : Nat) (err : DirError)
  -- queues and interrupts
  | pidxWrite (hart : Nat) (va : Word) (queue value : Nat)
  | cidxWrite (hart : Nat) (va : Word) (queue value : Nat)
  | armWrite (hart : Nat) (va : Word) (queue value : Nat)
  | queuePost (queue producer : Nat) (entry : List Byte)
  | queueEventDelay (queue : Nat) (context source : ArrayFinding)
  | seteipnumWrite (hart : Nat) (va : Word) (target : Nat) (machine : Bool) (value : Nat)
  | queueEnable (who : Requester) (queue value : Nat)
  | queueReset (who : Requester) (queue value : Nat)
  | sourceEnable (who : Requester) (source value : Nat)
  | copy (queue : Nat)
  | fill (queue : Nat)
  | copy2d (queue : Nat)
  -- Archive
  | archiveWrite (channel : Nat)
  | archiveRead (channel : Nat) (light bad : List Nat)
  | archiveFlush (channel : Nat)
  | archiveZero (channel : Nat)
  | archiveData (channel : Nat)
  | archiveQuery (channel : Nat)
  | transferReady (channel : Nat)
  | grantTimeout (channel seq : Nat)
  | drainAgeExpiry (die unit : Nat)
  | unitProgramComplete (die unit : Nat) (corrected uncorrectable : BitVec 32)
  | durableSequenceCommit (channel : Nat)
  | mediumScan (die : Nat) (light heavy uncorrectable : BitVec 32)
  | archiveDieUnavailable (die : Nat)
  | archiveDieRetrain (die : Nat) (failed : Option (BitVec 16))
  | archiveDieLossTimeout (die : Nat)
  | archiveChannelReset (who : Requester) (channel value : Nat)
  | archiveChannelEnable (who : Requester) (channel value : Nat)
  | namespaceEnable (who : Requester) (ns value : Nat)
  | clearArchiveRetirements (who : Requester) (value : Nat)
  -- Catalogue
  | catalogueRead (who : Requester) (req : CatReq)
  | catalogueWrite (who : Requester) (req : CatReq)
  | catalogueTake (who : Requester) (req : CatReq)
  | registerWrite (target : RegTarget)
  | mailboxSubmit (hart : Nat) (va : Word) (page value : Nat)
  | dtlsHandshake (port : Nat) (chain : CertChain)
  | sessionIdleClose (session : Nat)
  | fieldPortConfigWrite (who : Requester) (port sub value : Nat)
  | nmtStart (frame : CanFrame)
  | nmtStop (frame : CanFrame)
  | nmtEnterPreoperational (frame : CanFrame)
  | nmtResetCommunication (frame : CanFrame)
  | usdoAbort (client : Nat)
  | heartbeatTimer
  | canBusOff (change : CanChange)
  | restoreDefaults (who : Requester) (value : Nat)
  -- partitions and Strongroom
  | partitionConfigWrite (who : Requester) (index sub value : Nat)
  | partitionStart (who : Requester) (value : Nat) (flashError : Bool)
  | partitionStop (who : Requester) (value : Nat)
  | partitionRestart (who : Requester) (value : Nat) (flashError : Bool)
  | automaticStart (partition : Nat) (flashError : Bool)
  | installTarget (who : Requester) (value : Nat)
  | installData (who : Requester) (value : Nat)
  | install (who : Requester) (value : Nat)
  | attestation (who : Requester) (nonce : Nat)
  | zeroise (who : Requester) (value : Nat)
  | decommission (who : Requester) (value : Nat)
  | raiseMinimum (who : Requester) (value : Nat)
  | auditTimer
  | auditNow (who : Requester) (value : Nat)
  | countersClearAll (who : Requester) (value : Nat)
  | packageCounterEventWrite (who : Requester) (counter value : Nat)
  | hartCounterWrap (hart counter : Nat)
  -- debug
  | debugHalt (hart : Nat) (others : List Nat) (ack : Bool)
  | debugResume (hart : Nat) (others : List Nat) (ack : Bool)
  | debugStep (hart : Nat) (insn : RvInsn) (len : Nat)
  | debugHartreset (hart : Nat) (others : List Nat)
  | accessRegister (hart : Nat) (reg : DbgReg) (write : Option Word) (size : Nat) (program : List ProgInsn)
  | systemBusAccess (addr size : Nat) (write : Option Word)
  | debugEnableWrite (who : Requester) (sub value : Nat)
  | jtagIrSelect (ir : Nat)
  -- steps that the table lists last
  | scalarInstruction (hart : Nat) (insn : RvInsn) (len : Nat)
  | timerCompareReached (hart : Nat) (supervisor : Bool)
  | poresetNAsserted
  | refclkReturn
  | dieReferenceReturn (die : Nat) (optical : Bool)
  | encoderLineRestored (encoder : Nat) (line : EncLine)
  | fieldPortLinkLoss (port : Nat)
  | fieldPortLinkReturn (port : Nat)
  | fieldPortFrameReceived (port : Nat) (frame : FieldFrame)
  | laneFrameDropped (lane : Nat) (frame : LaneFrame)
  | refreshRateChange (ch : MemCh) (hot : Bool)
  | usdoTransferTimeout (client : Nat)
  | siteSelfTestComplete (site : Nat) (pass : Bool) (training : Training) (ways : BitVec 16)
deriving DecidableEq, Repr

end Sys2Proof
end

