-- ==== Sys2Proof/Config.lean ====
section
/-! DEFINITION. What the spec leaves open: opaque constants that nothing in Lean can evaluate.
Each is named in the assumption log. -/

namespace Sys2Proof.Config

/-- The value of the `n`-th open point met by a run (R20, R346): applied to the counter `State.free`. -/
opaque freeWord : Nat → BitVec 64

/-- Which byte an overlapping load leaves at an offset (R346): 0 the old one, k + 1 byte k of the source. -/
opaque freeIndex : Nat → Nat → Nat

/-- The eight check bits of an HBM word (R173 gives no code matrix). -/
opaque hbmCheck : BitVec 64 → BitVec 8

/-- The fixed pattern that marks poison in an HBM word (R180 states no value). -/
opaque hbmPoisonPattern : BitVec 8

/-- What data bit `i` of a DDR5 line adds to its sixteen check bytes: the code is linear, its generator is not given (R173). -/
opaque ddrShare : Nat → BitVec 128

/-- Which data bits and which check bits of a DDR5 line each device carries, in orders of all of them (R175). -/
opaque ddrDataOrder : List Nat
opaque ddrCheckOrder : List Nat

/-- Which subchannel holds a line, by its number; modulo 2 (R175). -/
opaque ddrSubchannel : Nat → Nat

/-- The pattern for a non-zero mask of poisoned words of a DDR5 line (R180). -/
opaque ddrPoisonPattern : BitVec 8 → BitVec 128

/-- The decoder's answer to an error of three or more bits in an HBM word, by the word and its check byte (R173):
0 undetected, 1 miscorrected into the second component, 2 reported uncorrectable. -/
opaque eccBeyond : BitVec 64 → BitVec 8 → Nat × BitVec 64

/-- Which form a word shows whose check bits were planted as poison over a byte 0 that is no form; modulo 5 (R180, R191). -/
opaque strayForm : BitVec 64 → Nat

/-- The hash of R155: among `n` resources, the order in which they hold the granules of one aligned range of `n`. -/
opaque granuleOrder : Nat → Nat → List Nat

/-- The hash of R39: among `n` shares of eight lanes, the order in which they carry the lines of one aligned range of `n`. -/
opaque moduleOrder : Nat → Nat → List Nat

/-- A measured value that the spec gives no rule for (temperatures, progress): by object, values taken so far and time. -/
opaque measured : Nat → Nat → Nat → Nat

/-- The home slice and set of a line, by number of the line (R302): slice below 32, set below 16,384. -/
opaque homeSlice : Nat → Nat
opaque homeSet : Nat → Nat

/-- Which two members of what is left an unordered floating-point sum adds at each step, modulo their number: V leaves the tree of
vfredusum to the implementation. -/
opaque sumPick : Nat → Nat

/-- vl for an AVL between VLMAX and twice VLMAX, by AVL and VLMAX: RISC-V V gives bounds and no value. -/
opaque vlChoice : Nat → Nat → Nat

/-- SHA-384 of a list of bytes (R431), as a number of 48 bytes. -/
opaque sha384 : List Nat → Nat

/-- ECDSA P-384 verification: public key, message bytes, signature (R431, R435). -/
opaque sigVerify : Nat → List Nat → Nat → Bool

/-- ECDSA P-384 signature by the attestation key over the report's bytes (R438). -/
opaque attestSign : List Nat → Nat

/-- The commissioning key of anchor 0 (R436), unique to the package. -/
opaque commissioningKey : Nat

/-- SHA-384 of the vendor public key (R432). -/
opaque vendorRootDigest : Nat

/-- Serial number of the package (1018h.04h, factory). -/
opaque serialNumber : Nat

/-- Factory MAC address of lane `n` (4010h.03h) and of field port `n - 64` (1100h.02h). -/
opaque macAddress : Nat → Nat

/-- Version of the Strongroom boot ROM (7100h.02h). -/
opaque romVersion : Nat

/-- Certificates of 7400h (factory): subindex to value. -/
opaque certificate : Nat → Nat

/-- The public half of the device identity key (R432), with which the N24 authenticates itself at a handshake. -/
opaque identityKey : Nat

/-- The tag that the Archive integrity key gives a security record (R432). -/
opaque archiveTag : List Nat → Nat

/-- The 40 check bytes of an Archive sector from its data, its address and its unit's write generation (R360): the spec names the codes and
not their polynomials. -/
opaque sectorCheck : BitVec 4096 → Nat → Nat → BitVec 320

end Sys2Proof.Config
end

