-- ==== Sys2Proof/Machine/Objects.lean ====
section
/-! DEFINITION. The objects of the Catalogue (R12-R14, R391 and the object tables of every chapter): for each run of
objects the node kind, the index and subindex range, the type, the access code, the default, whether the value survives
OFF beside RWP values, and the values a write may carry. A default shown as — or as factory data is a value that a
log entry names. -/

namespace Sys2Proof.Machine

/-- Object types of R13. -/
inductive Ty where
  | u (n : Nat)
  | i (n : Nat)
  | bool
  | bytes (n : Nat)
  | str (n : Nat)
deriving DecidableEq, Repr

/-- Access codes of R14. -/
inductive Acc where
  | ro | rw | rwp | wo | w1c | tk
deriving DecidableEq, Repr

/-- Defaults of R394. `subPred`: subindex less 1; `site`: the factory site record (R24, R56); `ip`: the field port's
address (R412); `anchor a b`: `a` for anchor 0 and `b` otherwise (R440); `credit k`: pool totals of R308 from
subindex `k`; `str`: the characters padded with 00h. -/
inductive Dflt where
  | val (n : Nat)
  | subPred
  | site
  | ip
  | anchor (a b : Nat)
  | credit (k : Nat)
  | str (t : String)
deriving DecidableEq, Repr

/-- What a written value must meet, apart from the object's own rule (R10). -/
inductive Chk where
  | any
  | rng (lo hi : Nat)
  | rngOr (lo hi x : Nat)
  | oneOf (l : List Nat)
  | mult (n : Nat)
  | multMax (k mx : Nat)
deriving DecidableEq, Repr

/-- One run of objects. Kind 0xFF stands for every kind. -/
structure ObjRow where
  kind : Nat
  ixLo : Nat
  ixHi : Nat
  subLo : Nat
  subHi : Nat
  ty : Ty
  acc : Acc
  dflt : Dflt
  kept : Bool
  chk : Chk
deriving DecidableEq, Repr

/-- Bytes of a value of the type (R13). -/
def Ty.size : Ty → Nat
  | .u n => n
  | .i n => n
  | .bool => 1
  | .bytes n => n
  | .str n => n

/-- Objects of 0000h-0FFFh (R391). -/
def objRows0 : List ObjRow := [
  ⟨0xFF, 0x0000, 0x0000, 0x01, 0x01, .str 16, .ro, .val 0, false, .any⟩,
  ⟨0xFF, 0x0000, 0x0000, 0x02, 0x02, .u 4, .ro, .val 0, false, .any⟩,
  ⟨0xFF, 0x0000, 0x0000, 0x03, 0x03, .u 4, .ro, .val 0, false, .any⟩,
  ⟨0xFF, 0x0000, 0x0000, 0x04, 0x04, .u 2, .ro, .val 256, false, .any⟩,
  ⟨0xFF, 0x0001, 0x0001, 0x00, 0x00, .u 1, .ro, .val 0, false, .any⟩,
  ⟨0xFF, 0x0001, 0x0001, 0x01, 0x03, .bytes 12, .ro, .val 0, false, .any⟩,
  ⟨0xFF, 0x0002, 0x0002, 0x01, 0x01, .u 1, .ro, .val 0, false, .any⟩,
  ⟨0xFF, 0x0002, 0x0002, 0x02, 0x02, .u 4, .ro, .val 0, false, .any⟩,
  ⟨0xFF, 0x0002, 0x0002, 0x03, 0x03, .u 8, .ro, .val 0, false, .any⟩,
  ⟨0xFF, 0x0003, 0x0003, 0x00, 0x00, .u 1, .ro, .val 0, false, .any⟩,
  ⟨0xFF, 0x0003, 0x0003, 0x01, 0xFF, .u 4, .ro, .val 0, false, .any⟩]

/-- Objects of 1000h-1FFFh (R402, R412, R414, R415). -/
def objRows1a : List ObjRow := [
  ⟨0x01, 0x1F80, 0x1F80, 0x01, 0x01, .u 4, .rw, .val 0xffffffff, false, .any⟩,
  ⟨0x01, 0x1F80, 0x1F80, 0x02, 0x02, .u 1, .ro, .val 0, false, .any⟩,
  ⟨0x01, 0x1F80, 0x1F80, 0x03, 0x03, .u 1, .ro, .val 0, false, .any⟩,
  ⟨0x01, 0x1F80, 0x1F80, 0x04, 0x04, .u 1, .ro, .val 0, false, .any⟩,
  ⟨0x01, 0x1F80, 0x1F80, 0x05, 0x05, .u 1, .ro, .val 0, false, .any⟩,
  ⟨0x01, 0x1F80, 0x1F80, 0x06, 0x06, .u 4, .ro, .val 0, false, .any⟩,
  ⟨0x01, 0x1F80, 0x1F80, 0x07, 0x07, .u 4, .ro, .val 0, false, .any⟩,
  ⟨0x01, 0x1F81, 0x1F81, 0x01, 0x10, .bytes 32, .ro, .val 0, false, .any⟩,
  ⟨0x01, 0x1F82, 0x1F82, 0x01, 0x01, .bytes 32, .tk, .val 0, false, .any⟩,
  ⟨0x01, 0x1100, 0x1101, 0x01, 0x01, .bool, .rwp, .val 1, false, .rng 0 1⟩,
  ⟨0x01, 0x1100, 0x1101, 0x02, 0x02, .bytes 6, .ro, .val 0, false, .any⟩,
  ⟨0x01, 0x1100, 0x1101, 0x03, 0x03, .bytes 4, .rwp, .ip, false, .any⟩,
  ⟨0x01, 0x1100, 0x1101, 0x04, 0x04, .u 1, .rwp, .val 16, false, .rng 8 30⟩,
  ⟨0x01, 0x1100, 0x1101, 0x05, 0x05, .bytes 4, .rwp, .val 0, false, .any⟩,
  ⟨0x01, 0x1100, 0x1101, 0x06, 0x06, .u 2, .rwp, .val 0xc06c, false, .any⟩,
  ⟨0x01, 0x1100, 0x1101, 0x07, 0x07, .u 1, .ro, .val 0, false, .any⟩,
  ⟨0x01, 0x1100, 0x1101, 0x08, 0x08, .u 8, .ro, .val 0, false, .any⟩,
  ⟨0x01, 0x1100, 0x1101, 0x09, 0x09, .u 8, .ro, .val 0, false, .any⟩,
  ⟨0x01, 0x1100, 0x1101, 0x0A, 0x0A, .u 1, .ro, .val 0, false, .any⟩,
  ⟨0x01, 0x1300, 0x1300, 0x01, 0x01, .u 1, .ro, .val 8, false, .any⟩,
  ⟨0x01, 0x1300, 0x1300, 0x02, 0x02, .u 4, .rwp, .val 60, false, .rng 5 3600⟩,
  ⟨0x01, 0x1300, 0x1300, 0x03, 0x03, .u 1, .ro, .val 0, false, .any⟩,
  ⟨0x01, 0x1300, 0x1300, 0x04, 0x04, .u 4, .ro, .val 0, false, .any⟩,
  ⟨0x01, 0x1000, 0x1000, 0x00, 0x00, .u 4, .ro, .val 0, false, .any⟩,
  ⟨0x01, 0x1001, 0x1001, 0x00, 0x00, .u 1, .ro, .val 0, false, .any⟩,
  ⟨0x01, 0x1017, 0x1017, 0x00, 0x00, .u 2, .rwp, .val 0x3e8, false, .any⟩,
  ⟨0x01, 0x1018, 0x1018, 0x00, 0x00, .u 1, .ro, .val 4, false, .any⟩,
  ⟨0x01, 0x1018, 0x1018, 0x01, 0x01, .u 4, .ro, .val 0x5a7, false, .any⟩,
  ⟨0x01, 0x1018, 0x1018, 0x02, 0x02, .u 4, .ro, .val 0x4e323441, false, .any⟩,
  ⟨0x01, 0x1018, 0x1018, 0x03, 0x03, .u 4, .ro, .val 0x20000b1, false, .any⟩,
  ⟨0x01, 0x1018, 0x1018, 0x04, 0x04, .u 4, .ro, .val 0, true, .any⟩,
  ⟨0x01, 0x1200, 0x1200, 0x01, 0x01, .u 1, .rwp, .val 127, false, .rng 1 127⟩,
  ⟨0x01, 0x1200, 0x1200, 0x02, 0x02, .u 4, .rwp, .val 0x7a120, false, .oneOf [125000, 250000, 500000, 1000000]⟩,
  ⟨0x01, 0x1200, 0x1200, 0x03, 0x03, .u 4, .rwp, .val 0x1e8480, false, .oneOf [1000000, 2000000, 4000000, 5000000, 8000000]⟩,
  ⟨0x01, 0x1200, 0x1200, 0x04, 0x04, .bool, .rwp, .val 1, false, .rng 0 1⟩,
  ⟨0x01, 0x1200, 0x1200, 0x05, 0x05, .u 1, .ro, .val 0, false, .any⟩,
  ⟨0x01, 0x1200, 0x1200, 0x06, 0x06, .u 4, .ro, .val 0, false, .any⟩,
  ⟨0x01, 0x1200, 0x1200, 0x07, 0x07, .u 1, .rwp, .val 1, false, .oneOf [0, 1, 3]⟩,
  ⟨0x01, 0x1200, 0x1200, 0x08, 0x08, .u 4, .ro, .val 0, false, .any⟩,
  ⟨0x01, 0x1008, 0x1008, 0x00, 0x00, .str 32, .ro, .str "Noade N24 Line Processor", false, .any⟩]

/-- Objects of 1000h-1FFFh (R415, R489). -/
def objRows1b : List ObjRow := [
  ⟨0x01, 0x1009, 0x1009, 0x00, 0x00, .str 16, .ro, .str "NDE-N24A B1", false, .any⟩,
  ⟨0x01, 0x100A, 0x100A, 0x00, 0x00, .str 16, .ro, .val 0, false, .any⟩,
  ⟨0x01, 0x1010, 0x1010, 0x00, 0x00, .u 1, .ro, .val 24, false, .any⟩,
  ⟨0x01, 0x1010, 0x1010, 0x01, 0x18, .u 2, .ro, .val 0x0200, false, .any⟩,
  ⟨0x01, 0x1400, 0x1400, 0x01, 0x10, .u 8, .ro, .val 0, false, .any⟩,
  ⟨0x01, 0x1100, 0x1101, 0x0B, 0x0B, .u 4, .rwp, .val 0, false, .rng 0 10000⟩,
  ⟨0x01, 0x1100, 0x1101, 0x0C, 0x0C, .u 4, .rwp, .val 0, false, .rng 0 10000⟩]

/-- Objects of 2000h-2FFFh (R57, R70, R75, R79, R83). -/
def objRows2a : List ObjRow := [
  ⟨0x00, 0x2100, 0x2100, 0x00, 0x00, .u 1, .ro, .val 24, false, .any⟩,
  ⟨0x00, 0x2100, 0x2100, 0x01, 0x18, .u 4, .ro, .site, true, .any⟩,
  ⟨0x00, 0x2101, 0x2101, 0x00, 0x00, .u 1, .ro, .val 22, false, .any⟩,
  ⟨0x00, 0x2101, 0x2101, 0x01, 0x16, .u 1, .ro, .subPred, true, .any⟩,
  ⟨0x00, 0x2102, 0x2102, 0x01, 0x01, .u 1, .wo, .val 0, false, .rng 0 21⟩,
  ⟨0x00, 0x2102, 0x2102, 0x02, 0x02, .bool, .rwp, .val 1, false, .rng 0 1⟩,
  ⟨0x00, 0x2102, 0x2102, 0x03, 0x03, .bool, .ro, .val 0, false, .rng 0 1⟩,
  ⟨0x00, 0x2102, 0x2102, 0x04, 0x04, .u 4, .ro, .val 0, true, .any⟩,
  ⟨0x00, 0x2102, 0x2102, 0x05, 0x05, .bytes 32, .ro, .val 0, true, .any⟩,
  ⟨0x00, 0x2102, 0x2102, 0x06, 0x06, .u 1, .ro, .val 2, false, .any⟩,
  ⟨0x00, 0x2102, 0x2102, 0x07, 0x07, .u 1, .wo, .val 0, false, .rng 0 23⟩,
  ⟨0x00, 0x2103, 0x2103, 0x01, 0x01, .u 4, .ro, .val 3, false, .any⟩,
  ⟨0x00, 0x2103, 0x2103, 0x02, 0x02, .u 1, .ro, .val 2, false, .any⟩,
  ⟨0x00, 0x2103, 0x2103, 0x03, 0x03, .u 1, .ro, .val 0, false, .any⟩,
  ⟨0x00, 0x2010, 0x2010, 0x01, 0x01, .u 8, .ro, .val 0, false, .any⟩,
  ⟨0x00, 0x2010, 0x2010, 0x02, 0x02, .u 1, .rwp, .val 0, false, .rng 0 4⟩,
  ⟨0x00, 0x2010, 0x2010, 0x03, 0x03, .u 1, .ro, .val 0, false, .any⟩,
  ⟨0x00, 0x2010, 0x2010, 0x04, 0x04, .i 8, .ro, .val 0, false, .any⟩,
  ⟨0x00, 0x2010, 0x2010, 0x05, 0x05, .i 4, .ro, .val 0, false, .any⟩,
  ⟨0x00, 0x2010, 0x2010, 0x06, 0x06, .u 4, .ro, .val 0, false, .any⟩,
  ⟨0x00, 0x2010, 0x2010, 0x07, 0x07, .u 4, .rwp, .val 100, false, .any⟩,
  ⟨0x00, 0x2010, 0x2010, 0x08, 0x08, .u 4, .ro, .val 0, false, .any⟩,
  ⟨0x00, 0x2020, 0x2020, 0x01, 0x01, .bool, .ro, .val 0, false, .rng 0 1⟩,
  ⟨0x00, 0x2020, 0x2020, 0x02, 0x02, .u 1, .ro, .val 0, false, .any⟩,
  ⟨0x00, 0x2020, 0x2020, 0x03, 0x03, .u 1, .wo, .val 0, false, .oneOf [1]⟩,
  ⟨0x00, 0x2020, 0x2020, 0x04, 0x04, .u 4, .ro, .val 0, true, .any⟩,
  ⟨0x00, 0x2020, 0x2020, 0x05, 0x05, .u 4, .ro, .val 0, false, .any⟩,
  ⟨0x00, 0x2021, 0x2021, 0x01, 0x1C, .u 1, .ro, .val 0, false, .any⟩,
  ⟨0x00, 0x2030, 0x2030, 0x01, 0x01, .u 1, .wo, .val 0, false, .oneOf [1]⟩,
  ⟨0x00, 0x2030, 0x2030, 0x02, 0x02, .u 1, .ro, .val 1, false, .any⟩,
  ⟨0x00, 0x2030, 0x2030, 0x03, 0x03, .u 4, .ro, .val 0, true, .any⟩,
  ⟨0x00, 0x2000, 0x2000, 0x01, 0x01, .u 1, .ro, .val 0, false, .any⟩,
  ⟨0x00, 0x2000, 0x2000, 0x02, 0x02, .u 1, .wo, .val 0, false, .rng 1 5⟩,
  ⟨0x00, 0x2000, 0x2000, 0x03, 0x03, .u 1, .rwp, .val 3, false, .rng 2 3⟩,
  ⟨0x00, 0x2000, 0x2000, 0x04, 0x04, .u 1, .ro, .val 0, false, .any⟩,
  ⟨0x00, 0x2000, 0x2000, 0x05, 0x05, .u 1, .ro, .val 0, false, .any⟩,
  ⟨0x00, 0x2000, 0x2000, 0x06, 0x06, .bool, .ro, .val 0, false, .rng 0 1⟩,
  ⟨0x00, 0x2000, 0x2000, 0x07, 0x07, .bytes 24, .ro, .val 0, true, .any⟩,
  ⟨0x00, 0x2000, 0x2000, 0x08, 0x08, .u 1, .wo, .val 0, false, .oneOf [1]⟩,
  ⟨0x00, 0x2000, 0x2000, 0x09, 0x09, .u 4, .ro, .val 0, false, .any⟩]

/-- Objects of 2000h-2FFFh (R395). -/
def objRows2b : List ObjRow := [
  ⟨0x00, 0x2040, 0x2040, 0x01, 0x01, .u 1, .wo, .val 0, false, .oneOf [1]⟩,
  ⟨0x00, 0x2040, 0x2040, 0x02, 0x02, .u 4, .ro, .val 0, true, .any⟩,
  ⟨0x00, 0x2040, 0x2040, 0x03, 0x03, .u 8, .ro, .val 0, false, .any⟩]

/-- Objects of 3000h-3FFFh (R118). -/
def objRows3a : List ObjRow := [
  ⟨0x03, 0x3000, 0x3000, 0x01, 0x01, .u 1, .ro, .val 8, false, .any⟩,
  ⟨0x03, 0x3000, 0x3000, 0x02, 0x02, .u 1, .ro, .val 32, false, .any⟩,
  ⟨0x03, 0x3000, 0x3000, 0x03, 0x03, .u 1, .ro, .val 16, false, .any⟩,
  ⟨0x03, 0x3000, 0x3000, 0x04, 0x04, .bool, .ro, .val 0, false, .rng 0 1⟩,
  ⟨0x03, 0x3000, 0x3000, 0x05, 0x05, .u 4, .ro, .val 0x9c4, false, .any⟩,
  ⟨0x03, 0x3000, 0x3000, 0x06, 0x06, .u 4, .ro, .val 60, false, .any⟩,
  ⟨0x03, 0x3000, 0x3000, 0x07, 0x07, .u 4, .ro, .val 320, false, .any⟩,
  ⟨0x03, 0x3000, 0x3000, 0x08, 0x08, .u 1, .wo, .val 0, false, .rng 0 31⟩,
  ⟨0x03, 0x3100, 0x3107, 0x01, 0x01, .bool, .rwp, .val 0, false, .rng 0 1⟩,
  ⟨0x03, 0x3100, 0x3107, 0x02, 0x02, .u 1, .rwp, .val 4, false, .oneOf [1, 2, 4]⟩,
  ⟨0x03, 0x3100, 0x3107, 0x03, 0x03, .bool, .rwp, .val 0, false, .rng 0 1⟩,
  ⟨0x03, 0x3100, 0x3107, 0x04, 0x04, .u 1, .rwp, .val 4, false, .rng 1 16⟩,
  ⟨0x03, 0x3100, 0x3107, 0x05, 0x05, .u 4, .rwp, .val 0, false, .any⟩,
  ⟨0x03, 0x3100, 0x3107, 0x06, 0x06, .u 2, .rwp, .val 2, false, .any⟩,
  ⟨0x03, 0x3100, 0x3107, 0x07, 0x07, .i 8, .rwp, .val 0, false, .any⟩,
  ⟨0x03, 0x3100, 0x3107, 0x08, 0x08, .u 1, .wo, .val 0, false, .rng 1 2⟩,
  ⟨0x03, 0x3100, 0x3107, 0x09, 0x09, .u 4, .rwp, .val 0x1312d00, false, .rng 0 20000000⟩,
  ⟨0x03, 0x3200, 0x3207, 0x01, 0x01, .i 8, .ro, .val 0, false, .any⟩,
  ⟨0x03, 0x3200, 0x3207, 0x02, 0x02, .u 8, .ro, .val 0, false, .any⟩,
  ⟨0x03, 0x3200, 0x3207, 0x03, 0x03, .i 4, .ro, .val 0, false, .any⟩,
  ⟨0x03, 0x3200, 0x3207, 0x04, 0x04, .i 8, .ro, .val 0, false, .any⟩,
  ⟨0x03, 0x3200, 0x3207, 0x05, 0x05, .u 8, .ro, .val 0, false, .any⟩,
  ⟨0x03, 0x3200, 0x3207, 0x06, 0x06, .u 2, .w1c, .val 0, false, .any⟩,
  ⟨0x03, 0x3200, 0x3207, 0x07, 0x07, .u 4, .ro, .val 0, false, .any⟩,
  ⟨0x03, 0x3200, 0x3207, 0x08, 0x08, .bool, .ro, .val 0, false, .rng 0 1⟩,
  ⟨0x03, 0x3300, 0x331F, 0x01, 0x01, .u 1, .rwp, .val 0, false, .rng 0 2⟩,
  ⟨0x03, 0x3300, 0x331F, 0x02, 0x02, .u 1, .rwp, .val 0, false, .rngOr 0 7 0xFF⟩,
  ⟨0x03, 0x3300, 0x331F, 0x03, 0x03, .i 8, .rwp, .val 0, false, .any⟩,
  ⟨0x03, 0x3300, 0x331F, 0x04, 0x04, .u 8, .rwp, .val 0x100000000, false, .any⟩,
  ⟨0x03, 0x3300, 0x331F, 0x05, 0x05, .u 1, .rwp, .val 0, false, .rng 0 1⟩,
  ⟨0x03, 0x3300, 0x331F, 0x06, 0x06, .u 4, .rwp, .val 0x3e8, false, .rng 200 0xFFFFFFFF⟩,
  ⟨0x03, 0x3300, 0x331F, 0x07, 0x07, .u 1, .rwp, .val 0, false, .rng 0 1⟩,
  ⟨0x03, 0x3300, 0x331F, 0x08, 0x08, .u 4, .rwp, .val 0x2710, false, .rng 0 1000000⟩,
  ⟨0x03, 0x3300, 0x331F, 0x09, 0x09, .u 8, .rwp, .val 0, false, .any⟩,
  ⟨0x03, 0x3300, 0x331F, 0x0A, 0x0A, .u 8, .rwp, .val 0x1388, false, .any⟩,
  ⟨0x03, 0x3300, 0x331F, 0x0B, 0x0B, .u 8, .rwp, .val 0, false, .any⟩,
  ⟨0x03, 0x3300, 0x331F, 0x0C, 0x0C, .u 1, .rwp, .val 0, false, .rng 0 2⟩,
  ⟨0x03, 0x3300, 0x331F, 0x0D, 0x0D, .u 4, .rwp, .val 0, false, .any⟩,
  ⟨0x03, 0x3300, 0x331F, 0x0E, 0x0E, .u 8, .rwp, .val 0, false, .any⟩,
  ⟨0x03, 0x3300, 0x331F, 0x10, 0x12, .u 4, .rwp, .val 0, false, .any⟩]

/-- Objects of 3000h-3FFFh (R118). -/
def objRows3b : List ObjRow := [
  ⟨0x03, 0x3400, 0x341F, 0x01, 0x01, .u 8, .ro, .val 0, false, .any⟩,
  ⟨0x03, 0x3400, 0x341F, 0x02, 0x02, .i 8, .ro, .val 0, false, .any⟩,
  ⟨0x03, 0x3400, 0x341F, 0x03, 0x03, .u 8, .ro, .val 0, false, .any⟩,
  ⟨0x03, 0x3400, 0x341F, 0x04, 0x04, .u 4, .ro, .val 0, false, .any⟩,
  ⟨0x03, 0x3400, 0x341F, 0x05, 0x05, .u 4, .ro, .val 0, false, .any⟩,
  ⟨0x03, 0x3400, 0x341F, 0x06, 0x06, .u 8, .ro, .val 0, false, .any⟩,
  ⟨0x03, 0x3400, 0x341F, 0x07, 0x07, .i 8, .ro, .val 0, false, .any⟩,
  ⟨0x03, 0x3400, 0x341F, 0x08, 0x08, .u 1, .ro, .val 0, false, .any⟩,
  ⟨0x03, 0x3400, 0x341F, 0x09, 0x09, .u 4, .ro, .val 0, false, .any⟩,
  ⟨0x03, 0x3400, 0x341F, 0x0A, 0x0A, .u 4, .ro, .val 0, false, .any⟩,
  ⟨0x03, 0x3500, 0x350F, 0x01, 0x01, .u 1, .rwp, .val 255, false, .rngOr 0 31 0xFF⟩,
  ⟨0x03, 0x3500, 0x350F, 0x02, 0x02, .u 4, .rwp, .val 400, false, .rng 8 400000⟩,
  ⟨0x03, 0x3500, 0x350F, 0x03, 0x03, .u 2, .rwp, .val 0, false, .any⟩,
  ⟨0x03, 0x3500, 0x350F, 0x04, 0x04, .bool, .rwp, .val 0, false, .rng 0 1⟩,
  ⟨0x03, 0x3500, 0x350F, 0x05, 0x05, .u 4, .ro, .val 0, false, .any⟩]

/-- Objects of 4000h-4FFFh (R125, R127, R128). -/
def objRows4a : List ObjRow := [
  ⟨0x05, 0x4010, 0x4010, 0x01, 0x01, .bool, .rwp, .val 0, false, .rng 0 1⟩,
  ⟨0x05, 0x4010, 0x4010, 0x02, 0x02, .u 1, .rwp, .val 255, false, .rngOr 0 15 0xFF⟩,
  ⟨0x05, 0x4010, 0x4010, 0x03, 0x03, .bytes 6, .ro, .val 0, false, .any⟩,
  ⟨0x05, 0x4010, 0x4010, 0x04, 0x04, .bytes 4, .rwp, .val 0, false, .any⟩,
  ⟨0x05, 0x4010, 0x4010, 0x05, 0x05, .bytes 6, .rwp, .val 0, false, .any⟩,
  ⟨0x05, 0x4010, 0x4010, 0x06, 0x06, .bytes 4, .rwp, .val 0, false, .any⟩,
  ⟨0x05, 0x4010, 0x4010, 0x07, 0x07, .u 2, .rwp, .val 0xc000, false, .any⟩,
  ⟨0x05, 0x4010, 0x4010, 0x08, 0x08, .u 2, .rwp, .val 0xc001, false, .any⟩,
  ⟨0x05, 0x4010, 0x4010, 0x09, 0x09, .u 4, .rwp, .val 0xffffffff, false, .rngOr 0 65535 0xFFFFFFFF⟩,
  ⟨0x05, 0x4010, 0x4010, 0x0A, 0x0A, .u 4, .rwp, .val 0xffffffff, false, .rngOr 0 65535 0xFFFFFFFF⟩,
  ⟨0x05, 0x4010, 0x4010, 0x0B, 0x0B, .u 1, .rwp, .val 3, false, .rng 0 7⟩,
  ⟨0x05, 0x4010, 0x4010, 0x0C, 0x0C, .u 1, .ro, .val 0, false, .any⟩,
  ⟨0x05, 0x4010, 0x4010, 0x0D, 0x0D, .u 4, .ro, .val 0, false, .any⟩,
  ⟨0x05, 0x4010, 0x4010, 0x0E, 0x0E, .u 2, .ro, .val 0x8000, false, .any⟩,
  ⟨0x05, 0x4010, 0x4010, 0x0F, 0x0F, .u 8, .ro, .val 0, false, .any⟩,
  ⟨0x05, 0x4010, 0x4010, 0x10, 0x10, .u 8, .ro, .val 0, false, .any⟩,
  ⟨0x05, 0x4010, 0x4010, 0x11, 0x11, .u 4, .ro, .val 0, false, .any⟩,
  ⟨0x06, 0x4100, 0x4100, 0x01, 0x01, .bool, .rwp, .val 0, false, .rng 0 1⟩,
  ⟨0x06, 0x4100, 0x4100, 0x02, 0x02, .u 1, .rwp, .val 255, false, .rngOr 0 63 0xFF⟩,
  ⟨0x06, 0x4100, 0x4100, 0x03, 0x03, .u 2, .rwp, .val 0, false, .any⟩,
  ⟨0x06, 0x4100, 0x4100, 0x04, 0x04, .u 2, .rwp, .val 0xffff, false, .rngOr 0 255 0xFFFF⟩,
  ⟨0x06, 0x4100, 0x4100, 0x05, 0x05, .u 1, .rwp, .val 255, false, .rngOr 0 63 0xFF⟩,
  ⟨0x06, 0x4100, 0x4100, 0x06, 0x06, .u 4, .rwp, .val 0, false, .any⟩,
  ⟨0x06, 0x4100, 0x4100, 0x07, 0x07, .u 4, .rwp, .val 0, false, .any⟩,
  ⟨0x06, 0x4100, 0x4100, 0x08, 0x08, .u 4, .rwp, .val 0, false, .any⟩,
  ⟨0x06, 0x4100, 0x4100, 0x09, 0x09, .u 2, .rwp, .val 0x2000, false, .rng 64 8896⟩,
  ⟨0x06, 0x4100, 0x4100, 0x0A, 0x0A, .u 4, .rwp, .val 0, false, .any⟩,
  ⟨0x06, 0x4100, 0x4100, 0x0B, 0x0B, .u 4, .rwp, .val 0, false, .any⟩,
  ⟨0x06, 0x4100, 0x4100, 0x0C, 0x0C, .u 1, .rwp, .val 0, false, .rng 0 1⟩,
  ⟨0x06, 0x4100, 0x4100, 0x0D, 0x0D, .i 8, .rwp, .val 0, false, .any⟩,
  ⟨0x06, 0x4100, 0x4100, 0x0E, 0x0E, .u 4, .rwp, .val 0, false, .any⟩,
  ⟨0x06, 0x4100, 0x4100, 0x0F, 0x0F, .u 4, .rwp, .val 0x7d0, false, .any⟩,
  ⟨0x06, 0x4110, 0x4110, 0x01, 0x01, .u 8, .ro, .val 0, false, .any⟩,
  ⟨0x06, 0x4110, 0x4110, 0x02, 0x02, .u 8, .ro, .val 0, false, .any⟩,
  ⟨0x06, 0x4110, 0x4110, 0x03, 0x03, .u 8, .ro, .val 0, false, .any⟩,
  ⟨0x06, 0x4110, 0x4110, 0x04, 0x04, .u 8, .ro, .val 0, false, .any⟩,
  ⟨0x06, 0x4110, 0x4110, 0x05, 0x05, .u 8, .ro, .val 0, false, .any⟩,
  ⟨0x06, 0x4110, 0x4110, 0x06, 0x06, .u 1, .ro, .val 0, false, .any⟩,
  ⟨0x06, 0x4110, 0x4110, 0x07, 0x07, .u 8, .ro, .val 0xffffffffffffffff, false, .any⟩,
  ⟨0x07, 0x4200, 0x4200, 0x01, 0x01, .bool, .rwp, .val 0, false, .rng 0 1⟩]

/-- Objects of 4000h-4FFFh (R125, R128, R148). -/
def objRows4b : List ObjRow := [
  ⟨0x07, 0x4200, 0x4200, 0x02, 0x02, .u 1, .rwp, .val 255, false, .rng 0 15⟩,
  ⟨0x07, 0x4200, 0x4200, 0x03, 0x03, .u 8, .rwp, .val 0, false, .mult 4096⟩,
  ⟨0x07, 0x4200, 0x4200, 0x04, 0x04, .u 4, .rwp, .val 0, false, .multMax 64 16777216⟩,
  ⟨0x07, 0x4200, 0x4200, 0x05, 0x05, .u 4, .rwp, .val 0, false, .any⟩,
  ⟨0x07, 0x4200, 0x4200, 0x06, 0x06, .u 8, .rwp, .val 0, false, .any⟩,
  ⟨0x07, 0x4200, 0x4200, 0x07, 0x07, .u 8, .rwp, .val 0, false, .mult 64⟩,
  ⟨0x07, 0x4200, 0x4200, 0x08, 0x08, .u 1, .rwp, .val 255, false, .rng 0 31⟩,
  ⟨0x07, 0x4200, 0x4200, 0x09, 0x09, .u 4, .rwp, .val 0x30d40, false, .rng 1000 100000000⟩,
  ⟨0x07, 0x4200, 0x4200, 0x0A, 0x0A, .u 2, .rwp, .val 64, false, .rng 1 4096⟩,
  ⟨0x07, 0x4200, 0x4200, 0x0B, 0x0B, .u 4, .rwp, .val 0xffffffff, false, .rngOr 0 65535 0xFFFFFFFF⟩,
  ⟨0x07, 0x4200, 0x4200, 0x0C, 0x0C, .u 1, .rwp, .val 0, false, .rng 0 3⟩,
  ⟨0x07, 0x4200, 0x4200, 0x0D, 0x0D, .u 1, .rwp, .val 0, false, .any⟩,
  ⟨0x07, 0x4200, 0x4200, 0x0E, 0x0E, .bytes 9, .rwp, .val 0, false, .rng 0 (2 ^ 66 - 1)⟩,
  ⟨0x07, 0x4210, 0x4210, 0x01, 0x01, .u 8, .ro, .val 0, false, .any⟩,
  ⟨0x07, 0x4210, 0x4210, 0x02, 0x02, .u 8, .ro, .val 0, false, .any⟩,
  ⟨0x07, 0x4210, 0x4210, 0x03, 0x03, .u 8, .ro, .val 0, false, .any⟩,
  ⟨0x07, 0x4210, 0x4210, 0x04, 0x04, .u 8, .ro, .val 0, false, .any⟩,
  ⟨0x07, 0x4210, 0x4210, 0x05, 0x05, .u 8, .ro, .val 0, false, .any⟩,
  ⟨0x07, 0x4210, 0x4210, 0x06, 0x06, .u 8, .ro, .val 0, false, .any⟩,
  ⟨0x07, 0x4210, 0x4210, 0x07, 0x07, .u 8, .ro, .val 0xffffffffffffffff, false, .any⟩,
  ⟨0x07, 0x4210, 0x4210, 0x08, 0x08, .u 8, .ro, .val 0xffffffffffffffff, false, .any⟩,
  ⟨0x07, 0x4210, 0x4210, 0x09, 0x09, .u 8, .ro, .val 0xffffffffffffffff, false, .any⟩,
  ⟨0x07, 0x4210, 0x4210, 0x0A, 0x0A, .u 2, .ro, .val 0, false, .any⟩,
  ⟨0x07, 0x4210, 0x4210, 0x0B, 0x0B, .u 4, .ro, .val 0, false, .any⟩,
  ⟨0x07, 0x4210, 0x4210, 0x0C, 0x0C, .u 8, .ro, .val 0, false, .any⟩,
  ⟨0x04, 0x4000, 0x4000, 0x01, 0x01, .u 1, .ro, .val 64, false, .any⟩,
  ⟨0x04, 0x4000, 0x4000, 0x02, 0x02, .u 2, .ro, .val 0x4000, false, .any⟩,
  ⟨0x04, 0x4000, 0x4000, 0x03, 0x03, .u 2, .ro, .val 256, false, .any⟩,
  ⟨0x04, 0x4000, 0x4000, 0x04, 0x04, .i 8, .rwp, .val 0, false, .any⟩,
  ⟨0x04, 0x4000, 0x4000, 0x05, 0x05, .bool, .ro, .val 0, false, .rng 0 1⟩,
  ⟨0x04, 0x4000, 0x4000, 0x06, 0x06, .u 4, .ro, .val 0x40000, false, .any⟩,
  ⟨0x04, 0x4020, 0x4020, 0x01, 0x01, .u 2, .ro, .val 0x1000, false, .any⟩,
  ⟨0x04, 0x4020, 0x4020, 0x02, 0x02, .u 2, .ro, .val 0, false, .any⟩,
  ⟨0x04, 0x4020, 0x4020, 0x03, 0x03, .u 2, .ro, .val 0, false, .any⟩,
  ⟨0x04, 0x4020, 0x4020, 0x04, 0x04, .u 2, .ro, .val 0x1000, false, .any⟩,
  ⟨0x04, 0x4310, 0x4310, 0x01, 0x12, .u 8, .ro, .val 0, false, .any⟩,
  ⟨0x05, 0x4310, 0x4310, 0x01, 0x12, .u 8, .ro, .val 0, false, .any⟩]

/-- Objects of 5000h-5FFFh (R172, R194). -/
def objRows5a : List ObjRow := [
  ⟨0x00, 0x5000, 0x5000, 0x01, 0x01, .u 1, .rwp, .val 0, false, .rng 0 1⟩,
  ⟨0x00, 0x5000, 0x5000, 0x02, 0x02, .u 1, .ro, .val 0, false, .any⟩,
  ⟨0x00, 0x5000, 0x5000, 0x03, 0x03, .u 8, .ro, .val 0x2400000000, false, .any⟩,
  ⟨0x00, 0x5000, 0x5000, 0x04, 0x04, .u 1, .ro, .val 128, false, .any⟩,
  ⟨0x00, 0x5000, 0x5000, 0x05, 0x05, .u 8, .ro, .val 0, false, .any⟩,
  ⟨0x00, 0x5000, 0x5000, 0x06, 0x06, .u 1, .ro, .val 0, false, .any⟩,
  ⟨0x00, 0x5000, 0x5000, 0x07, 0x07, .u 2, .ro, .val 0, false, .any⟩,
  ⟨0x00, 0x5000, 0x5000, 0x08, 0x08, .bool, .ro, .val 0, false, .rng 0 1⟩,
  ⟨0x00, 0x5000, 0x5000, 0x09, 0x09, .bool, .ro, .val 0, false, .rng 0 1⟩,
  ⟨0x00, 0x5000, 0x5000, 0x0A, 0x0A, .u 1, .ro, .val 0, false, .any⟩,
  ⟨0x00, 0x5000, 0x5000, 0x0B, 0x0B, .u 1, .wo, .val 0, false, .oneOf [1]⟩,
  ⟨0x00, 0x5010, 0x5010, 0x01, 0x01, .u 1, .ro, .val 64, false, .any⟩,
  ⟨0x00, 0x5010, 0x5010, 0x02, 0x02, .u 1, .rwp, .val 48, false, .any⟩,
  ⟨0x00, 0x5010, 0x5010, 0x03, 0x03, .u 1, .rwp, .val 16, false, .any⟩,
  ⟨0x00, 0x5010, 0x5010, 0x04, 0x04, .u 1, .rwp, .val 8, false, .rng 0 8⟩,
  ⟨0x00, 0x5010, 0x5010, 0x05, 0x05, .u 1, .ro, .val 8, false, .any⟩,
  ⟨0x00, 0x5011, 0x5011, 0x01, 0x01, .u 1, .ro, .val 128, false, .any⟩,
  ⟨0x00, 0x5011, 0x5011, 0x02, 0x02, .u 1, .rwp, .val 96, false, .any⟩,
  ⟨0x00, 0x5011, 0x5011, 0x03, 0x03, .u 1, .rwp, .val 32, false, .any⟩,
  ⟨0x00, 0x5011, 0x5011, 0x04, 0x04, .u 4, .rwp, .val 50, false, .any⟩,
  ⟨0x00, 0x5011, 0x5011, 0x05, 0x05, .u 1, .ro, .val 16, false, .any⟩,
  ⟨0x00, 0x5020, 0x5023, 0x01, 0x01, .u 1, .ro, .val 0, false, .any⟩,
  ⟨0x00, 0x5020, 0x5023, 0x02, 0x02, .u 4, .ro, .val 0, false, .any⟩,
  ⟨0x00, 0x5020, 0x5023, 0x03, 0x03, .u 1, .ro, .val 1, false, .any⟩,
  ⟨0x00, 0x5020, 0x5023, 0x04, 0x04, .u 1, .ro, .val 0, false, .any⟩,
  ⟨0x00, 0x5020, 0x5023, 0x05, 0x05, .i 4, .ro, .val 0, false, .any⟩,
  ⟨0x00, 0x5020, 0x5023, 0x06, 0x06, .u 8, .ro, .val 0, false, .any⟩,
  ⟨0x00, 0x5030, 0x5037, 0x01, 0x01, .u 1, .ro, .val 0, false, .any⟩,
  ⟨0x00, 0x5030, 0x5037, 0x02, 0x02, .u 1, .ro, .val 0, false, .any⟩,
  ⟨0x00, 0x5030, 0x5037, 0x03, 0x03, .u 4, .ro, .val 0, false, .any⟩,
  ⟨0x00, 0x5030, 0x5037, 0x04, 0x04, .u 4, .ro, .val 0, false, .any⟩,
  ⟨0x00, 0x5040, 0x5040, 0x01, 0x01, .bool, .rwp, .val 1, false, .rng 0 1⟩,
  ⟨0x00, 0x5040, 0x5040, 0x02, 0x02, .u 4, .rwp, .val 0x2710, false, .rng 1000 1000000⟩,
  ⟨0x00, 0x5041, 0x5041, 0x01, 0x01, .bool, .rwp, .val 1, false, .rng 0 1⟩,
  ⟨0x00, 0x5041, 0x5041, 0x02, 0x02, .u 4, .rwp, .val 100, false, .rng 50 1000000⟩,
  ⟨0x00, 0x5041, 0x5041, 0x03, 0x03, .u 4, .rwp, .val 0x3e8, false, .rng 10 60000⟩,
  ⟨0x00, 0x5042, 0x5045, 0x01, 0x01, .u 8, .ro, .val 0, false, .any⟩,
  ⟨0x00, 0x5042, 0x5045, 0x02, 0x02, .u 8, .ro, .val 0, false, .any⟩,
  ⟨0x00, 0x5042, 0x5045, 0x03, 0x03, .u 8, .ro, .val 0, false, .any⟩,
  ⟨0x00, 0x5042, 0x5045, 0x04, 0x04, .u 8, .ro, .val 0, false, .any⟩]

/-- Objects of 5000h-5FFFh (R194). -/
def objRows5b : List ObjRow := [
  ⟨0x00, 0x5042, 0x5045, 0x05, 0x05, .u 4, .ro, .val 0, false, .any⟩,
  ⟨0x00, 0x5042, 0x5045, 0x06, 0x06, .u 8, .ro, .val 0, false, .any⟩,
  ⟨0x00, 0x5042, 0x5045, 0x07, 0x07, .u 8, .ro, .val 0, false, .any⟩,
  ⟨0x00, 0x5046, 0x504D, 0x01, 0x01, .u 8, .ro, .val 0, false, .any⟩,
  ⟨0x00, 0x5046, 0x504D, 0x02, 0x02, .u 8, .ro, .val 0, false, .any⟩,
  ⟨0x00, 0x5046, 0x504D, 0x03, 0x03, .u 8, .ro, .val 0, false, .any⟩,
  ⟨0x00, 0x5046, 0x504D, 0x04, 0x04, .u 8, .ro, .val 0, false, .any⟩,
  ⟨0x00, 0x5046, 0x504D, 0x05, 0x05, .u 4, .ro, .val 0, false, .any⟩,
  ⟨0x00, 0x5046, 0x504D, 0x07, 0x07, .u 8, .ro, .val 0, false, .any⟩,
  ⟨0x00, 0x5050, 0x5050, 0x01, 0x01, .bool, .rw, .val 0, false, .rng 0 1⟩,
  ⟨0x00, 0x5050, 0x5050, 0x02, 0x02, .u 8, .rw, .val 0, false, .any⟩,
  ⟨0x00, 0x5050, 0x5050, 0x03, 0x03, .bytes 64, .rw, .val 0, false, .any⟩,
  ⟨0x00, 0x5050, 0x5050, 0x04, 0x04, .bytes 16, .rw, .val 0, false, .any⟩,
  ⟨0x00, 0x5050, 0x5050, 0x05, 0x05, .u 1, .wo, .val 0, false, .rng 1 4⟩,
  ⟨0x00, 0x5050, 0x5050, 0x06, 0x06, .bytes 64, .ro, .val 0, false, .any⟩,
  ⟨0x00, 0x5050, 0x5050, 0x07, 0x07, .bytes 16, .ro, .val 0, false, .any⟩,
  ⟨0x00, 0x5050, 0x5050, 0x08, 0x08, .u 1, .ro, .val 0, false, .any⟩]

/-- Objects of 6000h-6FFFh (R50, R251, R280). -/
def objRows6a : List ObjRow := [
  ⟨0x0C, 0x6000, 0x6000, 0x01, 0x01, .u 1, .ro, .val 0xFF, false, .any⟩,
  ⟨0x0C, 0x6000, 0x6000, 0x02, 0x02, .u 1, .ro, .val 2, false, .any⟩,
  ⟨0x0C, 0x6000, 0x6000, 0x03, 0x03, .u 1, .ro, .val 0, false, .any⟩,
  ⟨0x0C, 0x6000, 0x6000, 0x04, 0x04, .u 4, .ro, .val 3, false, .any⟩,
  ⟨0x0C, 0x6000, 0x6000, 0x05, 0x05, .u 1, .ro, .val 0, false, .any⟩,
  ⟨0x0C, 0x6000, 0x6000, 0x06, 0x06, .u 1, .ro, .val 64, false, .any⟩,
  ⟨0x0C, 0x6000, 0x6000, 0x07, 0x07, .bool, .ro, .val 0, false, .rng 0 1⟩,
  ⟨0x0C, 0x6010, 0x6013, 0x01, 0x01, .u 1, .ro, .val 16, false, .any⟩,
  ⟨0x0C, 0x6010, 0x6013, 0x02, 0x02, .u 1, .ro, .val 0, false, .any⟩,
  ⟨0x0C, 0x6010, 0x6013, 0x03, 0x03, .u 2, .ro, .val 1, false, .any⟩,
  ⟨0x0C, 0x6010, 0x6013, 0x04, 0x04, .u 4, .ro, .val 0, false, .any⟩,
  ⟨0x0C, 0x6010, 0x6013, 0x05, 0x05, .u 4, .ro, .val 0, false, .any⟩,
  ⟨0x0C, 0x6010, 0x6013, 0x06, 0x06, .u 4, .ro, .val 0, false, .any⟩,
  ⟨0x0C, 0x6010, 0x6013, 0x07, 0x07, .u 4, .ro, .val 0, false, .any⟩,
  ⟨0x0C, 0x6010, 0x6013, 0x08, 0x08, .u 2, .ro, .val 0, false, .any⟩,
  ⟨0x0F, 0x6400, 0x6400, 0x01, 0x01, .u 1, .ro, .val 0, false, .any⟩,
  ⟨0x0F, 0x6400, 0x6400, 0x02, 0x02, .u 4, .ro, .val 0, false, .any⟩,
  ⟨0x0F, 0x6400, 0x6400, 0x03, 0x03, .u 4, .ro, .val 0, false, .any⟩,
  ⟨0x0F, 0x6400, 0x6400, 0x04, 0x04, .u 8, .ro, .val 0, false, .any⟩,
  ⟨0x0F, 0x6400, 0x6400, 0x05, 0x05, .u 8, .ro, .val 0, false, .any⟩,
  ⟨0x0F, 0x6400, 0x6400, 0x06, 0x06, .u 8, .ro, .val 0, false, .any⟩,
  ⟨0x0F, 0x6400, 0x6400, 0x07, 0x07, .u 4, .ro, .val 0, false, .any⟩,
  ⟨0x0F, 0x6400, 0x6400, 0x08, 0x08, .u 4, .ro, .val 0, false, .any⟩,
  ⟨0x0F, 0x6400, 0x6400, 0x09, 0x09, .u 1, .ro, .val 0, false, .any⟩,
  ⟨0x0F, 0x6400, 0x6400, 0x0A, 0x0A, .u 4, .ro, .val 0, false, .any⟩,
  ⟨0x0F, 0x6400, 0x6400, 0x0B, 0x0B, .u 8, .ro, .val 0, false, .any⟩,
  ⟨0x0F, 0x6400, 0x6400, 0x0C, 0x0C, .u 4, .ro, .val 0, false, .any⟩,
  ⟨0x0F, 0x6400, 0x6400, 0x0D, 0x0D, .u 1, .ro, .val 0, false, .any⟩,
  ⟨0x0C, 0x6100, 0x6100, 0x01, 0x01, .u 1, .rwp, .val 0, false, .rng 0 1⟩,
  ⟨0x0C, 0x6100, 0x6100, 0x02, 0x02, .u 2, .ro, .val 0xffff, false, .any⟩,
  ⟨0x0C, 0x6100, 0x6100, 0x03, 0x03, .u 2, .ro, .val 0, false, .any⟩,
  ⟨0x0C, 0x6100, 0x6100, 0x04, 0x04, .u 2, .ro, .val 0, false, .any⟩,
  ⟨0x0C, 0x6100, 0x6100, 0x05, 0x05, .u 2, .ro, .val 0, false, .any⟩,
  ⟨0x0C, 0x6100, 0x6100, 0x06, 0x06, .u 1, .wo, .val 0, false, .oneOf [1]⟩,
  ⟨0x0C, 0x6101, 0x6101, 0x01, 0x10, .u 2, .ro, .val 0, false, .any⟩,
  ⟨0x0C, 0x6102, 0x6102, 0x01, 0x10, .u 2, .rw, .val 0xffff, false, .any⟩,
  ⟨0x0C, 0x6110, 0x6110, 0x01, 0x10, .u 1, .ro, .val 0, false, .any⟩,
  ⟨0x0C, 0x6111, 0x6111, 0x01, 0x10, .u 2, .ro, .val 0, false, .any⟩,
  ⟨0x0C, 0x6120, 0x6120, 0x01, 0x01, .u 4, .wo, .val 0, false, .any⟩,
  ⟨0x0C, 0x6120, 0x6120, 0x02, 0x02, .u 1, .ro, .val 0, false, .any⟩]

/-- Objects of 6000h-6FFFh (R280, R281, R329, R330). -/
def objRows6b : List ObjRow := [
  ⟨0x0C, 0x6130, 0x6130, 0x01, 0x10, .u 4, .ro, .val 0, false, .any⟩,
  ⟨0x0C, 0x6131, 0x6131, 0x01, 0x10, .u 4, .ro, .val 0, false, .any⟩,
  ⟨0x00, 0x6F00, 0x6F00, 0x01, 0x01, .u 2, .rwp, .val 16, false, .rng 2 65535⟩,
  ⟨0x00, 0x6F00, 0x6F00, 0x02, 0x02, .u 4, .rwp, .val 0xe10, false, .rng 60 604800⟩,
  ⟨0x00, 0x6F00, 0x6F00, 0x03, 0x03, .u 1, .rwp, .val 2, false, .rng 1 255⟩,
  ⟨0x00, 0x6F00, 0x6F00, 0x04, 0x04, .u 4, .rwp, .val 0x15180, false, .rng 60 2592000⟩,
  ⟨0x00, 0x6F00, 0x6F00, 0x05, 0x05, .u 1, .ro, .val 4, false, .any⟩,
  ⟨0x0B, 0x6800, 0x6800, 0x01, 0x01, .u 1, .ro, .val 32, false, .any⟩,
  ⟨0x0B, 0x6800, 0x6800, 0x02, 0x02, .u 4, .ro, .val 0x800000, false, .any⟩,
  ⟨0x0B, 0x6800, 0x6800, 0x03, 0x03, .u 4, .rwp, .val 0x2710, false, .rng 5000 100000⟩,
  ⟨0x0B, 0x6800, 0x6800, 0x04, 0x04, .u 8, .ro, .val 0, false, .any⟩,
  ⟨0x0B, 0x6800, 0x6800, 0x05, 0x05, .u 8, .ro, .val 0, false, .any⟩,
  ⟨0x0B, 0x6800, 0x6800, 0x06, 0x06, .u 8, .ro, .val 0, false, .any⟩,
  ⟨0x0B, 0x6800, 0x6800, 0x07, 0x07, .u 8, .ro, .val 0, false, .any⟩,
  ⟨0x0B, 0x6800, 0x6800, 0x08, 0x08, .u 4, .ro, .val 0, false, .any⟩,
  ⟨0x0B, 0x6800, 0x6800, 0x09, 0x09, .u 4, .ro, .val 0, false, .any⟩,
  ⟨0x0B, 0x6800, 0x6800, 0x0A, 0x0A, .u 4, .ro, .val 0, false, .any⟩,
  ⟨0x0B, 0x6801, 0x6801, 0x01, 0x01, .u 2, .ro, .val 0x4000, false, .any⟩,
  ⟨0x0B, 0x6801, 0x6801, 0x02, 0x02, .u 2, .ro, .val 0, false, .any⟩,
  ⟨0x0B, 0x6801, 0x6801, 0x03, 0x03, .u 2, .ro, .val 0x4000, false, .any⟩,
  ⟨0x0B, 0x6810, 0x6810, 0x01, 0x10, .u 1, .ro, .val 4, false, .any⟩,
  ⟨0x0B, 0x6811, 0x6811, 0x01, 0x10, .u 4, .ro, .val 0, false, .any⟩,
  ⟨0x0B, 0x6812, 0x6812, 0x01, 0x10, .u 1, .ro, .val 0, false, .any⟩,
  ⟨0x0B, 0x6813, 0x6813, 0x01, 0x10, .u 4, .ro, .val 0, false, .any⟩,
  ⟨0x0B, 0x6814, 0x6814, 0x01, 0x10, .u 2, .ro, .val 0, false, .any⟩,
  ⟨0x0C, 0x6030, 0x6033, 0x01, 0x07, .u 2, .ro, .credit 1, false, .any⟩,
  ⟨0x0C, 0x6030, 0x6033, 0x08, 0x0E, .u 2, .ro, .credit 8, false, .any⟩,
  ⟨0x0C, 0x6030, 0x6033, 0x0F, 0x15, .u 2, .ro, .val 0, false, .any⟩]

/-- Objects of 7000h-7FFFh (R417, R427, R440). -/
def objRows7a : List ObjRow := [
  ⟨0x02, 0x7000, 0x700F, 0x01, 0x01, .bool, .rwp, .val 0, false, .rng 0 1⟩,
  ⟨0x02, 0x7000, 0x700F, 0x02, 0x02, .bytes 9, .rwp, .val 0, false, .rng 0 (2 ^ 66 - 1)⟩,
  ⟨0x02, 0x7000, 0x700F, 0x03, 0x03, .u 1, .rwp, .val 2, false, .rng 1 4⟩,
  ⟨0x02, 0x7000, 0x700F, 0x04, 0x04, .u 1, .rwp, .val 255, false, .rngOr 0 7 0xFF⟩,
  ⟨0x02, 0x7000, 0x700F, 0x05, 0x05, .u 8, .rwp, .val 0, false, .mult 4096⟩,
  ⟨0x02, 0x7000, 0x700F, 0x06, 0x06, .bool, .rwp, .val 1, false, .rng 0 1⟩,
  ⟨0x02, 0x7000, 0x700F, 0x07, 0x07, .bool, .rwp, .val 0, false, .rng 0 1⟩,
  ⟨0x02, 0x7010, 0x701F, 0x01, 0x08, .bytes 16, .rwp, .val 0, false, .any⟩,
  ⟨0x02, 0x7020, 0x702F, 0x01, 0x16, .u 2, .rwp, .val 0, false, .any⟩,
  ⟨0x02, 0x7030, 0x703F, 0x01, 0x01, .bytes 128, .rwp, .val 0, false, .any⟩,
  ⟨0x02, 0x7030, 0x703F, 0x02, 0x02, .bytes 160, .rwp, .val 0, false, .any⟩,
  ⟨0x02, 0x7030, 0x703F, 0x03, 0x03, .u 8, .rwp, .val 0, false, .rng 0 (2 ^ 40 - 1)⟩,
  ⟨0x02, 0x7050, 0x7050, 0x01, 0x01, .u 1, .wo, .val 0, false, .rng 0 15⟩,
  ⟨0x02, 0x7050, 0x7050, 0x02, 0x02, .u 1, .wo, .val 0, false, .rng 0 15⟩,
  ⟨0x02, 0x7050, 0x7050, 0x03, 0x03, .u 1, .wo, .val 0, false, .rng 0 15⟩,
  ⟨0x02, 0x7040, 0x7040, 0x01, 0x10, .u 1, .ro, .val 0, false, .any⟩,
  ⟨0x02, 0x7041, 0x7041, 0x01, 0x10, .u 4, .ro, .val 0, false, .any⟩,
  ⟨0x02, 0x7042, 0x7042, 0x01, 0x10, .u 4, .ro, .val 0, false, .any⟩,
  ⟨0x02, 0x7043, 0x7043, 0x01, 0x10, .u 1, .ro, .val 0, false, .any⟩,
  ⟨0x02, 0x7044, 0x7044, 0x01, 0x10, .u 8, .ro, .val 0, false, .any⟩,
  ⟨0x02, 0x7045, 0x7045, 0x01, 0x10, .bool, .ro, .val 0, false, .rng 0 1⟩,
  ⟨0x02, 0x7100, 0x7100, 0x01, 0x01, .u 1, .ro, .val 0, false, .any⟩,
  ⟨0x02, 0x7100, 0x7100, 0x02, 0x02, .u 4, .ro, .val 0, false, .any⟩,
  ⟨0x02, 0x7100, 0x7100, 0x03, 0x03, .bool, .ro, .val 0, false, .rng 0 1⟩,
  ⟨0x02, 0x7100, 0x7100, 0x04, 0x04, .u 4, .ro, .val 0, false, .any⟩,
  ⟨0x02, 0x7100, 0x7100, 0x05, 0x05, .u 4, .ro, .val 0, true, .any⟩,
  ⟨0x02, 0x7100, 0x7100, 0x06, 0x06, .u 1, .wo, .val 0, false, .oneOf [1]⟩,
  ⟨0x02, 0x7100, 0x7100, 0x07, 0x07, .u 1, .ro, .val 0, true, .any⟩,
  ⟨0x02, 0x7100, 0x7100, 0x09, 0x09, .u 1, .wo, .val 0, false, .oneOf [1]⟩,
  ⟨0x02, 0x7100, 0x7100, 0x0A, 0x0A, .u 1, .wo, .val 0, false, .oneOf [1]⟩,
  ⟨0x02, 0x7200, 0x7200, 0x01, 0x01, .u 1, .wo, .val 0, false, .oneOf [0, 0x10, 0x11, 0x12, 0x13, 0x14, 0x15, 0x16, 0x17]⟩,
  ⟨0x02, 0x7200, 0x7200, 0x02, 0x02, .bytes 1024, .wo, .val 0, false, .any⟩,
  ⟨0x02, 0x7200, 0x7200, 0x03, 0x03, .u 4, .ro, .val 0, false, .any⟩,
  ⟨0x02, 0x7200, 0x7200, 0x04, 0x04, .u 1, .wo, .val 0, false, .oneOf [1]⟩,
  ⟨0x02, 0x7210, 0x7217, 0x01, 0x01, .u 1, .ro, .val 0, true, .any⟩,
  ⟨0x02, 0x7220, 0x7221, 0x01, 0x01, .u 1, .ro, .val 0, true, .any⟩,
  ⟨0x02, 0x7210, 0x7217, 0x02, 0x02, .u 4, .ro, .val 0, true, .any⟩,
  ⟨0x02, 0x7220, 0x7221, 0x02, 0x02, .u 4, .ro, .val 0, true, .any⟩,
  ⟨0x02, 0x7210, 0x7217, 0x03, 0x03, .u 4, .rwp, .val 0, false, .any⟩,
  ⟨0x02, 0x7210, 0x7217, 0x04, 0x04, .bytes 48, .ro, .val 0, true, .any⟩]

/-- Objects of 7000h-7FFFh (R440, R470). -/
def objRows7b : List ObjRow := [
  ⟨0x02, 0x7220, 0x7221, 0x04, 0x04, .bytes 48, .ro, .val 0, true, .any⟩,
  ⟨0x02, 0x7210, 0x7217, 0x05, 0x05, .u 4, .ro, .val 0, true, .any⟩,
  ⟨0x02, 0x7220, 0x7221, 0x05, 0x05, .u 4, .ro, .val 0, true, .any⟩,
  ⟨0x02, 0x7210, 0x7217, 0x06, 0x06, .str 16, .ro, .val 0, true, .any⟩,
  ⟨0x02, 0x7220, 0x7221, 0x06, 0x06, .str 16, .ro, .val 0, true, .any⟩,
  ⟨0x02, 0x7230, 0x7233, 0x01, 0x01, .bool, .rwp, .val 0, false, .rng 0 1⟩,
  ⟨0x02, 0x7230, 0x7233, 0x02, 0x02, .bytes 97, .rwp, .val 0, false, .any⟩,
  ⟨0x02, 0x7300, 0x7307, 0x01, 0x01, .bool, .rwp, .anchor 1 0, false, .rng 0 1⟩,
  ⟨0x02, 0x7300, 0x7307, 0x02, 0x02, .u 1, .rwp, .anchor 5 1, false, .oneOf [1, 3, 4, 5]⟩,
  ⟨0x02, 0x7300, 0x7307, 0x03, 0x03, .bytes 97, .rwp, .val 0, false, .any⟩,
  ⟨0x02, 0x7300, 0x7307, 0x04, 0x04, .str 32, .rwp, .val 0, false, .any⟩,
  ⟨0x02, 0x7400, 0x7400, 0x01, 0x01, .bytes 1024, .ro, .val 0, true, .any⟩,
  ⟨0x02, 0x7400, 0x7400, 0x03, 0x03, .bytes 1024, .ro, .val 0, true, .any⟩,
  ⟨0x02, 0x7400, 0x7400, 0x05, 0x05, .bytes 1024, .ro, .val 0, true, .any⟩,
  ⟨0x02, 0x7400, 0x7400, 0x02, 0x02, .u 2, .ro, .val 0, true, .any⟩,
  ⟨0x02, 0x7400, 0x7400, 0x04, 0x04, .u 2, .ro, .val 0, true, .any⟩,
  ⟨0x02, 0x7400, 0x7400, 0x06, 0x06, .u 2, .ro, .val 0, true, .any⟩,
  ⟨0x02, 0x7410, 0x7410, 0x01, 0x01, .bytes 48, .wo, .val 0, false, .any⟩,
  ⟨0x02, 0x7410, 0x7410, 0x02, 0x02, .bytes 512, .tk, .val 0, false, .any⟩,
  ⟨0x02, 0x7500, 0x7500, 0x01, 0x01, .bool, .rw, .val 0, false, .rng 0 1⟩,
  ⟨0x02, 0x7500, 0x7500, 0x02, 0x02, .u 2, .rw, .val 0, false, .any⟩,
  ⟨0x02, 0x7500, 0x7500, 0x03, 0x03, .u 2, .ro, .val 0, false, .any⟩]

/-- Objects of 8000h-8FFFh (R446, R447, R454, R458). -/
def objRows8a : List ObjRow := [
  ⟨0x00, 0x8000, 0x8000, 0x01, 0x01, .u 8, .ro, .val 0, false, .any⟩,
  ⟨0x00, 0x8000, 0x8000, 0x02, 0x02, .u 8, .ro, .val 0, false, .any⟩,
  ⟨0x00, 0x8000, 0x8000, 0x03, 0x03, .u 2, .ro, .val 0x1000, false, .any⟩,
  ⟨0x00, 0x8001, 0x8001, 0x01, 0x01, .bytes 64, .tk, .val 0, false, .any⟩,
  ⟨0x00, 0x8002, 0x8002, 0x01, 0x01, .u 8, .rw, .val 0, false, .any⟩,
  ⟨0x00, 0x8002, 0x8002, 0x02, 0x02, .bytes 64, .ro, .val 0, false, .any⟩,
  ⟨0x00, 0x8100, 0x810F, 0x01, 0x01, .u 4, .rwp, .val 0xffffffff, false, .rngOr 0 65535 0xFFFFFFFF⟩,
  ⟨0x00, 0x8100, 0x810F, 0x02, 0x02, .u 4, .ro, .val 0, false, .any⟩,
  ⟨0x00, 0x8200, 0x8200, 0x01, 0x01, .u 2, .rwp, .val 256, false, .rng 2 65535⟩,
  ⟨0x00, 0x8200, 0x8200, 0x02, 0x02, .u 4, .rwp, .val 0xe10, false, .rng 60 604800⟩,
  ⟨0x00, 0x8200, 0x8200, 0x03, 0x03, .u 1, .rwp, .val 3, false, .rng 1 255⟩,
  ⟨0x00, 0x8200, 0x8200, 0x04, 0x04, .u 4, .rwp, .val 0x15180, false, .rng 60 2592000⟩,
  ⟨0x00, 0x8201, 0x8201, 0x01, 0x01, .u 4, .rwp, .val 0x1000, false, .rng 2 4294967295⟩,
  ⟨0x00, 0x8201, 0x8201, 0x02, 0x02, .u 4, .rwp, .val 0xe10, false, .rng 60 604800⟩,
  ⟨0x00, 0x8201, 0x8201, 0x03, 0x03, .u 1, .rwp, .val 3, false, .rng 1 255⟩,
  ⟨0x00, 0x8201, 0x8201, 0x04, 0x04, .u 4, .rwp, .val 0x15180, false, .rng 60 2592000⟩,
  ⟨0x00, 0x8201, 0x8201, 0x05, 0x05, .u 1, .rwp, .val 8, false, .rng 1 32⟩,
  ⟨0x00, 0x8202, 0x8202, 0x01, 0x01, .u 4, .rwp, .val 256, false, .rng 2 4294967295⟩,
  ⟨0x00, 0x8202, 0x8202, 0x02, 0x02, .u 4, .rwp, .val 0xe10, false, .rng 60 604800⟩,
  ⟨0x00, 0x8202, 0x8202, 0x03, 0x03, .u 1, .rwp, .val 3, false, .rng 1 255⟩,
  ⟨0x00, 0x8202, 0x8202, 0x04, 0x04, .u 4, .rwp, .val 0x15180, false, .rng 60 2592000⟩,
  ⟨0x00, 0x8203, 0x8203, 0x01, 0x01, .u 2, .rwp, .val 16, false, .rng 1 65535⟩,
  ⟨0x00, 0x8203, 0x8203, 0x02, 0x02, .u 4, .rwp, .val 60, false, .rng 60 2592000⟩,
  ⟨0x00, 0x8203, 0x8203, 0x03, 0x03, .u 1, .rwp, .val 3, false, .rng 1 255⟩,
  ⟨0x00, 0x8203, 0x8203, 0x04, 0x04, .u 4, .rwp, .val 0xe10, false, .rng 60 2592000⟩,
  ⟨0x00, 0x8204, 0x8204, 0x01, 0x01, .u 4, .rwp, .val 16, false, .rng 2 4294967295⟩,
  ⟨0x00, 0x8204, 0x8204, 0x02, 0x02, .u 4, .rwp, .val 0xe10, false, .rng 60 604800⟩,
  ⟨0x00, 0x8204, 0x8204, 0x03, 0x03, .u 4, .rwp, .val 2, false, .rng 1 4294967295⟩,
  ⟨0x00, 0x8204, 0x8204, 0x04, 0x04, .u 4, .rwp, .val 0x15180, false, .rng 60 2592000⟩,
  ⟨0x00, 0x8205, 0x8205, 0x01, 0x01, .u 4, .rwp, .val 16, false, .rng 1 4294967295⟩,
  ⟨0x00, 0x8205, 0x8205, 0x02, 0x02, .u 4, .rwp, .val 0x93a80, false, .rng 60 2592000⟩,
  ⟨0x00, 0x8205, 0x8205, 0x03, 0x03, .u 4, .rwp, .val 3, false, .rng 1 4294967295⟩,
  ⟨0x00, 0x8205, 0x8205, 0x04, 0x04, .u 4, .rwp, .val 0x15180, false, .rng 60 2592000⟩,
  ⟨0x00, 0x8205, 0x8205, 0x05, 0x05, .u 4, .rwp, .val 2, false, .rng 1 4294967295⟩,
  ⟨0x00, 0x8205, 0x8205, 0x06, 0x06, .u 4, .rwp, .val 0x15180, false, .rng 60 2592000⟩,
  ⟨0x00, 0x8205, 0x8205, 0x07, 0x07, .u 1, .wo, .val 0, false, .oneOf [1]⟩,
  ⟨0x00, 0x8206, 0x8206, 0x01, 0x01, .u 1, .rwp, .val 3, false, .rng 1 255⟩,
  ⟨0x00, 0x8206, 0x8206, 0x02, 0x02, .u 4, .rwp, .val 0x15180, false, .rng 60 2592000⟩,
  ⟨0x00, 0x8300, 0x8300, 0x01, 0x01, .u 1, .wo, .val 0, false, .oneOf [1]⟩,
  ⟨0x00, 0x8300, 0x8300, 0x02, 0x02, .u 4, .rwp, .val 10, false, .rng 0 3600⟩]

/-- Objects of 8000h-8FFFh (R448, R458, R494). -/
def objRows8b : List ObjRow := [
  ⟨0x00, 0x8300, 0x8300, 0x03, 0x03, .u 4, .rwp, .val 100, false, .rng 1 1000⟩,
  ⟨0x00, 0x8310, 0x8310, 0x01, 0x07, .u 4, .ro, .val 0, false, .any⟩,
  ⟨0x00, 0x8311, 0x8311, 0x01, 0x07, .u 4, .ro, .val 0, false, .any⟩,
  ⟨0x00, 0x8312, 0x8312, 0x01, 0x01, .u 8, .ro, .val 0, false, .any⟩,
  ⟨0x00, 0x8400, 0x8400, 0x01, 0x18, .i 4, .ro, .val 0x80000000, false, .any⟩,
  ⟨0x00, 0x8400, 0x8400, 0x19, 0x19, .i 4, .ro, .val 0, false, .any⟩,
  ⟨0x00, 0x8400, 0x8400, 0x1A, 0x1D, .i 4, .ro, .val 0, false, .any⟩,
  ⟨0x00, 0x8400, 0x8400, 0x1E, 0x21, .i 4, .ro, .val 0, false, .any⟩,
  ⟨0x00, 0x8401, 0x8401, 0x01, 0x0F, .u 2, .ro, .val 0, false, .any⟩,
  ⟨0x00, 0x8402, 0x8402, 0x01, 0x18, .u 4, .ro, .val 0, false, .any⟩,
  ⟨0x00, 0x8403, 0x8403, 0x01, 0x01, .u 4, .ro, .val 0, true, .any⟩,
  ⟨0x00, 0x8020, 0x8020, 0x01, 0x40, .bytes 64, .ro, .val 0, true, .any⟩]

/-- Objects of 9000h-9FFFh (R466). -/
def objRows9 : List ObjRow := [
  ⟨0x00, 0x9000, 0x9000, 0x01, 0x01, .u 1, .ro, .val 32, false, .any⟩,
  ⟨0x00, 0x9000, 0x9000, 0x02, 0x02, .bool, .rw, .val 0, false, .rng 0 1⟩,
  ⟨0x00, 0x9000, 0x9000, 0x03, 0x03, .u 1, .wo, .val 0, false, .oneOf [1]⟩,
  ⟨0x00, 0x9100, 0x911F, 0x01, 0x01, .u 2, .rw, .val 0, false, .any⟩,
  ⟨0x00, 0x9100, 0x911F, 0x02, 0x02, .u 1, .rw, .val 255, false, .rngOr 0 15 0xFF⟩,
  ⟨0x00, 0x9100, 0x911F, 0x03, 0x03, .u 2, .rw, .val 0xffff, false, .any⟩,
  ⟨0x00, 0x9100, 0x911F, 0x04, 0x04, .u 8, .ro, .val 0, false, .any⟩,
  ⟨0x00, 0x9100, 0x911F, 0x05, 0x05, .bool, .w1c, .val 0, false, .rng 0 1⟩,
  ⟨0x00, 0x9100, 0x911F, 0x06, 0x06, .bool, .rw, .val 0, false, .rng 0 1⟩]

/-- Objects of A000h-AFFFh (R386, R387, R388). -/
def objRowsAa : List ObjRow := [
  ⟨0x00, 0xA000, 0xA000, 0x01, 0x01, .u 1, .ro, .val 15, false, .any⟩,
  ⟨0x00, 0xA000, 0xA000, 0x02, 0x02, .u 4, .ro, .val 0xfe00, false, .any⟩,
  ⟨0x00, 0xA000, 0xA000, 0x03, 0x03, .u 2, .ro, .val 0x2000, false, .any⟩,
  ⟨0x00, 0xA000, 0xA000, 0x04, 0x04, .u 2, .ro, .val 0x2000, false, .any⟩,
  ⟨0x00, 0xA000, 0xA000, 0x05, 0x05, .u 2, .ro, .val 0, false, .any⟩,
  ⟨0x00, 0xA000, 0xA000, 0x06, 0x06, .u 2, .ro, .val 0, false, .any⟩,
  ⟨0x00, 0xA000, 0xA000, 0x07, 0x07, .u 4, .rwp, .val 0x2710, false, .rng 1000 1000000⟩,
  ⟨0x00, 0xA000, 0xA000, 0x08, 0x08, .u 4, .ro, .val 0, true, .any⟩,
  ⟨0x00, 0xA000, 0xA000, 0x09, 0x09, .u 4, .ro, .val 0, true, .any⟩,
  ⟨0x00, 0xA000, 0xA000, 0x0A, 0x0A, .u 1, .ro, .val 0, true, .any⟩,
  ⟨0x00, 0xA010, 0xA013, 0x01, 0x01, .u 1, .ro, .val 0, false, .any⟩,
  ⟨0x00, 0xA010, 0xA013, 0x02, 0x02, .u 8, .ro, .val 0, false, .any⟩,
  ⟨0x00, 0xA010, 0xA013, 0x03, 0x03, .u 8, .ro, .val 0, false, .any⟩,
  ⟨0x00, 0xA010, 0xA013, 0x04, 0x04, .u 8, .ro, .val 0, false, .any⟩,
  ⟨0x00, 0xA010, 0xA013, 0x05, 0x05, .u 4, .ro, .val 0, false, .any⟩,
  ⟨0x00, 0xA010, 0xA013, 0x06, 0x06, .u 2, .ro, .val 0x800, false, .any⟩,
  ⟨0x00, 0xA010, 0xA013, 0x07, 0x07, .u 2, .ro, .val 0x800, false, .any⟩,
  ⟨0x00, 0xA010, 0xA013, 0x08, 0x08, .u 2, .ro, .val 0, false, .any⟩,
  ⟨0x00, 0xA010, 0xA013, 0x09, 0x09, .u 2, .ro, .val 0, false, .any⟩,
  ⟨0x00, 0xA010, 0xA013, 0x0A, 0x0A, .u 1, .ro, .val 64, false, .any⟩,
  ⟨0x00, 0xA010, 0xA013, 0x0B, 0x0B, .u 1, .ro, .val 0, false, .any⟩,
  ⟨0x00, 0xA100, 0xA11F, 0x01, 0x01, .bool, .rwp, .val 0, false, .rng 0 1⟩,
  ⟨0x00, 0xA100, 0xA11F, 0x02, 0x02, .u 1, .rwp, .val 255, false, .rngOr 0 15 0xFF⟩,
  ⟨0x00, 0xA100, 0xA11F, 0x03, 0x03, .u 1, .rwp, .val 0, false, .rng 0 3⟩,
  ⟨0x00, 0xA100, 0xA11F, 0x04, 0x04, .u 2, .rwp, .val 128, false, .any⟩,
  ⟨0x00, 0xA100, 0xA11F, 0x05, 0x05, .u 2, .rwp, .val 0, false, .any⟩,
  ⟨0x00, 0xA100, 0xA11F, 0x06, 0x06, .u 1, .rwp, .val 0, false, .rng 0 1⟩,
  ⟨0x00, 0xA100, 0xA11F, 0x07, 0x07, .u 4, .ro, .val 0, false, .any⟩,
  ⟨0x00, 0xA100, 0xA11F, 0x08, 0x08, .u 8, .ro, .val 0, true, .any⟩,
  ⟨0x00, 0xA200, 0xA23F, 0x01, 0x01, .bool, .rwp, .val 0, false, .rng 0 1⟩,
  ⟨0x00, 0xA200, 0xA23F, 0x02, 0x02, .u 4, .rwp, .val 0xffffffff, false, .rngOr 0 65535 0xFFFFFFFF⟩,
  ⟨0x00, 0xA200, 0xA23F, 0x03, 0x03, .u 4, .rwp, .val 0xffffffff, false, .rngOr 0 65535 0xFFFFFFFF⟩,
  ⟨0x00, 0xA200, 0xA23F, 0x04, 0x04, .u 4, .ro, .val 1, false, .any⟩,
  ⟨0x00, 0xA200, 0xA23F, 0x05, 0x05, .u 4, .ro, .val 0, true, .any⟩,
  ⟨0x00, 0xA200, 0xA23F, 0x06, 0x06, .u 8, .ro, .val 0, false, .any⟩,
  ⟨0x00, 0xA200, 0xA23F, 0x07, 0x07, .u 1, .ro, .val 0, false, .any⟩,
  ⟨0x00, 0xA200, 0xA23F, 0x08, 0x08, .u 1, .ro, .val 0, false, .any⟩,
  ⟨0x00, 0xA200, 0xA23F, 0x09, 0x09, .u 2, .ro, .val 0, false, .any⟩,
  ⟨0x00, 0xA200, 0xA23F, 0x0A, 0x0A, .u 4, .rwp, .val 0x186a0, false, .rng 1000 10000000⟩,
  ⟨0x00, 0xA200, 0xA23F, 0x0B, 0x0B, .u 2, .rwp, .val 512, false, .rng 32 2048⟩]

/-- Objects of A000h-AFFFh (R51, R388). -/
def objRowsAb : List ObjRow := [
  ⟨0x00, 0xA200, 0xA23F, 0x0C, 0x0C, .u 1, .wo, .val 0, false, .oneOf [1]⟩,
  ⟨0x00, 0xAF00, 0xAF03, 0x01, 0x01, .u 1, .ro, .val 16, false, .any⟩,
  ⟨0x00, 0xAF00, 0xAF03, 0x02, 0x02, .u 1, .ro, .val 0, false, .any⟩,
  ⟨0x00, 0xAF00, 0xAF03, 0x03, 0x03, .u 2, .ro, .val 1, false, .any⟩,
  ⟨0x00, 0xAF00, 0xAF03, 0x04, 0x04, .u 4, .ro, .val 0, false, .any⟩,
  ⟨0x00, 0xAF00, 0xAF03, 0x05, 0x05, .u 4, .ro, .val 0, false, .any⟩,
  ⟨0x00, 0xAF00, 0xAF03, 0x06, 0x06, .u 4, .ro, .val 0, false, .any⟩,
  ⟨0x00, 0xAF00, 0xAF03, 0x07, 0x07, .u 4, .ro, .val 0, false, .any⟩,
  ⟨0x00, 0xAF00, 0xAF03, 0x08, 0x08, .u 2, .ro, .val 0, false, .any⟩]

/-- Objects of B000h-BFFFh (R353, R358, R359). -/
def objRowsB : List ObjRow := [
  ⟨0x0A, 0xB200, 0xB200, 0x01, 0x01, .bool, .rwp, .val 0, false, .rng 0 1⟩,
  ⟨0x0A, 0xB200, 0xB200, 0x02, 0x02, .u 1, .ro, .val 255, false, .any⟩,
  ⟨0x0A, 0xB200, 0xB200, 0x03, 0x03, .u 2, .rwp, .val 0xffff, false, .rngOr 0 263 0xFFFF⟩,
  ⟨0x0A, 0xB200, 0xB200, 0x04, 0x04, .u 1, .rwp, .val 0, false, .rng 0 1⟩,
  ⟨0x0A, 0xB200, 0xB200, 0x05, 0x05, .u 2, .rwp, .val 0, false, .rng 0 1023⟩,
  ⟨0x0A, 0xB200, 0xB200, 0x06, 0x06, .u 8, .ro, .val 0, false, .any⟩,
  ⟨0x0A, 0xB200, 0xB200, 0x07, 0x07, .u 4, .ro, .val 0, false, .any⟩,
  ⟨0x08, 0xB000, 0xB000, 0x01, 0x01, .u 4, .ro, .val 0x10000, false, .any⟩,
  ⟨0x08, 0xB000, 0xB000, 0x02, 0x02, .u 2, .ro, .val 0x600, false, .any⟩,
  ⟨0x08, 0xB000, 0xB000, 0x03, 0x03, .u 2, .ro, .val 0x2000, false, .any⟩,
  ⟨0x08, 0xB000, 0xB000, 0x04, 0x04, .u 2, .ro, .val 0, false, .any⟩,
  ⟨0x08, 0xB000, 0xB000, 0x05, 0x05, .u 2, .ro, .val 0x2000, false, .any⟩,
  ⟨0x08, 0xB000, 0xB000, 0x06, 0x06, .u 8, .ro, .val 0, false, .any⟩,
  ⟨0x08, 0xB000, 0xB000, 0x07, 0x07, .u 8, .ro, .val 0, false, .any⟩,
  ⟨0x08, 0xB000, 0xB000, 0x08, 0x08, .u 8, .ro, .val 0, false, .any⟩,
  ⟨0x08, 0xB000, 0xB000, 0x09, 0x09, .u 4, .ro, .val 0, false, .any⟩,
  ⟨0x09, 0xB100, 0xB100, 0x01, 0x01, .bool, .rwp, .val 0, false, .rng 0 1⟩,
  ⟨0x09, 0xB100, 0xB100, 0x02, 0x02, .u 1, .ro, .val 255, false, .any⟩,
  ⟨0x09, 0xB100, 0xB100, 0x03, 0x03, .u 1, .rwp, .val 0, false, .rng 0 4⟩,
  ⟨0x09, 0xB100, 0xB100, 0x04, 0x04, .u 8, .rwp, .val 0, false, .any⟩,
  ⟨0x09, 0xB100, 0xB100, 0x05, 0x05, .u 4, .rwp, .val 64, false, .any⟩,
  ⟨0x09, 0xB100, 0xB100, 0x06, 0x06, .u 4, .rwp, .val 0, false, .any⟩,
  ⟨0x09, 0xB100, 0xB100, 0x07, 0x07, .u 2, .rwp, .val 0xffff, false, .any⟩,
  ⟨0x09, 0xB100, 0xB100, 0x08, 0x08, .u 4, .rwp, .val 1, false, .rng 1 0xFFFFFFFF⟩,
  ⟨0x09, 0xB100, 0xB100, 0x09, 0x09, .u 4, .rwp, .val 0, false, .any⟩,
  ⟨0x09, 0xB100, 0xB100, 0x0A, 0x0A, .u 1, .rwp, .val 0, false, .rng 0 1⟩,
  ⟨0x09, 0xB100, 0xB100, 0x0B, 0x0B, .u 4, .rwp, .val 0xffffffff, false, .rngOr 0 65535 0xFFFFFFFF⟩,
  ⟨0x09, 0xB100, 0xB100, 0x0C, 0x0C, .bool, .rwp, .val 0, false, .rng 0 1⟩,
  ⟨0x09, 0xB100, 0xB100, 0x0D, 0x0D, .u 1, .wo, .val 0, false, .oneOf [1]⟩,
  ⟨0x09, 0xB110, 0xB110, 0x01, 0x01, .u 1, .ro, .val 0, false, .any⟩,
  ⟨0x09, 0xB110, 0xB110, 0x02, 0x02, .u 4, .ro, .val 0, false, .any⟩,
  ⟨0x09, 0xB110, 0xB110, 0x03, 0x03, .u 4, .ro, .val 0, false, .any⟩,
  ⟨0x09, 0xB110, 0xB110, 0x04, 0x04, .u 4, .ro, .val 0, false, .any⟩,
  ⟨0x09, 0xB110, 0xB110, 0x05, 0x05, .u 4, .ro, .val 0, false, .any⟩,
  ⟨0x09, 0xB110, 0xB110, 0x06, 0x06, .u 4, .ro, .val 0, false, .any⟩,
  ⟨0x09, 0xB110, 0xB110, 0x07, 0x07, .u 1, .ro, .val 0, false, .any⟩,
  ⟨0x09, 0xB110, 0xB110, 0x08, 0x08, .u 8, .ro, .val 0, false, .any⟩,
  ⟨0x09, 0xB110, 0xB110, 0x09, 0x09, .u 8, .ro, .val 0, false, .any⟩,
  ⟨0x09, 0xB110, 0xB110, 0x0A, 0x0A, .u 4, .ro, .val 0, false, .any⟩]

/-- The rows whose index starts with a hexadecimal digit (R12). -/
def objRows (digit : Nat) : List ObjRow :=
  match digit with
  | 0x0 => objRows0
  | 0x1 => objRows1a ++ objRows1b
  | 0x2 => objRows2a ++ objRows2b
  | 0x3 => objRows3a ++ objRows3b
  | 0x4 => objRows4a ++ objRows4b
  | 0x5 => objRows5a ++ objRows5b
  | 0x6 => objRows6a ++ objRows6b
  | 0x7 => objRows7a ++ objRows7b
  | 0x8 => objRows8a ++ objRows8b
  | 0x9 => objRows9
  | 0xA => objRowsAa ++ objRowsAb
  | 0xB => objRowsB
  | _ => []

/-- The row of one object, if the node kind carries it. -/
def rowOf (kind ix sub : Nat) : Option ObjRow :=
  (objRows (ix / 0x1000)).find? fun r =>
    decide (r.ixLo ≤ ix) && decide (ix ≤ r.ixHi) && decide (r.subLo ≤ sub) && decide (sub ≤ r.subHi) &&
      (r.kind == kind || r.kind == 0xFF)

/-- Whether the node kind carries the index at all (R401, detail 02h). -/
def carriesIndex (kind ix : Nat) : Bool :=
  (objRows (ix / 0x1000)).any fun r =>
    decide (r.ixLo ≤ ix) && decide (ix ≤ r.ixHi) && (r.kind == kind || r.kind == 0xFF)

/-- Credits per module of pools 1-7 (R308). -/
def poolCredits (i : Nat) : Nat :=
  match i with
  | 1 => 16 | 3 => 16 | 0 => 32 | 2 => 32 | 4 => 32 | 5 => 32 | 6 => 32 | _ => 0

/-- The characters of a text as a little-endian number. -/
def textNat : List Char → Nat
  | [] => 0
  | c :: t => c.toNat + 256 * textNat t

/-- The default of an object (R394). -/
def ObjRow.default (r : ObjRow) (ix sub : Nat) : Nat :=
  match r.dflt with
  | .val n => n
  | .subPred => sub - 1
  | .site => if sub ≤ 22 then 0x00020000 + (sub - 1) else 0x000201FF
  | .ip => if ix = 0x1100 then 0x0118FEA9 else 0x0218FEA9
  | .anchor a b => if ix = 0x7300 then a else b
  | .credit k => poolCredits (sub - k)
  | .str t => textNat t.toList

/-- Whether a value passes the row's check (R10). -/
def Chk.ok : Chk → Nat → Bool
  | .any, _ => true
  | .rng lo hi, v => decide (lo ≤ v) && decide (v ≤ hi)
  | .rngOr lo hi x, v => (decide (lo ≤ v) && decide (v ≤ hi)) || v == x
  | .oneOf l, v => l.contains v
  | .mult n, v => v % n == 0
  | .multMax k mx, v => v % k == 0 && decide (v ≤ mx)

end Sys2Proof.Machine
end

