-- ==== Sys2Proof/Machine/Table.lean ====
section
/-! DEFINITION. Sparse tables: lists of (number, value) pairs in one canonical form, keys strictly rising and no entry
equal to the default. Registers by number, memory by address and every per-instance structure are held so. -/

namespace Sys2Proof

/-- The value at `k`, `d` where nothing is listed. -/
def tblGet {α : Type} (d : α) : List (Nat × α) → Nat → α
  | [], _ => d
  | (k', v) :: t, k => if k = k' then v else tblGet d t k

/-- The table without an entry at `k`. -/
def tblErase {α : Type} : List (Nat × α) → Nat → List (Nat × α)
  | [], _ => []
  | (k', v) :: t, k => if k = k' then tblErase t k else (k', v) :: tblErase t k

/-- The table with `v` listed at `k`, in rising order of keys. -/
def tblInsert {α : Type} : List (Nat × α) → Nat → α → List (Nat × α)
  | [], k, v => [(k, v)]
  | (k', v') :: t, k, v =>
    if k < k' then (k, v) :: (k', v') :: t
    else if k = k' then (k, v) :: t
    else (k', v') :: tblInsert t k v

/-- The table with `v` at `k`; writing the default removes the entry. -/
def tblSet {α : Type} [DecidableEq α] (d : α) (t : List (Nat × α)) (k : Nat) (v : α) : List (Nat × α) :=
  if v = d then tblErase t k else tblInsert t k v

/-- Canonical form: keys strictly rising from `lo`, no entry equal to the default. -/
def tblWfFrom {α : Type} [DecidableEq α] (d : α) (lo : Nat) : List (Nat × α) → Bool
  | [] => true
  | (k, v) :: t => decide (lo ≤ k) && decide (v ≠ d) && tblWfFrom d (k + 1) t

/-- Canonical form of a whole table. -/
def tblWf {α : Type} [DecidableEq α] (d : α) (t : List (Nat × α)) : Bool := tblWfFrom d 0 t

/-- The table without the entries whose key meets `p`. -/
def tblDrop {α : Type} (p : Nat → Bool) : List (Nat × α) → List (Nat × α)
  | [] => []
  | (k, v) :: t => if p k then tblDrop p t else (k, v) :: tblDrop p t

/-- The plain lookup of a table without a default. -/
def tblFind {α : Type} : List (Nat × α) → Nat → Option α
  | [], _ => none
  | (k', v) :: t, k => if k = k' then some v else tblFind t k

end Sys2Proof
end

