-- ==== Sys2Proof/Machine/State.lean ====
section
/-! DEFINITION. The state of the package: the one store of Catalogue objects by number, and typed state for
what has no Catalogue number. Plain data. Field defaults are the values after reset. -/

namespace Sys2Proof.Machine

/-- Operating modes (R31, R82). -/
inductive Mode where
  | off | keep | service | run | lockstep | limp
deriving DecidableEq, Repr

/-- Privilege modes of a hart (R195). -/
inductive Priv where
  | u | s | m
deriving DecidableEq, Repr

/-- What a hart is doing: held in reset, executing, in wfi (R225), halted in debug mode (R469). -/
inductive HartRun where
  | inReset | running | wfi | debug
deriving DecidableEq, Repr

/-- L2 states of R310: MESI and the three pending states. -/
inductive L2St where
  | i | s | e | m | ip | sp | wp
deriving DecidableEq, Repr

/-- Grants of R306. -/
inductive Grant where
  | none | s | e | m
deriving DecidableEq, Repr

/-- Snoop kinds of R306. -/
inductive SnpKind where
  | s | x | inv | cln
deriving DecidableEq, Repr

/-- REQ kinds of R306. -/
inductive ReqKind where
  | rdS | rdX | upg | claimZ | crd | cwrFull | cwrPart | cmoClean | cmoFlush | cmoInval
deriving DecidableEq, Repr

/-- NMT states of the CAN FD device (R413). -/
inductive Nmt where
  | initialising | preOperational | operational | stopped
deriving DecidableEq, Repr

/-- The 64 bytes of a line with the poison form of each word in byte w of `forms`, 0 for none (R180). -/
structure LineData where
  data : Line := 0
  forms : BitVec 64 := 0
deriving DecidableEq, Repr

/-- Supplies, pins and latches (R74, R77, R79, R480, R486, R493). `refclkLost`: since when; `causeLatch`: the latch of
2030h.02h in the always-on domain; `archCause`: the cause committed by a drain; `lostBuffer`: a supply failed with no drain;
`offHeld`: OFF until a power-on reset; `resetting`: an accepted package reset is about to act; `aonOut`: VDD_AON has left its limits,
and the monitors have no power (R472). -/
structure Power where
  poresetN : Bool := false
  pwrfailN : Bool := true
  refclk : Bool := true
  refclkLost : Option Nat := none
  stat : BitVec 3 := 0
  thermtrip : Bool := false
  causeLatch : Nat := 0
  archCause : Nat := 0
  lostBuffer : Bool := false
  throttled : List Nat := []
  offHeld : Bool := false
  resetting : Bool := false
  aonOut : Bool := false
deriving DecidableEq, Repr

/-- An accepted transition (R84, R85): its requester and result tag where it has one. -/
structure Transition where
  src : Mode
  dst : Mode
  cause : Nat
  start : Nat
  owner : Option (Requester × Nat) := none
deriving DecidableEq, Repr

/-- Mode machinery (R82, R81, R86). `limpDue`: a retirement that leaves the package short was committed while a
transition is in progress (R85). `booting`: R80 has reached step 5 and a promotion of that step is not over. -/
structure Modes where
  mode : Mode := .off
  trans : Option Transition := none
  waitImages : Bool := false
  limpDue : Bool := false
  booting : Bool := false
deriving DecidableEq, Repr

/-- The package timebase (R66), the servo's hidden state (R68, R69) and the references of the dies (R71-R76). `engineFailed`: the
photonic engine's reference source has failed. -/
structure Clock where
  timebase : BitVec 64 := 0
  running : Bool := false
  rateAcc : Int := 0
  goodIntervals : Nat := 0
  holdSince : List (Nat × Nat) := []
  opticalOff : List Nat := []
  engineFailed : Bool := false
deriving DecidableEq, Repr

/-- A gallery-side link end of one module: the epoch and width map it holds; no epoch before its first training (R46, R47). -/
structure GalEnd where
  epoch : Nat := 0
  width : Nat := 0
  half : Nat := 3
deriving DecidableEq, Repr

/-- A retirement and promotion in progress (R59). `trying`: the reserve under test; `failed`: one was tried and failed. -/
structure Promotion where
  gallery : Nat
  oldSite : Nat
  reason : Nat
  fenceTime : Nat
  trying : Option Nat := none
  failed : Bool := false
deriving DecidableEq, Repr

/-- Sites, link ends and the retirement sequence (R44-R49, R56-R61). `powered`: sites with power; `training`: the modules
(die * 4 + module) that train, with the time of the fence plus one; `full`: dies in a full retraining (R48); `kept`: the
epochs that the Rotunda end kept for it; `retestMods`: modules under the retest of R451; `replays`: replays in a row that one
flit of a module has failed (R41); `retest`: sites under the retest of R57 with their requesters; `due`: galleries with the
reasons for which they retire at the next completion into RUN (R459). -/
structure Panel where
  ident : List (Nat × SiteId) := []
  powered : List Nat := []
  promo : Option Promotion := none
  promoQueue : List Promotion := []
  retest : List (Nat × Requester × Nat) := []
  replays : List (Nat × Nat) := []
  due : List (Nat × Nat) := []
  galEnd : List (Nat × GalEnd) := []
  kept : List (Nat × Nat) := []
  full : List Nat := []
  training : List (Nat × Nat) := []
  retestMods : List Nat := []
  wayDisabled : List (Nat × BitVec 16) := []
deriving DecidableEq, Repr

/-- One trigger as the history keeps it (R109). -/
structure Trig where
  k : Nat
  instant : Nat
  position : Nat
  extrap : Bool
  uncert : Bool
deriving DecidableEq, Repr

/-- An encoder input's hidden state (R92-R98). `recent`: edge times and directions of the newest 64 counts; `faultSince` and `clearSince`:
since when a fault bit has been set, or all have been clear, at the latest change. -/
structure Encoder where
  a : Option Bool := none
  b : Option Bool := none
  z : Option Bool := none
  badA : Bool := false
  badB : Bool := false
  badZ : Bool := false
  recent : List (Nat × Bool) := []
  homing : Bool := false
  netIndex : Option Int := none
  lastCount : Option Nat := none
  clearSince : Option Nat := some 0
  faultSince : Option Nat := none
deriving DecidableEq, Repr

/-- Extrapolation data of a program under a fault (R108). -/
structure Extrap where
  start : Nat
  position : Int
  speed : Int
deriving DecidableEq, Repr

/-- A trigger program's hidden state (R104, R105, R108, R109). -/
structure Program where
  lastInstant : Option Nat := none
  pendingAt : Option Nat := none
  extra : Option Extrap := none
  history : List Trig := []
deriving DecidableEq, Repr

/-- The Hodometer (R92-R118). `pulse`: end of a running output pulse in tenths of a nanosecond; `graceEnd`: when LOCKSTEP → RUN
disarmed the programs `graced`, whose triggers of an earlier instant are still delivered (R117). -/
structure Hodo where
  armed : Bool := false
  graceEnd : Nat := 0
  graced : List Nat := []
  enc : List (Nat × Encoder) := []
  prog : List (Nat × Program) := []
  pulse : List (Nat × Nat) := []
deriving DecidableEq, Repr

/-- What has arrived of one member's piece (R135), and the block IDs it came under. -/
structure Piece where
  blocks : List Nat := []
  leader : Bool := false
  trailer : Bool := false
  payload : List Nat := []
deriving DecidableEq, Repr

/-- Where the pieces of a stream context lie in a slot (R126, R127, R130). -/
structure Layout where
  ctx : Nat
  offset : Nat
  piece : Nat
  packet : Nat
deriving DecidableEq, Repr

/-- A held line of a Mosaic ring (R134-R137). `layout`: of the expected members, as the line opened; `failed`: a deposit or fill write of it
has failed (R147). `sealed`: past step 4. `barred`: members enabled since it opened (R146). -/
structure HeldLine where
  k : Nat
  trigger : Nat
  position : Nat
  extrap : Bool
  uncert : Bool
  expected : BitVec 64
  layout : List (Nat × Layout) := []
  failed : Bool := false
  pieces : List (Nat × Piece) := []
  cause : Option Nat := none
  filled : Bool := false
  memErr : Bool := false
  sealed : Bool := false
  sealTime : Nat := 0
  barred : BitVec 64 := 0
deriving DecidableEq, Repr

/-- A completion record in a ring's posting order (R137, R138): of a held line, or late. -/
structure PostRec where
  line : Option Nat
  bytes : List Byte
deriving DecidableEq, Repr

/-- A ring's runtime state. `stalled`: posting waits for a slot. -/
structure Ring where
  held : List HeldLine := []
  post : List PostRec := []
  stalled : Bool := false
deriving DecidableEq, Repr

/-- A stream context's runtime state: refused blocks, and blocks whose leader gave them a line index (R131, R132). -/
structure Ctx where
  refused : List Nat := []
  leaders : List (Nat × Nat) := []
deriving DecidableEq, Repr

/-- Accession's runtime state (R119-R149). `notices`: seal notices under way, Vitrine, ring, line and coverage; `syncAt` and
`announceAt`: when a lane last sent Sync and Announce, plus one (R122). -/
structure Accession where
  syncAt : List (Nat × Nat) := []
  announceAt : List (Nat × Nat) := []
  notices : List (Nat × Nat × Nat × Nat) := []
  depositing : Bool := false
  disarmAt : Option Nat := none
  overflowMs : List (Nat × Nat) := []
  ring : List (Nat × Ring) := []
  ctx : List (Nat × Ctx) := []
deriving DecidableEq, Repr

/-- A write that waits in a write queue (R159): its line, its source with its place among all writes accepted (R162), its class, the kind
of its entry, and when it was accepted. -/
structure QWrite where
  line : Nat
  source : MemSource
  place : Nat
  ingest : Bool
  reserve : Bool
  time : Nat
deriving DecidableEq, Repr

/-- A write queue, oldest first, and whether it drains (R159). -/
structure WriteQueue where
  entries : List QWrite := []
  drain : Bool := false
deriving DecidableEq, Repr

/-- The memory tiers (R150-R194). `bytes`: the HBM and DDR5 bytes of words that are not poisoned; `marks`: the poison form of each word
by word number, 0 for good data, unlisted 1 (never written, R166); `check`: by which the stored check bits that the checker test mode
changed differ from those of the data (exclusive or), unlisted 0. A write changes these when it is accepted, as the number `accepted`;
`writeQ` holds what still waits to be performed (R158). `trained`: powered and trained; `everTrained`: trained since power-up.
`scrubPos`: the number, within its resource, of the next line to scrub. -/
structure Memory where
  bytes : List Host.Cell := []
  marks : List (Nat × Nat) := []
  check : List (Nat × BitVec 128) := []
  trained : Bool := false
  everTrained : Bool := false
  pcs : List Nat := []
  channels : List Nat := []
  retiredPcs : List Nat := []
  retiredChannels : List Nat := []
  committedPcs : List Nat := []
  committedChannels : List Nat := []
  dimms : List (List Dimm) := []
  writeQ : List (Nat × WriteQueue) := []
  accepted : Nat := 0
  selfRefresh : List Nat := []
  postponed : List (Nat × Nat) := []
  scrubPos : List (Nat × Nat) := []
  lapStart : List (Nat × Nat) := []
  laps : List (Nat × Nat) := []
  lastLap : List (Nat × Nat) := []
  lastScrub : List (Nat × Nat) := []
  lastRequest : List (Nat × Nat) := []
  hotChannels : List Nat := []
  failedDevices : List Nat := []
  discardMs : List (Nat × Nat) := []
deriving DecidableEq, Repr

/-- A store-buffer entry (R212). `bad`: words that the array lost (R176). -/
structure SbEntry where
  line : Nat
  data : Line
  mask : BitVec 64
  whole : BitVec 8
  alone : Bool := false
  size : Nat := 0
  bad : BitVec 8 := 0
deriving DecidableEq, Repr

/-- A leaf translation (R296). `level`: 0 for 4 KiB, 4 for 256 TiB. -/
structure TlbEntry where
  mode : Nat
  asid : Nat
  global : Bool
  vpn : Nat
  level : Nat
  pte : Word
deriving DecidableEq, Repr

/-- One interrupt file (R356). `late`: identities that arrived while the hart's gallery was fenced, which are delivered when it leaves the
fence (R226). -/
structure IntFile where
  eip : BitVec 1024 := 0
  eie : BitVec 1024 := 0
  delivery : Bool := false
  threshold : Nat := 0
  late : BitVec 1024 := 0
deriving DecidableEq, Repr

/-- A hart (R195-R227). CSRs by number; x0 reads 0 in the accessor; `trig`: tdata1 and tdata2 of the four triggers
(R469); `resetAcked`: the debugger acknowledged the last reset; `streams`: the pages of 4 KiB of the streams that the stride
prefetcher tracks, newest first (R257); `walkFinds`: what memory finds at the first line that its next walk reads there (R291). -/
structure Hart where
  run : HartRun := .inReset
  pc : Word := 0
  priv : Priv := .m
  x : List (Nat × Word) := []
  f : List (Nat × Word) := []
  v : List (Nat × Line) := []
  csr : List (Nat × Word) := []
  sb : List SbEntry := []
  l1d : List Nat := []
  l1i : List (Nat × LineData) := []
  lineBuf : List (Nat × LineData) := []
  itlb : List TlbEntry := []
  dtlb : List TlbEntry := []
  l2tlb : List TlbEntry := []
  walk : List TlbEntry := []
  reserved : Option Nat := none
  walkFinds : Finding := .clean
  fileM : IntFile := {}
  fileS : IntFile := {}
  resetAcked : Bool := false
  trig : List (Nat × (Word × Word)) := []
  streams : List Nat := []
deriving DecidableEq, Repr

/-- A line in a gallery's L2 (R252, R254, R268, R304). -/
structure L2Line where
  st : L2St := .i
  dom : Nat := 0
  way : Nat := 0
  copy : LineData := {}
deriving DecidableEq, Repr

/-- A miss entry of an L2 whose request waits for its victim's writeback (R259): the way chosen, the victim, and the domain. -/
structure Miss where
  way : Nat
  dom : Nat
  victim : Nat
deriving DecidableEq, Repr

/-- The L2s of the galleries: lines and waiting misses keyed `gallery * 2^46 + line`, replacement bits, preloading cores, LR
holds. `closing`: gallery and way of the ways whose disabling waits for the end of a fence (R42, R275). -/
structure Caches where
  l2 : List (Nat × L2Line) := []
  misses : List (Nat × Miss) := []
  plru : List (Nat × Nat) := []
  preloadCore : List (Nat × Nat) := []
  lrHold : List (Nat × Nat) := []
  closing : List (Nat × Nat) := []
deriving DecidableEq, Repr

/-- A REQ of the Concourse (R306). `limit`: the watchdog in force at its acceptance (R329), 0 before it. -/
structure Req where
  kind : ReqKind
  agent : CohAgent
  dom : Nat
  data : Line := 0
  mask : BitVec 64 := 0
  whole : BitVec 8 := 0
  victim : Option Nat := none
  limit : Nat := 0
deriving DecidableEq, Repr

/-- A directory entry (R303), held under `dom * 2^46 + line`. `owned`: state O; free where no holder is named. -/
structure DirEntry where
  owned : Bool := false
  holders : BitVec 22 := 0
  way : Nat := 0
deriving DecidableEq, Repr

/-- The open transaction of a line (R312-R314) and the REQs queued behind it. `entry`: it holds a directory entry, pinned, be there
holders or not; `early`: SnpData that arrived before its RspD, by gallery (R307); `victimQueue`: REQs for the line of the entry that it
victimises (R319). -/
structure Tx where
  req : Req
  start : Nat
  entry : Bool := false
  snoops : BitVec 22 := 0
  awaitData : BitVec 22 := 0
  got : Option LineData := none
  early : List (Nat × LineData) := []
  keepShared : Bool := false
  waitAck : Bool := false
  backInv : Option Nat := none
  queue : List Req := []
  victimQueue : List Req := []
deriving DecidableEq, Repr

/-- Messages in flight between slices and agents (R306). -/
inductive Msg where
  | snp (kind : SnpKind) (g line dom : Nat)
  | rsp (kind : RspKind) (g line dom : Nat)
  | snpData (g line dom : Nat) (d : LineData)
  | wbd (g line dom : Nat) (d : LineData)
  | data (dest : CohAgent) (line dom : Nat) (d : LineData) (grant : Grant)
  | cmp (dest : CohAgent) (line dom : Nat) (grant : Grant) (zero : Bool)
  | wbAck (g line dom : Nat)
  | ack (g line dom : Nat)
deriving DecidableEq, Repr

/-- The Concourse (R302-R330). `msgs`: each with the module on which it travels, in the order sent (R309); `waiting`: REQs that
their slice has not accepted, with module and line, in the order of arrival (R312); `fullWaits`: the fills of whole accesses, by gallery
and entry, whose wait for an entry is counted already (R319). -/
structure Concourse where
  dir : List (Nat × DirEntry) := []
  tx : List (Nat × Tx) := []
  msgs : List (Nat × Msg) := []
  waiting : List (Nat × Nat × Req) := []
  fullWaits : List (Nat × Nat) := []
  binv : List (Nat × Nat) := []
  stale : List (Nat × Nat) := []
  causeGallery : List (Nat × Nat) := []
  faultyWays : List Nat := []
deriving DecidableEq, Repr

/-- One row held in a slot's line buffer, with its substituted mark (R238). -/
structure VitRow where
  pixels : List Int
  substituted : Bool
deriving DecidableEq, Repr

/-- A program slot of a Vitrine (R228, R245, R247). `state`: 0 empty, 1 loaded, 2 armed, 3 stopped on fault; `lastLine`: of
the previous step since arming; `stepped`: the last line stepped, as vit.stat reads it; `disarming`: vit.disarm waits for the record of
the step in progress. -/
structure VitSlot where
  state : Nat := 0
  block : List Byte := []
  rows : List VitRow := []
  lastLine : Option Nat := none
  stepped : Nat := 0
  gap : Bool := false
  outRows : Nat := 0
  histCount : Nat := 0
  bins : List (Nat × Nat) := []
  faultCode : Nat := 0
  disarming : Bool := false
deriving DecidableEq, Repr

/-- A queued seal notice (R240). -/
structure Notice where
  ring : Nat
  line : Nat
  cover : Nat
  slots : List Nat := []
deriving DecidableEq, Repr

/-- A queued job (R236). -/
structure Job where
  slot : Nat
  ticket : Nat
  desc : List Byte
  rows : List VitRow := []
  nextRow : Nat := 0
  outRows : Nat := 0
  histCount : Nat := 0
  bins : List (Nat × Nat) := []
  performed : Option Nat := none
deriving DecidableEq, Repr

/-- A Vitrine (R228-R251). -/
structure Vit where
  running : Bool := false
  slot : List (Nat × VitSlot) := []
  notices : List Notice := []
  jobs : List Job := []
  tickets : Nat := 0
  ended : List (Nat × Nat) := []
deriving DecidableEq, Repr

/-- A load as its descriptor gives it (R345): rows of `row` bytes from `src` to `dst` at their pitches; a fill has a pattern. -/
structure Load where
  src : Nat
  dst : Nat
  row : Nat
  rows : Nat
  srcPitch : Nat
  dstPitch : Nat
  pattern : Option Word
deriving DecidableEq, Repr

/-- A load in progress (R347, R350): the row, and the bytes of it that are moved; whether poison came, or writes were discarded, so far;
`pick`: the open values of an overlapping load (R346). -/
structure Going where
  op : Nat
  load : Load
  tag : Nat
  cmpl : Bool
  pick : Nat := 0
  r : Nat := 0
  off : Nat := 0
  poisoned : Bool := false
  lost : Bool := false
deriving DecidableEq, Repr

/-- A queue's runtime state beside its objects (R334, R340, R343, R354). `waiting`: the posts that wait for a slot, in the order of arrival,
each with its producer; `load`: the load in progress. -/
structure Queue where
  armed : Bool := false
  waiting : List (Nat × List Byte) := []
  times : List Nat := []
  load : Option Going := none
deriving DecidableEq, Repr

/-- The Dray's rounds (R350): the queue last served of high and of normal priority. -/
structure Dray where
  lastHigh : Nat := 65535
  lastNormal : Nat := 65535
deriving DecidableEq, Repr

/-- An error record (R442) in its fields. -/
structure ErrRec where
  cls : Nat
  action : Nat
  kind : Nat
  part : Nat := 0xFF
  site : Nat := 0xFF
  logical : Nat := 0xFF
  form : Nat := 0
  seq : Nat := 0
  time : Nat := 0
  addr : Nat := 2 ^ 64 - 1
  unit : Nat := 0
  sub : Nat := 0
  hart : Nat := 0xFFFF
  code : Nat := 0
  classify : Nat := 0
  lost : Bool := false
  summary : Bool := false
  count : Nat := 0
deriving DecidableEq, Repr

/-- A sector of the Archive medium (R360): its data, its 40 check bytes, and whether it is uncorrectable. -/
structure Sector where
  data : BitVec 4096 := 0
  check : BitVec 320 := 0
  bad : Bool := false
deriving DecidableEq, Repr

/-- A sector slot of a buffer frame (R369). `writers`: channel and SEQ of every command whose sector waits here for the
medium. -/
structure Slot where
  granted : Option (Nat × Nat) := none
  data : Option (BitVec 4096) := none
  bad : Bool := false
  entryTime : Nat := 0
  writers : List (Nat × Nat) := []
deriving DecidableEq, Repr

/-- A buffer frame assigned to a unit (R369). `number`: the frame of the die's share; `programming`: its drain is under way. -/
structure Frame where
  slot : List (Nat × Slot) := []
  number : Nat := 0
  programming : Bool := false
deriving DecidableEq, Repr

/-- An open Archive command (R365, R366, R370). `packet`: its number among the channel's packets taken; `grants`: sectors and times of
the grants not yet sent, oldest first; `waits`: the sectors that a FLUSH waits for; `light` and `bad`: the sectors of a READ, by place,
that the medium returns corrected and uncorrectable (R383). -/
structure Cmd where
  op : Nat
  packet : Nat
  force : Bool := false
  ns : Nat := 0
  seq : Nat
  lba : Nat := 0
  sectors : Nat := 0
  dest : Nat := 0
  granted : Nat := 0
  entered : Nat := 0
  since : Nat := 0
  grants : List (Nat × Nat) := []
  waits : List Nat := []
  light : List Nat := []
  bad : List Nat := []
deriving DecidableEq, Repr

/-- An ended Archive command's result (R373, R376). -/
structure Res where
  seq : Nat
  status : Nat
  durable : Bool
  sectors : Nat
  badLba : Nat
  time : Nat
deriving DecidableEq, Repr

/-- An Archive channel's runtime state (R364-R377). `taken`: packets from C on that were taken, with whether each is
finished; `lost`: commands whose sectors were discarded with a die. -/
structure Chan where
  opened : List Cmd := []
  ended : List Res := []
  taken : List (Nat × Bool) := []
  packets : Nat := 0
  trueD : Nat := 0
  lost : List Nat := []
deriving DecidableEq, Repr

/-- What a die's copy of the system area holds (R361): the kept objects, the promotion in progress, the disabled ways, the committed
error records, and the retirements. -/
structure SystemCopy where
  generation : Nat := 0
  obj : List (Nat × Nat) := []
  promo : Option Promotion := none
  wayDisabled : List (Nat × BitVec 16) := []
  records : List ErrRec := []
  pcs : List Nat := []
  channels : List Nat := []
  dies : List Nat := []
  frames : List (Nat × Nat) := []
deriving DecidableEq, Repr

/-- The Archive (R360-R388). Frames keyed `die * 2^14 + unit`, sectors `(die * 2^14 + unit) * 32 + sector`. `writes`: the write
generation of each unit (R360); `copies`: the system area of a die that has missed later records, every other die holding the newest;
`generation`: the last one that such a copy has (R361). -/
structure Archive where
  medium : List (Nat × Sector) := []
  writes : List (Nat × Nat) := []
  copies : List (Nat × SystemCopy) := []
  generation : Nat := 0
  frame : List (Nat × Frame) := []
  chan : List (Nat × Chan) := []
  lostAt : List (Nat × Nat) := []
  retiredDies : List Nat := []
  retiredFrames : List (Nat × Nat) := []
  scanPos : List (Nat × Nat) := []
deriving DecidableEq, Repr

/-- A result record (R403). -/
structure Result where
  tag : Nat
  node : Nat
  index : Nat
  sub : Nat
  status : Nat
  detail : Nat := 0
  started : Nat
  ended : Nat := 0
deriving DecidableEq, Repr

/-- A requester's own state: session objects, results, kept response, log cursor, reports (R398, R402-R404, R438, R446). `displaced`:
actions still pending that sixteen newer ones have displaced. -/
structure ReqState where
  abort : Nat := 0
  detail : Nat := 0
  value : List Byte := []
  resultTag : Nat := 0
  lastDetail : Nat := 0
  lastTag : Nat := 0
  dropped : Nat := 0
  selected : Nat := 0xFFFFFFFF
  select : Nat := 0
  results : List Result := []
  displaced : List Result := []
  untaken : List Result := []
  cursor : Option Nat := none
  lastReq : Option (CatOp × CatReq) := none
  served : Nat := 0
  reports : List (List Byte) := []
deriving DecidableEq, Repr

/-- A request that is being served, or waits (R397, R399): what it asks, when it arrived; `unit`: the unit that a mailbox copied; `keeps`:
it came as a request, which is kept for a repetition (R398), and not as the write that a command of its own stands for; `flash`: the
reading of an image that it leads to meets an error (R424); `work`: the I/O that its answer waits for (R419). -/
structure Waiting where
  who : Requester
  op : CatOp
  req : CatReq
  since : Nat
  unit : List Byte := []
  keeps : Bool := false
  flash : Bool := false
  work : Option (List (Nat × Nat × Nat)) := none
deriving DecidableEq, Repr

/-- A mailbox page (R407). -/
structure Mailbox where
  request : List (Nat × Byte) := []
  response : List Byte := []
  busy : Bool := false
  ready : Bool := false
  overrun : Bool := false
  count : Nat := 0
  rtag : Nat := 0
deriving DecidableEq, Repr

/-- An open field session (R411, R436). -/
structure Session where
  port : Nat
  role : Nat
  lastUse : Nat
deriving DecidableEq, Repr

/-- The Catalogue's serving state (R396-R414). Requesters keyed by `reqKey`. `serving`: the request under service; `queue`: the requests
outstanding, the first one with an answer that waits (R397, R399). -/
structure Catalogue where
  serving : Option Waiting := none
  queue : List Waiting := []
  reqs : List (Nat × ReqState) := []
  nextTag : Nat := 1
  mbox : List (Nat × Mailbox) := []
  sessions : List (Nat × Session) := []
  nmt : Nmt := .initialising
  lastBeat : Nat := 0
  canNodeId : Nat := 0x7F
  canRates : Nat × Nat := (500000, 2000000)
deriving DecidableEq, Repr

/-- An open install (R437). -/
structure InstallState where
  who : Requester
  target : Nat
  offset : Nat
deriving DecidableEq, Repr

/-- The Strongroom and the boot flash (R431-R440, R491). `curator` and `curatorVersion`: payload digest and version string of the running
Curator; `written`: the targets whose contents `flash` holds; `tags`: the tag of each security record in the Archive, owner keys 0 to 3
and then trust anchors 0 to 7 (R432). -/
structure Strong where
  curator : Nat := 0
  curatorVersion : Nat := 0
  written : List Nat := []
  tags : List (Nat × Nat) := []
  flash : List (Nat × Byte) := []
  inst : Option InstallState := none
  zeroised : Bool := false
  decommissioned : Bool := false
deriving DecidableEq, Repr

/-- A requested stop under way (R425, R427, R428): its action; whether a start follows it, and whether that start's reading of the boot
flash meets an error; whether domain down has taken its place. -/
structure Stopping where
  action : Option (Requester × Nat) := none
  restart : Bool := false
  flash : Bool := false
  down : Bool := false
deriving DecidableEq, Repr

/-- Partitions' runtime state (R426, R428): times of automatic starts, starts that wait with their actions and those of them that will meet
a read error of the boot flash, partitions that an empty gallery keeps stopped until a start is requested, and stops under way. -/
structure Parts where
  stopping : List (Nat × Stopping) := []
  badFlash : List Nat := []
  autoTimes : List (Nat × List Nat) := []
  waiting : List Nat := []
  held : List Nat := []
  action : List (Nat × (Requester × Nat)) := []
deriving DecidableEq, Repr

/-- An audit in progress (R458): its start, the instances not yet sampled, as pool and instance, and the actions that end with it. -/
structure Audit where
  start : Nat
  left : List (Nat × Nat)
  asked : List (Requester × Nat) := []
deriving DecidableEq, Repr

/-- The error log, newest first, the committed records of 8020h, and the threshold counts (R445-R450). `hits`: times of
the counted events of a resource, newest first. -/
structure Errors where
  log : List ErrRec := []
  committed : List ErrRec := []
  hits : List (Nat × List Nat) := []
  lostTo : List Nat := []
  audit : Option Audit := none
deriving DecidableEq, Repr

/-- The debug module and test access port (R468-R471). -/
structure Debug where
  ir : Nat := 1
  sberror : Nat := 0
  sbdata : Word := 0
  data0 : Word := 0
  cmderr : Nat := 0
deriving DecidableEq, Repr

/-- What the package sent out on a port, a pin or a page: the model's own record, newest first. -/
inductive Emit where
  | frame (lane dstMac etherType start : Nat) (payload : List Byte)
  | actionCmd (lane dstMac dstIp srcPort dstPort reqId deviceKey groupKey groupMask start : Nat) (actionTime : Option Nat)
  | arpReply (lane ip mac : Nat)
  | delayResp (lane seq identity time : Nat)
  | ptpSync (lane time : Nat)
  | ptpAnnounce (lane clockClass : Nat)
  | gvcp (lane dstMac dstIp srcPort dstPort : Nat) (payload : List Byte)
  | pulse (output start width : Nat) (activeLow : Bool)
  | fieldArp (port ip : Nat)
  | fieldEcho (port ip : Nat)
  | heartbeat (nodeId : Nat) (state : Nmt)
  | bootUp (nodeId : Nat)
  | stat (code : Nat)
  | acknowledged (who : Requester)
  | usdoAbort (client code : Nat)
  | handshake (session identity : Nat)
deriving DecidableEq, Repr

/-- The whole package. `obj`: every Catalogue object's value by key (see Objects.lean), unlisted at its default;
`free`: the model's own counter of open values taken so far; `emitted`: the model's own record of what was sent;
`pending`: the commands waiting, first in, first out. -/
structure State where
  obj : List (Nat × Nat) := []
  power : Power := {}
  modes : Modes := {}
  clock : Clock := {}
  panel : Panel := {}
  hodo : Hodo := {}
  acc : Accession := {}
  mem : Memory := {}
  harts : List (Nat × Hart) := []
  caches : Caches := {}
  conc : Concourse := {}
  vits : List (Nat × Vit) := []
  queues : List (Nat × Queue) := []
  dray : Dray := {}
  arch : Archive := {}
  cat : Catalogue := {}
  strong : Strong := {}
  parts : Parts := {}
  errs : Errors := {}
  dbg : Debug := {}
  free : Nat := 0
  emitted : List Emit := []
  pending : List Instr := []
deriving DecidableEq, Repr

/-- The package while PORESET_N is low for the first time: OFF, STAT 000, nothing written (R77, R80, R486). -/
def State.reset : State := {}

/-- Why a step stops with a fault. -/
inductive Fault where
  /-- Raised by every command whose operand names a site, hart, lane, queue or other instance that the package does not have
  (R22, R30): no such event can happen. Safe. -/
  | noSuchResource
deriving DecidableEq, Repr

/-- Why a command is refused. -/
inductive Refusal where
  /-- Raised by a dispatch arm whose command has no meaning yet. Safe. -/
  | notModelled (mnemonic : String)
deriving DecidableEq, Repr

end Sys2Proof.Machine
end

