-- ==== Sys2Proof/Machine/Ops.lean ====
section
/-! DEFINITION. Shared operations: nodes and object keys, reading and setting an object's value, the time, instance
tables, byte lists, who owns what. -/

namespace Sys2Proof.Machine

/-- What a command answers. -/
abbrev Out := Host.Outcome State Fault Refusal

/-- The next state of a command whose operands name instances the package has; a fault otherwise. -/
def within (ok : Bool) (t : State) : Out := if ok then .next t else .fault .noSuchResource

/-! Nodes (R389, R390): handles. -/

abbrev nP : Nat := 0x00000000
abbrev nV : Nat := 0x01000000
abbrev nS : Nat := 0x02000000
abbrev nH : Nat := 0x03000000
abbrev nX : Nat := 0x04000000
abbrev nQ : Nat := 0x08000000
abbrev nC : Nat := 0x0B000000
def nLane (n : Nat) : Nat := 0x05000000 + n
def nCtx (n : Nat) : Nat := 0x06000000 + n
def nRing (n : Nat) : Nat := 0x07000000 + n
def nQueue (n : Nat) : Nat := 0x09000000 + n
def nSource (n : Nat) : Nat := 0x0A000000 + n
def nGal (g : Nat) : Nat := 0x0C000000 + g * 0x100
def nCluster (g k : Nat) : Nat := 0x0D000000 + g * 0x100 + k * 0x10
def nCore (g k c : Nat) : Nat := 0x0E000000 + g * 0x100 + k * 0x10 + c
def nVit (g k : Nat) : Nat := 0x0F000000 + g * 0x100 + k * 0x10
/-- The node of hart `h` (Scope: hart = gallery × 12 + cluster × 4 + core). -/
def nHart (h : Nat) : Nat := nCore (h / 12) (h % 12 / 4) (h % 4)
/-- The node of Vitrine `v` (R228: gallery v ÷ 3, cluster v mod 3). -/
def nVitrine (v : Nat) : Nat := nVit (v / 3) (v % 3)

/-! Objects (R13, R14, R394). -/

/-- The key under which the store holds an object. -/
def objKey (node ix sub : Nat) : Nat := node * 2 ^ 24 + ix * 2 ^ 8 + sub

/-- The default of an object; 0 for a key that is no object. -/
def objDefault (node ix sub : Nat) : Nat :=
  match rowOf (node / 2 ^ 24) ix sub with
  | some r => r.default ix sub
  | none => 0

/-- Bytes of an object's value. -/
def objSize (node ix sub : Nat) : Nat :=
  match rowOf (node / 2 ^ 24) ix sub with
  | some r => r.ty.size
  | none => 8

/-- The value held for an object. -/
def getO (s : State) (node ix sub : Nat) : Nat :=
  tblGet (objDefault node ix sub) s.obj (objKey node ix sub)

/-- The state with an object's value set, reduced to the object's size. -/
def setO (node ix sub v : Nat) (s : State) : State :=
  { s with obj := tblSet (objDefault node ix sub) s.obj (objKey node ix sub) (v % 2 ^ (8 * objSize node ix sub)) }

/-- A count raised by `n`; it wraps at the object's size. -/
def addO (node ix sub n : Nat) (s : State) : State := setO node ix sub (getO s node ix sub + n) s

/-- A count lowered by `n`, not below 0. -/
def subO (node ix sub n : Nat) (s : State) : State := setO node ix sub (getO s node ix sub - n) s

/-- The greater of the value held and `v`. -/
def maxO (node ix sub v : Nat) (s : State) : State := setO node ix sub (max (getO s node ix sub) v) s

/-- Two's complement reading of an `n`-byte value (R13). -/
def signed (n v : Nat) : Int := if v < 2 ^ (8 * n - 1) then (v : Int) else (v : Int) - 2 ^ (8 * n)

/-- The `n`-byte two's complement form of an integer. -/
def unsigned (n : Nat) (v : Int) : Nat := (v % (2 ^ (8 * n) : Int)).toNat

/-- An object of a signed type. -/
def getI (s : State) (node ix sub : Nat) : Int := signed (objSize node ix sub) (getO s node ix sub)

/-- Setting an object of a signed type. -/
def setI (node ix sub : Nat) (v : Int) (s : State) : State :=
  setO node ix sub (unsigned (objSize node ix sub) v) s

/-- The state after a list of changes, first to last. -/
def runAll : List (State → State) → State → State
  | [], s => s
  | f :: t, s => runAll t (f s)

/-- The state after `f` for every member of a list. -/
def forAll {α : Type} (l : List α) (f : α → State → State) (s : State) : State :=
  l.foldl (fun s a => f a s) s

/-- A change made only under a condition. -/
def onlyIf (c : Bool) (f : State → State) (s : State) : State := if c then f s else s

/-! Time, modes, free values. -/

/-- The package timebase in nanoseconds (R66). -/
def now (s : State) : Nat := s.clock.timebase.toNat

/-- Mode codes of R82; OFF has none and reads 0. -/
def Mode.code : Mode → Nat
  | .off => 0 | .keep => 1 | .service => 2 | .run => 3 | .lockstep => 4 | .limp => 5

/-- The mode a code names. -/
def modeOf : Nat → Option Mode
  | 1 => some .keep | 2 => some .service | 3 => some .run | 4 => some .lockstep | 5 => some .limp | _ => none

/-- RUN, LOCKSTEP and LIMP: galleries, memory and fabric run (R31). -/
def Mode.active : Mode → Bool
  | .run => true | .lockstep => true | .limp => true | _ => false

/-- Modes in which the N24 has power and its always-on domain runs. -/
def Mode.on : Mode → Bool
  | .off => false | _ => true

/-- LOCKSTEP, or LIMP entered from LOCKSTEP. -/
def lockstepLike (s : State) : Bool :=
  s.modes.mode == .lockstep || (s.modes.mode == .limp && getO s nP 0x2000 4 == 4)

/-- The next open value (R20): the state that has taken it, and the value. -/
def takeFree (s : State) : State × Word := ({ s with free := s.free + 1 }, Config.freeWord s.free)

/-! Instance tables. -/

def State.hart (s : State) (h : Nat) : Hart := tblGet {} s.harts h
def setHart (h : Nat) (x : Hart) (s : State) : State := { s with harts := tblSet {} s.harts h x }
def State.vit (s : State) (v : Nat) : Vit := tblGet {} s.vits v
def setVit (v : Nat) (x : Vit) (s : State) : State := { s with vits := tblSet {} s.vits v x }
def State.queue (s : State) (q : Nat) : Queue := tblGet {} s.queues q
def setQueue (q : Nat) (x : Queue) (s : State) : State := { s with queues := tblSet {} s.queues q x }

/-- A member put into a list that stands for a set. -/
def addTo (l : List Nat) (n : Nat) : List Nat := if l.contains n then l else l ++ [n]
/-- A member taken out of it. -/
def dropFrom (l : List Nat) (n : Nat) : List Nat := l.filter (· != n)

/-! Bytes, bits and lines (R8). -/

/-- The `n` bytes of a number, least significant first. -/
def leBytes : Nat → Nat → List Byte
  | 0, _ => []
  | n + 1, v => BitVec.ofNat 8 v :: leBytes n (v / 256)

/-- The number that bytes spell, least significant first. -/
def fromLe : List Byte → Nat
  | [] => 0
  | b :: t => b.toNat + 256 * fromLe t

/-- `n` bytes from offset `i` of a byte list, as a number; bytes past the end count as 0. -/
def leAt (l : List Byte) (i n : Nat) : Nat := fromLe ((l.drop i).take n)

/-- A number with bit `i` set. -/
def setBit (v i : Nat) : Nat := if v.testBit i then v else v + 2 ^ i
/-- A number with bit `i` clear. -/
def clrBit (v i : Nat) : Nat := if v.testBit i then v - 2 ^ i else v
/-- Bits set below `n`. -/
def countBits (n v : Nat) : Nat := ((List.range n).filter (v.testBit ·)).length
/-- The places of the bits set below `n`. -/
def bitsOf (n v : Nat) : List Nat := (List.range n).filter (v.testBit ·)

/-- Byte `i` of a line. -/
def lineByte (l : Line) (i : Nat) : Byte := l.extractLsb' (8 * i) 8
/-- Word `w` of a line. -/
def lineWord (l : Line) (w : Nat) : Word := l.extractLsb' (64 * w) 64
/-- The line whose byte `i` is `f i`. -/
def lineOf (f : Nat → Byte) : Line :=
  (List.range 64).foldl (fun acc i => acc ||| ((f i).setWidth 512 <<< (8 * i))) 0
/-- Form of word `w` (R181), 0 for good data. -/
def LineData.form (d : LineData) (w : Nat) : Byte := d.forms.extractLsb' (8 * w) 8
/-- The forms whose word `w` is `f w`. -/
def formsOf (f : Nat → Byte) : BitVec 64 :=
  (List.range 8).foldl (fun acc i => acc ||| ((f i).setWidth 64 <<< (8 * i))) 0
/-- A line whose word `w` is poison where `f w` is not 0; its data holds the form in byte 0 and zero above (R180). -/
def mkLine (data : Nat → Byte) (form : Nat → Byte) : LineData :=
  { data := lineOf fun i => if form (i / 8) = 0 then data i else if i % 8 = 0 then form (i / 8) else 0
    forms := formsOf form }

/-- A line with the bytes of a masked write merged in: a word whose flag is set takes the new data and is good; a
poisoned word whose flag is clear keeps its mark and the bytes are discarded (R183, R214). -/
def mergeLine (old : LineData) (data : Line) (mask : BitVec 64) (whole : BitVec 8) : LineData :=
  let isWhole := fun w => whole.getLsbD w && mask.extractLsb' (8 * w) 8 == 0xFF#8
  mkLine (fun i => if mask.getLsbD i then lineByte data i else lineByte old.data i)
    (fun w => if isWhole w then 0 else old.form w)

/-! Partitions: who owns what (R331, R417). -/

/-- Partition `p` is defined. -/
def defined (s : State) (p : Nat) : Bool := decide (p < 16) && getO s nS (0x7000 + p) 1 == 1
/-- Cluster `v` is named by partition `p`. -/
def ownsCluster (s : State) (p v : Nat) : Bool := (getO s nS (0x7000 + p) 2).testBit v
/-- The partition of cluster `v`: a defined one that names it. -/
def partOfCluster (s : State) (v : Nat) : Option Nat :=
  (List.range 16).find? fun p => defined s p && ownsCluster s p v
/-- The partition of hart `h`; its cluster is h ÷ 4. -/
def partOfHart (s : State) (h : Nat) : Option Nat := partOfCluster s (h / 4)
/-- The owner of queue `q`: the partition that holds its block (R331), FFh none. -/
def queueOwner (s : State) (q : Nat) : Nat :=
  ((List.range 16).find? fun p => defined s p && (getO s nS (0x7030 + p) 1).testBit (q / 64)).getD 0xFF
/-- The owner of an event source (R352), FFh none. -/
def sourceOwner (s : State) (e : Nat) : Nat :=
  let byBit := fun sub i => ((List.range 16).find? fun p =>
    defined s p && (getO s nS (0x7030 + p) sub).testBit i).getD 0xFF
  if e < 1280 then byBit 2 e
  else if e < 1296 then e - 1280
  else if e < 1312 then e - 1296
  else if e < 1344 then byBit 3 (e - 1312)
  else if e < 1408 then getO s (nLane (e - 1344)) 0x4010 2
  else if e < 1416 then byBit 3 (32 + (e - 1408))
  else 0xFF
/-- Partition `p` owns a cluster of gallery `g`. -/
def ownsOnGallery (s : State) (p g : Nat) : Bool :=
  [0, 1, 2].any fun k => ownsCluster s p (3 * g + k)
/-- The clusters of partition `p`. -/
def clustersOf (s : State) (p : Nat) : List Nat := bitsOf 66 (getO s nS (0x7000 + p) 2)
/-- The harts of partition `p`. -/
def hartsOf (s : State) (p : Nat) : List Nat :=
  (clustersOf s p).flatMap fun v => [4 * v, 4 * v + 1, 4 * v + 2, 4 * v + 3]
/-- The galleries on which partition `p` owns a cluster. -/
def galleriesOf (s : State) (p : Nat) : List Nat := (List.range 22).filter (ownsOnGallery s p)
/-- Memory range `i` (0-7) of partition `p`: base and length (R417). -/
def rangeOf (s : State) (p i : Nat) : Nat × Nat :=
  let v := getO s nS (0x7010 + p) (i + 1)
  (v % 2 ^ 64, v / 2 ^ 64)
/-- The end of `p`'s memory that contains address `a`, if it does. -/
def rangeEnd (s : State) (p a : Nat) : Option Nat :=
  ((List.range 8).find? fun i =>
    decide ((rangeOf s p i).1 ≤ a) && decide (a < (rangeOf s p i).1 + (rangeOf s p i).2)).map
    fun i => (rangeOf s p i).1 + (rangeOf s p i).2
/-- Every byte from `a` up to `e` lies in memory of partition `p`; `n` bounds the ranges walked. -/
def ownsRange (s : State) (p a e : Nat) : Nat → Bool
  | 0 => false
  | n + 1 =>
    match rangeEnd s p a with
    | none => decide (e ≤ a)
    | some b => decide (e ≤ b) || ownsRange s p b e n
/-- `len` bytes at `a` lie in memory of partition `p`. -/
def ownsMem (s : State) (p a len : Nat) : Bool := ownsRange s p a (a + len) 9
/-- The partition whose memory holds address `a`. -/
def partOfAddr (s : State) (a : Nat) : Option Nat :=
  (List.range 16).find? fun p => defined s p && ownsMem s p a 1

/-- Package counter `i` counts the event for this partition and unit (R465-R467): enabled, not frozen, in RUN, LOCKSTEP or
LIMP, and neither filter that applies shuts it out. -/
def pkgCounts (s : State) (i ev : Nat) (part : Option Nat) (unit : Nat) : Bool :=
  let ix := 0x9100 + i
  getO s nP ix 6 == 1 && getO s nP ix 1 == ev && getO s nP 0x9000 2 == 0 && s.modes.mode.active &&
    (getO s nP ix 2 == 0xFF || decide (0x900 ≤ ev) || part == some (getO s nP ix 2)) &&
    (getO s nP ix 3 == 0xFFFF || getO s nP ix 3 == unit)

/-- `n` package events: every counter that counts them rises, a wrap sets its overflow (R466). -/
def pkgEvent (ev : Nat) (part : Option Nat) (unit n : Nat) (s : State) : State :=
  forAll (List.range 32) (fun i s =>
    if pkgCounts s i ev part unit then
      onlyIf (decide (2 ^ 64 ≤ getO s nP (0x9100 + i) 4 + n)) (setO nP (0x9100 + i) 5 1) (addO nP (0x9100 + i) 4 n s)
    else s) s

/-- Records of what the package sent out, newest first: the model's own. -/
def emit (e : Emit) (s : State) : State := { s with emitted := e :: s.emitted }

/-- The site that holds logical gallery `g` (2101h), FFh none. -/
def siteOf (s : State) (g : Nat) : Nat := getO s nP 0x2101 (g + 1)
/-- Fields of a site record (R56). -/
def siteRec (s : State) (n : Nat) : Nat := getO s nP 0x2100 (n + 1)
def siteStateOf (s : State) (n : Nat) : Nat := siteRec s n / 0x100 % 16
def siteReasonOf (s : State) (n : Nat) : Nat := siteRec s n / 0x1000 % 16
def siteLogicalOf (s : State) (n : Nat) : Nat := siteRec s n % 256
/-- A site record with STATE, REASON and LOGICAL set; MAJOR and MINOR stay. -/
def setSite (n state reason logical : Nat) (s : State) : State :=
  setO nP 0x2100 (n + 1) (siteRec s n / 0x10000 * 0x10000 + reason * 0x1000 + state * 0x100 + logical) s
/-- The gallery is fenced (6000h.07h). -/
def fenced (s : State) (g : Nat) : Bool := getO s (nGal g) 0x6000 7 == 1

/-- A hart's interrupt files take part: its hart is out of reset (R355). -/
def fileHeld (s : State) (h : Nat) : Bool := (s.hart h).run == .inReset

end Sys2Proof.Machine
end

