-- ==== Sys2Proof/Machine/Ecc.lean ====
section
/-! DEFINITION. The controllers' codes (R173, R175, R180): check bits of a line with its poison marks, and what decoding finds. -/

namespace Sys2Proof.Machine

/-- The mask of poisoned words of a line. -/
def poisonMask (d : LineData) : BitVec 8 :=
  (List.range 8).foldl (fun acc w => if d.form w = 0 then acc else acc ||| (1#8 <<< w)) 0

/-- The check bytes of a DDR5 line: a Reed-Solomon code is linear, so each data bit has its own share (R173). -/
def ddrCheck (d : Line) : BitVec 128 :=
  (List.range 512).foldl (fun acc i => if d.getLsbD i then acc ^^^ Config.ddrShare i else acc) 0

/-- The pattern of a mask of poisoned words of a DDR5 line, none for no word (R180). -/
def ddrPattern (m : BitVec 8) : BitVec 128 := if m = 0 then 0 else Config.ddrPoisonPattern m

/-- The check bits that belong to a stored line with its marks: byte w of word w in HBM, 16 bytes in DDR5. -/
def properCheck (hbm : Bool) (d : LineData) : BitVec 128 :=
  if hbm then
    (List.range 8).foldl (fun acc w =>
      let c := Config.hbmCheck (lineWord d.data w) ^^^ (if d.form w = 0 then 0 else Config.hbmPoisonPattern)
      acc ||| (c.setWidth 128 <<< (8 * w))) 0
  else ddrCheck d.data ^^^ ddrPattern (poisonMask d)

/-- The forms that memory stores (R181). -/
def storedForms : List Nat := [1, 2, 3, 5, 6]

/-- The form that a word shows once its check bits mark it as poison: byte 0. Where the checker test mode planted the mark
over another byte, R180 gives no form and the one shown is open. -/
def plantedForm (w : Word) : Byte :=
  if storedForms.contains (w.extractLsb' 0 8).toNat then w.extractLsb' 0 8
  else BitVec.ofNat 8 (storedForms.getD (Config.strayForm w % 5) 1)

/-- What decoding one code word gives. -/
inductive Dec where
  | good (w : Word)
  | poison (form : Byte)
  | corrected (w : Word)
  | uncorrectable
deriving DecidableEq, Repr

/-- One HBM word (R173): any single bit is corrected, any two bits are detected, an exact poison pattern is recognised;
beyond that the outcome is open. -/
def decodeHbm (d : Word) (c : Byte) : Dec :=
  let flips := fun (x : Byte) => countBits 8 x.toNat
  if c = Config.hbmCheck d then .good d
  else if c = Config.hbmCheck d ^^^ Config.hbmPoisonPattern then .poison (plantedForm d)
  else if flips (c ^^^ Config.hbmCheck d) = 1 then .corrected d
  else match (List.range 64).find? fun i => c == Config.hbmCheck (d ^^^ (1#64 <<< i)) with
    | some i => .corrected (d ^^^ (1#64 <<< i))
    | none =>
      if flips (c ^^^ Config.hbmCheck d) = 2 ∨
          ((List.range 64).any fun i => flips (c ^^^ Config.hbmCheck (d ^^^ (1#64 <<< i))) == 1 ||
            (List.range i).any fun j => c == Config.hbmCheck (d ^^^ (1#64 <<< i) ^^^ (1#64 <<< j))) = true then .uncorrectable
      else match Config.eccBeyond d c with
        | (0, _) => .good d
        | (1, x) => .corrected x
        | _ => .uncorrectable

/-! DDR5 (R175): which of the 640 bits of a code word each device carries is open, the number of them is not. -/

/-- An open order of `n` places, the natural one where the open list is no order of them. -/
def orderOf (n : Nat) (l : List Nat) : List Nat := if l.isPerm (List.range n) then l else List.range n

/-- The bits of a code word that device `d` of ten carries: 64 data bits each in devices 0 to 7, 64 check bits each in 8 and 9,
numbered from 512. -/
def deviceBits (d : Nat) : List Nat :=
  if d < 8 then ((orderOf 512 Config.ddrDataOrder).drop (64 * d)).take 64
  else (((orderOf 128 Config.ddrCheckOrder).drop (64 * (d - 8))).take 64).map (512 + ·)

/-- What an error in one bit of a code word adds to its syndrome. -/
def bitSyndrome (i : Nat) : BitVec 128 := if i < 512 then Config.ddrShare i else 1#128 <<< (i - 512)

/-- A combination of error bits reduced by those of a basis: each has a leading place, its syndrome and its data bits. -/
def reduceBy (basis : List (Nat × BitVec 128 × Line)) (x : BitVec 128 × Line) : BitVec 128 × Line :=
  basis.foldl (fun x b => if x.1.getLsbD b.1 then (x.1 ^^^ b.2.1, x.2 ^^^ b.2.2) else x) x

/-- A basis of the syndromes of errors within a list of bits. -/
def errorBasis (bits : List Nat) : List (Nat × BitVec 128 × Line) :=
  bits.foldl (fun basis i =>
    let x := reduceBy basis (bitSyndrome i, if i < 512 then 1#512 <<< i else 0)
    match (List.range 128).find? fun p => x.1.getLsbD p with
    | some p => basis ++ [(p, x)]
    | none => basis) []

/-- The data bits of an error within device `d` that has the given syndrome, if there is one. -/
def deviceError (d : Nat) (syndrome : BitVec 128) : Option Line :=
  let r := reduceBy (errorBasis (deviceBits d)) (syndrome, 0)
  if r.1 = 0 then some r.2 else none

/-- A line as decoding finds it: its words and marks, which words were corrected (HBM) or which device plus one (DDR5), and
which words are uncorrectable. -/
structure Decoded where
  line : LineData
  fixed : BitVec 8 := 0
  device : Nat := 0
  bad : BitVec 8 := 0
deriving DecidableEq, Repr

/-- An HBM line decoded word by word. -/
def decodeHbmLine (d : LineData) (c : BitVec 128) : Decoded :=
  let r := fun w => decodeHbm (lineWord d.data w) (c.extractLsb' (8 * w) 8)
  let word := fun w => match r w with
    | .good x => x
    | .corrected x => x
    | _ => lineWord d.data w
  let words := fun (is : Dec → Bool) => (List.range 8).foldl (fun (acc : BitVec 8) w => if is (r w) then acc ||| (1#8 <<< w) else acc) 0
  { line := mkLine (fun i => (word (i / 8)).extractLsb' (8 * (i % 8)) 8) (fun w => match r w with
      | .poison f => f
      | _ => 0)
    fixed := words fun x => match x with
      | .corrected _ => true
      | _ => false
    bad := words fun x => match x with
      | .uncorrectable => true
      | _ => false }

/-- A DDR5 line (R175, R180): the mask of poisoned words is recovered, an error within one device corrected, any other
syndrome uncorrectable. -/
def decodeDdrLine (d : LineData) (c : BitVec 128) : Decoded :=
  let s := c ^^^ ddrCheck d.data
  let marked := fun (x : Line) (m : BitVec 8) => mkLine (lineByte x) fun w => if m.getLsbD w then plantedForm (lineWord x w) else 0
  let masks := (List.range 256).map (BitVec.ofNat 8)
  match masks.find? fun m => s == ddrPattern m with
  | some m => { line := marked d.data m }
  | none =>
    match (masks.flatMap fun m => (List.range 10).map fun k => (m, k)).find? fun x => (deviceError x.2 (s ^^^ ddrPattern x.1)).isSome with
    | some (m, k) => { line := marked (d.data ^^^ (deviceError k (s ^^^ ddrPattern m)).getD 0) m, device := k + 1 }
    | none => { line := d, bad := 0xFF }

/-- Decoding of a stored line and its check bits. -/
def decodeLine (hbm : Bool) (d : LineData) (c : BitVec 128) : Decoded := if hbm then decodeHbmLine d c else decodeDdrLine d c

end Sys2Proof.Machine
end

