-- ==== Sys2Proof/Machine/MemOps.lean ====
section
/-! DEFINITION. The two memory tiers as bytes and poison marks: which addresses are mapped (R150, R154), which resource
holds a granule (R155), and the plain reads and writes that every agent's accesses are made of (R163, R178, R180, R183). -/

namespace Sys2Proof.Machine

abbrev ddrBase : Nat := 0x040000000000
abbrev ddrEnd : Nat := 0x080000000000
abbrev windowSize : Nat := 0x900000000
abbrev pcBytes : Nat := 0x48000000

/-- The address lies in the architectural span of the HBM tier. -/
def inHbm (a : Nat) : Bool := decide (a < ddrBase)
/-- The address lies in the architectural span of the DDR5 tier. -/
def inDdr (a : Nat) : Bool := decide (ddrBase ≤ a) && decide (a < ddrEnd)
/-- The device-attribute region (R150). -/
def inDevice (a : Nat) : Bool := decide (0x0F0000000000 ≤ a) && decide (a < 0x0F0100000000)

/-- Inside the tops in force, whatever the initialisation (R150, R154). -/
def belowTop (s : State) (a : Nat) : Bool :=
  if inHbm a then
    if getO s nP 0x5000 2 = 0 then decide (a < getO s nP 0x5000 3)
    else decide (a / windowSize < 4) && decide (a < getO s nP (0x5020 + a / windowSize) 6)
  else inDdr a && decide (a < getO s nP 0x5000 5)

/-- A mapped and initialised address of a tier (R153, R166). -/
def mapped (s : State) (a : Nat) : Bool :=
  belowTop s a && s.modes.mode.active &&
    (if inHbm a then getO s nP 0x5000 8 == 1 else getO s nP 0x5000 9 == 1)

/-- Every byte of a range is mapped. A tier is one range below its top; in mode 01h each window that the range leaves is
mapped to its end (R154). -/
def mappedRange (s : State) (a len : Nat) : Bool :=
  decide (len = 0) ||
    (mapped s a && mapped s (a + len - 1) && (inHbm a == inHbm (a + len - 1)) &&
      (getO s nP 0x5000 2 == 0 || !inHbm a || (List.range 4).all fun st =>
        decide (st < a / windowSize) || decide ((a + len - 1) / windowSize ≤ st) ||
          getO s nP (0x5020 + st) 6 == (st + 1) * windowSize))

/-! Granules (R154, R155): within each aligned range of as many granules as there are resources, every resource holds one. -/

/-- Which of `n` resources holds a granule. -/
def granuleSlot (n granule : Nat) : Nat :=
  if n ≤ 1 then 0 else (orderOf n (Config.granuleOrder n (granule / n))).getD (granule % n) 0

/-- The granule that resource `k` of `n` holds in the aligned range `group`. -/
def granuleOf (n k group : Nat) : Nat := group * n + ((List.range n).find? fun i => granuleSlot n (group * n + i) == k).getD 0

/-- The pseudo-channels that share the granules of HBM address `a`, and the address where their range starts. -/
def hbmShare (s : State) (st : Nat) : List Nat × Nat :=
  if getO s nP 0x5000 2 = 0 then (s.mem.pcs, 0) else (s.mem.pcs.filter (· / 32 == st), st * windowSize)

/-- The pseudo-channel or channel that holds an address (R155). -/
def resourceOf (s : State) (a : Nat) : MemCh :=
  if inHbm a then
    let (l, base) := hbmShare s (a / windowSize)
    .hbm (l.getD (granuleSlot l.length ((a - base) / 256)) 0)
  else .ddr (s.mem.channels.getD (granuleSlot s.mem.channels.length ((a - ddrBase) / 256)) 0)

/-- The line that is number `j` of a resource in address order. -/
def resourceLine (s : State) (ch : MemCh) (j : Nat) : Nat :=
  let (l, k, base) := match ch with
    | .hbm pc => ((hbmShare s (pc / 32)).1, pc, (hbmShare s (pc / 32)).2)
    | .ddr c => (s.mem.channels, c, ddrBase)
  base / 64 + granuleOf l.length (l.idxOf k) (j / 4) * 4 + j % 4

/-- The resource is retired (R168). -/
def resourceRetired (s : State) : MemCh → Bool
  | .hbm pc => s.mem.retiredPcs.contains pc
  | .ddr c => s.mem.retiredChannels.contains c

/-- KIND and UNIT of a memory resource (R443). -/
def memKind : MemCh → Nat
  | .hbm _ => 7
  | .ddr _ => 9
def memUnit : MemCh → Nat
  | .hbm pc => pc
  | .ddr c => c
/-- The index of the resource's counters: 5042h + stack, 5046h + channel (R194). -/
def memStatIx : MemCh → Nat
  | .hbm pc => 0x5042 + pc / 32
  | .ddr c => 0x5046 + c

/-! Plain reads. -/

/-- The stored form of a word, 0 for good data. -/
def storedForm (m : Memory) (w : Nat) : Nat := tblGet 1 m.marks w
/-- The stored byte of a good word. -/
def storedByte (m : Memory) (a : Nat) : Byte := tblGet 0 m.bytes a
/-- A line as stored, with its marks. -/
def storedLine (m : Memory) (line : Nat) : LineData :=
  mkLine (fun i => storedByte m (64 * line + i)) (fun w => BitVec.ofNat 8 (storedForm m (8 * line + w)))

/-- The check bits stored for a line. -/
def storedCheck (s : State) (line : Nat) : BitVec 128 :=
  properCheck (inHbm (64 * line)) (storedLine s.mem line) ^^^ tblGet 0 s.mem.check line

/-- What decoding finds in the array for a line; only the checker test mode makes its check bits differ from their own. -/
def arrayLine (s : State) (line : Nat) : Decoded :=
  if tblGet 0 s.mem.check line = 0 then { line := storedLine s.mem line }
  else decodeLine (inHbm (64 * line)) (storedLine s.mem line) (storedCheck s line)

/-- A line whose check bits are not those of its contents, as a read returns it: uncorrectable words as form 02h (R177). -/
def plantedLine (s : State) (line : Nat) : LineData :=
  let d := arrayLine s line
  mkLine (lineByte d.line.data) fun w => if d.bad.getLsbD w then 2 else d.line.form w

/-- The form that a read of a word returns: 04h from a retired resource (R181). -/
def readForm (s : State) (w : Nat) : Nat :=
  if resourceRetired s (resourceOf s (8 * w)) then 4
  else if tblGet 0 s.mem.check (w / 8) = 0 then storedForm s.mem w
  else ((plantedLine s (w / 8)).form (w % 8)).toNat
/-- The byte that a read returns (R180). -/
def readByte (s : State) (a : Nat) : Byte :=
  if readForm s (a / 8) ≠ 0 then (if a % 8 = 0 then BitVec.ofNat 8 (readForm s (a / 8)) else 0)
  else if tblGet 0 s.mem.check (a / 64) = 0 then storedByte s.mem a
  else lineByte (plantedLine s (a / 64)).data (a % 64)
/-- Bytes as a read returns them. -/
def readBytes (s : State) (a n : Nat) : List Byte := (List.range n).map fun i => readByte s (a + i)
/-- The forms met in a byte range, first word first. -/
def formsIn (s : State) (a n : Nat) : List (Nat × Nat) :=
  ((List.range (if n = 0 then 0 else (a + n - 1) / 8 - a / 8 + 1)).map fun i => (a / 8 + i, readForm s (a / 8 + i))).filter
    (·.2 != 0)

/-! Plain writes. -/

/-- The bytes of one word that a mask selects, written. -/
def setBytes (b : List Host.Cell) (w : Nat) (data : Word) (mask : BitVec 8) : List Host.Cell :=
  (List.range 8).foldl (fun b i =>
    if mask.getLsbD i then tblSet 0 b (8 * w + i) (data.extractLsb' (8 * i) 8) else b) b

/-- A word marked as poison of a form; its bytes read from the mark alone (R180). -/
def poisonWord (w form : Nat) (m : Memory) : Memory :=
  { m with bytes := setBytes m.bytes w 0 0xFF#8, marks := tblSet 1 m.marks w form }

/-- One word of one write: covered whole it takes the data and is good; a poisoned word otherwise keeps its mark and the
bytes are discarded (R178, R183). -/
def writeWord (w : Nat) (data : Word) (mask : BitVec 8) (whole : Bool) (m : Memory) : Memory :=
  if mask = 0xFF#8 ∧ whole then { m with bytes := setBytes m.bytes w data mask, marks := tblSet 1 m.marks w 0 }
  else if mask = 0#8 ∨ storedForm m w ≠ 0 then m
  else { m with bytes := setBytes m.bytes w data mask }

/-- One write of one line (R163, R178). Check bits are those of the merged line. -/
def writeLine (line : Nat) (data : Line) (mask : BitVec 64) (whole : BitVec 8) (m : Memory) : Memory :=
  let m1 := (List.range 8).foldl (fun m w =>
    writeWord (8 * line + w) (lineWord data w) (mask.extractLsb' (8 * w) 8) (whole.getLsbD w) m) m
  { m1 with check := tblSet 0 m1.check line 0 }

/-- A line written whole with its marks, as a writeback writes it (R182). -/
def writeLineData (line : Nat) (d : LineData) (m : Memory) : Memory :=
  let m1 := (List.range 8).foldl (fun m w =>
    if d.form w = 0 then writeWord (8 * line + w) (lineWord d.data w) 0xFF#8 true m
    else poisonWord (8 * line + w) (d.form w).toNat m) m
  { m1 with check := tblSet 0 m1.check line 0 }

/-- The lines that `len` bytes at `a` lie in. -/
def linesOf (a len : Nat) : List Nat :=
  (List.range (if len = 0 then 0 else (a + len - 1) / 64 - a / 64 + 1)).map (a / 64 + ·)

/-- The part of a byte list at `a` that lies in one line: data and mask. -/
def linePart (a : Nat) (bytes : List Byte) (line : Nat) : Line × BitVec 64 :=
  let inside := fun i => decide (a ≤ 64 * line + i) && decide (64 * line + i < a + bytes.length)
  (lineOf fun i => if inside i then bytes.getD (64 * line + i - a) 0 else 0,
   (List.range 64).foldl (fun acc i => if inside i then acc ||| (1#64 <<< i) else acc) 0)

end Sys2Proof.Machine
end

