-- ==== Sys2Proof/Machine/Log.lean ====
section
/-! DEFINITION. The package log (R442-R446, R448), counting against thresholds (R449-R453), and entry into LIMP (R32, R85). -/

namespace Sys2Proof.Machine

/-- The 64 bytes of a record (R442). -/
def ErrRec.bytes (r : ErrRec) : List Byte :=
  leBytes 1 0x40 ++ leBytes 1 r.cls ++ leBytes 1 r.action ++ leBytes 1 r.kind ++ leBytes 1 r.part ++ leBytes 1 r.site ++
  leBytes 1 r.logical ++ leBytes 1 r.form ++ leBytes 8 r.seq ++ leBytes 8 r.time ++ leBytes 8 r.addr ++ leBytes 4 r.unit ++
  leBytes 4 r.sub ++ leBytes 2 r.hart ++ leBytes 2 r.code ++ leBytes 1 r.classify ++
  leBytes 1 ((if r.lost then 1 else 0) + (if r.summary then 2 else 0)) ++ leBytes 2 0 ++ leBytes 4 r.count ++ leBytes 12 0

/-- The parent of a node (R389); P is its own. -/
def parentOf (node : Nat) : Nat :=
  match node / 2 ^ 24 with
  | 5 => nX | 6 => nX | 7 => nX
  | 9 => nQ | 0xA => nQ
  | 0xD => nGal (node / 0x100 % 0x20)
  | 0xE => nCluster (node / 0x100 % 0x20) (node / 0x10 % 4)
  | 0xF => nCluster (node / 0x100 % 0x20) (node / 0x10 % 4)
  | _ => nP

/-- A node and every node above it. -/
def nodeAndAbove (node : Nat) : List Nat :=
  let p1 := parentOf node
  let p2 := parentOf p1
  let p3 := parentOf p2
  if node = nP then [nP]
  else if p1 = nP then [node, nP]
  else if p2 = nP then [node, p1, nP]
  else if p3 = nP then [node, p1, p2, nP]
  else [node, p1, p2, p3, nP]

/-- The node that KIND and UNIT identify (R443). A site or die is named by the logical gallery that the record gives. -/
def ErrRec.node (r : ErrRec) : Nat :=
  let gal := if r.logical < 22 then nGal r.logical else nP
  match r.kind with
  | 0x01 => nHart r.unit
  | 0x02 => nGal r.unit
  | 0x03 => nVitrine r.unit
  | 0x04 => gal
  | 0x05 => gal
  | 0x06 => nC
  | 0x0A => if r.unit < 64 then nLane r.unit else nRing (r.unit - 256)
  | 0x0B => nH
  | 0x0C => nQueue r.unit
  | 0x10 => nC
  | 0x11 => gal
  | 0x12 => if r.unit = 2 then nC else if r.unit = 3 then nX else if r.unit = 4 ∨ r.unit = 5 then nQ else nP
  | 0x13 => if r.unit = 0 then nX else nQ
  | _ => nP

/-- The record enters the package log with the next SEQ, the nodes it names count it, and a record of CLASS 05h or 06h is
committed (R391, R445, R446, R448). -/
def logRecord (r : ErrRec) (s : State) : State :=
  let s1 := addO nP 0x8000 1 1 s
  let r := { r with seq := getO s1 nP 0x8000 1, time := now s }
  let log := (r :: s.errs.log).take 4096
  let s2 := { s1 with errs := { s1.errs with
    log := log
    committed := if r.cls = 5 ∨ r.cls = 6 then (r :: s1.errs.committed).take 64 else s1.errs.committed } }
  let s3 := setO nP 0x8000 2 (getO s1 nP 0x8000 1 + 1 - log.length) s2
  forAll (nodeAndAbove r.node) (fun n s => setO n 0x0002 3 (now s) (addO n 0x0002 2 1 s)) s3

/-! Thresholds (R449, R450, R453). -/

/-- The number under which a resource's events are counted. -/
def hitKey (kind unit which : Nat) : Nat := (kind * 2 ^ 32 + unit) * 16 + which

/-- A counted event: its time is kept, and the count within the span, this one included, is given. -/
def countHit (key span : Nat) (s : State) : State × Nat :=
  let times := now s :: tblGet [] s.errs.hits key
  ({ s with errs := { s.errs with hits := tblSet [] s.errs.hits key times } },
    (times.filter fun t => decide (now s ≤ t + span * 1000000000)).length)

/-- CLASSIFY of a counted event: 2 where the threshold is met. -/
def classifyOf (count threshold : Nat) : Nat := if threshold ≤ count then 2 else 1

/-- CLASSIFY and COUNT of an error in a cluster's arrays (R450), and the state that has counted it. -/
def clusterHit (v : Nat) (fatal : Bool) (s : State) : State × Nat × Nat :=
  let sub := if fatal then 3 else 1
  let (s1, n) := countHit (hitKey 1 v sub) (getO s nP 0x8200 (sub + 1)) s
  (s1, classifyOf n (getO s nP 0x8200 sub), n)

/-- The next error in a cluster's arrays meets its threshold. -/
def clusterWorn (s : State) (v : Nat) (fatal : Bool) : Bool := (clusterHit v fatal s).2.1 == 2

/-! LIMP (R32, R84, R85, R89). -/

/-- 2000h.07h: from, to, outcome, cause, start, end (R83). -/
def setLastTransition (src dst : Mode) (outcome cause start : Nat) (s : State) : State :=
  setO nP 0x2000 7 (src.code + dst.code * 2 ^ 8 + outcome * 2 ^ 16 + cause * 2 ^ 24 + start * 2 ^ 64 + now s * 2 ^ 128) s

/-- The mode code changes, 2000h.07h and 2000h.09h record it; the memory test mode ends with RUN (R192). -/
def changeMode (dst : Mode) (cause start : Nat) (s : State) : State :=
  addO nP 0x2000 9 1 (setLastTransition s.modes.mode dst 0 cause start
    (onlyIf (s.modes.mode == .run) (setO nP 0x5050 1 0) { s with modes := { s.modes with mode := dst } }))

/-- Automatic entry into LIMP (R32): from RUN or LOCKSTEP; while a transition is in progress it waits for its end. -/
def enterLimp (s : State) : State :=
  if s.modes.mode = .run ∨ s.modes.mode = .lockstep then
    if s.modes.trans.isSome then { s with modes := { s.modes with limpDue := true } }
    else changeMode .limp 2 (now s) (setO nP 0x2000 4 s.modes.mode.code { s with modes := { s.modes with limpDue := false } })
  else s

end Sys2Proof.Machine
end

