-- ==== Sys2Proof/Machine/MemCtl.lean ====
section
/-! DEFINITION. The memory controllers (R150-R194): what a read finds and does about it, writes, retirement of
pseudo-channels, stacks and channels, and the training that builds the map. -/

namespace Sys2Proof.Machine

/-- A resource's number in the tables of the memory state. -/
def chKey : MemCh → Nat
  | .hbm pc => pc
  | .ddr c => 1000 + c

/-! Retirement (R168-R170, R450, R453). -/

/-- Some defined partition holds memory that meets the condition on a range. -/
def someRange (s : State) (meets : Nat → Nat → Bool) : Bool :=
  (List.range 16).any fun p => defined s p && (List.range 8).any fun i =>
    (rangeOf s p i).2 != 0 && meets (rangeOf s p i).1 (rangeOf s p i).2

/-- A range of memory holds addresses of a resource (R170): any HBM range in mode 00h, a range in the stack's window in
mode 01h, any DDR5 range. -/
def rangeMeets (s : State) (ch : MemCh) (base len : Nat) : Bool :=
  match ch with
  | .hbm pc => inHbm base && (getO s nP 0x5000 2 == 0 ||
      (decide (base < (pc / 32 + 1) * windowSize) && decide (pc / 32 * windowSize < base + len)))
  | .ddr _ => inDdr base

/-- A retirement of a memory resource leaves the configuration short (R170, R455). -/
def memShort (s : State) (ch : MemCh) : Bool := someRange s (rangeMeets s ch)

/-- Writes to a retired resource are discarded; at most one record per millisecond reports them (R168). -/
def discardWrite (ch : MemCh) (a : Nat) (s : State) : State :=
  let ms := now s / 1000000 + 1
  if tblGet 0 s.mem.discardMs (chKey ch) = ms then s
  else logRecord { cls := 4, action := 0x0A, kind := memKind ch, unit := memUnit ch, addr := a, summary := true }
    { s with mem := { s.mem with discardMs := tblSet 0 s.mem.discardMs (chKey ch) ms } }

/-- A waiting write that the bounds of R160 and R161 do not let wait longer. -/
def QWrite.overdue (e : QWrite) (s : State) (ch : MemCh) : Bool :=
  decide (e.time + 20000 ≤ now s) || (e.reserve && lockstepLike s && decide (e.time + (match ch with
    | .hbm _ => 1000
    | .ddr _ => 1500) ≤ now s))

/-- The write is of the same source as one of a list and was accepted no later: it is performed before it (R162). -/
def QWrite.precedes (e : QWrite) (l : List QWrite) : Bool := l.any fun x => x.source == e.source && decide (e.place ≤ x.place)

/-- The writes of a queue that still wait: none that is overdue, nor one that such a write follows. -/
def waitingWrites (s : State) (ch : MemCh) (w : WriteQueue) : List QWrite :=
  w.entries.filter fun e => !e.precedes (w.entries.filter (·.overdue s ch))

/-- The writes that wait for a resource are discarded as it retires (R168, R171). -/
def discardQueued (ch : MemCh) (s : State) : State :=
  match waitingWrites s ch (tblGet {} s.mem.writeQ (chKey ch)) with
  | [] => { s with mem := { s.mem with writeQ := tblErase s.mem.writeQ (chKey ch) } }
  | w :: _ => discardWrite ch (64 * w.line) { s with mem := { s.mem with writeQ := tblErase s.mem.writeQ (chKey ch) } }

/-- One pseudo-channel retired: committed, shown in 5020h.02h, reported by one record of CLASS 05h. -/
def retirePcOnly (cl pc : Nat) (s : State) : State :=
  if s.mem.committedPcs.contains pc then s
  else
    let ix := 0x5020 + pc / 32
    discardQueued (.hbm pc) <| logRecord { cls := 5, action := 8, kind := 7, unit := pc, classify := cl }
      (setO nP ix 2 (setBit (getO s nP ix 2) (pc % 32))
        { s with mem := { s.mem with retiredPcs := addTo s.mem.retiredPcs pc, committedPcs := addTo s.mem.committedPcs pc } })

/-- A whole stack retired: its 32 pseudo-channels at once (R168). -/
def retireStack (st : Nat) (s : State) : State :=
  let pcs := (List.range 32).map (st * 32 + ·)
  let ix := 0x5020 + st
  forAll pcs (fun pc => discardQueued (.hbm pc)) <| logRecord { cls := 5, action := 8, kind := 8, unit := st }
    (setO nP ix 1 2 (setO nP ix 2 0xFFFFFFFF
      { s with mem := { s.mem with retiredPcs := pcs.foldl addTo s.mem.retiredPcs,
                                   committedPcs := pcs.foldl addTo s.mem.committedPcs } }))

/-- A pseudo-channel is retired; the stack follows at the limit 8201h.05h; LIMP where the configuration is short. `cl` is
CLASSIFY: 3 for a failed test at a training (R449), 0 after a threshold. -/
def retirePc (cl pc : Nat) (s : State) : State :=
  if s.mem.committedPcs.contains pc then s
  else
    let s1 := retirePcOnly cl pc s
    let n := (s1.mem.committedPcs.filter (· / 32 == pc / 32)).length
    let s2 := onlyIf (decide (getO s1 nP 0x8201 5 ≤ n)) (retireStack (pc / 32)) s1
    onlyIf (memShort s (.hbm pc)) enterLimp s2

/-- A DDR5 channel is retired. -/
def retireChannel (cl c : Nat) (s : State) : State :=
  if s.mem.committedChannels.contains c then s
  else
    let s1 := discardQueued (.ddr c) <| logRecord { cls := 5, action := 8, kind := 9, unit := c, classify := cl }
      (setO nP (0x5030 + c) 1 3
        { s with mem := { s.mem with retiredChannels := addTo s.mem.retiredChannels c,
                                     committedChannels := addTo s.mem.committedChannels c } })
    onlyIf (memShort s (.ddr c)) enterLimp s1

/-- The resource of an uncorrectable event past its threshold. -/
def retireResource : MemCh → State → State
  | .hbm pc => retirePc 0 pc
  | .ddr c => retireChannel 0 c

/-- A DDR5 device marked failed (R450, R451); a second one in a subchannel retires the channel. `d` is SUB: subchannel in
bit 0, device above. -/
def failDevice (c d : Nat) (s : State) : State :=
  let s1 := logRecord { cls := 5, action := 9, kind := 9, unit := c, sub := d + 0x100 }
    { s with mem := { s.mem with failedDevices := addTo s.mem.failedDevices (c * 32 + d) } }
  let n := (s1.mem.failedDevices.filter fun x => x / 32 == c && x % 2 == d % 2).length
  onlyIf (decide (2 ≤ n)) (retireChannel 0 c) s1

/-! What a read finds (R177, R187). -/

/-- A corrected error (R177, R187) in `m` words: counted, recorded, weighed against its threshold. `place` is SUB. -/
def corrected (ch : MemCh) (addr place m : Nat) (s : State) : State :=
  let s1 := addO nP (memStatIx ch) 1 m s
  match ch with
  | .hbm pc =>
    let (s2, n) := countHit (hitKey 7 pc 1) (getO s nP 0x8201 2) s1
    let cl := classifyOf n (getO s nP 0x8201 1)
    onlyIf (cl == 2) (retirePc 0 pc)
      (logRecord { cls := 1, action := 1, kind := 7, unit := pc, sub := place, addr := addr, classify := cl, count := n } s2)
  | .ddr c =>
    if s.mem.failedDevices.contains (c * 32 + place) then
      logRecord { cls := 1, action := 1, kind := 9, unit := c, sub := place + 0x100, addr := addr } s1
    else
      let (s2, n) := countHit (hitKey 9 (c * 32 + place) 1) (getO s nP 0x8202 2) s1
      let cl := classifyOf n (getO s nP 0x8202 1)
      onlyIf (cl == 2) (failDevice c place)
        (logRecord { cls := 1, action := 1, kind := 9, unit := c, sub := place, addr := addr, classify := cl, count := n } s2)

/-- An uncorrectable error of `n` words (R177, R187): counted, one record, weighed against its threshold. -/
def uncorrectable (ch : MemCh) (addr place n : Nat) (s : State) : State :=
  let s1 := addO nP (memStatIx ch) 2 n s
  let ix := match ch with
    | .hbm _ => 0x8201
    | .ddr _ => 0x8202
  let (s2, k) := countHit (hitKey (memKind ch) (memUnit ch) 2) (getO s nP ix 4) s1
  let cl := classifyOf k (getO s nP ix 3)
  onlyIf (cl == 2) (retireResource ch)
    (logRecord { cls := 2, action := 3, kind := memKind ch, unit := memUnit ch, sub := place, addr := addr, form := 2,
                 classify := cl, count := k } s2)

/-- The words that one read finds uncorrectable and that are not poison of form 02h already; in DDR5 any such error takes the
whole line (R177, R180, R193). -/
def badWords (hbm : Bool) (d : Decoded) (f : Finding) : BitVec 8 :=
  let found := d.bad ||| (match f with
    | .uncorrectable words => words
    | _ => 0)
  (List.range 8).foldl (fun acc w =>
    if (found.getLsbD w || (!hbm && found != 0)) && d.line.form w != 2 then acc ||| (1#8 <<< w) else acc) 0

/-- SUB of a corrected error of a DDR5 line in a device: which subchannel holds the line is open (R175, R443). -/
def ddrPlace (line device : Nat) : Nat := Config.ddrSubchannel line % 2 + 2 * device

/-- The corrections of one read: SUB and how many words, if there are any. -/
def fixedPlace (line : Nat) (d : Decoded) (f : Finding) : Option (Nat × Nat) :=
  let bad := badWords (inHbm (64 * line)) d f
  if inHbm (64 * line) then
    let fixed := (d.fixed ||| (match f with
      | .correctable w => 1#8 <<< w
      | _ => 0)) &&& ~~~bad
    (bitsOf 8 fixed.toNat).head?.map fun w => (w, countBits 8 fixed.toNat)
  else if bad ≠ 0 then none
  else match f with
    | .correctable k => some (ddrPlace line k, 1)
    | _ => if d.device = 0 then none else some (ddrPlace line (d.device - 1), 1)

/-- A package event of a memory controller: `ev` for HBM, `ev + 2` for DDR5 (R465). -/
def memEvent (ev : Nat) (ch : MemCh) (a : Nat) (s : State) : State :=
  pkgEvent (match ch with
    | .hbm _ => ev
    | .ddr _ => ev + 2) (partOfAddr s a) (memUnit ch) 1 s

/-- The words of a line that become poison of a form that 5042h.03h counts (R194). -/
def poisonMade (m : Memory) (line : Nat) (d : LineData) : Nat :=
  ((List.range 8).filter fun w => [2, 3, 5, 6].contains (d.form w).toNat && storedForm m (8 * line + w) != (d.form w).toNat).length

/-- A line stored with its marks and proper check bits. -/
def storeLine (line : Nat) (d : LineData) (s : State) : State :=
  addO nP (memStatIx (resourceOf s (64 * line))) 3 (poisonMade s.mem line d) { s with mem := writeLineData line d s.mem }

/-- One read of a line by its controller (R177): the state after the corrected line or the poison is written back and the
events recorded, and the line as returned. A retired resource returns poison of form 04h (R168). -/
def readHandled (line : Nat) (f : Finding) (s : State) : State × LineData :=
  let a := 64 * line
  let ch := resourceOf s a
  if resourceRetired s ch then (s, mkLine (fun _ => 0) fun _ => 4)
  else
    let s := memEvent 0x800 ch a s
    let d := arrayLine s line
    let bad := badWords (inHbm a) d f
    let fixed := fixedPlace line d f
    let l := mkLine (lineByte d.line.data) fun w => if bad.getLsbD w then 2 else d.line.form w
    let s1 := onlyIf (bad != 0 || fixed.isSome) (storeLine line l) s
    let s2 := match fixed with
      | some (place, n) => corrected ch a place n s1
      | none => s1
    (onlyIf (bad != 0) (uncorrectable ch a (if inHbm a then (bitsOf 8 bad.toNat).headD 0 else 0) (countBits 8 bad.toNat)) s2, l)

/-! Scheduling (R158-R161). A write takes its effect on the data when it is accepted: every later read takes the newest data
(R158). What waits is the performing; how far it has got when the next request arrives is open within R160 and R161. -/

/-- Depth, high and low watermark, reserve. -/
def wqLimits (s : State) : MemCh → Nat × Nat × Nat × Nat
  | .hbm _ => (64, getO s nP 0x5010 2, getO s nP 0x5010 3, 8)
  | .ddr _ => (128, getO s nP 0x5011 2, getO s nP 0x5011 3, 16)

/-- General and reserve entries in use. -/
def WriteQueue.general (w : WriteQueue) : Nat := (w.entries.filter fun e => !e.reserve).length
def WriteQueue.reserved (w : WriteQueue) : Nat := (w.entries.filter (·.reserve)).length

/-- Whether the queue is in a drain at a decision: from the high watermark down to the low one (R159, R171). -/
def WriteQueue.drains (w : WriteQueue) (high low : Nat) : Bool :=
  decide (high ≤ w.general) || (w.drain && decide (low < w.general))

/-- The queue with the entries that stay: a drain ends where it falls to the low watermark (R159). -/
def WriteQueue.left (w : WriteQueue) (high low : Nat) (l : List QWrite) : WriteQueue :=
  let w1 : WriteQueue := { w with entries := l }
  { w1 with drain := w1.drains high low }

/-- The write that the ranks of R158 choose among those that no earlier write of their source precedes (R162): an ingest write of at
least 200 ns; in a drain one of the queue, which is open since the open rows are; then, where no read is pending, an ingest write, else
the oldest. -/
def wqPick (t : Nat) (drain reads : Bool) (pick : Nat) (l : List QWrite) : Option QWrite :=
  let c := l.filter fun e => !l.any fun x => x.source == e.source && decide (x.place < e.place)
  match c.find? fun e => e.ingest && decide (e.time + 200 ≤ t) with
  | some e => some e
  | none =>
    if drain then (c.drop (pick % c.length)).head?
    else if reads then none
    else match c.find? (·.ingest) with
      | some e => some e
      | none => c.head?

/-- At most `k` decisions, from open value `n` on, while `go` holds: the queue left and the next open value. -/
def wqServe (high low t : Nat) (reads : Bool) (go : WriteQueue → Bool) : Nat → WriteQueue × Nat → WriteQueue × Nat
  | 0, x => x
  | k + 1, (w, n) =>
    if go w then
      match wqPick t (w.drains high low) reads (Config.freeWord n).toNat w.entries with
      | none => (w, n)
      | some e => wqServe high low t reads go k
          (({ w with drain := w.drains high low } : WriteQueue).left high low (w.entries.erase e), n + 1)
    else (w, n)

/-- The write queue as the next request finds it: overdue writes performed, then an open number of decisions. -/
def wqNow (s : State) (ch : MemCh) : WriteQueue × Nat :=
  let w := tblGet {} s.mem.writeQ (chKey ch)
  if w.entries = [] then (w, s.free)
  else
    let (_, high, low, _) := wqLimits s ch
    let w1 := w.left high low (waitingWrites s ch w)
    wqServe high low (now s) false (fun _ => true) ((Config.freeWord s.free).toNat % (w1.entries.length + 1)) (w1, s.free + 1)

/-- The resource of a key. -/
def chOf (k : Nat) : MemCh := if k < 1000 then .hbm k else .ddr (k - 1000)

/-- A write queue set, and the open values taken. Where a write was performed, the earlier ones of its source that wait elsewhere were
(R162). -/
def setWq (ch : MemCh) (x : WriteQueue × Nat) (s : State) : State :=
  let done := (tblGet {} s.mem.writeQ (chKey ch)).entries.filter fun e => !x.1.entries.contains e
  let others := s.mem.writeQ.foldl (fun t e =>
    let (_, high, low, _) := wqLimits s (chOf e.1)
    if e.2.entries.any (·.precedes done) then tblSet {} t e.1 (e.2.left high low (e.2.entries.filter fun w => !w.precedes done))
    else t) s.mem.writeQ
  { s with free := max s.free x.2, mem := { s.mem with writeQ := tblSet {} others (chKey ch) x.1 } }

/-- A read is served: the writes that rank before it are performed first (R158). -/
def queueForRead (ch : MemCh) (s : State) : State :=
  let (_, high, low, _) := wqLimits s ch
  let x := wqNow s ch
  setWq ch (wqServe high low (now s) true (fun _ => true) x.1.entries.length x) s

/-- A scrub read or a postponed refresh is served: nothing waits any more (R158). -/
def queueEmptied (ch : MemCh) (s : State) : State := setWq ch ({}, (wqNow s ch).2) s

/-- An ingest-class write (R158): of Accession while deposit is active in LOCKSTEP, or in LIMP entered from LOCKSTEP. -/
def ingestNow (s : State) (cls : SvcClass) : Bool := cls == .ingest && lockstepLike s && s.acc.depositing

/-- A write takes an entry (R159): an ingest write a reserve entry where one is free, otherwise a general one; while none is
free it waits at the controller. -/
def enterWrite (cls : SvcClass) (src : MemSource) (ch : MemCh) (line : Nat) (s : State) : State :=
  let (depth, high, low, res) := wqLimits s ch
  let ingest := ingestNow s cls
  let x := wqNow s ch
  let room := fun (w : WriteQueue) => (ingest && decide (w.reserved < res)) || decide (w.general < depth)
  let x1 := wqServe high low (now s) false (fun w => !room w) x.1.entries.length x
  let reserve := ingest && decide (x1.1.reserved < res)
  let e : QWrite := { line := line, source := src, place := s.mem.accepted, ingest := ingest, reserve := reserve, time := now s }
  let w : WriteQueue := { x1.1 with entries := x1.1.entries ++ [e] }
  let starts := w.drains high low && !x1.1.drains high low
  let s1 := setWq ch ({ w with drain := w.drains high low }, x1.2) { s with mem := { s.mem with accepted := s.mem.accepted + 1 } }
  pkgEvent 0x805 none (memUnit ch) (if starts then 1 else 0) (pkgEvent 0x807 (partOfAddr s (64 * line)) (memUnit ch) (if reserve then 1 else 0) s1)

/-- A request reaches its controller: the channel wakes from idle self-refresh and its idle time starts again (R165). -/
def reachController (ch : MemCh) (s : State) : State :=
  let s1 := { s with mem := { s.mem with lastRequest := tblSet 0 s.mem.lastRequest (chKey ch) (now s) } }
  match ch with
  | .hbm _ => s1
  | .ddr c =>
    if s1.mem.selfRefresh.contains c then
      setO nP (0x5030 + c) 1 1 { s1 with mem := { s1.mem with selfRefresh := dropFrom s1.mem.selfRefresh c } }
    else s1

/-! Requests of every agent. -/

/-- A read of a line. -/
def ctlRead (line : Nat) (f : Finding) (s : State) : State × LineData :=
  let ch := resourceOf s (64 * line)
  if resourceRetired s ch then readHandled line f s else readHandled line f (queueForRead ch (reachController ch s))

/-- A write of a line (R163, R168, R178): `merge` makes the new line of the old one. A narrow write reads the line first and
handles what it finds; where that retires the resource, the write is discarded with the others that wait. -/
def ctlStore (cls : SvcClass) (src : MemSource) (line : Nat) (full : Bool) (merge : LineData → LineData) (f : Finding) (s : State) : State :=
  let ch := resourceOf s (64 * line)
  if resourceRetired s ch then discardWrite ch (64 * line) s
  else
    let s1 := enterWrite cls src ch line (reachController ch s)
    if full then memEvent 0x801 ch (64 * line) (storeLine line (merge {}) s1)
    else
      let x := readHandled line f (addO nP (memStatIx ch) 7 1 s1)
      if resourceRetired x.1 ch then x.1
      else pkgEvent 0x804 (partOfAddr s (64 * line)) (memUnit ch) 1 (memEvent 0x801 ch (64 * line) (storeLine line (merge x.2) x.1))

/-- A write of the bytes of a mask; `whole`: the words that one write covers, whose marks it clears (R183). Only where they are all the
line's is it a full-line write: bytes that several instructions wrote make none. -/
def ctlWrite (cls : SvcClass) (src : MemSource) (line : Nat) (data : Line) (mask : BitVec 64) (whole : BitVec 8) (f : Finding)
    (s : State) : State :=
  ctlStore cls src line (mask == BitVec.allOnes 64 && whole == 0xFF#8) (fun d => mergeLine d data mask whole) f s

/-- Words of a line made poison of a form by one write. -/
def ctlPoison (cls : SvcClass) (src : MemSource) (line : Nat) (words : BitVec 8) (form : Byte) (s : State) : State :=
  ctlStore cls src line (words == 0xFF#8)
    (fun d => mkLine (lineByte d.data) fun w => if words.getLsbD w then form else d.form w) .clean s

/-- A line written back with its marks (R182). -/
def ctlWriteback (src : MemSource) (line : Nat) (d : LineData) (s : State) : State := ctlStore .demand src line true (fun _ => d) .clean s

/-- An I/O agent's write of bytes, line by line; every word it covers is covered in one write (R183). An address that is not
mapped takes nothing (R153). -/
def ioWrite (cls : SvcClass) (src : MemSource) (a : Nat) (bytes : List Byte) (s : State) : State :=
  forAll (linesOf a bytes.length) (fun line s =>
    let (d, k) := linePart a bytes line
    onlyIf (mapped s (64 * line)) (ctlWrite cls src line d k 0xFF#8 .clean) s) s

/-- An I/O agent's read of bytes: every line through its controller, then the bytes and the poisoned words met. -/
def ioRead (a n : Nat) (s : State) : State × List Byte × List (Nat × Nat) :=
  let s1 := forAll (linesOf a n) (fun line s => (ctlRead line .clean s).1) s
  (s1, readBytes s1 a n, formsIn s1 a n)

/-- Some byte of a write lies in a retired resource. -/
def touchesRetired (s : State) (a n : Nat) : Bool :=
  (linesOf a n).any fun line => resourceRetired s (resourceOf s (64 * line))

/-! Training and the map (R154, R156, R157, R166). -/

/-- A DIMM of the kind and one of the sizes that R156 accepts. -/
def dimmOk (d : Dimm) : Bool :=
  d.registered && d.ecc && d.width == 4 && [32, 48, 64, 96, 128, 256].contains d.gib

/-- A supported population: one or two DIMMs, each of that kind. -/
def populationOk (l : List Dimm) : Bool := (l.length == 1 || l.length == 2) && l.all dimmOk

/-- The population of channel `c`. -/
def population (s : State) (c : Nat) : List Dimm := s.mem.dimms.getD c []

/-- The reference population: that of the lowest-numbered supported channel. -/
def referencePopulation (s : State) : List Dimm :=
  (((List.range 8).map (population s)).find? populationOk).getD []

/-- The GiB of a population. -/
def gibOf (l : List Dimm) : Nat := (l.map (·.gib)).sum

/-- 5030h.01h before and after a training (R172): absent, retired, refused at the last training, active (`live`), populated and
not powered. -/
def channelState (s : State) (live : Bool) (c : Nat) : Nat :=
  if population s c = [] then 0
  else if s.mem.committedChannels.contains c then 3
  else if population s c ≠ referencePopulation s && (live || s.mem.everTrained) then 4
  else if live then 1 else 5

/-- The map is built (R154, R157): mapped pseudo-channels and channels, both tops, and the tiers hold never-written
poison (R166). Resources that fail their test are retired and left out. -/
def trainMemory (badPcs badChannels : List Nat) (s : State) : State :=
  let s1 := forAll (badPcs.filter (· < 128)) (retirePc 3) s
  let s2 := forAll (badChannels.filter (· < 8)) (retireChannel 3) s1
  let pcs := (List.range 128).filter fun pc => !s2.mem.committedPcs.contains pc
  let chans := (List.range 8).filter fun c => channelState s2 true c == 1
  let mode := getO s2 nP 0x5000 1
  let perStack := fun st => (pcs.filter (· / 32 == st)).length
  let windowTop := fun st => st * windowSize + perStack st * pcBytes
  let ddrTop := ddrBase + (chans.map fun c => gibOf (population s2 c) * 2 ^ 30).sum
  let s3 := { s2 with mem := { s2.mem with
    bytes := [], marks := [], check := [], trained := true, everTrained := true, pcs := pcs, channels := chans,
    retiredPcs := [], retiredChannels := [], writeQ := [], selfRefresh := [], postponed := [],
    scrubPos := [], lastScrub := [], lastRequest := [],
    lapStart := ((pcs ++ chans.map (1000 + ·)).foldl (fun t k => tblSet 0 t k (now s2)) []) } }
  let s4 := runAll [setO nP 0x5000 2 mode, setO nP 0x5000 3 (if mode = 0 then pcs.length * pcBytes else windowTop 3),
    setO nP 0x5000 4 pcs.length, setO nP 0x5000 5 ddrTop, setO nP 0x5000 6 chans.length,
    setO nP 0x5000 7 (if chans = [] then 0 else if (referencePopulation s2).length = 1 then 6400 else 5600),
    setO nP 0x5000 8 1, setO nP 0x5000 9 (if chans = [] then 1 else 0), setO nP 0x5000 0x0A 0] s3
  let s5 := forAll (List.range 4) (fun st s => runAll [setO nP (0x5020 + st) 1 (if perStack st = 0 then 2 else 0),
    setO nP (0x5020 + st) 6 (if mode = 0 then 0 else windowTop st)] s) s4
  forAll (List.range 8) (fun c s => runAll [setO nP (0x5030 + c) 1 (channelState s2 true c),
    setO nP (0x5030 + c) 2 (population s2 c).length,
    setO nP (0x5030 + c) 3 (if chans.contains c then gibOf (population s2 c) else 0)] s) s5

/-- The memories lose power or stop (R85, R31): contents lost, states show it. -/
def stopMemory (s : State) : State :=
  let s1 := { s with mem := { s.mem with bytes := [], marks := [], check := [], trained := false, writeQ := [],
                                         selfRefresh := [], postponed := [] } }
  let s2 := setO nP 0x5000 8 0 (setO nP 0x5000 9 0 (setO nP 0x5000 0x0A 0 s1))
  let s3 := forAll (List.range 4) (fun st s =>
    setO nP (0x5020 + st) 1 (if getO s nP (0x5020 + st) 1 = 2 then 2 else 3) s) s2
  forAll (List.range 8) (fun c s => setO nP (0x5030 + c) 1 (channelState s false c) s) s3

/-- Both tiers in self-refresh (R87, R165), or out of it. -/
def keepMemory (enter : Bool) (s : State) : State :=
  let s1 := forAll (List.range 4) (fun st s =>
    let v := getO s nP (0x5020 + st) 1
    setO nP (0x5020 + st) 1 (if v = 2 ∨ v = 3 then v else if enter then 1 else 0) s) s
  let s2 := forAll s.mem.channels (fun c s =>
    if s.mem.retiredChannels.contains c then s else setO nP (0x5030 + c) 1 (if enter then 2 else 1) s) s1
  { s2 with mem := { s2.mem with selfRefresh := if enter then s.mem.channels else [], writeQ := [] } }

end Sys2Proof.Machine
end

