-- ==== Sys2Proof/Machine/Events.lean ====
section
/-! DEFINITION. Queues and the interrupt fabric (R331-R359): indices, the event condition, firing a source, the message
into a file, and posting an entry. -/

namespace Sys2Proof.Machine

/-! Interrupt files and sources. -/

/-- Identity `i` set pending in a file, or recorded there for the end of a fence (R226). -/
def IntFile.pend (f : IntFile) (fence : Bool) (i : Nat) : IntFile :=
  if fence then { f with late := f.late ||| (1#1024 <<< i) } else { f with eip := f.eip ||| (1#1024 <<< i) }

/-- The message of R355: an identity written into a hart's file at one level. -/
def pendIdentity (h : Nat) (machine : Bool) (i : Nat) (s : State) : State :=
  if machine then setHart h { s.hart h with fileM := (s.hart h).fileM.pend (fenced s (h / 12)) i } s
  else setHart h { s.hart h with fileS := (s.hart h).fileS.pend (fenced s (h / 12)) i } s

/-- A source fires (R352, R355): its message is written and counted in B200h.06h; it is lost and counted in B200h.07h
while the source is disabled or the target's file is held in reset. -/
def fireSource (e : Nat) (s : State) : State :=
  let n := nSource e
  if getO s n 0xB200 1 ≠ 1 then addO n 0xB200 7 1 s
  else if fileHeld s (getO s n 0xB200 3) then addO n 0xB200 7 1 s
  else addO n 0xB200 6 1 (pendIdentity (getO s n 0xB200 3) (getO s n 0xB200 4 == 1) (getO s n 0xB200 5) s)

/-! Queue state. -/

def qKind (s : State) (q : Nat) : Nat := getO s (nQueue q) 0xB100 3
def qBase (s : State) (q : Nat) : Nat := getO s (nQueue q) 0xB100 4
def qElem (s : State) (q : Nat) : Nat := getO s (nQueue q) 0xB100 5
def qCount (s : State) (q : Nat) : Nat := getO s (nQueue q) 0xB100 6
/-- B110h.01h: 0 disabled, 1 enabled, 2 stopped. -/
def qState (s : State) (q : Nat) : Nat := getO s (nQueue q) 0xB110 1
def qP (s : State) (q : Nat) : Nat := getO s (nQueue q) 0xB110 2
def qC (s : State) (q : Nat) : Nat := getO s (nQueue q) 0xB110 3
/-- A difference of indices, modulo 2³² (R334). -/
def idxDiff (a b : Nat) : Nat := (a + 2 ^ 32 - b) % 2 ^ 32
/-- Slots held (R334). -/
def qHeld (s : State) (q : Nat) : Nat := idxDiff (qP s q) (qC s q)
/-- Slots free (R334). -/
def qFree (s : State) (q : Nat) : Nat := qCount s q - qHeld s q
def qEnabled (s : State) (q : Nat) : Bool := qState s q != 0
def qRunning (s : State) (q : Nat) : Bool := qState s q == 1
/-- Entries are written by software: kinds 01h, 03h, 04h (R332). -/
def qOutbound (s : State) (q : Nat) : Bool := qKind s q != 2
/-- Whether entries carry the frame word of R333. -/
def qFramed (s : State) (q : Nat) : Bool :=
  qKind s q == 3 || (qKind s q == 2 && getO s (nQueue q) 0xB100 0x0C == 1)
/-- Bytes an entry of the queue may hold (R333). -/
def qRoom (s : State) (q : Nat) : Nat := if qFramed s q then qElem s q - 8 else qElem s q
/-- The address of the slot of an index (R333). -/
def slotAddr (s : State) (q i : Nat) : Nat := qBase s q + i % qCount s q * qElem s q

/-- The condition under which an armed queue fires (R354). -/
def qCondition (s : State) (q : Nat) : Bool :=
  if qOutbound s q then decide (getO s (nQueue q) 0xB100 8 ≤ qFree s q)
  else decide (getO s (nQueue q) 0xB100 8 ≤ qHeld s q) ||
    (decide (1 ≤ qHeld s q) && getO s (nQueue q) 0xB100 9 != 0 &&
      decide ((s.queue q).times.headD 0 + getO s (nQueue q) 0xB100 9 ≤ now s))

/-- An armed queue whose condition holds fires its source once, clears ARMED and counts B110h.09h (R354). -/
def queueEval (q : Nat) (s : State) : State :=
  let src := getO s (nQueue q) 0xB100 7
  if (s.queue q).armed ∧ qRunning s q ∧ src ≠ 0xFFFF ∧ qCondition s q then
    fireSource src (addO (nQueue q) 0xB110 9 1 (setQueue q { s.queue q with armed := false } s))
  else s

/-- Arming and evaluating at once (R354): an ARM store, or a queue reset. -/
def armQueue (q : Nat) (s : State) : State :=
  queueEval q (setQueue q { s.queue q with armed := true } s)

/-- The queue is a valid post target for a producer of partition `p` (R341). -/
def validTarget (s : State) (q p : Nat) : Bool :=
  decide (q < 65536) && qRunning s q && qKind s q == 2 && queueOwner s q == p && decide (p < 16)

/-- An entry written into the slot of P, with its frame word in a framed queue; P advances, the event is evaluated (R340). A write to
an address that is not mapped is not performed (R153): that P then advances is the model's choice. -/
def postNow (src : MemSource) (q : Nat) (entry : List Byte) (s : State) : State :=
  let bytes := if qFramed s q then leBytes 8 entry.length ++ entry else entry
  let s2 := setO (nQueue q) 0xB110 2 ((qP s q + 1) % 2 ^ 32) (ioWrite .io src (slotAddr s q (qP s q)) bytes s)
  queueEval q (setQueue q { s2.queue q with times := (s2.queue q).times ++ [now s] } s2)

/-- The names under which a Vitrine, the Dray for a load queue, a Mosaic ring, and an Archive channel with a record wait at a queue. The
last also names the channel's packet that the record finishes, by its number plus one; 0 none. -/
def vitProducer (v : Nat) : Nat := 0x10000 + v
def drayProducer (q : Nat) : Nat := 0x20000 + q
def ringProducer (r : Nat) : Nat := 0x30000 + r
def chanProducer (c id : Nat) : Nat := 0x40000 + 64 * id + c
/-- The producer is a ring, whose record the ring itself posts when its turn comes. -/
def isRing (p : Nat) : Bool := decide (ringProducer 0 ≤ p) && decide (p < chanProducer 0 0)
/-- The producer is channel `c`. -/
def isChan (c p : Nat) : Bool := decide (chanProducer 0 0 ≤ p) && p % 64 == c

/-- A Vitrine's record of type 10h or 11h is counted as it is posted (R251). -/
def countPosted (producer : Nat) (entry : List Byte) (s : State) : State :=
  if vitProducer 0 ≤ producer ∧ producer < vitProducer 66 then
    let v := producer - vitProducer 0
    match (entry.getD 0 0).toNat with
    | 0x10 => addO (nVitrine v) 0x6400 4 1 s
    | 0x11 => addO (nVitrine v) 0x6400 5 1 s
    | _ => s
  else s

/-- The source as which a producer's post reaches memory, that of its data (R162). -/
def producerSource (p : Nat) : MemSource :=
  if p < drayProducer 0 then .l2 ((p - vitProducer 0) / 3)
  else if p < ringProducer 0 then .queue (p - drayProducer 0)
  else if p < chanProducer 0 0 then .ring (p - ringProducer 0)
  else .archive

/-- A producer's entry posted. -/
def postOf (q producer : Nat) (entry : List Byte) (s : State) : State :=
  countPosted producer entry (postNow (producerSource producer) q entry s)

/-- Posts that wait on a full queue are made, in the order they arrived, while slots are free (R340); `n` bounds them. A ring whose turn
it is makes its post itself, and holds back those behind it. -/
def drainWaiting (q : Nat) : Nat → State → State
  | 0, s => s
  | n + 1, s =>
    match (s.queue q).waiting with
    | [] => s
    | (p, e) :: t =>
      if qRunning s q ∧ qFree s q ≠ 0 ∧ isRing p = false then
        drainWaiting q n (postOf q p e (setQueue q { s.queue q with waiting := t } s))
      else s

/-- A post (R340): it waits in arrival order while the queue is full, and B110h.0Ah counts the wait. -/
def post (q producer : Nat) (entry : List Byte) (s : State) : State :=
  if qFree s q ≠ 0 ∧ (s.queue q).waiting = [] then postOf q producer entry s
  else addO (nQueue q) 0xB110 0x0A 1
    (setQueue q { s.queue q with waiting := (s.queue q).waiting ++ [(producer, entry)] } s)

/-- Waiting posts of some producers withdrawn. -/
def dropWaiters (p : Nat → Bool) (s : State) : State :=
  forAll ((s.queues.filter fun e => e.2.waiting.any (p ·.1)).map (·.1)) (fun q s =>
    setQueue q { s.queue q with waiting := (s.queue q).waiting.filter (!p ·.1) } s) s

/-- A producer's waiting posts withdrawn: it was reset, or its target is not valid any more (R249, R341, R343). -/
def dropWaiting (producer : Nat) (s : State) : State := dropWaiters (· == producer) s

end Sys2Proof.Machine
end

