-- ==== Sys2Proof/Machine/Errors.lean ====
section
/-! DEFINITION. Where a record goes beside the log (R445, R447), the errors of the Rotunda's context arrays (R176), and the
consumption of poison (R185). -/

namespace Sys2Proof.Machine

/-- Partition `p`'s record queue can take the newest record now (R447). -/
def recordQueueOpen (s : State) (p : Nat) : Bool :=
  let q := getO s nP (0x8100 + p) 1
  validTarget s q p && decide (64 ≤ qRoom s q) && qFree s q != 0 && (s.queue q).waiting.isEmpty

/-- The newest record of the log goes to partition `p`'s record queue, or is counted as not posted; event source
1,280 + p fires (R447). -/
def routeRecord (p : Nat) (s : State) : State :=
  match s.errs.log.head? with
  | none => s
  | some r =>
    if p < 16 then
      let q := getO s nP (0x8100 + p) 1
      let s1 :=
        if q = 0xFFFFFFFF then s
        else if recordQueueOpen s p then
          postNow .package q ({ r with lost := s.errs.lostTo.contains p }).bytes
            { s with errs := { s.errs with lostTo := dropFrom s.errs.lostTo p } }
        else addO nP (0x8100 + p) 2 1 { s with errs := { s.errs with lostTo := addTo s.errs.lostTo p } }
      fireSource (1280 + p) s1
    else s

/-- One event that a rule names as producing a record (R445). -/
def record (r : ErrRec) (s : State) : State := routeRecord r.part (logRecord r s)

/-- An error in a context array of the Rotunda (R176, R443): `unit` 0 stream contexts, 1 queue contexts, 2 event sources. -/
def contextRecord (unit entry action : Nat) (found : ArrayFinding) (s : State) : State :=
  match found with
  | .clean => s
  | .corrected => record { cls := 1, action := 1, kind := 0x13, unit := unit, sub := entry } s
  | .uncorrectable => record { cls := 2, action := action, kind := 0x13, unit := unit, sub := entry } s

/-! Consumption of poison (R185, R443). -/

/-- The one record of a consumption: the tier resource that holds the address, the consumer in CODE. -/
def consumeRecord (addr form hart code part : Nat) (s : State) : State :=
  let ch := resourceOf s addr
  record { cls := 3, action := if code = 1 ∨ code = 2 then 4 else if code = 3 then 3 else 0x0A, kind := memKind ch, unit := memUnit ch,
           sub := addr / 8 % 8, part := part, form := form, addr := addr, hart := hart, code := code } s

end Sys2Proof.Machine
end

