-- ==== Sys2Proof/Machine/Access.lean ====
section
/-! DEFINITION. Who may do what through the Catalogue: requesters and their roles (R408, R409, R429, R430), the checks that
a write passes before its object's own rule, the answer and the result record (R399, R401-R404). Every command that is
a write of an object of its own goes through `served`, as a CATALOGUE_WRITE of that object does. -/

namespace Sys2Proof.Machine

/-- The number under which a requester's state is kept. -/
def reqKey : Requester → Nat
  | .session n => n
  | .can id => 8 + id
  | .mailbox p => 1000 + p

/-- The requester is a mailbox. -/
def isMailbox : Requester → Bool
  | .mailbox _ => true
  | _ => false

def State.req (s : State) (who : Requester) : ReqState := tblGet {} s.cat.reqs (reqKey who)
def setReq (who : Requester) (r : ReqState) (s : State) : State :=
  { s with cat := { s.cat with reqs := tblSet {} s.cat.reqs (reqKey who) r } }

/-- The role a requester acts under (R430), coded as in R429. -/
def roleOf (s : State) : Requester → Nat
  | .session n => match tblFind s.cat.sessions n with
    | some x => x.role
    | none => 0
  | .can _ => getO s nV 0x1200 7
  | .mailbox p => getO s nS (0x7000 + p) 3

/-- A request of this requester is received at all in the present mode (R409, R411, R413). -/
def received (s : State) : Requester → Bool
  | .session n => s.modes.mode.on && (tblFind s.cat.sessions n).isSome
  | .can id => (s.modes.mode == .service || s.modes.mode.active) && getO s nV 0x1200 4 == 1 && getO s nV 0x1200 5 != 3 &&
      (s.cat.nmt == .preOperational || s.cat.nmt == .operational) && decide (1 ≤ id) && decide (id ≤ 127)
  | .mailbox p => s.modes.mode.active && decide (p < 16)

/-- The owner of an Archive channel: that of its command queue (R364). -/
def channelOwner (s : State) (c : Nat) : Nat := queueOwner s (getO s nP (0xA200 + c) 2)

/-- Objects that KEEP serves (R409). -/
def keepServes (node ix : Nat) : Bool :=
  if ix < 0x1000 then node == nP || node == nV || node == nH
  else decide (ix < 0x2000) || (decide (0x2000 ≤ ix) && decide (ix ≤ 0x2030)) ||
    (decide (0x2100 ≤ ix) && decide (ix ≤ 0x2103)) || (decide (0x3000 ≤ ix) && decide (ix ≤ 0x3FFF))

/-- Partition `p` owns the object, or the value written names `p` (R408). A lock control write whose PART is not the
mailbox's partition is refused by its own rule, R271 code 01h (R401). -/
def ownedBy (s : State) (p node ix sub value : Nat) : Bool :=
  match node / 2 ^ 24 with
  | 5 => getO s node 0x4010 2 == p
  | 6 => if getO s node 0x4100 2 = 0xFF then
      getO s node 0x4100 4 != 0xFFFF && getO s (nRing (getO s node 0x4100 4)) 0x4200 2 == p
    else getO s (nLane (getO s node 0x4100 2)) 0x4010 2 == p
  | 7 => getO s node 0x4200 2 == p
  | 9 => queueOwner s (node % 0x10000) == p
  | 0xA => sourceOwner s (node % 0x10000) == p
  | 0xC => ix == 0x6120 && sub == 1
  | 0xD => partOfCluster s (3 * (node / 0x100 % 0x20) + node / 0x10 % 4) == some p
  | 0xE => partOfCluster s (3 * (node / 0x100 % 0x20) + node / 0x10 % 4) == some p
  | 0xF => partOfCluster s (3 * (node / 0x100 % 0x20) + node / 0x10 % 4) == some p
  | 0 =>
    if ix = 0x5050 then
      (sub == 2 && ownsMem s p value 64) || (sub == 5 && ownsMem s p (getO s nP 0x5050 2) 64)
    else if 0xA100 ≤ ix ∧ ix < 0xA120 then getO s nP ix 2 == p
    else if 0xA200 ≤ ix ∧ ix < 0xA240 then channelOwner s (ix - 0xA200) == p
    else false
  | _ => false

/-- What role 01h may write and take: its own session objects and the items held for it (R429). -/
def ownItems (ix sub : Nat) : Bool :=
  (ix == 0x1F80 && sub == 1) || (ix == 0x8002 && sub == 1) || (ix == 0x1F82 && sub == 1) ||
  (ix == 0x8001 && sub == 1) || (ix == 0x7410 && sub == 2)

/-- The package-wide writes of role 03h (R429). -/
def operatorMay (ix sub : Nat) : Bool :=
  (ix == 0x2000 && (sub == 2 || sub == 8)) || (ix == 0x2020 && sub == 3) || (ix == 0x8300 && sub == 1) ||
  (decide (0x3000 ≤ ix) && decide (ix < 0x5000)) || (decide (0x9000 ≤ ix) && decide (ix < 0xC000)) || ix == 0x7050

/-- The further writes of role 04h (R429). -/
def integratorMay (ix sub : Nat) : Bool :=
  (decide (0x1000 ≤ ix) && decide (ix < 0x3000) && !(ix == 0x1200 && sub == 7)) ||
  (decide (0x5000 ≤ ix) && decide (ix ≤ 0x70FF)) || (decide (0x8000 ≤ ix) && decide (ix < 0x9000))

/-- The writes of role 05h (R429). -/
def securityMay (ix sub : Nat) : Bool :=
  (ix == 0x2000 && sub == 2) || (decide (0x7100 ≤ ix) && decide (ix < 0x8000)) || (ix == 0x1200 && sub == 7)

/-- A WRITE or TAKE refused by role or ownership: the detail of abort 0601_0000h (R401, R408, R429). -/
def roleRefusal (s : State) (who : Requester) (node ix sub value : Nat) : Option Nat :=
  let anyOwner := (List.range 16).any fun p => ownedBy s p node ix sub value
  if roleOf s who ≠ 0 ∧ ownItems ix sub = true then none
  else
    match roleOf s who with
    | 2 => match who with
      | .mailbox p => if ownedBy s p node ix sub value then none else some 3
      | _ => some 2
    | 3 =>
      let own := match who with
        | .mailbox p => ownedBy s p node ix sub value
        | _ => false
      if operatorMay ix sub || own || (anyOwner && ix != 0x6120 && ix != 0x5050) then none else some 2
    | 4 => if operatorMay ix sub || integratorMay ix sub || anyOwner then none else some 2
    | 5 => if securityMay ix sub then none else some 2
    | _ => some 2

/-! Answers. -/

/-- How an object's own rule answers a write: done, refused with abort and detail, an action accepted with its
status (0 completed, 1 pending, 2 failed, 3 abandoned) and detail (R401, R403), or not yet: the answer waits for an operation (R399). -/
inductive Ans where
  | ok
  | wait
  | refuse (abort detail : Nat)
  | action (status detail : Nat)
deriving DecidableEq, Repr

/-- An object's own rule. -/
abbrev Rule := State → State × Ans

/-- Refused under the object's own rule (R401). -/
def refused (detail : Nat) (s : State) : State × Ans := (s, .refuse 0x08000020 detail)
/-- Refused as busy by the object's rule. -/
def refusedBusy (s : State) : State × Ans := (s, .refuse 0x08000021 2)
/-- Out of range, or a reserved encoding (R10). -/
def refusedValue (s : State) : State × Ans := (s, .refuse 0x06090030 0)
/-- The answer waits (R399). -/
def answerWaits (s : State) : State × Ans := (s, .wait)
/-- Done. -/
def answered (s : State) : State × Ans := (s, .ok)
/-- An action that ended within its response. -/
def actionDone (s : State) : State × Ans := (s, .action 0 0)
/-- An accepted action whose end comes later. -/
def actionPending (s : State) : State × Ans := (s, .action 1 0)

/-- The response to a refused request (R401). -/
def respondRefused (who : Requester) (abort detail : Nat) (s : State) : State :=
  setReq who { s.req who with abort := abort, detail := detail, lastDetail := detail, value := [], resultTag := 0,
                              lastReq := none, served := (s.req who).served + 1 } s

/-- The response to a served request that carries a value. -/
def respondValue (who : Requester) (value : List Byte) (s : State) : State :=
  setReq who { s.req who with abort := 0, detail := 0, value := value, resultTag := 0, lastReq := none,
                              served := (s.req who).served + 1 } s

/-- The tag after `t`: increasing, never 0 (R403). -/
def tagAfter (t : Nat) : Nat := if t + 1 < 2 ^ 32 then t + 1 else 1

/-- An ended result joins those held for taking; the seventeenth displaces the oldest (R404). -/
def holdResult (r : Result) (q : ReqState) : ReqState :=
  let l := q.untaken ++ [r]
  if 16 < l.length then { q with untaken := l.drop 1, dropped := (q.dropped + 1) % 2 ^ 32 } else { q with untaken := l }

/-- The response to an accepted action, with its result tag and record (R399, R403). -/
def respondAction (who : Requester) (node ix sub status detail : Nat) (s : State) : State :=
  let tag := s.cat.nextTag
  let r : Result := { tag := tag, node := node, index := ix, sub := sub, status := status, detail := detail,
                      started := now s, ended := if status = 1 then 0 else now s }
  let q := { s.req who with abort := 0, detail := 0, value := [], resultTag := tag, lastTag := tag,
                            results := (r :: (s.req who).results).take 16, lastReq := none,
                            displaced := (s.req who).displaced ++ ((s.req who).results.drop 15).filter (·.status == 1)
                            served := (s.req who).served + 1 }
  let q := if status = 1 then q else holdResult r q
  setReq who q { s with cat := { s.cat with nextTag := tagAfter tag } }

/-- An action ends later: its record takes the status, detail and time, and is held for taking though newer actions have displaced it
(R403, R404). -/
def endAction (who : Requester) (tag status detail : Nat) (s : State) : State :=
  let q := s.req who
  match (q.results ++ q.displaced).find? fun r => r.tag == tag && r.status == 1 with
  | none => s
  | some r =>
    let r' := { r with status := status, detail := detail, ended := now s }
    setReq who (holdResult r' { q with results := q.results.map (fun x => if x.tag = tag then r' else x)
                                       displaced := q.displaced.filter (·.tag != tag) }) s

/-- An object's value survives OFF: RWP values and those kept in the Archive or in fuses (R14, R394). -/
def persists (k : Nat) : Bool :=
  match rowOf (k / 2 ^ 48) (k / 2 ^ 8 % 2 ^ 16) (k % 2 ^ 8) with
  | some r => r.acc == .rwp || r.kept
  | none => false

/-- The system area takes a commit: some die is available (R361). -/
def systemArea (s : State) : Bool := [0, 1, 2, 3].any fun d => getO s nP (0xA010 + d) 1 == 0

/-- A committed RWP write (R395). -/
def rwpCommitted (s : State) : State := setO nP 0x2040 3 (now s) (addO nP 0x2040 2 1 s)

/-- SEQ of the oldest record held, the next one's where none is held (R446). -/
def oldestHeld (s : State) : Nat := getO s nP 0x8000 1 + 1 - s.errs.log.length

/-- A request has arrived: a session's idle time starts again (R411), and a requester that appears first gets its take
cursor (R446). -/
def appear (who : Requester) (s : State) : State :=
  let s1 := match who with
    | .session n => match tblFind s.cat.sessions n with
      | some x =>
        let l := tblInsert s.cat.sessions n { x with lastUse := now s }
        { s with cat := { s.cat with sessions := l } }
      | none => s
    | _ => s
  if (s1.req who).cursor = none then setReq who { s1.req who with cursor := some (oldestHeld s1) } s1 else s1

/-- The request under service is outstanding from now on, ahead of those that wait (R397, R399). -/
def holdRequest (s : State) : State :=
  { s with cat := { s.cat with queue := s.cat.serving.toList ++ s.cat.queue, serving := none } }

/-- A write that was received: served in the mode (R409, R384), allowed (R408, R429), in range (R10), then the object's own
rule; RWP values are committed before the answer (R399). -/
def serveWrite (who : Requester) (node ix sub value : Nat) (rule : Rule) (s : State) : State :=
  if s.modes.mode == .keep && !keepServes node ix then respondRefused who 0x08000022 0 s
  else
    match rowOf (node / 2 ^ 24) ix sub with
    | none => respondRefused who 0x06090011 0 s
    | some row =>
      if s.modes.mode == .keep && row.acc == .rwp then respondRefused who 0x08000021 3 s
      else if ix == 0x2000 && sub == 2 && (roleOf s who < 3) then
        respondRefused who 0x08000020 8 (setO nP 0x2000 5 8 s)
      else
        match roleRefusal s who node ix sub value with
        | some d => respondRefused who 0x06010000 d s
        | none =>
          if !row.chk.ok value then respondRefused who 0x06090030 0 s
          else if row.acc == .rwp && !systemArea s then respondRefused who 0x06060000 0 s
          else
            match rule s with
            | (t, .wait) => holdRequest t
            | (t, .ok) =>
              if row.acc == .wo then respondAction who node ix sub 0 0 t
              else respondValue who [] (if row.acc == .rwp then rwpCommitted t else t)
            | (t, .refuse a d) => respondRefused who a d t
            | (t, .action st d) => respondAction who node ix sub st d t

/-- Requests repeat over every transport but CAN FD (R398). -/
def mayRepeat : Requester → Bool
  | .can _ => false
  | _ => true

/-- The request is kept beside the response that answers it (R398); a session that its own request closed keeps nothing. -/
def keepRequest (w : Waiting) (s : State) : State :=
  if w.keeps && received s w.who then setReq w.who { s.req w.who with lastReq := some (w.op, w.req) } s else s

/-- A request is served; it is answered unless it is held. -/
def serveNow (w : Waiting) (serve : State → State) (s : State) : State :=
  let t := serve { s with cat := { s.cat with serving := some w } }
  if t.cat.serving.isNone then t else keepRequest w { t with cat := { t.cat with serving := none } }

/-- Four other CAN FD clients have a transfer open, which lasts as long as its request is outstanding (R413). -/
def canFull (s : State) : Requester → Bool
  | .can _ => decide (4 ≤ (s.cat.queue.filter fun w => match w.who with
    | .can _ => true
    | _ => false).length)
  | _ => false

/-- A request that was received is served at once where none is outstanding, and waits its turn otherwise. A further one of a requester
that has one outstanding is refused as busy; the repetition of that one is discarded (R397). A fifth CAN FD client is aborted, with a detail
that R413 does not give: 00h (DESIGN CHOICE). -/
def admitRequest (w : Waiting) (serve : State → State) (s : State) : State :=
  match s.cat.queue.find? (·.who == w.who) with
  | some x =>
    if w.keeps && x.keeps && mayRepeat w.who && x.op == w.op && x.req == w.req then s
    else keepRequest w (respondRefused w.who 0x08000021 1 s)
  | none =>
    if canFull s w.who then respondRefused w.who 0x08000021 0 s
    else if s.cat.queue.isEmpty then serveNow w serve s
    else { s with cat := { s.cat with queue := s.cat.queue ++ [w] } }

/-- The write that a command of its own stands for, as a request. -/
def writeOf (who : Requester) (node ix sub value : Nat) (flash : Bool) (s : State) : Waiting :=
  { who := who, op := .write, since := now s, flash := flash
    req := { tag := 0, node := node, index := ix, sub := sub, value := leBytes (objSize node ix sub) value } }

/-- A write of an object by a requester that is received (R409); `flash`: as in `Waiting`. -/
def servedWith (flash : Bool) (who : Requester) (node ix sub value : Nat) (rule : Rule) (s : State) : State :=
  if received s who then
    admitRequest (writeOf who node ix sub value flash s) (serveWrite who node ix sub value rule) (appear who s)
  else s

/-- A write of an object by a requester that is received (R409). -/
def served (who : Requester) (node ix sub value : Nat) (rule : Rule) (s : State) : State :=
  servedWith false who node ix sub value rule s

/-- Between two states a request of this requester was served without an abort. -/
def accepted (who : Requester) (s t : State) : Bool :=
  decide ((s.req who).served < (t.req who).served) && (t.req who).abort == 0

/-- Setting the object and nothing else. -/
def plainWrite (node ix sub value : Nat) : Rule := fun s => answered (setO node ix sub value s)

/-- Session objects and results of a requester are lost (R404). -/
def dropRequester (who : Requester) (s : State) : State := setReq who {} s

end Sys2Proof.Machine
end

