-- ==== Sys2Proof/Machine/Flags.lean ====
section
/-! DEFINITION. Status words and flags computed from state: mstatus fields, interrupt-pending bits, doorbell and mailbox
STATUS, and the fields of values written to action objects. -/

namespace Sys2Proof.Machine

/-- Field of `n` bits at bit `lo` of a word. -/
def field (v : Word) (lo n : Nat) : Nat := v.toNat / 2 ^ lo % 2 ^ n

/-- A word with a field replaced. -/
def setField (v : Word) (lo n x : Nat) : Word :=
  BitVec.ofNat 64 (v.toNat - field v lo n * 2 ^ lo + x % 2 ^ n * 2 ^ lo)

/-- A word written under a mask: bits outside keep the old value. -/
def maskWrite (old new mask : Word) : Word := (old &&& ~~~mask) ||| (new &&& mask)

/-- Reset values of the CSRs (R199, R202; mstatus.SXL and UXL are 2; dcsr has xdebugver 4, stopcount 1 under R469, prv 3;
vtype has vill). -/
def csrReset : Nat → Word
  | 0x300 => 0xA00000000
  | 0x7B0 => 0x40000403
  | 0xC21 => 0x8000000000000000
  | 0x7C0 => 0xF
  | 0x7C3 => BitVec.allOnes 64
  | _ => 0

/-- A CSR as stored. -/
def Hart.csrOf (h : Hart) (n : Nat) : Word := tblGet (csrReset n) h.csr n
/-- A CSR as stored, set. -/
def Hart.withCsr (h : Hart) (n : Nat) (v : Word) : Hart := { h with csr := tblSet (csrReset n) h.csr n v }

/-! mstatus (RISC-V privileged specification). -/

def Hart.mstatus (h : Hart) : Word := h.csrOf 0x300
def Hart.mie? (h : Hart) : Bool := field h.mstatus 3 1 == 1
def Hart.sie? (h : Hart) : Bool := field h.mstatus 1 1 == 1
def Hart.tvm (h : Hart) : Bool := field h.mstatus 20 1 == 1
def Hart.tw (h : Hart) : Bool := field h.mstatus 21 1 == 1
def Hart.tsr (h : Hart) : Bool := field h.mstatus 22 1 == 1

/-- Privilege as a number: U 0, S 1, M 3. -/
def Priv.level : Priv → Nat
  | .u => 0 | .s => 1 | .m => 3

/-- The privilege mode of a number; 2 does not exist. -/
def privOf : Nat → Priv
  | 0 => .u | 1 => .s | _ => .m

/-- The effective mode of loads and stores: MPP in M-mode while MPRV is set (R285). -/
def Hart.effPriv (h : Hart) : Priv :=
  if field h.mstatus 17 1 = 1 ∧ h.priv = .m then privOf (field h.mstatus 11 2) else h.priv

/-- menvcfg fields (R261, R288, R292). -/
def Hart.adue (h : Hart) : Bool := field (h.csrOf 0x30A) 61 1 == 1
def Hart.pbmte (h : Hart) : Bool := field (h.csrOf 0x30A) 62 1 == 1
def Hart.stce (h : Hart) : Bool := field (h.csrOf 0x30A) 63 1 == 1

/-! Interrupts pending (R202, R356). -/

/-- The lowest identity pending and enabled in a file, below its threshold where one is set; 0 none. -/
def IntFile.top (f : IntFile) : Nat :=
  ((List.range 1024).find? fun i => i != 0 && f.eip.getLsbD i && f.eie.getLsbD i &&
    (f.threshold == 0 || decide (i < f.threshold))).getD 0

/-- A file signals an external interrupt. -/
def IntFile.signals (f : IntFile) : Bool := f.delivery && f.top != 0

/-- mip: MEIP and SEIP come only from the files, MTIP and STIP from the compares, SSIP is software's (R202, R356). -/
def mipOf (h : Hart) (time : Nat) : Word :=
  let b := fun (c : Bool) (i : Nat) => if c then (1#64 <<< i) else 0#64
  b (field (h.csrOf 0x344) 1 1 == 1) 1 |||
  b (if h.stce then decide ((h.csrOf 0x14D).toNat ≤ time) else field (h.csrOf 0x344) 5 1 == 1) 5 |||
  b (decide ((h.csrOf 0x7C3).toNat ≤ time)) 7 |||
  b h.fileS.signals 9 ||| b h.fileM.signals 11

/-- An interrupt is pending in mip and enabled in mie (R225, R246). -/
def wakes (h : Hart) (time : Nat) : Bool := (mipOf h time &&& h.csrOf 0x304) != 0

/-- The interrupt a hart would take, highest priority first, with the mode that takes it (RISC-V privileged rules). -/
def takeable (h : Hart) (time : Nat) : Option (Nat × Priv) :=
  let p := mipOf h time &&& h.csrOf 0x304
  let deleg := h.csrOf 0x303
  let mOn := h.priv != .m || h.mie?
  let sOn := h.priv == .u || (h.priv == .s && h.sie?)
  let order := [11, 3, 7, 9, 1, 5]
  match order.find? fun i => p.getLsbD i && !deleg.getLsbD i && mOn with
  | some i => some (i, .m)
  | none => (order.find? fun i => p.getLsbD i && deleg.getLsbD i && sOn && h.priv != .m).map fun i => (i, .s)

/-- A file with what was recorded in a fence delivered. -/
def IntFile.delivered (f : IntFile) : IntFile := { f with eip := f.eip ||| f.late, late := 0 }

/-- A hart as its interrupts reach it: what arrived during a fence of its gallery is delivered when the fence ends (R226). -/
def heard (s : State) (hart : Nat) : Hart :=
  let h := s.hart hart
  if fenced s (hart / 12) then h else { h with fileM := h.fileM.delivered, fileS := h.fileS.delivered }

/-! Doorbells and mailboxes. -/

/-- STATUS of a doorbell (R335). -/
def doorbellStatus (s : State) (q : Nat) : Nat :=
  getO s (nQueue q) 0xB110 7 * 2 ^ 8 + (if qEnabled s q then qKind s q % 16 else 0) * 2 ^ 4 +
  (if (s.queue q).armed then 4 else 0) + (if qState s q = 2 then 2 else 0) + (if qEnabled s q then 1 else 0)

/-- STATUS of a mailbox page (R407). -/
def mailboxStatus (m : Mailbox) : Nat :=
  m.count % 2 ^ 32 * 2 ^ 32 + m.rtag % 2 ^ 16 * 2 ^ 16 + (if m.overrun then 4 else 0) + (if m.ready then 2 else 0) +
  (if m.busy then 1 else 0)

end Sys2Proof.Machine
end

