-- ==== Sys2Proof/Machine/Operands.lean ====
section
/-! DEFINITION. Operand forms: the registers of a hart, second operands, element addresses of vector memory
instructions, and the pages of the device-attribute region that an address names (R152). -/

namespace Sys2Proof.Machine

/-- Integer register `n`; x0 reads 0. -/
def Hart.getX (h : Hart) (n : Nat) : Word := if n % 32 = 0 then 0 else tblGet 0 h.x (n % 32)
/-- Integer register `n` written; x0 discards it. -/
def Hart.withX (h : Hart) (n : Nat) (v : Word) : Hart :=
  if n % 32 = 0 then h else { h with x := tblSet 0 h.x (n % 32) v }
/-- Floating-point register `n`. -/
def Hart.getF (h : Hart) (n : Nat) : Word := tblGet 0 h.f (n % 32)
/-- Floating-point register `n` written; the state becomes dirty (mstatus.FS 3). -/
def Hart.withF (h : Hart) (n : Nat) (v : Word) : Hart :=
  { h with f := tblSet 0 h.f (n % 32) v }.withCsr 0x300 (setField h.mstatus 13 2 3)
/-- Vector register `n`: VLEN 512 bits (R195). -/
def Hart.getV (h : Hart) (n : Nat) : Line := tblGet 0 h.v (n % 32)
/-- Vector register `n` written. -/
def Hart.putV (h : Hart) (n : Nat) (v : Line) : Hart := { h with v := tblSet 0 h.v (n % 32) v }
/-- The vector state becomes dirty (mstatus.VS 3). -/
def Hart.dirtyV (h : Hart) : Hart := h.withCsr 0x300 (setField h.mstatus 9 2 3)

/-- A second operand's value. -/
def Hart.src2 (h : Hart) : Src2 → Word
  | .reg n => h.getX n
  | .imm v => v

/-- The low `n` bytes of a word, sign- or zero-extended. -/
def extend (n : Nat) (isSigned : Bool) (v : Word) : Word :=
  let x := v.toNat % 2 ^ (8 * n)
  if isSigned then BitVec.ofInt 64 (signed n x) else BitVec.ofNat 64 x

/-- A loaded value as a floating-point register holds it: 32-bit values are NaN-boxed (RISC-V D extension). -/
def nanBox (size : Nat) (v : Word) : Word :=
  if size = 4 then 0xFFFFFFFF00000000 ||| (v &&& 0xFFFFFFFF) else v

/-! Vector operands. -/

/-- Element `i` of width `eew` bytes in the register group that starts at `vd`. -/
def Hart.elem (h : Hart) (vd eew i : Nat) : Word :=
  let per := 64 / eew
  BitVec.ofNat 64 ((h.getV (vd + i / per)).toNat / 2 ^ (8 * eew * (i % per)) % 2 ^ (8 * eew))

/-- Element `i` written. -/
def Hart.withElem (h : Hart) (vd eew i : Nat) (v : Word) : Hart :=
  let per := 64 / eew
  let sh := 8 * eew * (i % per)
  let old := h.getV (vd + i / per)
  let keep := old.toNat - old.toNat / 2 ^ sh % 2 ^ (8 * eew) * 2 ^ sh
  h.putV (vd + i / per) (BitVec.ofNat 512 (keep + v.toNat % 2 ^ (8 * eew) * 2 ^ sh))

/-- Bit `i` of the mask register v0. -/
def Hart.maskBit (h : Hart) (i : Nat) : Bool := (h.getV 0).getLsbD i

/-- The address of a field of element `i`, of `fields` that lie one after the other. -/
def Hart.elemAddr (h : Hart) (rs1 eew fields : Nat) (a : VecAddr) (i field : Nat) : Word :=
  match a with
  | .strided rs2 => h.getX rs1 + h.getX rs2 * BitVec.ofNat 64 i + BitVec.ofNat 64 (eew * field)
  | .indexed vs2 w => h.getX rs1 + h.elem vs2 w i + BitVec.ofNat 64 (eew * field)
  | _ => h.getX rs1 + BitVec.ofNat 64 (eew * (i * fields + field))

/-! Pages of the device-attribute region (R152). -/

/-- What a device-attribute address names. -/
inductive DevPage where
  | fileM (hart off : Nat)
  | fileS (hart off : Nat)
  | doorbell (queue off : Nat)
  | mailbox (part off : Nat)
  | concourse (page off : Nat)
  | nothing
deriving DecidableEq, Repr

/-- The page and offset of an address. -/
def devPage (a : Nat) : DevPage :=
  if 0x0F0000000000 ≤ a ∧ a < 0x0F0000108000 then .fileM ((a - 0x0F0000000000) / 4096) (a % 4096)
  else if 0x0F0001000000 ≤ a ∧ a < 0x0F0001108000 then .fileS ((a - 0x0F0001000000) / 4096) (a % 4096)
  else if 0x0F0010000000 ≤ a ∧ a < 0x0F0010400000 then .doorbell ((a - 0x0F0010000000) / 64) (a % 64)
  else if 0x0F0020000000 ≤ a ∧ a < 0x0F0020010000 then .mailbox ((a - 0x0F0020000000) / 4096) (a % 4096)
  else if 0x0F0030000000 ≤ a ∧ a < 0x0F0030011000 then .concourse ((a - 0x0F0030000000) / 4096) (a % 4096)
  else .nothing

end Sys2Proof.Machine
end

