-- ==== Sys2Proof/Machine/Csr.lean ====
section
/-! DEFINITION. CSRs of a hart (R195-R202, R247, R282-R284, R356, R460-R463): reads and writes with their WARL rules,
hart events, traps and returns from them. -/

namespace Sys2Proof.Machine

/-! Hart counters (R460-R463). -/

/-- Privilege bit of mhpmevent that stops counting: MINH 62, SINH 61, UINH 60. -/
def inhibitBit : Priv → Nat
  | .m => 62 | .s => 61 | .u => 60

/-- Counter `i` (3-31) of a hart counts the event now. -/
def Hart.counts (h : Hart) (extev : Bool) (ev i : Nat) : Bool :=
  let e := h.csrOf (0x320 + i)
  field e 0 12 == ev && ev != 0 && field e (inhibitBit h.priv) 1 == 0 &&
    !(h.csrOf 0x320).getLsbD i && h.run != .debug && (decide (ev < 0x400) || extev)

/-- Counter `i` raised by `n`; a wrap sets OV (R462). -/
def Hart.bump (h : Hart) (i n : Nat) : Hart :=
  let v := (h.csrOf (0xB00 + i)).toNat + n
  let h1 := h.withCsr (0xB00 + i) (BitVec.ofNat 64 v)
  if 2 ^ 64 ≤ v then h1.withCsr (0x320 + i) (setField (h.csrOf (0x320 + i)) 63 1 1) else h1

/-- `n` events of a hart, in each counter that selects them. -/
def hartEvent (hart ev n : Nat) (s : State) : State :=
  let sel := (s.hart hart).csr.filter fun c => decide (0x323 ≤ c.1) && decide (c.1 ≤ 0x33F)
  if sel.isEmpty then s
  else
    let ext := getO s nP 0x2103 1 % 2 == 1
    setHart hart (sel.foldl (fun h c => if h.counts ext ev (c.1 - 0x320) then h.bump (c.1 - 0x320) n else h) (s.hart hart)) s

/-- An instruction completes: the pc moves on and minstret counts it (R460). -/
def complete (hart : Nat) (pc : Word) (s : State) : State :=
  let h := s.hart hart
  let h1 := { h with pc := pc }
  let h2 := if (h.csrOf 0x320).getLsbD 2 || h.run == .debug then h1 else h1.withCsr 0xB02 (h.csrOf 0xB02 + 1)
  hartEvent hart 1 1 (setHart hart h2 s)

/-! Traps. -/

/-- What stops an instruction: an exception with its tval, or the consumption of a poisoned word (R223). -/
inductive Exc where
  | trap (cause : Nat) (tval : Word)
  | machine (src form addr : Nat) (tval : Word)
deriving DecidableEq, Repr

/-- The handler's address: the base of tvec, plus 4 × cause for an interrupt in vectored mode. -/
def tvecTarget (tvec : Word) (interrupt : Bool) (cause : Nat) : Word :=
  let base := setField tvec 0 2 0
  if interrupt && field tvec 0 2 == 1 then base + BitVec.ofNat 64 (4 * cause) else base

/-- xcause: the interrupt bit and the code. -/
def causeWord (interrupt : Bool) (cause : Nat) : Word :=
  BitVec.ofNat 64 (cause + (if interrupt then 2 ^ 63 else 0))

/-- The hart in its handler, in the mode that takes the trap (RISC-V privileged rules): epc, cause, tval, the previous
enable and mode saved in mstatus; the reservation is lost (R216). -/
def Hart.trapped (h : Hart) (dest : Priv) (interrupt : Bool) (cause : Nat) (tval : Word) : Hart :=
  let m := h.mstatus
  let h0 := { h with reserved := none, run := if h.run = HartRun.wfi then HartRun.running else h.run }
  if dest = .m then
    let m1 := setField (setField (setField m 7 1 (field m 3 1)) 3 1 0) 11 2 h.priv.level
    ({ h0 with pc := tvecTarget (h.csrOf 0x305) interrupt cause, priv := .m }
      |>.withCsr 0x300 m1 |>.withCsr 0x341 h.pc |>.withCsr 0x342 (causeWord interrupt cause) |>.withCsr 0x343 tval)
  else
    let m1 := setField (setField (setField m 5 1 (field m 1 1)) 1 1 0) 8 1 (if h.priv = .u then 0 else 1)
    ({ h0 with pc := tvecTarget (h.csrOf 0x105) interrupt cause, priv := .s }
      |>.withCsr 0x300 m1 |>.withCsr 0x141 h.pc |>.withCsr 0x142 (causeWord interrupt cause) |>.withCsr 0x143 tval)

/-- The mode that takes an exception: S when delegated and not raised in M-mode. -/
def Hart.excMode (h : Hart) (cause : Nat) : Priv :=
  if h.priv ≠ .m ∧ (h.csrOf 0x302).getLsbD cause then .s else .m

/-- The partition byte of a record about a hart. -/
def partByte (s : State) (hart : Nat) : Nat := (partOfHart s hart).getD 0xFF

/-- An exception is taken: event 00Bh, the trap, and for consumed poison mnerr, mnerraddr and the record (R201, R223). -/
def takeExc (hart : Nat) (e : Exc) (s : State) : State :=
  let s1 := hartEvent hart 0x00B 1 s
  let h := s1.hart hart
  match e with
  | .trap cause tval => setHart hart (h.trapped (h.excMode cause) false cause tval) s1
  | .machine src form addr tval =>
    let ovr := if field (h.csrOf 0x7C1) 63 1 = 1 then 1 else field (h.csrOf 0x7C1) 62 1
    let err := BitVec.ofNat 64 (2 ^ 63 + ovr * 2 ^ 62 + form % 256 * 256 + src % 16)
    let h1 := (h.trapped .m false 19 tval).withCsr 0x7C1 err |>.withCsr 0x7C2 (BitVec.ofNat 64 (addr / 8 * 8 % 2 ^ 52))
    consumeRecord (addr / 8 * 8) form hart 1 (partByte s hart) (setHart hart h1 s1)

/-- The illegal-instruction exception. RISC-V lets tval hold the encoding or 0 and R223 does not say which: an open value
where the command does not carry the encoding, an open choice where it does. -/
def illegal (hart : Nat) (s : State) : State :=
  let (s1, v) := takeFree s
  takeExc hart (.trap 2 v) s1
def illegalBits (hart : Nat) (bits : Word) (s : State) : State :=
  let (s1, v) := takeFree s
  takeExc hart (.trap 2 (if v.getLsbD 0 then bits else 0)) s1

/-- mret: the mode and enable saved by the trap come back; MPRV is cleared on leaving M-mode. -/
def Hart.mret (h : Hart) : Hart :=
  let m := h.mstatus
  let back := privOf (field m 11 2)
  let m1 := setField (setField (setField m 3 1 (field m 7 1)) 7 1 1) 11 2 0
  let m2 := if back = .m then m1 else setField m1 17 1 0
  { h with pc := h.csrOf 0x341, priv := back }.withCsr 0x300 m2

/-- sret. -/
def Hart.sret (h : Hart) : Hart :=
  let m := h.mstatus
  let back := if field m 8 1 = 1 then Priv.s else Priv.u
  let m1 := setField (setField (setField m 1 1 (field m 5 1)) 5 1 1) 8 1 0
  { h with pc := h.csrOf 0x141, priv := back }.withCsr 0x300 (setField m1 17 1 0)

/-! Which CSRs exist and who may use them (R196, R198, R247, R460). -/

/-- The CSRs that exist. -/
def csrExists (n : Nat) : Bool :=
  [0x001, 0x002, 0x003, 0x008, 0x009, 0x00A, 0x00F, 0xC20, 0xC21, 0xC22,
   0x100, 0x104, 0x105, 0x106, 0x10A, 0x140, 0x141, 0x142, 0x143, 0x144, 0x14D, 0x150, 0x151, 0x15C, 0x180, 0xDB0,
   0x300, 0x301, 0x302, 0x303, 0x304, 0x305, 0x306, 0x308, 0x309, 0x30A, 0x320, 0x340, 0x341, 0x342, 0x343, 0x344,
   0x350, 0x351, 0x35C, 0x3A0, 0x3A2, 0x7A0, 0x7A1, 0x7A2, 0x7A4, 0x7B0, 0x7B1, 0x7B2, 0x7B3,
   0xF11, 0xF12, 0xF13, 0xF14, 0xF15, 0xFB0, 0xB00, 0xB02,
   0x7C0, 0x7C1, 0x7C2, 0x7C3, 0xFC0, 0xFC1, 0x7D0, 0x5D0, 0x8D0].contains n ||
  (decide (0xC00 ≤ n) && decide (n ≤ 0xC1F)) || (decide (0xB03 ≤ n) && decide (n ≤ 0xB1F)) ||
  (decide (0x323 ≤ n) && decide (n ≤ 0x33F)) || (decide (0x3B0 ≤ n) && decide (n ≤ 0x3BF))

/-- vit.run, vit.wait, vit.stat and vitinfo are permitted (R244, R247). -/
def Hart.vitUser (h : Hart) : Bool :=
  h.priv == .m || (field (h.csrOf 0x7D0) 0 1 == 1 && (h.priv == .s || field (h.csrOf 0x5D0) 0 1 == 1))

/-- vit.load, vit.arm and vit.disarm are permitted (R244). -/
def Hart.vitSuper (h : Hart) : Bool := h.priv == .m || (h.priv == .s && field (h.csrOf 0x7D0) 0 1 == 1)

/-- An indirect register of an interrupt file exists under this selector; odd numbers do not at XLEN 64 (AIA). -/
def fileReg (sel : Nat) : Bool :=
  sel == 0x70 || sel == 0x72 || (decide (0x80 ≤ sel) && decide (sel ≤ 0xFF) && sel % 2 == 0) ||
    (decide (0x30 ≤ sel) && decide (sel ≤ 0x3F) && sel % 2 == 0)

/-- The access is legal: the CSR exists, the mode is high enough, it is not written where read-only, and the enables that
govern it permit it. -/
def Hart.csrLegal (h : Hart) (n : Nat) (write : Bool) : Bool :=
  let lvl := n / 0x100 % 4
  let debugOnly := decide (0x7B0 ≤ n) && decide (n ≤ 0x7B3)
  csrExists n && decide (lvl ≤ h.priv.level) && !(write && n / 0x400 == 3) && (!debugOnly || h.run == .debug) &&
  (if n = 0x001 ∨ n = 0x002 ∨ n = 0x003 then field h.mstatus 13 2 != 0
   else if (0x008 ≤ n ∧ n ≤ 0x00F) ∨ (0xC20 ≤ n ∧ n ≤ 0xC22) then field h.mstatus 9 2 != 0
   else if 0xC00 ≤ n ∧ n ≤ 0xC1F then
     h.priv == .m || ((h.csrOf 0x306).getLsbD (n - 0xC00) && (h.priv == .s || (decide (n ≤ 0xC02) && (h.csrOf 0x106).getLsbD (n - 0xC00))))
   else if n = 0x180 then !(h.priv == .s && h.tvm)
   else if n = 0x14D then h.priv == .m || (h.stce && (h.csrOf 0x306).getLsbD 1)
   else if n = 0x351 then fileReg (h.csrOf 0x350).toNat
   else if n = 0x151 then fileReg (h.csrOf 0x150).toNat
   else if n = 0x5D0 then h.priv == .m || field (h.csrOf 0x7D0) 0 1 == 1
   else if n = 0x8D0 then h.vitUser
   else true)

/-! Indirect registers of the interrupt files (R356). -/

/-- A file register by selector. -/
def IntFile.reg (f : IntFile) (sel : Nat) : Word :=
  if sel = 0x70 then (if f.delivery then 1 else 0)
  else if sel = 0x72 then BitVec.ofNat 64 f.threshold
  else if 0x80 ≤ sel ∧ sel ≤ 0xBF then f.eip.extractLsb' (32 * (sel - 0x80)) 64
  else if 0xC0 ≤ sel ∧ sel ≤ 0xFF then f.eie.extractLsb' (32 * (sel - 0xC0)) 64
  else 0

/-- 64 bits of an identity array replaced; identity 0 does not exist. -/
def putIdentities (v : BitVec 1024) (lo : Nat) (w : Word) : BitVec 1024 :=
  ((v &&& ~~~((BitVec.allOnes 64).setWidth 1024 <<< lo)) ||| (w.setWidth 1024 <<< lo)) &&& ~~~1#1024

/-- A file register written. -/
def IntFile.withReg (f : IntFile) (sel : Nat) (w : Word) : IntFile :=
  if sel = 0x70 then if w.toNat ≤ 1 then { f with delivery := w == 1 } else f
  else if sel = 0x72 then { f with threshold := w.toNat % 1024 }
  else if 0x80 ≤ sel ∧ sel ≤ 0xBF then { f with eip := putIdentities f.eip (32 * (sel - 0x80)) w }
  else if 0xC0 ≤ sel ∧ sel ≤ 0xFF then { f with eie := putIdentities f.eie (32 * (sel - 0xC0)) w }
  else f

/-- mtopei or stopei: the top identity twice. -/
def IntFile.topei (f : IntFile) : Word := BitVec.ofNat 64 (f.top * 2 ^ 16 + f.top)
/-- A write of it claims the top identity. -/
def IntFile.claim (f : IntFile) : IntFile :=
  if f.top = 0 then f else { f with eip := f.eip &&& ~~~(1#1024 <<< f.top) }

/-- mtopi or stopi: the highest-priority pending and enabled interrupt of a set, with priority 1. -/
def topi (pend : Word) : Word :=
  match [11, 3, 7, 9, 1, 5].find? fun i => pend.getLsbD i with
  | some i => BitVec.ofNat 64 (i * 2 ^ 16 + 1)
  | none => 0

/-! Reads. -/

/-- mstatus with SD, and sstatus as its view. -/
def Hart.mstatusRead (h : Hart) : Word :=
  if field h.mstatus 13 2 = 3 ∨ field h.mstatus 9 2 = 3 then h.mstatus ||| 0x8000000000000000 else h.mstatus

/-- pmpaddr as read under 4 KiB granularity. -/
def Hart.pmpAddrRead (h : Hart) (i : Nat) : Word :=
  let v := h.csrOf (0x3B0 + i)
  if (h.csrOf (0x3A0 + i / 8 * 2)).toNat / 2 ^ (8 * (i % 8) + 3) % 4 = 3 then v ||| 0x1FF else v &&& ~~~(0x3FF : Word)

/-- vitinfo (R247). -/
def vitinfo (s : State) (hart : Nat) : Word :=
  let v := s.vit (hart / 4)
  let bit := fun (p : Nat → Bool) => ((List.range 4).filter fun i => p (tblGet {} v.slot i).state).foldl (fun a i => a + 2 ^ i) 0
  BitVec.ofNat 64 (getO s nP 0x2103 1 / 2 % 2 * 2 ^ 16 + bit (· == 2) * 2 ^ 12 + bit (· != 0) * 2 ^ 8 + hart / 4 % 128)

/-- mimpid: the revisions of the die that holds the hart's gallery (R197). -/
def mimpid (s : State) (hart : Nat) : Word :=
  let r := siteRec s (siteOf s (hart / 12))
  BitVec.ofNat 64 (r / 2 ^ 16 % 256 * 256 + r / 2 ^ 24 % 256)

/-- The bits of mvip, aliases of mip.SSIP and of mip.STIP where that is writable; mvien is read-only 0 (Smaia). -/
def Hart.mvipMask (h : Hart) : Word := if h.stce then 2 else 0x22

/-- A CSR as a read returns it. Cycle counts are read in `csrRead`. -/
def csrValue (s : State) (hart n : Nat) : Word :=
  let h := heard s hart
  let mip := mipOf h (now s)
  if n = 0x001 then h.csrOf 0x003 &&& 0x1F
  else if n = 0x002 then (h.csrOf 0x003 >>> 5) &&& 7
  else if n = 0x00F then h.csrOf 0x009 ||| (h.csrOf 0x00A <<< 1)
  else if n = 0xC22 then 64
  else if n = 0xC01 then s.clock.timebase
  else if n = 0xC02 then h.csrOf 0xB02
  else if 0xC03 ≤ n ∧ n ≤ 0xC1F then h.csrOf (0xB00 + (n - 0xC00))
  else if n = 0x100 then h.mstatusRead &&& 0x80000003000C6722
  else if n = 0x300 then h.mstatusRead
  else if n = 0x104 then h.csrOf 0x304 &&& h.csrOf 0x303
  else if n = 0x144 then mip &&& h.csrOf 0x303
  else if n = 0x344 then mip
  else if n = 0x309 then mip &&& h.mvipMask
  else if n = 0x301 then 0x800000000034112F
  else if n = 0x151 then h.fileS.reg (h.csrOf 0x150).toNat
  else if n = 0x351 then h.fileM.reg (h.csrOf 0x350).toNat
  else if n = 0x15C then h.fileS.topei
  else if n = 0x35C then h.fileM.topei
  else if n = 0xDB0 then topi (mip &&& h.csrOf 0x304 &&& h.csrOf 0x303)
  else if n = 0xFB0 then topi (mip &&& h.csrOf 0x304 &&& ~~~(h.csrOf 0x303))
  else if 0x3B0 ≤ n ∧ n ≤ 0x3BF then h.pmpAddrRead (n - 0x3B0)
  else if n = 0x7A1 then (tblGet (0x6000000000000000, 0) h.trig (h.csrOf 0x7A0).toNat).1
  else if n = 0x7A2 then (tblGet (0x6000000000000000, 0) h.trig (h.csrOf 0x7A0).toNat).2
  else if n = 0x7A4 then 0x1000040
  else if n = 0xF11 then 0x5A7
  else if n = 0xF12 then 0x8000000000000024
  else if n = 0xF13 then mimpid s hart
  else if n = 0xF14 then BitVec.ofNat 64 hart
  else if n = 0xFC0 then
    BitVec.ofNat 64 (partByte s hart * 2 ^ 32 + hart / 12 * 2 ^ 16 + hart % 12 / 4 * 2 ^ 8 + hart % 4)
  else if n = 0xFC1 then BitVec.ofNat 64 (getO s nP 0x2103 1)
  else if n = 0x8D0 then vitinfo s hart
  else h.csrOf n

/-- Events of R465 whose number no rule gives: cycles, issue losses, mispredictions, and waits of the completion queue, the store
buffer, the vector pipes and vit.wait. -/
def openEvents : List Nat := [2, 3, 4, 5, 8, 9, 0x400, 0x401, 0x403]

/-- Counter `i` counts such events now; mcycle counts cycles (R460). -/
def Hart.countsOpen (h : Hart) (extev : Bool) (i : Nat) : Bool :=
  if i = 0 then !(h.csrOf 0x320).getLsbD 0 && h.run != .debug
  else decide (3 ≤ i) && openEvents.any fun ev => h.counts extev ev i

/-- A CSR read. The count of a counter that counts cycles, or another number that no rule gives, is an open value: R227 promises no
cycle figure. -/
def csrRead (hart n : Nat) (s : State) : State × Word :=
  let h := s.hart hart
  let i := n % 0x20
  if (n / 0x20 = 0x58 ∨ n / 0x20 = 0x60) ∧ h.countsOpen (getO s nP 0x2103 1 % 2 == 1) i = true then
    let (s1, v) := takeFree s
    (setHart hart (h.withCsr (0xB00 + i) v) s1, v)
  else (s, csrValue s hart (if n = 0xC00 then 0xB00 else n))

/-! Writes. -/

/-- Numbers that the event table lists as hart events (R465). -/
def isHartEvent (n : Nat) : Bool :=
  (decide (1 ≤ n) && decide (n ≤ 0xC)) || (decide (0x100 ≤ n) && decide (n ≤ 0x108)) ||
  (decide (0x180 ≤ n) && decide (n ≤ 0x182)) || (decide (0x200 ≤ n) && decide (n ≤ 0x202)) ||
  (decide (0x400 ≤ n) && decide (n ≤ 0x403))

/-- mstatus written under its mask; MPP keeps its value where 2 is written. -/
def mstatusWrite (old v mask : Word) : Word :=
  let w := maskWrite old v mask
  if field w 11 2 = 2 then setField w 11 2 (field old 11 2) else w

/-- menvcfg or senvcfg under its mask; CBIE keeps its value where 10 is written. -/
def envWrite (old v mask : Word) : Word :=
  let w := maskWrite old v mask
  if field w 4 2 = 2 then setField w 4 2 (field old 4 2) else w

/-- tvec: a reserved MODE keeps the old one. -/
def tvecWrite (old v : Word) : Word := if field v 0 2 ≤ 1 then v else setField v 0 2 (field old 0 2)

/-- One byte of pmpcfg: a locked entry, W without R and NA4 keep the old value. -/
def pmpByte (old v : Nat) : Nat :=
  if old / 128 = 1 ∨ (v / 2 % 2 = 1 ∧ v % 2 = 0) ∨ v / 8 % 4 = 2 then old else v / 128 * 128 + v % 32

/-- Eight entries of pmpcfg. -/
def pmpCfgWrite (old v : Word) : Word :=
  BitVec.ofNat 64 (((List.range 8).map fun i => pmpByte (field old (8 * i) 8) (field v (8 * i) 8) * 2 ^ (8 * i)).sum)

/-- Configuration byte of entry `i`. -/
def Hart.pmpCfg (h : Hart) (i : Nat) : Nat := field (h.csrOf (0x3A0 + i / 8 * 2)) (8 * (i % 8)) 8

/-- pmpaddr `i` is locked: by its own entry, or by the next one in TOR mode. -/
def Hart.pmpLocked (h : Hart) (i : Nat) : Bool :=
  h.pmpCfg i / 128 == 1 || (decide (i < 15) && h.pmpCfg (i + 1) / 128 == 1 && h.pmpCfg (i + 1) / 8 % 4 == 1)

/-- satp: an unsupported MODE has no effect at all (R284); PPN high reads zero (R283). -/
def satpWritten (old v : Word) : Word :=
  if [0, 8, 9, 10].contains (field v 60 4) then v &&& 0xFFFFF0FFFFFFFFFF else old

/-- dcsr: ebreakm, ebreaks, ebreaku, stepie, step and prv are writable; prv 2 does not exist (R469, RISC-V debug). -/
def dcsrWrite (old v : Word) : Word :=
  let w := maskWrite old v 0xB807
  if field w 0 2 = 2 then setField w 0 2 (field old 0 2) else w

/-- Trigger `i`: tdata1 and tdata2. -/
def Hart.trigAt (h : Hart) (i : Nat) : Word × Word := tblGet (0x6000000000000000, 0) h.trig i
/-- The trigger may be written: one that debug mode claimed with dmode keeps its value outside it (Sdtrig). -/
def Hart.trigOpen (h : Hart) (i : Nat) : Bool := h.run == .debug || field (h.trigAt i).1 59 1 == 0
/-- A trigger set. -/
def Hart.withTrig (h : Hart) (i : Nat) (t : Word × Word) : Hart :=
  if h.trigOpen i then { h with trig := tblSet (0x6000000000000000, 0) h.trig i t } else h

/-- tdata1 of mcontrol6 (R469): type 6, match 0, timing before; dmode and action 1 only from debug mode; other types are not
selectable. -/
def tdata1Write (debug : Bool) (v : Word) : Word :=
  0x6000000000000000 ||| (v &&& (if debug then 0x80000000000105F else 0x5F))

/-- mnerr after a write (WARL, R201): a reserved SRC and a FORM that R181 does not list leave the field as it was (DESIGN CHOICE among the
legal values). -/
def mnerrWritten (old v : Word) : Word :=
  let src := if v.toNat % 16 ≤ 5 then v &&& 0xF else old &&& 0xF
  let form := if v.toNat / 256 % 256 ≤ 6 then v &&& 0xFF00 else old &&& 0xFF00
  (v &&& 0xC000000000000000) ||| form ||| src

/-- The hart with a CSR written under its WARL rules; a read-only CSR keeps its value. -/
def Hart.csrWritten (h : Hart) (n : Nat) (v : Word) : Hart :=
  if n = 0x001 then h.withCsr 0x003 (maskWrite (h.csrOf 0x003) v 0x1F)
  else if n = 0x002 then h.withCsr 0x003 (maskWrite (h.csrOf 0x003) (v <<< 5) 0xE0)
  else if n = 0x003 then h.withCsr 0x003 (v &&& 0xFF)
  else if n = 0x008 then h.withCsr n (v &&& 0x1FF)
  else if n = 0x009 then h.withCsr n (v &&& 1)
  else if n = 0x00A then h.withCsr n (v &&& 3)
  else if n = 0x00F then (h.withCsr 0x009 (v &&& 1)).withCsr 0x00A ((v >>> 1) &&& 3)
  else if n = 0x100 then h.withCsr 0x300 (mstatusWrite h.mstatus v 0xC6722)
  else if n = 0x300 then h.withCsr n (mstatusWrite h.mstatus v 0x7E7FAA)
  else if n = 0x104 then h.withCsr 0x304 (maskWrite (h.csrOf 0x304) v (h.csrOf 0x303 &&& 0xAAA))
  else if n = 0x144 then h.withCsr 0x344 (maskWrite (h.csrOf 0x344) v (h.csrOf 0x303 &&& 2))
  else if n = 0x344 ∨ n = 0x309 then h.withCsr 0x344 (maskWrite (h.csrOf 0x344) v h.mvipMask)
  else if n = 0x302 then h.withCsr n (v &&& 0xB3FF)
  else if n = 0x303 then h.withCsr n (v &&& 0x222)
  else if n = 0x304 then h.withCsr n (v &&& 0xAAA)
  else if n = 0x305 ∨ n = 0x105 then h.withCsr n (tvecWrite (h.csrOf n) v)
  else if n = 0x306 then h.withCsr n (v &&& 0xFFFFFFFF)
  else if n = 0x106 then h.withCsr n (v &&& 7)
  else if n = 0x30A then h.withCsr n (envWrite (h.csrOf n) v 0xE0000000000000F1)
  else if n = 0x10A then h.withCsr n (envWrite (h.csrOf n) v 0xF1)
  else if n = 0x320 then h.withCsr n (v &&& 0xFFFFFFFD)
  else if 0x323 ≤ n ∧ n ≤ 0x33F then
    h.withCsr n ((v &&& 0xF000000000000000) ||| (if isHartEvent (field v 0 12) then v &&& 0xFFF else 0))
  else if n = 0x341 ∨ n = 0x141 then h.withCsr n (v &&& ~~~(1 : Word))
  else if n = 0x350 ∨ n = 0x150 then h.withCsr n (v &&& 0xFF)
  else if n = 0x351 then { h with fileM := h.fileM.withReg (h.csrOf 0x350).toNat v }
  else if n = 0x151 then { h with fileS := h.fileS.withReg (h.csrOf 0x150).toNat v }
  else if n = 0x35C then { h with fileM := h.fileM.claim }
  else if n = 0x15C then { h with fileS := h.fileS.claim }
  else if n = 0x180 then h.withCsr n (satpWritten (h.csrOf n) v)
  else if n = 0x3A0 ∨ n = 0x3A2 then h.withCsr n (pmpCfgWrite (h.csrOf n) v)
  else if 0x3B0 ≤ n ∧ n ≤ 0x3BF then
    if h.pmpLocked (n - 0x3B0) then h else h.withCsr n (v &&& 0x3FFFFFFFFFFFFF)
  else if n = 0x7A0 then if v.toNat < 4 then h.withCsr n v else h
  else if n = 0x7A1 then
    h.withTrig (h.csrOf 0x7A0).toNat (tdata1Write (h.run == .debug) v, (h.trigAt (h.csrOf 0x7A0).toNat).2)
  else if n = 0x7A2 then
    h.withTrig (h.csrOf 0x7A0).toNat ((h.trigAt (h.csrOf 0x7A0).toNat).1, v)
  else if n = 0x7B0 then h.withCsr n (dcsrWrite (h.csrOf n) v)
  else if n = 0x7B1 then h.withCsr n (v &&& ~~~(1 : Word))
  else if n = 0x7C0 then h.withCsr n (v &&& 0x3F)
  else if n = 0x7C1 then h.withCsr n (mnerrWritten (h.csrOf n) v)
  else if n = 0x7C2 then h.withCsr n (v &&& 0xFFFFFFFFFFFF8)
  else if n = 0x7D0 ∨ n = 0x5D0 then h.withCsr n (v &&& 1)
  else if [0x140, 0x142, 0x143, 0x14D, 0x340, 0x342, 0x343, 0x7B2, 0x7B3, 0x7C3].contains n ∨
      (0xB00 ≤ n ∧ n ≤ 0xB1F) then h.withCsr n v
  else h

/-- Writing a floating-point or vector CSR makes that state dirty. -/
def Hart.csrDirty (h : Hart) (n : Nat) : Hart :=
  if n ≤ 0x003 then h.withCsr 0x300 (setField h.mstatus 13 2 3)
  else if 0x008 ≤ n ∧ n ≤ 0x00F then h.dirtyV else h

/-- A counter whose event is extended holds 0 while EXTEV is clear (R463): so after a write of it or of its event. -/
def Hart.extHeld (h : Hart) (extev : Bool) (n : Nat) : Hart :=
  let i := n % 0x20
  if ((0x323 ≤ n ∧ n ≤ 0x33F) ∨ (0xB03 ≤ n ∧ n ≤ 0xB1F)) ∧ extev = false ∧ 0x400 ≤ field (h.csrOf (0x320 + i)) 0 12 then
    h.withCsr (0xB00 + i) 0
  else h

/-- The CSR written in the state of the package. -/
def csrWrite (hart n : Nat) (v : Word) (s : State) : State :=
  setHart hart ((((heard s hart).csrWritten n v).csrDirty n).extHeld (getO s nP 0x2103 1 % 2 == 1) n) s

end Sys2Proof.Machine
end

