-- ==== Sys2Proof/Machine/Coherence.lean ====
section
/-! DEFINITION. The L2s and the directory (R252-R279, R302-R320): fills, victims, snoops, and the transactions of R314
carried out whole, for the accesses of cores and Vitrines. The messages one by one are in Concourse.lean. -/

namespace Sys2Proof.Machine

/-! L2 lines and directory entries. -/

def l2Key (g line : Nat) : Nat := g * 2 ^ 46 + line
def State.l2 (s : State) (g line : Nat) : L2Line := tblGet {} s.caches.l2 (l2Key g line)
def setL2 (g line : Nat) (x : L2Line) (s : State) : State :=
  { s with caches := { s.caches with l2 := tblSet {} s.caches.l2 (l2Key g line) x } }
def dirKey (dom line : Nat) : Nat := dom * 2 ^ 46 + line
def State.dirAt (s : State) (dom line : Nat) : DirEntry := tblGet {} s.conc.dir (dirKey dom line)
/-- Two lines share a home slice and set (R302). -/
def sameSet (a b : Nat) : Bool :=
  Config.homeSlice a % 32 == Config.homeSlice b % 32 && Config.homeSet a % 16384 == Config.homeSet b % 16384

/-- The way that a new entry of a line takes: the lowest free one of its set that is not faulty (R302, R326; DESIGN CHOICE: the spec names
no order). -/
def freeDirWay (s : State) (line : Nat) : Nat :=
  ((List.range 16).find? fun w => !s.conc.faultyWays.contains (Config.homeSlice line % 32 * 16 + w) &&
    !s.conc.dir.any fun e => e.2.way == w && sameSet (e.1 % 2 ^ 46) line).getD 0

/-- The way of a line's entry: the one it has, or a free one. -/
def dirWay (s : State) (dom line : Nat) : Nat :=
  if (s.dirAt dom line).holders = 0 then freeDirWay s line else (s.dirAt dom line).way

/-- An entry set, in its way; without holders it is free (R314). -/
def setDir (dom line : Nat) (e : DirEntry) (s : State) : State :=
  { s with conc := { s.conc with
      dir := tblSet {} s.conc.dir (dirKey dom line) (if e.holders = 0 then {} else { e with way := dirWay s dom line }) } }
/-- The galleries that an entry names. -/
def DirEntry.list (e : DirEntry) : List Nat := bitsOf 22 e.holders.toNat
/-- An entry that names one more gallery, or one fewer. -/
def DirEntry.plus (e : DirEntry) (g : Nat) : DirEntry := { e with holders := e.holders ||| (1#22 <<< g) }
def DirEntry.minus (e : DirEntry) (g : Nat) : DirEntry := { e with holders := e.holders &&& ~~~(1#22 <<< g) }
/-- The entry in state O of one owner. -/
def ownedBy1 (g : Nat) : DirEntry := { owned := true, holders := 1#22 <<< g }

/-- The copies of a line in the private caches of one hart removed, and its reservation of the line lost. -/
def Hart.dropLine (h : Hart) (line : Nat) : Hart :=
  { h with l1d := dropFrom h.l1d line, l1i := tblErase h.l1i line, lineBuf := h.lineBuf.filter (·.1 != line),
           reserved := if h.reserved = some line then none else h.reserved }

/-- Inclusion (R253): a gallery's L1 and line-buffer copies of a line removed. -/
def dropCopies (g line : Nat) (s : State) : State :=
  forAll (List.range 12) (fun i s => setHart (12 * g + i) ((s.hart (12 * g + i)).dropLine line) s) s

/-- A write to a line breaks the reservations that other harts of the gallery hold of it (R216, RISC-V A). -/
def breakReservations (hart line : Nat) (s : State) : State :=
  forAll (List.range 12) (fun i s =>
    let n := hart / 12 * 12 + i
    let h := s.hart n
    if n ≠ hart ∧ h.reserved = some line then setHart n { h with reserved := none } s else s) s

/-- Every L1 and line-buffer copy of a line in a gallery goes; reservations stay. -/
def dropPrivate (g line : Nat) (s : State) : State :=
  forAll (List.range 12) (fun i s =>
    let h := s.hart (12 * g + i)
    setHart (12 * g + i) { h.dropLine line with reserved := h.reserved } s) s

/-- An L2 removes a line. -/
def removeL2 (g line : Nat) (s : State) : State := dropCopies g line (setL2 g line {} s)

/-- Words of a line at an L2 marked as poison of form 02h (R176, R180). -/
def poisonL2 (g line : Nat) (words : BitVec 8) (s : State) : State :=
  let x := s.l2 g line
  setL2 g line { x with copy := mkLine (lineByte x.copy.data) fun w => if words.getLsbD w then 2 else x.copy.form w } s

/-! Modules and credits (R39, R42, R307-R309). -/

/-- The share of each trained module of a gallery, in eighths of lanes: its numbers, each once for every eight lanes of its width. -/
def moduleShares (s : State) (g : Nat) : List Nat :=
  (List.range 4).flatMap fun m => List.replicate (getO s (nGal g) (0x6010 + m) 1 / 8) m

/-- The module on which every message of a line travels while the widths stand (R39); each share takes one line of every aligned
range of as many lines as there are shares (DESIGN CHOICE: how even the hash is over fewer lines). -/
def moduleOf (s : State) (g line : Nat) : Nat :=
  let l := moduleShares s g
  let n := l.length
  if n ≤ 1 then l.headD 0 else l.getD ((orderOf n (Config.moduleOrder n (line / n))).getD (line % n) 0) 0

/-- The gallery of an agent. -/
def agentGallery : CohAgent → Nat
  | .l2 g => g
  | .hart h => h / 12
  | .vitrine v => v / 3

/-- The gallery that sends a message or to which it goes. -/
def Msg.gallery : Msg → Nat
  | .snp _ g _ _ => g
  | .rsp _ g _ _ => g
  | .snpData g _ _ _ => g
  | .wbd g _ _ _ => g
  | .data a _ _ _ _ => agentGallery a
  | .cmp a _ _ _ _ => agentGallery a
  | .wbAck g _ _ => g
  | .ack g _ _ => g

/-- The domain of a message. -/
def Msg.dom : Msg → Nat
  | .snp _ _ _ p => p
  | .rsp _ _ _ p => p
  | .snpData _ _ p _ => p
  | .wbd _ _ p _ => p
  | .data _ _ p _ _ => p
  | .cmp _ _ p _ _ => p
  | .wbAck _ _ p => p
  | .ack _ _ p => p

/-- The line of a message. -/
def Msg.line : Msg → Nat
  | .snp _ _ l _ => l
  | .rsp _ _ l _ => l
  | .snpData _ l _ _ => l
  | .wbd _ l _ _ => l
  | .data _ l _ _ _ => l
  | .cmp _ l _ _ _ => l
  | .wbAck _ l _ => l
  | .ack _ l _ => l

/-- The credit pool of a message (R308), one class in one direction. -/
def Msg.pool : Msg → Nat
  | .wbd _ _ _ _ => 2
  | .rsp _ _ _ _ => 3
  | .ack _ _ _ => 3
  | .snpData _ _ _ _ => 4
  | .snp _ _ _ _ => 5
  | .cmp _ _ _ _ _ => 6
  | .wbAck _ _ _ => 6
  | .data _ _ _ _ _ => 7

/-- Credits of a pool of a module: none at width 0 (R308). -/
def poolTotal (s : State) (g m pool : Nat) : Nat := if getO s (nGal g) (0x6010 + m) 1 = 0 then 0 else poolCredits (pool - 1)

/-- Messages of one pool of a module: sent or about to be sent, and not yet consumed. REQs wait at their slice (R312). -/
def poolUse (s : State) (g m pool : Nat) : Nat :=
  if pool = 1 then (s.conc.waiting.filter fun w => w.1 == m && agentGallery w.2.2.agent == g).length
  else (s.conc.msgs.filter fun x => x.1 == m && x.2.gallery == g && x.2.pool == pool).length

/-- Credits held at the receiver; messages beyond the pool wait at their sender in order (R307, R308). -/
def poolHeld (s : State) (g m pool : Nat) : Nat := min (poolUse s g m pool) (poolTotal s g m pool)

/-- Lines of a gallery whose grant, and so whose Ack, is still to come on a module (R307). -/
def acksReserved (s : State) (g m : Nat) : Nat :=
  (s.caches.l2.filter fun e => e.1 / 2 ^ 46 == g && (e.2.st == .ip || e.2.st == .sp) && moduleOf s g (e.1 % 2 ^ 46) == m).length

/-- A gallery may send a REQ for a line: it is not fenced, and the module has a credit (R42, R308). -/
def mayAsk (s : State) (g line : Nat) : Bool :=
  let m := moduleOf s g line
  !fenced s g && decide (poolUse s g m 1 < poolTotal s g m 1)

/-- It may send one that a grant answers: an RSP credit for the Ack is reserved first (R307). -/
def maySend (s : State) (g line : Nat) : Bool :=
  let m := moduleOf s g line
  mayAsk s g line && decide (acksReserved s g m + poolUse s g m 3 < poolTotal s g m 3)

/-- A gallery may send a WbD for a line. -/
def mayWriteBack (s : State) (g line : Nat) : Bool :=
  let m := moduleOf s g line
  !fenced s g && decide (poolUse s g m 2 < poolTotal s g m 2)

/-! Memory as a slice reaches it. -/

/-- A slice's read of a line. -/
abbrev sliceRead (line : Nat) (f : Finding) (s : State) : State × LineData := ctlRead line f s
/-- A slice's write of a whole line with its marks, which gallery `g` gave. -/
abbrev sliceWriteback (g line : Nat) (d : LineData) (s : State) : State := ctlWriteback (.l2 g) line d s
/-- A slice's write of the masked bytes of a line for gallery `g`. -/
abbrev sliceWrite (g line : Nat) (data : Line) (mask : BitVec 64) (whole : BitVec 8) (s : State) : State :=
  ctlWrite .demand (.l2 g) line data mask whole .clean s

/-- A writeback reaches the slice (R315): written and G leaves HOLDERS, or discarded and counted when no entry names G. -/
def acceptWbd (g dom line : Nat) (d : LineData) (s : State) : State :=
  if (s.dirAt dom line).holders.getLsbD g then
    setDir dom line ((s.dirAt dom line).minus g) (sliceWriteback g line d s)
  else addO nC 0x6800 9 1 s

/-! Ways (R258-R276). -/

def waysInForce (s : State) (g p : Nat) : Nat := getO s (nGal g) 0x6101 (p + 1)
def wayState (s : State) (g w : Nat) : Nat := getO s (nGal g) 0x6110 (w + 1)
/-- The line held in a way of a set. -/
def slotLine (s : State) (g w set : Nat) : Option Nat :=
  (s.caches.l2.find? fun e => e.1 / 2 ^ 46 == g && e.1 % 2 ^ 14 == set && e.2.way == w).map (·.1 % 2 ^ 46)
/-- The ways in which a partition's fills may take a victim. -/
def normalWays (s : State) (g p : Nat) : List Nat :=
  (List.range 16).filter fun w => (waysInForce s g p).testBit w && wayState s g w == 0 && !s.caches.closing.contains (g, w)
/-- No-allocate operation (R267). -/
def noAllocate (s : State) (g p : Nat) : Bool := (normalWays s g p).isEmpty
/-- The PRELOAD way that a fill of the preloading core goes into (R272). -/
def preloadWay (s : State) (g p line core : Nat) : Option Nat :=
  (List.range 16).find? fun w => (waysInForce s g p).testBit w && wayState s g w == 1 &&
    tblGet 0 s.caches.preloadCore g == core && (slotLine s g w (line % 16384)).isNone

/-- The tree walk of the pseudo-LRU over the candidates. -/
def plruWalk (bits : Nat) (cand : Nat → Bool) : Nat → Nat → Nat → Nat
  | 0, _, lo => lo
  | d + 1, node, lo =>
    let left := (List.range (2 ^ d)).any fun i => cand (lo + i)
    let right := (List.range (2 ^ d)).any fun i => cand (lo + 2 ^ d + i)
    if !left || (right && bits.testBit node) then plruWalk bits cand d (2 * node + 2) (lo + 2 ^ d)
    else plruWalk bits cand d (2 * node + 1) lo

/-- The tree bits after a use of way `w`: every node on its path points away from it. -/
def plruTouchBits (w : Nat) : Nat → Nat → Nat → Nat → Nat
  | 0, _, _, bits => bits
  | d + 1, node, lo, bits =>
    if w < lo + 2 ^ d then plruTouchBits w d (2 * node + 1) lo (setBit bits node)
    else plruTouchBits w d (2 * node + 2) (lo + 2 ^ d) (clrBit bits node)

/-- A use of a way of a line's set. -/
def touchWay (g w line : Nat) (s : State) : State :=
  let k := g * 2 ^ 14 + line % 16384
  { s with caches := { s.caches with plru := tblSet 0 s.caches.plru k (plruTouchBits w 4 0 0 (tblGet 0 s.caches.plru k)) } }

/-- The place of a pending line whose way was emptied: none of the sixteen. -/
abbrev noWay : Nat := 16

/-- A line in a pending state of R310. -/
def L2Line.pendingSt (x : L2Line) : Bool := x.st == .ip || x.st == .sp || x.st == .wp

/-- A miss entry of a set has a way chosen and waits for the writeback of its victim (R259). -/
def wayTaken (s : State) (g set w : Nat) : Bool :=
  s.caches.misses.any fun e => e.1 / 2 ^ 46 == g && e.1 % 2 ^ 14 == set && e.2.way == w

/-- The slot of a line holds a copy: no fill and no acknowledgement of its writeback is pending. -/
def L2Line.holdsCopy (x : L2Line) : Bool := x.st == .s || x.st == .e || x.st == .m || x.st == .sp

/-- The way and victim of a fill (R258, R272); none while every candidate holds a pending line or waits for a writeback. -/
def chooseWay (s : State) (g p line : Nat) (core : Option Nat) : Option (Nat × Option Nat) :=
  let set := line % 16384
  match core.bind (preloadWay s g p line) with
  | some w => some (w, none)
  | none =>
    let ways := (normalWays s g p).filter fun w => !wayTaken s g set w && (match slotLine s g w set with
      | some l => !(s.l2 g l).pendingSt
      | none => true)
    match ways.find? fun w => (slotLine s g w set).isNone with
    | some w => some (w, none)
    | none =>
      if ways.isEmpty then none
      else
        let w := plruWalk (tblGet 0 s.caches.plru (g * 2 ^ 14 + set)) ways.contains 4 0 0
        some (w, slotLine s g w set)

/-- One of the 64 miss entries of an L2 is free (R259): fills pending and misses that wait take one each. -/
def missFree (s : State) (g : Nat) : Bool :=
  decide ((s.caches.l2.filter fun e => e.1 / 2 ^ 46 == g && e.2.st == .ip).length +
    (s.caches.misses.filter fun e => e.1 / 2 ^ 46 == g).length < 64)

/-- A victim leaves the L2 (R259): dirty ones are written back first, clean ones dropped silently. -/
def evictL2 (g line : Nat) (s : State) : State :=
  let x := s.l2 g line
  if x.st = .m then acceptWbd g x.dom line x.copy (removeL2 g line s)
  else if x.st = .s ∨ x.st = .e then removeL2 g line s
  else s

/-! Snoops (R310, R318). -/

/-- State kept and answer of an L2. -/
def snoopTable : SnpKind → L2St → L2St × RspKind
  | _, .i => (.i, .miss)
  | _, .ip => (.ip, .miss)
  | _, .wp => (.wp, .wb)
  | .s, .s => (.s, .s)
  | .s, .e => (.s, .s)
  | .s, .m => (.s, .d)
  | .s, .sp => (.sp, .s)
  | .x, .m => (.i, .d)
  | .x, .sp => (.ip, .i)
  | .x, _ => (.i, .i)
  | .inv, .sp => (.ip, .i)
  | .inv, _ => (.i, .i)
  | .cln, .s => (.s, .s)
  | .cln, .e => (.e, .e)
  | .cln, .m => (.e, .d)
  | .cln, .sp => (.sp, .s)

/-- An L2 answers a snoop: the state with its line changed, the answer, the data it held. -/
def snoopL2 (k : SnpKind) (g dom line : Nat) (s : State) : State × RspKind × LineData :=
  let x := s.l2 g line
  if x.st = .i ∨ x.dom ≠ dom then (s, .miss, {})
  else
    let (st, r) := snoopTable k x.st
    let s1 := if st = .i then removeL2 g line s
      else if st = .ip ∧ x.st ≠ .ip then dropCopies g line (setL2 g line { x with st := .ip } s)
      else setL2 g line { x with st := st } s
    (s1, r, x.copy)

/-- A stale holder's answer (R318): its bit is cleared and the miss counted. -/
def staleHolder (g dom line : Nat) (s : State) : State :=
  let s1 := addO nC 0x6800 5 1 (setDir dom line ((s.dirAt dom line).minus g) s)
  pkgEvent 0x882 (some dom) (Config.homeSlice line % 32) 1
    { s1 with conc := { s1.conc with stale := tblSet 0 s1.conc.stale dom (tblGet 0 s1.conc.stale dom + 1) } }

/-- What one holder's answer leaves: the entry without the holders that gave the line up, the data of a dirty copy, and
whether it keeps a copy. -/
def snoopHolder (k : SnpKind) (dom line g : Nat) (s : State) : State × Option LineData × Bool :=
  match snoopL2 k g dom line s with
  | (s1, .miss, _) => (staleHolder g dom line s1, none, false)
  | (s1, .i, _) => (setDir dom line ((s1.dirAt dom line).minus g) s1, none, false)
  | (s1, .d, d) =>
    if (s1.l2 g line).st = .i then (setDir dom line ((s1.dirAt dom line).minus g) s1, some d, false)
    else (s1, some d, true)
  | (s1, _, _) => (s1, none, true)

/-- Every holder named removes its copy; dirty data is discarded (SnpInv). -/
def invalidateAll (dom line : Nat) (gs : List Nat) (s : State) : State :=
  forAll gs (fun g s => (snoopHolder .inv dom line g s).1) s

/-! Transactions (R312-R319). -/

/-- The entry is pinned. -/
def pinned (s : State) (k : Nat) : Bool := (tblFind s.conc.tx k).isSome || s.conc.tx.any fun t => t.2.backInv == some k

/-- Snoops to this L2 for this line are held for an LR (R311). -/
def lrHeld (s : State) (g line : Nat) : Bool := decide (now s < tblGet 0 s.caches.lrHold (l2Key g line))

/-- Slots that a transaction and the REQs behind it hold (R312, R313). -/
def Tx.slots (t : Tx) : Nat := 1 + t.queue.length + t.victimQueue.length

/-- Of these, the slots of the domains that `p` holds of: a REQ for the line of a victim is of the victim's domain. -/
def slotsOf (p : Nat → Bool) (t : Nat × Tx) : Nat :=
  (if p (t.1 / 2 ^ 46) then 1 + t.2.queue.length else 0) +
    (match t.2.backInv with
      | some v => if p (v / 2 ^ 46) then t.2.victimQueue.length else 0
      | none => 0)

/-- Slots held on the slice of a line. -/
def openOnSlice (s : State) (line : Nat) : Nat :=
  (s.conc.tx.map fun t =>
    if Config.homeSlice (t.1 % 2 ^ 46) % 32 == Config.homeSlice line % 32 then t.2.slots else 0).sum

/-- Slots held by domains (R329). -/
def slotsHeld (s : State) (p : Nat → Bool) : Nat := (s.conc.tx.map (slotsOf p)).sum

/-- A slot is free for a REQ of the line. -/
def slotFree (s : State) (line : Nat) : Bool := decide (slotsHeld s (fun _ => true) < 512) || decide (openOnSlice s line < 512)

/-- Whom a request snoops and how, by the state of the entry (R314). The recorded owner that is the asking L2 itself is no
other holder; CRd, CWr and CMO snoop every holder. -/
def snoopPlan (e : DirEntry) (k : ReqKind) (g : Nat) : Option (SnpKind × List Nat) :=
  let others := e.list.filter (· != g)
  let plan := fun (sk : SnpKind) (l : List Nat) => if l.isEmpty then none else some (sk, l)
  match k with
  | .rdS => if e.owned then plan .s others else none
  | .rdX => if e.owned then plan .x others else plan .inv others
  | .upg => if e.owned then plan .x others else plan .inv others
  | .claimZ => plan .inv others
  | .crd => if e.owned then plan .cln e.list else none
  | .cwrFull => plan .inv e.list
  | .cwrPart => if e.owned then plan .x e.list else plan .inv e.list
  | .cmoClean => if e.owned then plan .cln e.list else none
  | .cmoFlush => if e.owned then plan .x e.list else plan .inv e.list
  | .cmoInval => plan .inv e.list

/-- The galleries that a request of gallery `g` for a line snoops. -/
def snooped (s : State) (k : ReqKind) (g dom line : Nat) : List Nat :=
  match snoopPlan (s.dirAt dom line) k g with
  | some (_, l) => l
  | none => []

/-- A transaction of the line that snoops some galleries cannot run whole now: one is open, some L2 has the line in a pending state, or
one of those galleries is fenced or holds its snoops (R311, R322). -/
def lineBusy (s : State) (dom line : Nat) (gs : List Nat) : Bool :=
  pinned s (dirKey dom line) || (List.range 22).any (fun g => (s.l2 g line).pendingSt) ||
    gs.any fun g => fenced s g || lrHeld s g line

/-- The entry of a transaction's line where it holds one, and the entry that it victimises. -/
def Tx.pins (t : Nat × Tx) : List Nat := (if t.2.entry then [t.1] else []) ++ t.2.backInv.toList

/-- Keys of entries in use: those that name a holder, and those that an open transaction pins (R312, R319). -/
def entriesUsed (s : State) : List Nat :=
  s.conc.dir.map (·.1) ++ (s.conc.tx.flatMap Tx.pins).filter fun k => (tblFind s.conc.dir k).isNone

/-- The set of a line has no free entry; faulty ways take none (R326). -/
def setFull (s : State) (line : Nat) : Bool :=
  decide (16 ≤ (entriesUsed s).length + s.conc.faultyWays.length) &&
    decide (16 ≤ ((entriesUsed s).filter fun k => sameSet (k % 2 ^ 46) line).length +
      (s.conc.faultyWays.filter fun w => w / 16 == Config.homeSlice line % 32).length)

/-- The entries that may be victimised (R319): unpinned, none with a fenced holder where there is a choice, S before O. -/
def victims (s : State) (line : Nat) : List Nat :=
  let l := s.conc.dir.filter fun e => sameSet (e.1 % 2 ^ 46) line && !pinned s e.1
  let clear := l.filter fun e => !(e.2.list.any (fenced s))
  let l1 := if clear.isEmpty then l else clear
  let sh := l1.filter fun e => !e.2.owned
  (if sh.isEmpty then l1 else sh).map (·.1)

/-- The victim: the one named where it may be taken, otherwise an open choice among those that may. -/
def chooseVictim (want : Option Nat) (line : Nat) (s : State) : State × Option Nat :=
  let l := victims s line
  match want.filter l.contains with
  | some k => (s, some k)
  | none => match l with
    | [] => (s, none)
    | k0 :: _ =>
      let (s1, v) := takeFree s
      (s1, some (l.getD (v.toNat % l.length) k0))

/-- Counts of a back-invalidation of an entry's domain. -/
def countBackInv (k : Nat) (s : State) : State :=
  let dom := k / 2 ^ 46
  let s1 := addO nC 0x6800 4 1 s
  pkgEvent 0x881 (some dom) (Config.homeSlice (k % 2 ^ 46) % 32) 1
    { s1 with conc := { s1.conc with binv := tblSet 0 s1.conc.binv dom (tblGet 0 s1.conc.binv dom + 1) } }

/-- A back-invalidation carried out whole (R319): SnpX to every holder, dirty data written, the entry freed. -/
def backInvalidate (k : Nat) (s : State) : State :=
  let dom := k / 2 ^ 46
  let line := k % 2 ^ 46
  let s1 := forAll (s.dirAt dom line).list (fun g s =>
    match snoopHolder .x dom line g s with
    | (s1, some d, _) => sliceWriteback g line d s1
    | (s1, none, _) => s1) s
  countBackInv k (setDir dom line {} s1)

/-- A set-full wait is counted (R319). -/
def countSetFull (dom line : Nat) (s : State) : State :=
  pkgEvent 0x883 (some dom) (Config.homeSlice line % 32) 1 (addO nC 0x6800 6 1 s)

/-- The wait of a gallery's fill for an entry, counted once however often the access is tried again. -/
def noteFull (g dom line : Nat) (s : State) : State :=
  if s.conc.fullWaits.contains (g, dirKey dom line) then s
  else countSetFull dom line { s with conc := { s.conc with fullWaits := s.conc.fullWaits ++ [(g, dirKey dom line)] } }

/-- The wait is over. -/
def endFullWait (g dom line : Nat) (s : State) : State :=
  { s with conc := { s.conc with fullWaits := s.conc.fullWaits.filter (· != (g, dirKey dom line)) } }

/-- The state before an access that waits, with the set-full waits that the access met. -/
def carryWaits (met s : State) : State :=
  forAll met.conc.fullWaits (fun x s => noteFull x.1 (x.2 / 2 ^ 46) (x.2 % 2 ^ 46) s) s

/-- Room for an entry of the line; false: the fill of gallery `g` waits. -/
def makeRoom (g dom line : Nat) (want : Option Nat) (s : State) : State × Bool :=
  if (s.dirAt dom line).holders ≠ 0 ∨ setFull s line = false then (endFullWait g dom line s, true)
  else match chooseVictim want line s with
    | (s1, none) => (noteFull g dom line s1, false)
    | (s1, some k) =>
      if lineBusy s1 (k / 2 ^ 46) (k % 2 ^ 46) (s1.dirAt (k / 2 ^ 46) (k % 2 ^ 46)).list then (s1, false)
      else (backInvalidate k (endFullWait g dom line s1), true)

/-- A transaction is opened: package event 880h. -/
def countTx (dom line : Nat) (s : State) : State := pkgEvent 0x880 (some dom) (Config.homeSlice line % 32) 1 s

/-- The owner other than G of an entry in state O. -/
def otherOwner (e : DirEntry) (g : Nat) : Option Nat :=
  if e.owned then e.list.find? (· != g) else none

/-- RdS (R314): the line, the grant, and whether another gallery's M copy served it. -/
def serveRdS (g dom line : Nat) (f : Finding) (s : State) : State × LineData × L2St × Bool :=
  let e := s.dirAt dom line
  match otherOwner e g with
  | none =>
    let (s1, d) := sliceRead line f s
    if e.holders ≠ 0 ∧ !e.owned then (setDir dom line (e.plus g) s1, d, .s, false)
    else (setDir dom line (ownedBy1 g) s1, d, .e, false)
  | some h =>
    match snoopHolder .s dom line h s with
    | (s1, some d, _) =>
      (setDir dom line { owned := false, holders := (1#22 <<< h) ||| (1#22 <<< g) } (sliceWriteback h line d s1), d, .s, true)
    | (s1, none, true) =>
      let (s2, d) := sliceRead line f s1
      (setDir dom line { owned := false, holders := (1#22 <<< h) ||| (1#22 <<< g) } s2, d, .s, false)
    | (s1, none, false) =>
      let (s2, d) := sliceRead line f s1
      (setDir dom line (ownedBy1 g) s2, d, .e, false)

/-- A write of a line ends the reservations of it outside the galleries named: where no L2 holds the line, no snoop does. -/
def loseReservations (line : Nat) (keep : Nat → Bool) (s : State) : State :=
  forAll ((s.harts.filter fun e => e.2.reserved == some line && !keep (e.1 / 12)).map (·.1)) (fun h s =>
    setHart h { s.hart h with reserved := none } s) s

/-- RdX (R314). -/
def serveRdX (g dom line : Nat) (f : Finding) (s : State) : State × LineData × Bool :=
  let s := loseReservations line (· == g) s
  let e := s.dirAt dom line
  match otherOwner e g with
  | none =>
    let s1 := if e.owned then s else invalidateAll dom line (e.list.filter (· != g)) s
    let (s2, d) := sliceRead line f s1
    (setDir dom line (ownedBy1 g) s2, d, false)
  | some h =>
    match snoopHolder .x dom line h s with
    | (s1, some d, _) => (setDir dom line (ownedBy1 g) s1, d, true)
    | (s1, none, _) =>
      let (s2, d) := sliceRead line f s1
      (setDir dom line (ownedBy1 g) s2, d, false)

/-- Upg of a holder, and ClaimZ (R314): every other copy is removed and M granted without data. -/
def serveClaim (g dom line : Nat) (s : State) : State :=
  setDir dom line (ownedBy1 g) (invalidateAll dom line ((s.dirAt dom line).list.filter (· != g))
    (loseReservations line (· == g) s))

/-- A transaction of gallery `g` on a line can run whole now: the gallery may send, a slot is free, and the line is not busy. -/
def canRun (s : State) (k : ReqKind) (g dom line : Nat) : Bool :=
  maySend s g line && slotFree s line && !lineBusy s dom line (snooped s k g dom line)

/-- CRd of an agent on gallery `g` (R314): a coherent read that allocates nowhere; none: it waits. -/
def cohRead (g dom line : Nat) (f : Finding) (s : State) : State × Option LineData :=
  if !canRun s .crd g dom line then (s, none)
  else
    let s0 := countTx dom line s
    let e := s0.dirAt dom line
    match if e.owned then e.list.head? else none with
    | none =>
      let (s1, d) := sliceRead line f s0
      (s1, some d)
    | some h =>
      match snoopHolder .cln dom line h s0 with
      | (s1, some d, _) => (sliceWriteback h line d s1, some d)
      | (s1, none, _) =>
        let (s2, d) := sliceRead line f s1
        (s2, some d)

/-- CWr of an agent on gallery `g` (R314), full or partial: a drained store is partial, whatever its mask (R305); false: it waits. -/
def cohWrite (g dom line : Nat) (full : Bool) (data : Line) (mask : BitVec 64) (whole : BitVec 8) (s : State) : State × Bool :=
  if !canRun s .cwrPart g dom line then (s, false)
  else
    let s0 := countTx dom line (loseReservations line (fun _ => false) s)
    let e := s0.dirAt dom line
    if full then
      (setDir dom line {} (sliceWrite g line data (BitVec.allOnes 64) 0xFF#8 (invalidateAll dom line e.list s0)), true)
    else match if e.owned then e.list.head? else none with
      | none => (setDir dom line {} (sliceWrite g line data mask whole (invalidateAll dom line e.list s0)), true)
      | some h =>
        match snoopHolder .x dom line h s0 with
        | (s1, some d, _) => (setDir dom line {} (sliceWriteback g line (mergeLine d data mask whole) s1), true)
        | (s1, none, _) => (setDir dom line {} (sliceWrite g line data mask whole s1), true)

/-- The cache-block operations of the Concourse (R261, R314); false: it waits. -/
def cohMaintain (k : ReqKind) (g dom line : Nat) (s : State) : State × Bool :=
  if !canRun s k g dom line then (s, false)
  else
    let s0 := countTx dom line s
    let e := s0.dirAt dom line
    match k, (if e.owned then e.list.head? else none) with
    | .cmoClean, some h =>
      match snoopHolder .cln dom line h s0 with
      | (s1, some d, _) => (sliceWriteback h line d s1, true)
      | (s1, none, true) => (s1, true)
      | (s1, none, false) => (setDir dom line {} s1, true)
    | .cmoClean, none => (s0, true)
    | .cmoFlush, some h =>
      match snoopHolder .x dom line h s0 with
      | (s1, some d, _) => (setDir dom line {} (sliceWriteback h line d s1), true)
      | (s1, none, _) => (setDir dom line {} s1, true)
    | _, _ => (setDir dom line {} (invalidateAll dom line e.list s0), true)

/-! Accesses of a hart at its gallery's L2. -/

/-- A fill of the L2 for a hart: way and victim, then the transaction; false: it waits. `want`: S or E, M with data, or
M with zeros. -/
def l2Fill (hart line : Nat) (demand : Bool) (want : ReqKind) (f : Finding) (s : State) : State × Bool :=
  let g := hart / 12
  let p := (partOfHart s hart).getD 0
  if !canRun s want g p line || !missFree s g || (tblFind s.caches.misses (l2Key g line)).isSome then (s, false)
  else match chooseWay s g p line (if demand then some (hart % 12) else none) with
    | none => (s, false)
    | some (w, victim) =>
      let dirty : Bool := match victim with
        | none => false
        | some v => (s.l2 g v).st == .m && !mayWriteBack s g v
      let s1 := hartEvent hart 0x180 1 s
      let s2 := match victim with
        | none => s1
        | some v => evictL2 g v (onlyIf ((s1.l2 g v).st == .m) (hartEvent hart 0x181 1) s1)
      let s3 := onlyIf (wayState s2 g w == 1) (hartEvent hart 0x182 1) s2
      if dirty then (s, false)
      else match makeRoom g p line none s3 with
      | (s4, false) => (s4, false)
      | (s4, true) =>
        let s5 := countTx p line s4
        let done := fun (st : L2St) (d : LineData) (fromM : Bool) (t : State) =>
          (onlyIf fromM (hartEvent hart 0x200 1)
            (touchWay g w line (setL2 g line { st := st, dom := p, way := w, copy := d } t)), true)
        match want with
        | .rdS =>
          let (t, d, st, fromM) := serveRdS g p line f s5
          done st d fromM t
        | .rdX =>
          let (t, d, fromM) := serveRdX g p line f s5
          done .m d fromM t
        | _ => done .m {} false (serveClaim g p line s5)

/-- A load, fetch or walk reads a line at the L2, or through the Concourse in no-allocate operation (R267); none: waits. -/
def l2Read (hart line : Nat) (demand : Bool) (f : Finding) (s : State) : State × Option LineData :=
  let g := hart / 12
  let x := s.l2 g line
  match x.st with
  | .ip => (s, none)
  | .wp => (s, none)
  | .i =>
    if noAllocate s g ((partOfHart s hart).getD 0) then cohRead g ((partOfHart s hart).getD 0) line f s
    else match l2Fill hart line demand .rdS f s with
      | (t, true) => (t, some (t.l2 g line).copy)
      | (t, false) => (t, none)
  | _ => (touchWay g x.way line s, some x.copy)

/-- The L2 takes the line in state M (R310); false: waits. -/
def l2Own (hart line : Nat) (f : Finding) (s : State) : State × Bool :=
  let g := hart / 12
  let x := s.l2 g line
  match x.st with
  | .m => (touchWay g x.way line s, true)
  | .e => (touchWay g x.way line (setL2 g line { x with st := .m } s), true)
  | .s =>
    if !canRun s .upg g x.dom line then (s, false)
    else
      let s1 := countTx x.dom line (hartEvent hart 0x201 1 s)
      if (s1.dirAt x.dom line).holders.getLsbD g then
        (touchWay g x.way line (setL2 g line { x with st := .m } (serveClaim g x.dom line s1)), true)
      else
        let (t, d, _) := serveRdX g x.dom line f s1
        (touchWay g x.way line (setL2 g line { x with st := .m, copy := d } t), true)
  | .i => l2Fill hart line true .rdX f s
  | _ => (s, false)

/-- A drained store (R214, R267): merged at the L2 in state M, or sent as a coherent write; false: waits. -/
def l2Store (hart line : Nat) (data : Line) (mask : BitVec 64) (whole : BitVec 8) (s : State) : State × Bool :=
  let g := hart / 12
  let p := (partOfHart s hart).getD 0
  if (s.l2 g line).st = .i ∧ noAllocate s g p = true then cohWrite g p line false data mask whole s
  else match l2Own hart line .clean s with
    | (t, false) => (t, false)
    | (t, true) =>
      let x := t.l2 g line
      (breakReservations hart line (setL2 g line { x with copy := mergeLine x.copy data mask whole } t), true)

/-- The line that an L2 holds is zeroed in state M, and every other copy in the gallery goes. -/
def zeroLine (hart line : Nat) (s : State) : State :=
  let g := hart / 12
  let x := s.l2 g line
  breakReservations hart line (dropPrivate g line (touchWay g x.way line (setL2 g line { x with st := .m, copy := {} } s)))

/-- cbo.zero at the L2 (R261): the line in state M, every byte zero, every other copy removed; false: waits. -/
def l2Zero (hart line : Nat) (s : State) : State × Bool :=
  let g := hart / 12
  let p := (partOfHart s hart).getD 0
  let x := s.l2 g line
  match x.st with
  | .i =>
    if noAllocate s g p then cohWrite g p line true 0 (BitVec.allOnes 64) 0xFF#8 s
    else l2Fill hart line true .claimZ .clean s
  | .s =>
    if !canRun s .claimZ g x.dom line then (s, false)
    else (zeroLine hart line (serveClaim g x.dom line (countTx x.dom line s)), true)
  | .e => (zeroLine hart line s, true)
  | .m => (zeroLine hart line s, true)
  | _ => (s, false)

end Sys2Proof.Machine
end

