-- ==== Sys2Proof/Machine/Translate.lean ====
section
/-! DEFINITION. Address translation and the checks on every access (R282-R301): the walk, A and D updates, the
translation caches, PMP, attributes and the partition check. -/

namespace Sys2Proof.Machine

/-- Kinds of access, by the exceptions they raise. -/
inductive AccKind where
  | fetch | load | store
deriving DecidableEq, Repr

def AccKind.pageFault : AccKind → Nat
  | .fetch => 12 | .load => 13 | .store => 15
def AccKind.accessFault : AccKind → Nat
  | .fetch => 1 | .load => 5 | .store => 7
def AccKind.misaligned : AccKind → Nat
  | .fetch => 0 | .load => 4 | .store => 6

/-- What a leaf and PMP must permit; `manage` is a cache-block operation that needs only read permission. -/
inductive Perm where
  | x | r | w | manage
deriving DecidableEq, Repr

/-- An access as the checks see it: kind, permission, whether it is a store, AMO or SC (it needs D), and whether it is a
plain scalar load or store, which alone may reach the device-attribute region (R151). `walk`: what memory finds at the first line that
its walk reads there (R291). -/
structure Access where
  kind : AccKind
  perm : Perm
  dirty : Bool := false
  plain : Bool := false
  walk : Finding := .clean
deriving DecidableEq, Repr

def fetchAccess : Access := { kind := .fetch, perm := .x }
def loadAccess : Access := { kind := .load, perm := .r, plain := true }
def storeAccess : Access := { kind := .store, perm := .w, dirty := true, plain := true }
def amoAccess : Access := { kind := .store, perm := .w, dirty := true }
def lrAccess : Access := { kind := .load, perm := .r }
def vecLoadAccess : Access := { kind := .load, perm := .r }
def vecStoreAccess : Access := { kind := .store, perm := .w, dirty := true }
def cboAccess (writes : Bool) : Access := { kind := .store, perm := if writes then .w else .manage }
def cboZeroAccess : Access := { kind := .store, perm := .w, dirty := true }

/-! PMP (R195, R286). -/

/-- The address range of PMP entry `i`, none while it is off. -/
def Hart.pmpRange (h : Hart) (i : Nat) : Option (Nat × Nat) :=
  let a := fun (j : Nat) => (h.csrOf (0x3B0 + j)).toNat / 1024 * 4096
  match h.pmpCfg i / 8 % 4 with
  | 1 => some (if i = 0 then 0 else a (i - 1), a i)
  | 3 =>
    let v := (h.csrOf (0x3B0 + i)).toNat ||| 0x1FF
    let ones := ((List.range 55).find? fun j => !v.testBit j).getD 54
    let size := 2 ^ (ones + 3)
    some (v * 4 / size * size, v * 4 / size * size + size)
  | _ => none

/-- PMP permits an access of a privilege mode. The lowest-numbered matching entry decides. -/
def Hart.pmpOk (h : Hart) (priv : Priv) (a : Nat) (perm : Perm) : Bool :=
  match (List.range 16).find? fun i => match h.pmpRange i with
      | some (lo, hi) => decide (lo ≤ a) && decide (a < hi)
      | none => false with
  | none => priv == .m
  | some i =>
    let c := h.pmpCfg i
    (priv == .m && c / 128 == 0) ||
      (match perm with
        | .r => c.testBit 0
        | .w => c.testBit 1
        | .x => c.testBit 2
        | .manage => c.testBit 0 || c.testBit 1)

/-! Attributes and ownership (R151, R152, R286). -/

/-- A page of the device-attribute region that the partition configuration assigns to partition `p`. -/
def ownsPage (s : State) (p : Nat) : DevPage → Bool
  | .fileM h _ => partOfHart s h == some p
  | .fileS h _ => partOfHart s h == some p
  | .doorbell q _ => queueOwner s q == p
  | .mailbox k _ => k == p
  | .concourse k _ => k == 0 || k == p + 1
  | .nothing => false

/-- Checks 3 to 6 on a physical address for a plain tier access: below 2⁵², mapped, PMP, the partition's memory. -/
def tierChecks (s : State) (hart : Nat) (priv : Priv) (a len : Nat) (perm : Perm) : Bool :=
  decide (a < 2 ^ 52) && mappedRange s a len && (s.hart hart).pmpOk priv a perm &&
    (match partOfHart s hart with
      | some p => ownsMem s p a len
      | none => false)

/-- Checks 3 to 6 in the device-attribute region: a plain naturally aligned access of 4 or 8 bytes to an owned page. -/
def deviceChecks (s : State) (hart : Nat) (priv : Priv) (acc : Access) (a len : Nat) : Bool :=
  acc.plain && acc.kind != .fetch && (len == 4 || len == 8) && a % len == 0 && devPage a != .nothing &&
    (s.hart hart).pmpOk priv a acc.perm &&
    (match partOfHart s hart with
      | some p => ownsPage s p (devPage a)
      | none => false)

/-! Page-table entries (R287, R288). -/

def pteV (e : Word) : Bool := e.getLsbD 0
def pteR (e : Word) : Bool := e.getLsbD 1
def pteW (e : Word) : Bool := e.getLsbD 2
def pteX (e : Word) : Bool := e.getLsbD 3
def pteU (e : Word) : Bool := e.getLsbD 4
def pteG (e : Word) : Bool := e.getLsbD 5
def pteA (e : Word) : Bool := e.getLsbD 6
def pteD (e : Word) : Bool := e.getLsbD 7
def ptePpn (e : Word) : Nat := field e 10 44
def ptePbmt (e : Word) : Nat := field e 61 2
def pteLeaf (e : Word) : Bool := pteR e || pteW e || pteX e

/-- The leaf grants the access under R, W, X, U, SUM and MXR. -/
def leafGrants (h : Hart) (priv : Priv) (acc : Access) (e : Word) : Bool :=
  let mxr := field h.mstatus 19 1 == 1
  let sum := field h.mstatus 18 1 == 1
  let user := if priv = .u then pteU e else !pteU e || (acc.kind != .fetch && sum)
  user && (match acc.perm with
    | .x => pteX e
    | .r => pteR e || (mxr && pteX e)
    | .w => pteW e
    | .manage => pteR e || pteW e || (mxr && pteX e))

/-- The conditions of R288 that raise a page fault at level `i`. -/
def pteFaults (h : Hart) (priv : Priv) (acc : Access) (i : Nat) (e : Word) : Bool :=
  !pteV e || (pteW e && !pteR e) || e.getLsbD 63 || field e 54 7 != 0 ||
  (if pteLeaf e then
    ptePbmt e == 3 || (ptePbmt e != 0 && !h.pbmte) || ptePpn e % 512 ^ i != 0 || !leafGrants h priv acc e ||
      ((!pteA e || (acc.dirty && !pteD e)) && !h.adue)
  else ptePbmt e != 0 || i == 0)

/-- A pointer or leaf names an address at or above 2⁵². -/
def pteTooHigh (e : Word) : Bool := field e 50 4 != 0

/-! Translation caches (R296-R298). -/

/-- The virtual page number of level `i`. -/
def vpnAt (va : Word) (i : Nat) : Nat := va.toNat / 2 ^ (12 + 9 * i)

/-- An entry serves this mode, address space and address. -/
def TlbEntry.hits (e : TlbEntry) (mode asid : Nat) (va : Word) : Bool :=
  e.mode == mode && (e.global || e.asid == asid) && e.vpn == vpnAt va e.level

/-- The physical address that a leaf gives. -/
def TlbEntry.pa (e : TlbEntry) (va : Word) : Nat :=
  ptePpn e.pte * 4096 + va.toNat % 2 ^ (12 + 9 * e.level)

/-- The list without an older entry of the same tag. -/
def tlbOthers (e : TlbEntry) (l : List TlbEntry) : List TlbEntry :=
  l.filter fun x => !(x.mode == e.mode && x.asid == e.asid && x.vpn == e.vpn && x.level == e.level)

/-- An entry put in a structure of `n` entries; the oldest goes. -/
def tlbPut (n : Nat) (e : TlbEntry) (l : List TlbEntry) : List TlbEntry := (e :: tlbOthers e l).take n

/-- The set of the L2 TLB that holds an entry: the low eight bits of its page's number (DESIGN CHOICE: R296 gives 256 sets and no
index). -/
def TlbEntry.set (e : TlbEntry) : Nat := e.vpn % 256

/-- An entry put in the L2 TLB, eight ways a set; the oldest of its set goes. -/
def l2tlbPut (e : TlbEntry) (l : List TlbEntry) : List TlbEntry :=
  let (same, rest) := (tlbOthers e l).partition fun x => x.set == e.set
  (e :: same).take 8 ++ rest

/-- A leaf joins the ITLB or DTLB and the L2 TLB. -/
def Hart.addLeaf (h : Hart) (isFetch : Bool) (e : TlbEntry) : Hart :=
  let h1 := { h with l2tlb := l2tlbPut e h.l2tlb }
  if isFetch then { h1 with itlb := tlbPut 32 e h1.itlb } else { h1 with dtlb := tlbPut 32 e h1.dtlb }

/-- The pointers of a walk, last read first, join the walk cache. -/
def Hart.keepPath (h : Hart) (path : List TlbEntry) : Hart := { h with walk := path.foldr (tlbPut 64) h.walk }

/-- Every translation cache emptied (R297). -/
def Hart.dropTlbs (h : Hart) : Hart := { h with itlb := [], dtlb := [], l2tlb := [], walk := [] }

/-- sfence.vma: the matching entries, and every entry of the walk cache (R298). -/
def Hart.sfence (h : Hart) (va : Option Word) (asid : Option Nat) : Hart :=
  let keep := fun (e : TlbEntry) =>
    !((match va with
        | none => true
        | some v => e.vpn == vpnAt v e.level) &&
      (match asid with
        | none => true
        | some a => !e.global && e.asid == a))
  { h with itlb := h.itlb.filter keep, dtlb := h.dtlb.filter keep, l2tlb := h.l2tlb.filter keep, walk := [] }

/-! Atomic operations at the L2. -/

/-- A read-modify-write of a line (R216): at the L2 in state M, or through the Concourse in no-allocate operation; the line
as it was read, none while it waits. -/
def l2Atomic (hart line : Nat) (f : Finding) (upd : LineData → Option (Line × BitVec 64 × BitVec 8)) (s : State) :
    State × Option LineData :=
  let g := hart / 12
  let p := (partOfHart s hart).getD 0
  if (s.l2 g line).st = .i ∧ noAllocate s g p = true then
    match cohRead g p line f s with
    | (t, none) => (t, none)
    | (t, some d) => match upd d with
      | none => (t, some d)
      | some (w, k, wh) => match cohWrite g p line false w k wh t with
        | (u, true) => (u, some d)
        | (u, false) => (u, none)
  else match l2Own hart line f s with
    | (t, false) => (t, none)
    | (t, true) =>
      let x := t.l2 g line
      match upd x.copy with
      | none => (t, some x.copy)
      | some (w, k, wh) => (breakReservations hart line (setL2 g line { x with copy := mergeLine x.copy w k wh } t), some x.copy)

/-- One aligned 8-byte word as a line write. -/
def wordWrite (w : Nat) (v : Word) : Line × BitVec 64 × BitVec 8 :=
  (v.setWidth 512 <<< (64 * w), (0xFF#64 : BitVec 64) <<< (8 * w), (1#8 : BitVec 8) <<< w)

/-! The walk (R289-R293). -/

/-- How a walk ends: a leaf, an exception, it waits for the fabric, or a failed compare makes it start again. -/
inductive Walk where
  | leaf (e : TlbEntry)
  | exc (e : Exc)
  | wait
  | again
deriving DecidableEq, Repr

/-- The A and D update (R292): compare and write; a changed entry leaves memory alone and answers false. -/
def setMarks (hart a : Nat) (old new : Word) (s : State) : State × Option Bool :=
  match l2Atomic hart (a / 64) .clean (fun d =>
      if lineWord d.data (a / 8 % 8) = old ∧ d.form (a / 8 % 8) = 0 then some (wordWrite (a / 8 % 8) new) else none) s with
  | (t, none) => (t, none)
  | (t, some d) =>
    if lineWord d.data (a / 8 % 8) = old then (hartEvent hart 0x108 1 t, some true) else (t, some false)

/-- The line lies in no L2 of the hart's gallery, so that a read of it goes to the fabric. -/
def l2Misses (s : State) (hart line : Nat) : Bool := (s.l2 (hart / 12) line).st == .i

/-- The walk from table `a` at level `n - 1` down; `f`: what memory finds at the first line read there. The pointers read join the walk
cache as the walk ends, unless it consumes poison (R291). An update of A or D is a store of the walk, and checks 3 to 6 are made on it as
on any (R286). -/
def walkFrom (hart : Nat) (priv : Priv) (acc : Access) (va : Word) (mode asid : Nat) :
    Nat → Nat → Bool → Finding → List TlbEntry → State → State × Walk
  | 0, _, _, _, _, s => (s, .wait)
  | i + 1, a, global, f, path, s =>
    let ea := a + vpnAt va i % 512 * 8
    let kept := fun (t : State) => setHart hart ((t.hart hart).keepPath path) t
    if !tierChecks s hart .s ea 8 .r then (kept s, .exc (.trap acc.kind.accessFault va))
    else match l2Read hart (ea / 64) false f s with
      | (t, none) => (t, .wait)
      | (t, some d) =>
        let form := (d.form (ea / 8 % 8)).toNat
        let e := lineWord d.data (ea / 8 % 8)
        let h := t.hart hart
        if form ≠ 0 then (t, .exc (.machine 4 form ea va))
        else if pteFaults h priv acc i e then (kept t, .exc (.trap acc.kind.pageFault va))
        else if pteTooHigh e then (kept t, .exc (.trap acc.kind.accessFault va))
        else
          let entry : TlbEntry :=
            { mode := mode, asid := asid, global := global || pteG e, vpn := vpnAt va i, level := i, pte := e }
          if !pteLeaf e then
            walkFrom hart priv acc va mode asid i (ptePpn e * 4096) (global || pteG e) (if l2Misses s hart (ea / 64) then .clean else f)
              (entry :: path) t
          else
            let e2 := e ||| 0x40 ||| (if acc.dirty then 0x80 else 0)
            if e2 = e then (kept t, .leaf entry)
            else if !tierChecks t hart .s ea 8 .w then (kept t, .exc (.trap acc.kind.accessFault va))
            else match setMarks hart ea e e2 t with
              | (u, some true) => (kept u, .leaf { entry with pte := e2 })
              | (u, some false) => (kept u, .again)
              | (u, none) => (u, .wait)

/-- Levels of a translation mode (R282). -/
def levelsOf (mode : Nat) : Nat := if mode = 8 then 3 else if mode = 9 then 4 else 5

/-- The walk for an address, from the deepest pointer that the walk cache holds under its own ASID or from the root: G makes a leaf
match every ASID, no pointer (R296). It meets what the access says that memory finds, or what the hart's next walk is to find. -/
def walk (hart : Nat) (priv : Priv) (acc : Access) (va : Word) (s : State) : State × Walk :=
  let h := s.hart hart
  let satp := h.csrOf 0x180
  let mode := field satp 60 4
  let asid := field satp 44 16
  let s1 := hartEvent hart 0x107 1 (setHart hart { h with walkFinds := .clean } s)
  let found := if acc.walk = .clean then h.walkFinds else acc.walk
  let root := walkFrom hart priv acc va mode asid (levelsOf mode) (field satp 0 40 * 4096) false
  let fromRoot := fun (r : State × Walk) => match r with
    | (t, .again) => root .clean [] t
    | r => r
  match (List.range (levelsOf mode)).findSome? fun i => h.walk.find? fun e => e.level == i && e.asid == asid && e.hits mode asid va with
  | some e => fromRoot (walkFrom hart priv acc va mode asid e.level (ptePpn e.pte * 4096) e.global found [] s1)
  | none => fromRoot (root found [] s1)

/-- The DTLB entry that a store, AMO or SC does not use is replaced by the result of the new walk (R294, R297). -/
def Hart.dropBypassed (h : Hart) (mode asid : Nat) (va : Word) (acc : Access) : Hart :=
  { h with dtlb := h.dtlb.filter fun e => !(acc.dirty && e.hits mode asid va && !pteD e.pte) }

/-- The leaf for an address: from the ITLB or DTLB, the L2 TLB, or a walk. An entry with D clear is not used by a store
(R294). -/
def lookup (hart : Nat) (priv : Priv) (acc : Access) (va : Word) (s : State) : State × Walk :=
  let h := s.hart hart
  let satp := h.csrOf 0x180
  let isFetch := acc.kind == .fetch
  let hit := fun (e : TlbEntry) => e.hits (field satp 60 4) (field satp 44 16) va && !(acc.dirty && !pteD e.pte)
  match (if isFetch then h.itlb else h.dtlb).find? hit with
  | some e => (s, .leaf e)
  | none =>
    let s1 := hartEvent hart (if isFetch then 0x104 else 0x105) 1 s
    match h.l2tlb.find? hit with
    | some e => (setHart hart ((s1.hart hart).addLeaf isFetch e) s1, .leaf e)
    | none => match walk hart priv acc va (hartEvent hart 0x106 1 s1) with
      | (t, .leaf e) => (setHart hart (((t.hart hart).dropBypassed (field satp 60 4) (field satp 44 16) va acc).addLeaf isFetch e) t, .leaf e)
      | r => r

/-! The whole check (R285, R286). -/

/-- What an access may do: reach a tier at a physical address with the page's memory type (0 PMA, 1 NC, 2 IO), reach
the device-attribute region, take an exception, or wait. -/
inductive Reach where
  | tier (pa pbmt : Nat)
  | device (pa : Nat)
  | exc (e : Exc)
  | wait
deriving DecidableEq, Repr

/-- Checks 3 to 6 on a physical address (R286). An access of `whole` bytes at `wholeAddr` that is misaligned may not touch a
page of type IO (R218). -/
def physChecks (s : State) (hart : Nat) (priv : Priv) (acc : Access) (va : Word) (pa len pbmt : Nat) (aligned : Bool) :
    Reach :=
  if inDevice pa then
    if aligned && deviceChecks s hart priv acc pa len then .device pa else .exc (.trap acc.kind.accessFault va)
  else if !tierChecks s hart priv pa len acc.perm then .exc (.trap acc.kind.accessFault va)
  else if pbmt = 2 ∧ (!aligned ∨ acc.kind = .fetch) then .exc (.trap acc.kind.accessFault va)
  else .tier pa pbmt

/-- Canonical form (check 1). -/
def canonical (mode : Nat) (va : Word) : Bool :=
  let top := va.toNat / 2 ^ (12 + 9 * levelsOf mode - 1)
  top == 0 || top == 2 ^ (64 - (12 + 9 * levelsOf mode - 1)) - 1

/-- The mode in which an access is made (R285). -/
def Hart.accPriv (h : Hart) (acc : Access) : Priv := if acc.kind = .fetch then h.priv else h.effPriv

/-- One access, or one half of a split one, of `len` bytes that lie in one line. -/
def reach (hart : Nat) (acc : Access) (va : Word) (len : Nat) (aligned : Bool) (s : State) : State × Reach :=
  let h := s.hart hart
  let priv := h.accPriv acc
  let mode := field (h.csrOf 0x180) 60 4
  if priv = .m ∨ mode = 0 then
    if va.toNat / 2 ^ 52 ≠ 0 then (s, .exc (.trap acc.kind.accessFault va))
    else (s, physChecks s hart priv acc va va.toNat len 0 aligned)
  else if !canonical mode va then (s, .exc (.trap acc.kind.pageFault va))
  else match lookup hart priv acc va s with
    | (t, .wait) => (t, .wait)
    | (t, .again) => (t, .wait)
    | (t, .exc e) => (t, .exc e)
    | (t, .leaf e) =>
      if !leafGrants (t.hart hart) priv acc e.pte then (t, .exc (.trap acc.kind.pageFault va))
      else (t, physChecks t hart priv acc va (e.pa va) len (ptePbmt e.pte) aligned)

end Sys2Proof.Machine
end

