-- ==== Sys2Proof/Machine/Queues.lean ====
section
/-! DEFINITION. Queues, doorbells, interrupt files and the Dray (R331-R359). -/

namespace Sys2Proof.Machine

/-! Stopping and resetting. -/

/-- A queue stops with a code (R344): one error record. -/
def stopQueue (q code : Nat) (s : State) : State :=
  record { cls := 4, action := 5, kind := 0x0C, unit := q, part := queueOwner s q, code := code }
    (setO (nQueue q) 0xB110 7 code (setO (nQueue q) 0xB110 1 2 s))

/-- A frame without the grants of a channel's commands, or of one of them. A slot that holds older data keeps it. -/
def Frame.dropGrants (f : Frame) (c : Nat) (seq : Option Nat) : Frame :=
  let ends := fun (x : Slot) => match x.granted with
    | some (c', n) => c' == c && (seq.isNone || seq == some n)
    | none => false
  { f with slot := f.slot.filterMap fun x =>
      if !ends x.2 then some x else if x.2.data.isSome then some (x.1, { x.2 with granted := none }) else none }

/-- Grants of a channel's commands, or of one of them, return to free; a frame without slots leaves its unit (R372, R384). -/
def releaseGrants (c : Nat) (seq : Option Nat) (s : State) : State :=
  let fr := (s.arch.frame.map fun e => (e.1, e.2.dropGrants c seq)).filter fun e => !(e.2.slot.isEmpty && !e.2.programming)
  { s with arch := { s.arch with frame := fr } }

/-- The leading finished packets of a list, and the rest. -/
def finishedPrefix : List (Nat × Bool) → Nat × List (Nat × Bool)
  | (_, true) :: t => ((finishedPrefix t).1 + 1, (finishedPrefix t).2)
  | l => (0, l)

def State.chan (s : State) (c : Nat) : Chan := tblGet {} s.arch.chan c
def setChan (c : Nat) (x : Chan) (s : State) : State := { s with arch := { s.arch with chan := tblSet {} s.arch.chan c x } }

/-- What a channel reset ends (R384): the open commands, without results, their grants, and the records that wait; a stopped channel
goes on. The commands count as ended (R388). -/
def chanEnd (c : Nat) (s : State) : State :=
  let s1 := dropWaiters (isChan c) (releaseGrants c none s)
  onlyIf (getO s1 nP (0xA200 + c) 7 == 2) (setO nP (0xA200 + c) 7 1)
    (addO nP (0xA200 + c) 6 (s1.chan c).opened.length (setChan c { s1.chan c with opened := [], taken := [] } s1))

/-- The enabled Archive channels whose command queue is `q`. -/
def channelsOf (s : State) (q : Nat) : List Nat :=
  (List.range 64).filter fun c => getO s nP (0xA200 + c) 1 == 1 && getO s nP (0xA200 + c) 2 == q

/-- The indices and runtime state of a queue reset (step 3 of R343), evaluated afresh. -/
def clearQueue (q : Nat) (s : State) : State :=
  let w := (s.queue q).waiting
  let s1 := runAll [setO (nQueue q) 0xB110 1 1, setO (nQueue q) 0xB110 2 0, setO (nQueue q) 0xB110 3 0,
    setO (nQueue q) 0xB110 7 0, setQueue q { armed := true, waiting := w }] s
  drainWaiting q (w.length + 1) (queueEval q s1)

/-- The consumer passes `n` entries (R334). -/
def advanceC (q n : Nat) (s : State) : State :=
  let s1 := addO (nQueue q) 0xB110 8 n (setO (nQueue q) 0xB110 3 ((qC s q + n) % 2 ^ 32) s)
  let w := (s1.queue q).waiting.length
  let s2 := drainWaiting q (w + 1) (setQueue q { s1.queue q with times := (s1.queue q).times.drop n } s1)
  queueEval q s2

/-- A channel reset (R384): packets are taken from C on, which has passed those taken before it (R366). That C passes a QUERY whose answer
is lost with the reset too is the model's choice: the commands behind it in the queue have ended. -/
def chanReset (c : Nat) (s : State) : State :=
  let q := getO s nP (0xA200 + c) 2
  let n := (s.chan c).taken.length
  onlyIf (n != 0 && qRunning s q) (advanceC q n) (chanEnd c s)

/-- The controller has finished with a packet (R366): C passes the leading finished ones. -/
def finishPacket (c id : Nat) (s : State) : State :=
  let x := s.chan c
  let l := x.taken.map fun e => if e.1 = id then (e.1, true) else e
  let (n, rest) := finishedPrefix l
  let s1 := setChan c { x with taken := rest } s
  if n = 0 then s1 else advanceC (getO s nP (0xA200 + c) 2) n s1

/-- What follows the post of a record that waited: C passes the load (R347), or the channel has finished with the packet (R366). -/
def afterPost (p : Nat) (s : State) : State :=
  if chanProducer 0 0 ≤ p then
    (if (p - chanProducer 0 0) / 64 = 0 then s else finishPacket (p % 64) ((p - chanProducer 0 0) / 64 - 1) s)
  else if drayProducer 0 ≤ p ∧ isRing p = false then onlyIf (qRunning s (p - drayProducer 0)) (advanceC (p - drayProducer 0) 1) s
  else s

/-- The records that waited at a queue and are posted. -/
def afterPosts (before : List (Nat × List Byte)) (q : Nat) (s : State) : State :=
  forAll ((before.map (·.1)).filter fun p => !((s.queue q).waiting.any (·.1 == p))) afterPost s

/-- Waiting posts go on where they can (R340). -/
def resumePosts (q : Nat) (s : State) : State :=
  let w := (s.queue q).waiting
  afterPosts w q (drainWaiting q (w.length + 1) s)

/-- A queue reset (R343): the load in progress stops and posts no record, the posts that wait go on, and the channels that take
packets from the queue are reset. -/
def queueReset (q : Nat) (s : State) : State :=
  let s1 := forAll (channelsOf s q) chanEnd (dropWaiting (drayProducer q) s)
  afterPosts (s1.queue q).waiting q (clearQueue q s1)

/-- A queue disabled: a reset, then ENABLED is cleared. A Vitrine, the Dray and a channel that wait at it find it no valid target. That the
reset's condition is not evaluated any more is the model's choice (R354 allows 1 µs). -/
def disableQueue (q : Nat) (s : State) : State :=
  let s1 := forAll (channelsOf s q) chanEnd (dropWaiting (drayProducer q) s)
  let stay := (s1.queue q).waiting.filter fun e => decide (vitProducer 0 ≤ e.1) && !isRing e.1
  setO (nQueue q) 0xB110 1 0 (setQueue q { armed := true, waiting := stay }
    (runAll [setO (nQueue q) 0xB110 2 0, setO (nQueue q) 0xB110 3 0, setO (nQueue q) 0xB110 7 0] s1))

/-! Doorbells (R335-R337). -/

/-- A 4-byte store to PIDX. -/
def storePidx (q n : Nat) (s : State) : State :=
  if !qEnabled s q || !qOutbound s q then s
  else if qHeld s q ≤ idxDiff n (qC s q) ∧ idxDiff n (qC s q) ≤ qCount s q then
    queueEval q (setO (nQueue q) 0xB110 2 n s)
  else if qRunning s q then stopQueue q 1 s else s

/-- A 4-byte store to CIDX. Slots taken let waiting posts go on. -/
def storeCidx (q n : Nat) (s : State) : State :=
  if !qEnabled s q || qOutbound s q then s
  else if idxDiff n (qC s q) ≤ qHeld s q then
    afterPosts (s.queue q).waiting q (advanceC q (idxDiff n (qC s q)) s)
  else if qRunning s q then stopQueue q 2 s else s

/-- A 4-byte store to ARM. -/
def storeArm (q v : Nat) (s : State) : State := if qEnabled s q && v % 2 == 1 then armQueue q s else s

/-- A store to a doorbell register; an 8-byte store, and one to a read-only register, is ignored. -/
def doorbellStore (q off size v : Nat) (s : State) : State :=
  if size ≠ 4 then s
  else if off = 0 then storePidx q v s
  else if off = 4 then storeCidx q v s
  else if off = 8 then storeArm q v s
  else s

/-- A load from a doorbell register. -/
def doorbellLoad (s : State) (q off size : Nat) : Nat :=
  let idx := fun (v : Nat) => if qEnabled s q then v else 0
  if size = 8 then
    if off = 0 then idx (qP s q) + idx (qC s q) * 2 ^ 32
    else if off = 8 then doorbellStatus s q * 2 ^ 32
    else 0
  else if off = 0 then idx (qP s q)
  else if off = 4 then idx (qC s q)
  else if off = 0x0C then doorbellStatus s q
  else 0

/-- The doorbell address of a queue. -/
def doorbellAddr (q : Nat) : Nat := 0x0F0010000000 + q * 0x40

/-- A running hart's store of `size` bytes at a virtual address to the device address `addr`: sent once its store buffer is empty
(R208) after the checks of R286, whose exception is taken. A store that they let through to another address is not this command. -/
def hartDeviceStore (hart : Nat) (va : Word) (addr size : Nat) (f : State → State) (s : State) : State :=
  if !(s.modes.mode.active && (s.hart hart).run == .running) then s
  else match reach hart storeAccess va size (va.toNat % size == 0) s with
    | (t, .device pa) => if pa = addr ∧ (t.hart hart).sb.isEmpty = true ∧ fenced t (hart / 12) = false then f t else s
    | (t, .exc e) => takeExc hart e t
    | (_, _) => s

/-- PIDX_WRITE (R337). -/
def execPidxWrite (hart : Nat) (va : Word) (queue value : Nat) (s : State) : Out :=
  within (decide (hart < 264) && decide (queue < 65536) && decide (value < 2 ^ 32)) <|
    hartDeviceStore hart va (doorbellAddr queue) 4 (storePidx queue value) s

/-- CIDX_WRITE (R337). -/
def execCidxWrite (hart : Nat) (va : Word) (queue value : Nat) (s : State) : Out :=
  within (decide (hart < 264) && decide (queue < 65536) && decide (value < 2 ^ 32)) <|
    hartDeviceStore hart va (doorbellAddr queue + 4) 4 (storeCidx queue value) s

/-- ARM_WRITE (R354). -/
def execArmWrite (hart : Nat) (va : Word) (queue value : Nat) (s : State) : Out :=
  within (decide (hart < 264) && decide (queue < 65536) && decide (value < 2 ^ 32)) <|
    hartDeviceStore hart va (doorbellAddr queue + 8) 4 (storeArm queue value) s

/-- QUEUE_POST: a producer of partition `producer` posts an entry to a valid target (R340, R341). -/
def execQueuePost (queue producer : Nat) (entry : List Byte) (s : State) : Out :=
  within (decide (queue < 65536) && decide (producer < 16)) <|
    if s.modes.mode.active && validTarget s queue producer && decide (entry.length ≤ qRoom s queue) then
      post queue producer entry s
    else s

/-- A queue's context is lost (R344): the queue stops, its configuration stays in the Catalogue, and its indices are open
values, no further apart than the count (R334). -/
def loseContext (q : Nat) (s : State) : State :=
  let (s1, p) := takeFree (stopQueue q 6 s)
  let (s2, held) := takeFree s1
  runAll [setO (nQueue q) 0xB110 2 (p.toNat % 2 ^ 32),
    setO (nQueue q) 0xB110 3 (idxDiff (p.toNat % 2 ^ 32) (held.toNat % (qCount s q + 1)))] s2

/-- The Dray's access to the context of an enabled queue and of its event source, and what it finds there (R176). -/
def queueAccess (q : Nat) (context source : ArrayFinding) (s : State) : State :=
  let src := getO s (nQueue q) 0xB100 7
  let s1 := onlyIf (src != 0xFFFF) (contextRecord 2 src 0 source) s
  onlyIf (context == .uncorrectable && qRunning s q) (loseContext q) (contextRecord 1 q 5 context s1)

/-- QUEUE_EVENT_DELAY: the delay since entry C was posted has passed (R354). -/
def execQueueEventDelay (queue : Nat) (context source : ArrayFinding) (s : State) : Out :=
  within (decide (queue < 65536)) <|
    if s.modes.mode.active then queueEval queue (onlyIf (qEnabled s queue) (queueAccess queue context source) s) else s

/-- A store to an interrupt-file page (R356): 4 bytes at offset 0 (little-endian) or 4 (big-endian). -/
def fileStore (h : Nat) (machine : Bool) (off size v : Nat) (s : State) : State :=
  let id := if off = 4 then v % 256 * 2 ^ 24 + v / 256 % 256 * 2 ^ 16 + v / 2 ^ 16 % 256 * 256 + v / 2 ^ 24 else v
  if size = 4 ∧ (off = 0 ∨ off = 4) ∧ 1 ≤ id ∧ id ≤ 1023 ∧ !fileHeld s h then pendIdentity h machine id s else s

/-- The address of a file page. -/
def fileAddr (h : Nat) (machine : Bool) : Nat := (if machine then 0x0F0000000000 else 0x0F0001000000) + h * 0x1000

/-- SETEIPNUM_WRITE (R356). -/
def execSeteipnumWrite (hart : Nat) (va : Word) (target : Nat) (machine : Bool) (value : Nat) (s : State) : Out :=
  within (decide (hart < 264) && decide (target < 264) && decide (value < 2 ^ 32)) <|
    hartDeviceStore hart va (fileAddr target machine) 4 (fileStore target machine 0 4 value) s

/-! Enabling (R342, R353). -/

/-- A power of two in a range. -/
def pow2In (n lo hi : Nat) : Bool := decide (lo ≤ n) && decide (n ≤ hi) && 2 ^ n.log2 == n

/-- Two ranges of bytes share one. -/
def overlaps (a la b lb : Nat) : Bool := decide (a < b + lb) && decide (b < a + la) && decide (0 < la) && decide (0 < lb)

/-- Nodes of one kind that the store lists with an object set to a value. -/
def nodesWith (s : State) (kind ix sub v : Nat) : List Nat :=
  (s.obj.filter fun e => e.1 / 2 ^ 48 == kind && e.1 % 2 ^ 24 == ix * 2 ^ 8 + sub && e.2 == v).map fun e => e.1 / 2 ^ 24 % 2 ^ 16

/-- Queues that are enabled. -/
def enabledQueues (s : State) : List Nat := nodesWith s 9 0xB100 1 1
/-- Rings that are enabled. -/
def enabledRings (s : State) : List Nat := nodesWith s 7 0x4200 1 1

/-- The ranges of an enabled Mosaic ring: its slots and its seal array of 64-byte entries (R128, R129). -/
def ringSlots (s : State) (r : Nat) : Nat × Nat :=
  (getO s (nRing r) 0x4200 3, getO s (nRing r) 0x4200 4 * getO s (nRing r) 0x4200 5)
def ringSeals (s : State) (r : Nat) : Nat × Nat := (getO s (nRing r) 0x4200 7, getO s (nRing r) 0x4200 5 * 64)

/-- A range overlaps an enabled Mosaic ring. -/
def meetsRing (s : State) (a len : Nat) : Bool :=
  (enabledRings s).any fun r => overlaps a len (ringSlots s r).1 (ringSlots s r).2 ||
    overlaps a len (ringSeals s r).1 (ringSeals s r).2

/-- A range overlaps the ring of an enabled queue. -/
def meetsQueue (s : State) (a len : Nat) : Bool :=
  (enabledQueues s).any fun q => overlaps a len (qBase s q) (qElem s q * qCount s q)

/-- The kind, element size and count meet R332 and R333. -/
def shapeOk (s : State) (q : Nat) : Bool :=
  pow2In (qCount s q) 2 1048576 && qBase s q % 4096 == 0 &&
  (match qKind s q with
    | 1 => qElem s q == 64
    | 2 => pow2In (qElem s q) (if getO s (nQueue q) 0xB100 0x0C = 1 then 64 else 32) 16384
    | 3 => pow2In (qElem s q) 64 16384
    | 4 => qElem s q == 64
    | _ => false)

/-- The ring lies inside the HBM or DDR5 ranges of the address map, taken as the whole spans of R150: DESIGN CHOICE, R129 and R342 do not
say whether the tops in force bound them; what lies above a top is not mapped. -/
def inTiers (a len : Nat) : Bool := decide (a + len ≤ 0x080000000000) && (decide (a + len ≤ ddrBase) || decide (ddrBase ≤ a))

/-- The conditions of R342. -/
def queueMayEnable (s : State) (q : Nat) : Bool :=
  let p := queueOwner s q
  let len := qElem s q * qCount s q
  let src := getO s (nQueue q) 0xB100 7
  let cq := getO s (nQueue q) 0xB100 0x0B
  p != 0xFF && shapeOk s q && decide (1 ≤ getO s (nQueue q) 0xB100 8) && decide (getO s (nQueue q) 0xB100 8 ≤ qCount s q) &&
    ownsMem s p (qBase s q) len && inTiers (qBase s q) len && !meetsQueue s (qBase s q) len && !meetsRing s (qBase s q) len &&
    (src == 0xFFFF || (decide (src < 1280) && sourceOwner s src == p)) &&
    (cq == 0xFFFFFFFF || (decide (cq < 65536) && queueOwner s cq == p))

/-- Rings whose completion queue took posts before a change and does not after it: one record each (R147). -/
def ringsLoseQueue (s t : State) : State :=
  forAll ((enabledRings s).filter fun r =>
      let q := getO s (nRing r) 0x4200 0x0B
      let p := getO s (nRing r) 0x4200 2
      validTarget s q p && !validTarget t q p)
    (fun r u => record { cls := 4, action := 0, kind := 0x0A, unit := 256 + r, part := getO s (nRing r) 0x4200 2 } u) t

/-- B100h.01h. -/
def ruleQueueEnable (q value : Nat) : Rule := fun s =>
  if value = 1 then
    if getO s (nQueue q) 0xB100 1 = 1 then answered s
    else if queueMayEnable s q then answered (queueReset q (setO (nQueue q) 0xB100 1 1 s))
    else refused 0 s
  else answered (ringsLoseQueue s (disableQueue q (setO (nQueue q) 0xB100 1 0 s)))

/-- QUEUE_ENABLE. -/
def execQueueEnable (who : Requester) (queue value : Nat) (s : State) : Out :=
  within (decide (queue < 65536)) (served who (nQueue queue) 0xB100 1 value (ruleQueueEnable queue value) s)

/-- B100h.0Dh: a reset; on a queue that is not enabled there is nothing to reset. -/
def ruleQueueReset (q : Nat) : Rule := fun s => actionDone (onlyIf (qEnabled s q) (queueReset q) s)

/-- QUEUE_RESET. -/
def execQueueReset (who : Requester) (queue value : Nat) (s : State) : Out :=
  within (decide (queue < 65536)) (served who (nQueue queue) 0xB100 0x0D value (ruleQueueReset queue) s)

/-- Configuration of a queue: refused as busy while it is enabled; a threshold of 0 is refused (R342, R359). -/
def ruleQueueConfig (q sub value : Nat) : Rule := fun s =>
  if getO s (nQueue q) 0xB100 1 = 1 then refusedBusy s
  else answered (setO (nQueue q) 0xB100 sub value s)

/-- B200h.01h (R353). -/
def ruleSourceEnable (e value : Nat) : Rule := fun s =>
  if value = 1 then
    let p := sourceOwner s e
    let h := getO s (nSource e) 0xB200 3
    let i := getO s (nSource e) 0xB200 5
    if p ≠ 0xFF ∧ h < 264 ∧ partOfHart s h = some p ∧ 1 ≤ i ∧ i ≤ 1023 then answered (setO (nSource e) 0xB200 1 1 s)
    else refused 0 s
  else answered (setO (nSource e) 0xB200 1 value s)

/-- SOURCE_ENABLE. -/
def execSourceEnable (who : Requester) (source value : Nat) (s : State) : Out :=
  within (decide (source < 1536)) (served who (nSource source) 0xB200 1 value (ruleSourceEnable source value) s)

/-- The enabled sources whose target hart is no longer in its owner's partition are disabled (R353). -/
def dropStraySources (s : State) : State :=
  forAll (nodesWith s 0xA 0xB200 1 1) (fun e s =>
    let h := getO s (nSource e) 0xB200 3
    if h < 264 ∧ partOfHart s h = some (sourceOwner s e) then s else setO (nSource e) 0xB200 1 0 s) s

/-- Target, level and identity of a source: refused as busy while it is enabled. -/
def ruleSourceConfig (e sub value : Nat) : Rule := fun s =>
  if getO s (nSource e) 0xB200 1 = 1 then refusedBusy s else answered (setO (nSource e) 0xB200 sub value s)

/-! The Dray (R345-R350). -/

/-- A descriptor's load; none where it is invalid (R346). -/
def parseLoad (b : List Byte) : Option Load :=
  let f := fun i n => leAt b i n
  let src := f 8 8
  let dst := f 16 8
  let base := f 1 1 ≤ 1 && f 2 2 == 0
  match f 0 1 with
  | 1 =>
    if base && decide (1 ≤ f 24 8) && decide (f 24 8 ≤ 2 ^ 40) && f 32 32 == 0 then
      some { src := src, dst := dst, row := f 24 8, rows := 1, srcPitch := 0, dstPitch := 0, pattern := none }
    else none
  | 2 =>
    if base && dst % 64 == 0 && f 24 8 % 64 == 0 && decide (64 ≤ f 24 8) && decide (f 24 8 ≤ 2 ^ 40) && f 32 32 == 0 then
      some { src := 0, dst := dst, row := f 24 8, rows := 1, srcPitch := 0, dstPitch := 0, pattern := some (BitVec.ofNat 64 src) }
    else none
  | 3 =>
    if base && decide (1 ≤ f 24 8) && decide (f 24 8 < 2 ^ 32) && decide (1 ≤ f 32 4) && decide (f 24 8 ≤ f 36 4) &&
        decide (f 24 8 ≤ f 40 4) && decide (f 32 4 * f 24 8 ≤ 2 ^ 40) && f 44 20 == 0 then
      some { src := src, dst := dst, row := f 24 8, rows := f 32 4, srcPitch := f 36 4, dstPitch := f 40 4, pattern := none }
    else none
  | _ => none

/-- The source and destination ranges of a load. -/
def Load.reads (l : Load) : List (Nat × Nat) :=
  if l.pattern.isSome then [] else (List.range l.rows).map fun r => (l.src + r * l.srcPitch, l.row)
def Load.writes (l : Load) : List (Nat × Nat) := (List.range l.rows).map fun r => (l.dst + r * l.dstPitch, l.row)

/-- A range lies in the owner's memory and in a mapped, initialised tier. -/
def ioRangeOk (s : State) (p a len : Nat) : Bool := ownsMem s p a len && mappedRange s a len

/-- A source range overlaps a destination range. -/
def Load.crosses (l : Load) : Bool := l.reads.any fun r => l.writes.any fun w => overlaps r.1 r.2 w.1 w.2

/-- The byte of the source that offset `i` of row `r` of an overlapping load leaves, none for the old byte (R346). -/
def openPick (l : Load) (n r i : Nat) : Option Nat :=
  let total := l.rows * l.row
  match Config.freeIndex n (r * l.row + i) % (total + 1) with
  | 0 => none
  | k + 1 => some (l.src + k / l.row * l.srcPitch + k % l.row)

/-- Bytes of a row that a turn of at most 4 KiB moves from an offset: up to the end of the row or of a destination line (R350). -/
def turnLen (l : Load) (r off : Nat) : Nat := min (l.row - off) (4096 - (l.dst + r * l.dstPitch + off) % 64)

/-- One destination line of a turn of `n` bytes from offset `off` of row `r`: its bytes come from the state as the turn found it; a word
that a poisoned source word feeds is poison of form 05h (R349). -/
def moveLine (q : Nat) (s0 : State) (g : Going) (n line : Nat) (s : State) : State :=
  let l := g.load
  let dst := l.dst + g.r * l.dstPitch
  let inside := fun i => decide (dst + g.off ≤ 64 * line + i) && decide (64 * line + i < dst + g.off + n)
  let from_ := fun i => l.src + g.r * l.srcPitch + (64 * line + i - dst)
  let byte := fun i => match l.pattern with
    | some w => w.extractLsb' (8 * (i % 8)) 8
    | none => if l.crosses then match openPick l g.pick g.r (64 * line + i - dst) with
        | some a => readByte s0 a
        | none => readByte s0 (64 * line + i)
      else readByte s0 (from_ i)
  let bad := fun w => l.pattern.isNone && (List.range 8).any fun i =>
    inside (8 * w + i) && readForm s0 (from_ (8 * w + i) / 8) != 0
  let data := lineOf fun i => if inside i then byte i else 0
  let mask := (List.range 64).foldl (fun (acc : BitVec 64) i =>
    if inside i && !bad (i / 8) then acc ||| (1#64 <<< i) else acc) 0
  let full := (List.range 64).all inside
  ctlStore .io (.queue q) line full (fun d =>
    let m := mergeLine d data mask 0xFF#8
    mkLine (lineByte m.data) fun w => if bad w then 5 else m.form w) .clean s

/-- The source lines of a turn are read through their controllers, and each poisoned source word is consumed (R185), once for the
row: a word that the turn before has read in part is that turn's. -/
def readSources (p : Nat) (g : Going) (n : Nat) (s : State) : State :=
  if g.load.pattern.isSome then s
  else
    let a := g.load.src + g.r * g.load.srcPitch + g.off
    let s1 := forAll (linesOf a n) (fun line s => (ctlRead line .clean s).1) s
    forAll ((formsIn s1 a n).filter fun w => decide (g.off = 0) || decide (a ≤ 8 * w.1))
      (fun w s => consumeRecord (8 * w.1) w.2 0xFFFF 3 p s) s1

/-- A turn of queue `q`'s load: the bytes moved, and the load as it stands then; its row is past the last one when it is whole. -/
def turn (q : Nat) (g : Going) (s : State) : State × Going :=
  let l := g.load
  let n := turnLen l g.r g.off
  let dst := l.dst + g.r * l.dstPitch + g.off
  let src := l.src + g.r * l.srcPitch + g.off
  let s1 := readSources (queueOwner s q) g n s
  let g1 := { g with poisoned := g.poisoned || (l.pattern.isNone && !(formsIn s1 src n).isEmpty)
                     lost := g.lost || touchesRetired s1 dst n }
  (addO nQ 0xB000 8 n (forAll (linesOf dst n) (fun line s => moveLine q s1 g n line s) s1),
    if g.off + n = l.row then { g1 with r := g.r + 1, off := 0 } else { g1 with off := g.off + n })

/-- The type-20h record (R348). -/
def loadRecord (q status tag index bytes time : Nat) : List Byte :=
  leBytes 1 0x20 ++ leBytes 1 status ++ leBytes 2 q ++ leBytes 4 tag ++ leBytes 4 index ++ leBytes 4 0 ++ leBytes 8 bytes ++
    leBytes 8 time

/-- The end of a load: its count, its record where it posts one, and C past it once the record is written (R347, R348). A
record that finds no free slot waits at the queue (R340). Where an invalid load's record has no valid target the queue stops with
03h (DESIGN CHOICE: both codes of R344 apply). -/
def endLoad (q status tag bytes : Nat) (cmpl : Bool) (s : State) : State :=
  let cq := getO s (nQueue q) 0xB100 0x0B
  let posts := (cmpl || status != 0) && cq != 0xFFFFFFFF
  let s1 := addO nQ 0xB000 (if status = 2 ∨ status = 3 then 7 else 6) 1 (setQueue q { s.queue q with load := none } s)
  if posts && !validTarget s1 cq (queueOwner s q) then
    if status = 3 then stopQueue q 3 s1 else stopQueue q 5 s1
  else
    let s2 := if posts then post cq (drayProducer q) (loadRecord q status tag (qC s q) bytes (now s)) s1 else s1
    if status = 3 then stopQueue q 3 s2
    else if (s2.queue cq).waiting.any (·.1 == drayProducer q) then s2
    else advanceC q 1 s2

/-- The record of the load in progress waits at the completion queue. -/
def recordWaits (s : State) (q : Nat) : Bool :=
  (s.queue (getO s (nQueue q) 0xB100 0x0B)).waiting.any (·.1 == drayProducer q)

/-- The completion queue of a load whose record waits is not a valid target any more (R341). -/
def recordLost (q : Nat) (s : State) : State :=
  if validTarget s (getO s (nQueue q) 0xB100 0x0B) (queueOwner s q) then s
  else stopQueue q 5 (dropWaiting (drayProducer q) s)

/-- A load queue has work for the Dray. A slot that is not mapped is not read (R153); that the queue then waits is the model's choice,
for no stop code names it. -/
def hasLoad (s : State) (q : Nat) : Bool :=
  qRunning s q && qKind s q == 1 && qHeld s q != 0 && !recordWaits s q && mappedRange s (slotAddr s q (qC s q)) 64

/-- A load queue has high priority. -/
def highPriority (s : State) (q : Nat) : Bool := getO s (nQueue q) 0xB100 0x0A == 1

/-- How far a queue is from its turn in the round of its priority, in the order of the queues' numbers (DESIGN CHOICE: R350 names no
order). -/
def turnsAway (s : State) (q : Nat) : Nat :=
  (q + 65535 - (if highPriority s q then s.dray.lastHigh else s.dray.lastNormal)) % 65536

/-- It is the queue's turn: no queue of high priority has work while it is of normal one, and none of its own has work and comes
first in the round (R350). -/
def isTurn (s : State) (q : Nat) : Bool :=
  (enabledQueues s).all fun h => h == q || !hasLoad s h ||
    (if highPriority s h == highPriority s q then decide (turnsAway s q < turnsAway s h) else highPriority s q)

/-- The queue has been served. -/
def nowServed (q : Nat) (s : State) : State :=
  { s with dray := if highPriority s q then { s.dray with lastHigh := q } else { s.dray with lastNormal := q } }

/-- The status of a load that has moved every byte (R349). -/
def loadStatus (g : Going) : Nat := if g.lost then 4 else if g.poisoned then 1 else 0

/-- A load goes on by one turn, and ends with its last one. -/
def goOnLoad (q : Nat) (g : Going) (s : State) : State :=
  match turn q g s with
  | (s1, g1) =>
    if g1.r = g1.load.rows then endLoad q (loadStatus g1) g1.tag (g1.load.rows * g1.load.row) g1.cmpl s1
    else setQueue q { s1.queue q with load := some g1 } s1

/-- The load that a valid descriptor starts; an overlapping one takes its open values (R346). -/
def startLoad (q op : Nat) (l : Load) (tag : Nat) (cmpl : Bool) (s : State) : State :=
  let s1 := if l.crosses then (takeFree s).1 else s
  goOnLoad q { op := op, load := l, tag := tag, cmpl := cmpl, pick := s1.free } s1

/-- The Dray takes the descriptor at C and makes the first turn of its load. `own`: the opcode of the command, which also takes an unknown
opcode. -/
def takeLoad (own q : Nat) (s : State) : State :=
  let p := queueOwner s q
  let (s1, b, poison) := ioRead (slotAddr s q (qC s q)) 64 s
  let op := leAt b 0 1
  if poison ≠ [] then stopQueue q 4 s1
  else if op ≠ own ∧ 1 ≤ op ∧ op ≤ 3 then s
  else
    let tag := leAt b 4 4
    let cmpl := leAt b 1 1 % 2 == 1
    match parseLoad b with
    | none => endLoad q 3 tag 0 cmpl (nowServed q s1)
    | some l =>
      if !((l.reads ++ l.writes).all fun r => ioRangeOk s1 p r.1 r.2) then endLoad q 2 tag 0 cmpl (nowServed q s1)
      else startLoad q op l tag cmpl (nowServed q s1)

/-- The Dray serves a queue for a turn: it takes the next load, or goes on with the one in progress. -/
def drayTake (own q : Nat) (s : State) : State :=
  if !(s.modes.mode.active && qRunning s q && qKind s q == 1) then s
  else if recordWaits s q then recordLost q s
  else if !(hasLoad s q && isTurn s q) then s
  else match (s.queue q).load with
    | some g => onlyIf (decide (g.op = own)) (fun s => goOnLoad q g (nowServed q s)) s
    | none => takeLoad own q s

/-- COPY (R345). -/
def execCopy (queue : Nat) (s : State) : Out := within (decide (queue < 65536)) (drayTake 1 queue s)
/-- FILL (R345). -/
def execFill (queue : Nat) (s : State) : Out := within (decide (queue < 65536)) (drayTake 2 queue s)
/-- COPY2D (R345). -/
def execCopy2d (queue : Nat) (s : State) : Out := within (decide (queue < 65536)) (drayTake 3 queue s)

end Sys2Proof.Machine
end

