-- ==== Sys2Proof/Machine/Mosaic.lean ====
section
/-! DEFINITION. Mosaic rings (R128-R141, R147): opening, deposit, sealing and posting of lines. -/

namespace Sys2Proof.Machine

def State.ring (s : State) (r : Nat) : Ring := tblGet {} s.acc.ring r
def setRing (r : Nat) (x : Ring) (s : State) : State := { s with acc := { s.acc with ring := tblSet {} s.acc.ring r x } }
def State.ctx (s : State) (c : Nat) : Ctx := tblGet {} s.acc.ctx c
def setCtx (c : Nat) (x : Ctx) (s : State) : State := { s with acc := { s.acc with ctx := tblSet {} s.acc.ctx c x } }

/-- An object of a stream context. -/
def ctxO (s : State) (c sub : Nat) : Nat := getO s (nCtx c) 0x4100 sub
/-- Contexts that are enabled. -/
def enabledCtxs (s : State) : List Nat := nodesWith s 6 0x4100 1 1
/-- 4210h.01h: the members that are enabled on a ring. -/
def ringMembers (s : State) (r : Nat) : Nat :=
  ((enabledCtxs s).filter fun c => ctxO s c 4 == r).foldl (fun acc c => setBit acc (ctxO s c 5)) 0

/-- An object of a ring. -/
def ringO (s : State) (r ix sub : Nat) : Nat := getO s (nRing r) ix sub
/-- All ones: no line. -/
abbrev noLine : Nat := 2 ^ 64 - 1

/-- The slot of a line (R130). -/
def slotOfLine (s : State) (r k : Nat) : Nat :=
  if ringO s r 0x4200 5 = 0 then 0 else ((k : Int) - (ringO s r 0x4200 6 : Int)).emod (ringO s r 0x4200 5) |>.toNat
/-- The address of a line's slot and of its seal record. -/
def lineBase (s : State) (r k : Nat) : Nat := ringO s r 0x4200 3 + slotOfLine s r k * ringO s r 0x4200 4
def sealAddr (s : State) (r k : Nat) : Nat := ringO s r 0x4200 7 + slotOfLine s r k * 64

/-- The layout that a context's objects give (R127). -/
def layoutOf (s : State) (c : Nat) : Layout :=
  { ctx := c, offset := ctxO s c 6 + ctxO s c 7, piece := ctxO s c 8, packet := ctxO s c 9 }
/-- Packets of a block (R131): N. -/
def Layout.packets (l : Layout) : Nat := if l.packet = 0 then 0 else (l.piece + l.packet - 1) / l.packet
/-- Bytes that payload packet `i` carries (R131). -/
def Layout.len (l : Layout) (i : Nat) : Nat := if i < l.packets then l.packet else l.piece - (l.packets - 1) * l.packet
/-- Where payload packet `i` of line `k` is written (R130). -/
def depositAddr (s : State) (r k : Nat) (l : Layout) (i : Nat) : Nat := lineBase s r k + l.offset + (i - 1) * l.packet

/-- The members of a ring that a line opened now expects, each with its layout (R134). -/
def memberLayouts (s : State) (r : Nat) : List (Nat × Layout) :=
  ((enabledCtxs s).filter fun c => ctxO s c 4 == r).map fun c => (ctxO s c 5, layoutOf s c)
/-- The layout of member `m` that a held line keeps. -/
def HeldLine.layoutOf (h : HeldLine) (m : Nat) : Option Layout := (h.layout.find? (·.1 == m)).map (·.2)

/-- A member's piece has everything (R135). -/
def Piece.complete (p : Piece) (n : Nat) : Bool :=
  p.leader && p.trailer && (List.range n).all fun i => p.payload.contains (i + 1)
def Piece.empty (p : Piece) : Bool := !p.leader && !p.trailer && p.payload.isEmpty

/-- Member `m`'s piece of a held line, as COVER and PARTIAL show it: nothing of a member enabled after the line opened (R146). -/
def HeldLine.shown (h : HeldLine) (m : Nat) : Piece := if h.barred.getLsbD m then {} else tblGet {} h.pieces m
/-- Member `m`'s piece of a held line is complete: never while the leader of its block is refused (R135). -/
def pieceComplete (s : State) (m : Nat) (h : HeldLine) : Bool :=
  match h.layoutOf m with
  | some l => (h.shown m).complete l.packets && !((h.shown m).blocks.any (s.ctx l.ctx).refused.contains)
  | none => false
/-- Every expected member is complete (R136). -/
def lineComplete (s : State) (h : HeldLine) : Bool :=
  (bitsOf 64 h.expected.toNat).all fun m => pieceComplete s m h

/-- COVER and PARTIAL (R139). A piece that has every packet, but whose block's leader was refused afterwards, is shown as partial: R135 says
only that it is not complete (DESIGN CHOICE). -/
def coverOf (s : State) (h : HeldLine) : Nat :=
  (bitsOf 64 h.expected.toNat).foldl (fun acc m => if pieceComplete s m h then acc + 2 ^ m else acc) 0
def partialOf (s : State) (h : HeldLine) : Nat :=
  (bitsOf 64 h.expected.toNat).foldl (fun acc m =>
    if !(h.shown m).empty && !pieceComplete s m h then acc + 2 ^ m else acc) 0

/-- STATUS of a seal record (R139). -/
def HeldLine.status (h : HeldLine) (st : Nat) : Nat :=
  st + (if st = 2 then h.cause.getD 0 * 4 else 0) + (if h.extrap then 16 else 0) + (if h.uncert then 32 else 0) +
    (if h.filled then 64 else 0) + (if h.memErr then 128 else 0)

/-- The 64 bytes of a seal record. -/
def sealBytes (k cover part trigger sealTime position status : Nat) : List Byte :=
  leBytes 8 k ++ leBytes 8 cover ++ leBytes 8 part ++ leBytes 8 trigger ++ leBytes 8 sealTime ++ leBytes 8 position ++
    leBytes 4 status ++ leBytes 12 0

/-- The bytes of a seal record while the line is open: every field but LINE, the trigger's and STATE is zero (R134). -/
def openSeal (h : HeldLine) : List Byte := sealBytes h.k 0 0 h.trigger 0 h.position (h.status 1)

/-- A write of Accession can be made: mapped and not retired (R147). -/
def lineWritable (s : State) (line : Nat) : Bool :=
  mapped s (64 * line) && !resourceRetired s (resourceOf s (64 * line))

/-- Accession's write of bytes: lines that cannot be written are discarded; the first such address is given. -/
def depositWrite (r a : Nat) (bytes : List Byte) (s : State) : State × Option Nat :=
  (linesOf a bytes.length).foldl (fun (x : State × Option Nat) line =>
    if lineWritable x.1 line then
      let (d, k) := linePart a bytes line
      (ctlWrite .ingest (.ring r) line d k 0xFF#8 .clean x.1, x.2)
    else (x.1, match x.2 with
      | none => some (max a (64 * line))
      | some b => some b)) (s, none)

/-- A held line changed. -/
def setLine (r : Nat) (h : HeldLine) (s : State) : State :=
  let x := s.ring r
  setRing r { x with held := x.held.map fun y => if y.k = h.k then h else y } s

/-- Bytes of a deposit that can be written: whole lines (R130). -/
def writableBytes (s : State) (a n : Nat) : Nat := 64 * ((linesOf a n).filter (lineWritable s)).length

/-- The record of a failed write of Accession (R147). -/
def writeRecord (s : State) (r a : Nat) : ErrRec :=
  { cls := 4, action := 0x0A, kind := 0x0A, unit := 256 + r, part := ringO s r 0x4200 2, addr := a }

/-- A deposit or fill write of a line failed: MEM, and one record for the line, which names the first failing address (R147). -/
def lineFailed (r : Nat) (h : HeldLine) (addr : Option Nat) (s : State) : State :=
  match addr with
  | none => s
  | some a =>
    onlyIf (!h.failed) (record (writeRecord s r a)) (setLine r { h with memErr := true, failed := true } s)

/-- A write of the line's seal record failed: MEM, and a record of its own (R147). -/
def sealFailed (r : Nat) (h : HeldLine) (addr : Option Nat) (s : State) : State :=
  match addr with
  | none => s
  | some a => record (writeRecord s r a) (setLine r { h with memErr := true } s)

/-! Opening (R134). -/

/-- The ring opens no line for index `k`: its window is full, or the slot of `k` still belongs to a held line. -/
def cannotOpen (s : State) (r k : Nat) : Bool :=
  decide (ringO s r 0x4200 0x0A ≤ (s.ring r).held.length) ||
    (match (s.ring r).held.head? with
      | some h => decide (h.k + ringO s r 0x4200 5 ≤ k)
      | none => false)

/-- One line opened by a delivered trigger. -/
def openLine (r : Nat) (t : Trig) (s : State) : State :=
  if cannotOpen s r t.k then addO (nRing r) 0x4210 6 1 s
  else
    let h : HeldLine := { k := t.k, trigger := t.instant, position := t.position, extrap := t.extrap, uncert := t.uncert,
                          expected := BitVec.ofNat 64 (ringMembers s r), layout := memberLayouts s r,
                          cause := if ringMembers s r = 0 then some 0 else none }
    let s1 := setRing r { s.ring r with held := (s.ring r).held ++ [h] } s
    let s2 := runAll [addO (nRing r) 0x4210 2 1, setO (nRing r) 0x4210 7 t.k, addO (nRing r) 0x4210 0x0A 1,
      addO nX 0x4020 3 1, subO nX 0x4020 4 1] s1
    let (s3, bad) := depositWrite r (sealAddr s r t.k) (openSeal h) s2
    sealFailed r h bad s3

/-- Every enabled ring of a program opens a line for a delivered trigger while deposit is active; from the acceptance of LOCKSTEP → RUN on,
which disarms the triggers, no further line opens (R145). -/
def openLines (program : Nat) (t : Trig) (s : State) : State :=
  if s.acc.depositing && s.hodo.armed then
    forAll ((enabledRings s).filter fun r => ringO s r 0x4200 8 == program) (fun r s => openLine r t s) s
  else s

/-! Sealing (R136, R137). -/

/-- A held line's seal condition, the first that it meets. -/
def meetSeal (r k cause : Nat) (s : State) : State :=
  match (s.ring r).held.find? (·.k == k) with
  | some h => if h.cause.isNone then setLine r { h with cause := some cause } s else s
  | none => s

/-- The payload packets of a member that no packet wrote. -/
def missing (l : Layout) (p : Piece) : List Nat := ((List.range l.packets).map (· + 1)).filter fun i => !p.payload.contains i

/-- Step 2 of R137: fill bytes for one member; FILLED where a byte was written. -/
def fillMember (r k m : Nat) (s : State) : State :=
  match (s.ring r).held.find? (·.k == k) with
  | none => s
  | some h => match h.layoutOf m with
    | none => s
    | some l =>
      forAll (missing l (tblGet {} h.pieces m)) (fun i s =>
        match (s.ring r).held.find? (·.k == k) with
        | some h =>
          let a := depositAddr s r k l i
          let h1 := { h with filled := h.filled || decide (0 < writableBytes s a (l.len i)) }
          let (s1, bad) := depositWrite r a (List.replicate (l.len i) (BitVec.ofNat 8 (ringO s r 0x4200 0x0D))) (setLine r h1 s)
          lineFailed r h1 bad s1
        | none => s) s

/-- Pieces of a sealed line counted at their contexts (R127). -/
def countPieces (h : HeldLine) (s : State) : State :=
  forAll (bitsOf 64 h.expected.toNat) (fun m s =>
    match h.layoutOf m with
    | some l =>
      addO (nCtx l.ctx) 0x4110 (if pieceComplete s m h then 1 else if (h.shown m).empty then 3 else 2) 1 s
    | none => s) s

/-- The type-01h record (R140). -/
def sealedRecord (s : State) (r : Nat) (h : HeldLine) : List Byte :=
  leBytes 1 1 ++ leBytes 1 (h.status 2) ++ leBytes 2 r ++ leBytes 4 (slotOfLine s r h.k) ++ leBytes 8 h.k ++
    leBytes 8 (coverOf s h) ++ leBytes 8 h.sealTime

/-- Steps 3 to 5 of R137 for the line: the seal record, its notices under way, and its place in the posting order. -/
def writeSeal (r : Nat) (h : HeldLine) (s : State) : State :=
  let h1 := { h with sealed := true, sealTime := now s }
  let (s1, bad) := depositWrite r (sealAddr s r h.k)
    (sealBytes h.k (coverOf s h) (partialOf s h) h.trigger (now s) h.position (h.status 2)) (setLine r h1 s)
  let s2 := sealFailed r h1 bad s1
  let h2 := { h1 with memErr := h1.memErr || bad.isSome }
  let feeds := (bitsOf 66 (ringO s r 0x4200 0x0E)).map fun v => (v, r, h.k, coverOf s h)
  let x := s2.ring r
  countPieces h2 (setO (nRing r) 0x4210 8 h.k
    (setRing r { x with post := x.post ++ [{ line := some h.k, bytes := sealedRecord s r h2 }] }
      { s2 with acc := { s2.acc with notices := s2.acc.notices ++ feeds } }))

/-- The oldest held line of a ring that has not passed step 4. -/
def nextToSeal (s : State) (r : Nat) : Option HeldLine := (s.ring r).held.find? fun h => !h.sealed

/-- LINE_SEAL: the next line in opening order, once it meets its seal condition, is filled and sealed. -/
def sealNext (r : Nat) (s : State) : State :=
  match nextToSeal s r with
  | none => s
  | some h =>
    match h.cause with
    | none => s
    | some cause =>
      let s1 := onlyIf ((ringO s r 0x4200 0x0C).testBit 0 && cause != 2)
        (forAll (bitsOf 64 h.expected.toNat) (fun m s => fillMember r h.k m s)) s
      match (s1.ring r).held.find? (·.k == h.k) with
      | some h1 => pkgEvent (if cause = 0 then 0x902 else 0x903) none (256 + r) (if cause = 2 then 0 else 1) (writeSeal r h1 s1)
      | none => s1

/-- Every line that meets its seal condition is sealed; `n` bounds them. -/
def sealAll (r : Nat) : Nat → State → State
  | 0, s => s
  | n + 1, s =>
    match nextToSeal s r with
    | some h => if h.cause.isSome then sealAll r n (sealNext r s) else s
    | none => s

/-! Posting (steps 6 and 7 of R137, R138, R141). -/

/-- A ring's completion queue is one for its records. -/
def ringTarget (s : State) (r : Nat) : Bool :=
  validTarget s (ringO s r 0x4200 0x0B) (ringO s r 0x4200 2) && decide (32 ≤ qRoom s (ringO s r 0x4200 0x0B))

/-- A ring's completion queue takes a record now: a slot is free, and no other producer waits before the ring (R340). -/
def ringMayPost (s : State) (r : Nat) : Bool :=
  let q := ringO s r 0x4200 0x0B
  ringTarget s r && qFree s q != 0 && ((s.queue q).waiting.headD (ringProducer r, [])).1 == ringProducer r

/-- The ring has its place among those that wait at its queue. -/
def ringQueues (s : State) (r : Nat) : Bool := (s.queue (ringO s r 0x4200 0x0B)).waiting.any (·.1 == ringProducer r)

/-- The ring waits at its queue, behind those that wait there already; B110h.0Ah counts the wait (R340). -/
def ringWaits (r : Nat) (s : State) : State :=
  let q := ringO s r 0x4200 0x0B
  if ringTarget s r && !ringQueues s r then
    addO (nQueue q) 0xB110 0x0A 1 (setQueue q { s.queue q with waiting := (s.queue q).waiting ++ [(ringProducer r, [])] } s)
  else s

/-- Step 7: the open-line slot returns and the line enters the count of its cause. -/
def returnSlot (r k : Nat) (s : State) : State :=
  match (s.ring r).held.find? (·.k == k) with
  | none => s
  | some h =>
    let x := s.ring r
    runAll [setO (nRing r) 0x4210 9 k, addO (nRing r) 0x4210 (3 + h.cause.getD 0) 1, subO (nRing r) 0x4210 0x0A 1,
      subO nX 0x4020 3 1, addO nX 0x4020 4 1] (setRing r { x with held := x.held.filter (·.k != k) } s)

/-- COMPLETION_POST: the ring's next record is posted, or posting stalls. -/
def postNext (r : Nat) (s : State) : State :=
  let x := s.ring r
  match x.post with
  | [] => s
  | p :: rest =>
    let q := ringO s r 0x4200 0x0B
    if ringMayPost s r then
      let s1 := postNow (.ring r) q p.bytes (dropWaiting (ringProducer r) (setRing r { x with post := rest, stalled := false } s))
      resumePosts q (match p.line with
        | some k => returnSlot r k s1
        | none => s1)
    else
      let s1 := ringWaits r s
      if x.stalled then s1 else addO (nRing r) 0x4210 0x0B 1 (setRing r { s1.ring r with stalled := true } s1)

/-- A type-02h record takes its place in the posting order (R138): behind the held line's type-01h record, else first,
and behind late records that are there already. -/
def placeLate (k : Nat) (rec : PostRec) (held : Bool) : List PostRec → List PostRec
  | [] => [rec]
  | p :: t =>
    if held && p.line == some k then
      p :: ((t.takeWhile fun x => x.line.isNone) ++ [rec] ++ (t.dropWhile fun x => x.line.isNone))
    else if held then p :: placeLate k rec held t
    else ((p :: t).takeWhile fun x => x.line.isNone) ++ [rec] ++ ((p :: t).dropWhile fun x => x.line.isNone)

/-- A late packet (R138). -/
def latePacket (r m k blockId : Nat) (opens : Bool) (s : State) : State :=
  let s1 := addO (nRing r) 0x4210 0x0C 1 s
  if (ringO s r 0x4200 0x0C).testBit 1 && opens then
    let bytes := leBytes 1 2 ++ leBytes 1 0 ++ leBytes 2 r ++ leBytes 4 m ++ leBytes 8 k ++ leBytes 8 blockId ++
      leBytes 8 (now s)
    let x := s1.ring r
    let held := x.post.any fun p => p.line == some k
    setRing r { x with post := placeLate k { line := none, bytes := bytes } held x.post } s1
  else s1

end Sys2Proof.Machine
end

