-- ==== Sys2Proof/Machine/Hodometer.lean ====
section
/-! DEFINITION. The Hodometer (R92-R118): encoders, faults, trigger programs, delivery. -/

namespace Sys2Proof.Machine

def State.enc (s : State) (e : Nat) : Encoder := tblGet {} s.hodo.enc e
def setEnc (e : Nat) (x : Encoder) (s : State) : State := { s with hodo := { s.hodo with enc := tblSet {} s.hodo.enc e x } }
def State.prog (s : State) (n : Nat) : Program := tblGet {} s.hodo.prog n
def setProg (n : Nat) (x : Program) (s : State) : State := { s with hodo := { s.hodo with prog := tblSet {} s.hodo.prog n x } }

/-- Objects of an encoder's configuration and state, of a program's configuration and state. -/
def encCfg (s : State) (e sub : Nat) : Nat := getO s nH (0x3100 + e) sub
def encO (s : State) (e sub : Nat) : Nat := getO s nH (0x3200 + e) sub
def progCfg (s : State) (n sub : Nat) : Nat := getO s nH (0x3300 + n) sub
def progO (s : State) (n sub : Nat) : Nat := getO s nH (0x3400 + n) sub

/-- The Hodometer counts (R116): KEEP, RUN, LOCKSTEP and LIMP, the encoder enabled (R118). -/
def counting (s : State) (e : Nat) : Bool :=
  (s.modes.mode == .keep || s.modes.mode.active) && encCfg s e 1 == 1
/-- The position of an encoder (R94). -/
def posOf (s : State) (e : Nat) : Int := getI s nH (0x3200 + e) 1
/-- The encoder has a fault (R98). -/
def encFault (s : State) (e : Nat) : Bool := encO s e 6 != 0

/-! Speed (R96). -/

/-- A count's contribution. -/
def contribution (c : Nat × Bool) : Int := if c.2 then 1 else -1
/-- The counts of the last millisecond, newest first. -/
def lastMs (s : State) (x : Encoder) : List (Nat × Bool) := x.recent.filter fun c => decide (now s ≤ c.1 + 1000000)
/-- The speed at this instant (R96). A quotient that is no whole number of counts a second is cut toward zero: the spec gives no
rounding, and this one is the model's choice. -/
def speedOf (s : State) (e : Nat) : Int :=
  let x := s.enc e
  let l := lastMs s x
  match l with
  | [] => 0
  | c :: _ =>
    if 64 ≤ l.length then
      let w := l.take 64
      let len := c.1 - (w.getLast?.getD c).1
      if len = 0 then 0 else Int.tdiv (((w.take 63).map contribution).sum * 1000000000) (len : Int)
    else (l.map contribution).sum * 1000
/-- 3200h.03h brought up to the present. -/
def showSpeed (e : Nat) (s : State) : State := setI nH (0x3200 + e) 3 (speedOf s e) s

/-! Trigger points (R100, R102). -/

/-- pₖ of a position program, in counts with 32 fractional bits. -/
def pointOf (s : State) (n k : Nat) : Int := getI s nH (0x3300 + n) 3 * 2 ^ 32 + (k * progCfg s n 4 : Nat)
/-- ⌊x⌋ and ⌈x⌉ of such a number. -/
def floor32 (x : Int) : Int := x.ediv (2 ^ 32)
def ceil32 (x : Int) : Int := -((-x).ediv (2 ^ 32))
/-- tₖ of a time program. -/
def timeOf (s : State) (n k : Nat) : Nat := progCfg s n 9 + k * progCfg s n 0x0A
/-- The smallest index whose trigger point lies after a position. -/
def firstAfter (s : State) (n : Nat) (pos : Int) : Nat :=
  let d := pos * 2 ^ 32 - pointOf s n 0
  if d < 0 then 0 else if progCfg s n 4 = 0 then 0 else (d.ediv (progCfg s n 4)).toNat + 1
/-- The smallest index whose trigger point lies after a time. -/
def firstAfterTime (s : State) (n t : Nat) : Nat :=
  if t < progCfg s n 9 then 0 else if progCfg s n 0x0A = 0 then 0 else (t - progCfg s n 9) / progCfg s n 0x0A + 1
/-- 3400h.02h: ⌈pₖ⌉, or 0 for time programs. -/
def nextPoint (s : State) (n : Nat) : Int := if progCfg s n 1 = 1 then ceil32 (pointOf s n (progO s n 1)) else 0

/-- The state of a program; a change fires its event source (R352). -/
def setProgState (n st : Nat) (s : State) : State :=
  if progO s n 8 = st then s else fireSource (1312 + n) (setO nH (0x3400 + n) 8 st s)

/-- The program names the encoder as a position program. -/
def usesEncoder (s : State) (n e : Nat) : Bool := progCfg s n 1 == 1 && progCfg s n 2 == e
/-- Some position program names the encoder while programs are armed (R95, R107). -/
def encoderInUse (s : State) (e : Nat) : Bool := s.hodo.armed && (List.range 32).any fun n => usesEncoder s n e

/-- A program is valid (R101). -/
def progValid (s : State) (n : Nat) : Bool :=
  let kind := progCfg s n 1
  ((kind == 1 && decide (progCfg s n 2 < 8) && encCfg s (progCfg s n 2) 1 == 1 && decide (2 ^ 32 ≤ progCfg s n 4)) ||
    (kind == 2 && decide (progCfg s n 6 ≤ progCfg s n 0x0A))) &&
  progO s n 8 != 4 &&
  ((progCfg s n 0x0B != 0 && progCfg s n 0x0C != 0) ||
    (List.range 16).any (fun m => getO s nH (0x3500 + m) 1 == n) ||
    (enabledRings s).any fun r => ringO s r 0x4200 8 == n)

/-! Delivery (R110-R115, R122, R124). -/

/-- A lane carries frames: enabled, the mode allows it, its link is up (R120). -/
def laneUp (s : State) (l : Nat) : Bool :=
  s.modes.mode.active && getO s (nLane l) 0x4010 1 == 1 && getO s (nLane l) 0x4010 0x0C == 2

/-- Lane time of a timebase instant (R122). -/
def laneTime (s : State) (t : Nat) : Nat := ((t + getI s nX 0x4000 4 : Int) % (2 ^ 64 : Int)).toNat

/-- One output's pulse (R110, R111), in tenths of a nanosecond. A trigger while a pulse of the output runs is counted as one more pulse, and
the output is active till the later end: R111 does not speak of pulses that overlap, and this is the model's choice. -/
def firePulse (m instant : Nat) (s : State) : State :=
  let start := instant * 10 + getO s nH 0x3000 6 * 10 + getO s nH (0x3500 + m) 3 * 25
  let width := getO s nH (0x3500 + m) 2 * 25
  emit (.pulse m start width (getO s nH (0x3500 + m) 4 == 1))
    (addO nH (0x3500 + m) 5 1 { s with hodo := { s.hodo with pulse := tblSet 0 s.hodo.pulse m (start + width) } })

/-- The identifier after an action command's (R124). -/
def nextAction (s : State) (l : Nat) : Nat :=
  if getO s (nLane l) 0x4010 0x0E = 0xFFFF then 0x8000 else getO s (nLane l) 0x4010 0x0E + 1

/-- The Ethernet destination of the lane's frames: the head's address, broadcast where it is all 00h (R113, R123). -/
def headMac (s : State) (l : Nat) : Nat := if getO s (nLane l) 0x4010 5 = 0 then 0xFFFFFFFFFFFF else getO s (nLane l) 0x4010 5
/-- The IPv4 destination of the lane's action commands, 255.255.255.255 where the head's is all 00h (R113). -/
def headIp (s : State) (l : Nat) : Nat := if getO s (nLane l) 0x4010 6 = 0 then 0xFFFFFFFF else getO s (nLane l) 0x4010 6

/-- The 46 bytes of a line-trigger frame (R114). -/
def triggerBytes (n lead : Nat) (t : Trig) : List Byte :=
  leBytes 2 1 ++ leBytes 1 n ++ leBytes 1 ((if t.extrap then 1 else 0) + (if t.uncert then 2 else 0)) ++ leBytes 8 t.k ++
    leBytes 8 t.instant ++ leBytes 8 t.position ++ leBytes 8 (if lead = 0 then 0 else t.instant + lead) ++ leBytes 10 0

/-- The frame of a trigger for a lane: a line-trigger frame of EtherType 88B5h, or a GVCP ACTION_CMD to port 3956 without the
acknowledge flag, which leaves after the fixed latency of lanes (R110, R113, R114). -/
def triggerFrame (s : State) (n : Nat) (t : Trig) (l : Nat) : Emit :=
  let lead := progCfg s n 0x0D
  let start := t.instant + getO s nH 0x3000 7
  if progCfg s n 0x0C = 1 then
    .actionCmd l (headMac s l) (headIp s l) (getO s (nLane l) 0x4010 7) 3956 (getO s (nLane l) 0x4010 0x0E)
      (progCfg s n 0x10) (progCfg s n 0x11) (progCfg s n 0x12) start
      (if lead = 0 then none else some (laneTime s (t.instant + lead)))
  else .frame l (headMac s l) 0x88B5 start (triggerBytes n lead t)

/-- One lane's trigger frame (R112-R114); an action command takes its identifier even when it is not sent. -/
def fireLane (n : Nat) (t : Trig) (l : Nat) (s : State) : State :=
  let s1 := onlyIf (progCfg s n 0x0C == 1) (setO (nLane l) 0x4010 0x0E (nextAction s l)) s
  if laneUp s l then pkgEvent 0x905 none l 1 (emit (triggerFrame s n t l) s1) else addO nH (0x3400 + n) 0x0A 1 s1

/-- Every output and lane of a program (R110). -/
def deliver (n : Nat) (t : Trig) (s : State) : State :=
  let s1 := forAll ((List.range 16).filter fun m => getO s nH (0x3500 + m) 1 == n) (fun m s => firePulse m t.instant s) s
  if progCfg s n 0x0C = 0 then s1 else forAll (bitsOf 64 (progCfg s n 0x0B)) (fun l s => fireLane n t l s) s1

/-- The encoder had a fault at an instant, as far back as the latest change of its fault word. -/
def faultAt (s : State) (e t : Nat) : Bool :=
  match (s.enc e).faultSince with
  | none => encFault s e
  | some f => decide (f ≤ t) && (encFault s e || (match (s.enc e).clearSince with
    | some c => decide (t < c)
    | none => false))

/-- UNCERT: the program's encoder had a fault at the trigger instant (R114). -/
def uncertain (s : State) (n t : Nat) : Bool := decide (progCfg s n 2 < 8) && faultAt s (progCfg s n 2) t
/-- The sampled position of a program's encoder, 0 where it names none (R114). -/
def sampledPos (s : State) (n : Nat) : Int := if progCfg s n 2 < 8 then posOf s (progCfg s n 2) else 0

/-- A trigger of index k at an instant: suppressed, or delivered, counted and kept (R105, R109, R134). -/
def fire (n instant : Nat) (pos : Int) (extrap : Bool) (s : State) : State :=
  let k := progO s n 1
  let s1 := setO nH (0x3400 + n) 1 (k + 1) s
  let x := s1.prog n
  let close := match x.lastInstant with
    | some t => decide (instant < t + progCfg s n 6)
    | none => false
  if close then addO nH (0x3400 + n) 4 1 s1
  else
    let t : Trig := { k := k, instant := instant, position := unsigned 8 pos, extrap := extrap, uncert := uncertain s n instant }
    let s2 := runAll [addO nH (0x3400 + n) 3 1, setO nH (0x3400 + n) 6 instant, setO nH (0x3400 + n) 7 (unsigned 8 pos),
      onlyIf extrap (addO nH (0x3400 + n) 9 1),
      setProg n { x with lastInstant := some instant, history := (t :: x.history).take 4096 }] s1
    let s3 := openLines n t (deliver n t s2)
    if progCfg s n 0x0E ≠ 0 ∧ progO s3 n 3 = progCfg s n 0x0E then
      setProgState n 4 (setProg n { s3.prog n with pendingAt := none, extra := none } s3)
    else s3

/-- A position program fires its point of index k at an instant. -/
def firePoint (n instant : Nat) (extrap : Bool) (s : State) : State :=
  fire n instant (floor32 (pointOf s n (progO s n 1))) extrap s

/-- k set as at arming (R95, R102): the larger of the held value and the first point after a position; indices stepped
over are counted where `skip` says so. -/
def reindex (n : Nat) (pos : Int) (skip : Bool) (s : State) : State :=
  let k := progO s n 1
  let k' := firstAfter s n pos
  if k < k' then onlyIf skip (addO nH (0x3400 + n) 5 (k' - k)) (setO nH (0x3400 + n) 1 k' s) else s

/-! Position programs (R103, R104). -/

/-- A program evaluates its points for a count or a moment at `t`: it is armed, or LOCKSTEP → RUN disarmed it later than that (R117). -/
def live (s : State) (n t : Nat) : Bool :=
  (s.hodo.armed && progO s n 8 == 1) || (s.hodo.graced.contains n && progO s n 8 == 0 && decide (t < s.hodo.graceEnd))

/-- The position has reached `pos` while rising, at an edge; `prev` is the edge time of the count before. `n` steps bound
the points passed. Two points that R104 leaves open are the model's choice: the computed moment is cut to a whole nanosecond, and an
interpolated point whose ⌊pₖ⌋ the position held already when it was armed, resumed or loaded fires at the edge that reaches ⌈pₖ⌉. -/
def crossPoints (n : Nat) (pos : Int) (edge : Nat) (prev : Option Nat) : Nat → State → State
  | 0, s => s
  | fuel + 1, s =>
    if live s n edge = false ∨ (s.prog n).pendingAt.isSome then s
    else
      let p := pointOf s n (progO s n 1)
      let frac := (p.emod (2 ^ 32)).toNat
      if progCfg s n 5 % 2 = 0 ∨ frac = 0 ∨ floor32 p < pos then
        if ceil32 p ≤ pos then crossPoints n pos edge prev fuel (firePoint n edge false s) else s
      else if pos < floor32 p then s
      else match prev with
        | none => crossPoints n pos edge prev fuel (firePoint n edge false s)
        | some t => setProg n { s.prog n with pendingAt := some (edge + frac * (edge - t) / 2 ^ 32) } s

/-- A count at an edge meets a pending interpolated trigger (R104): its moment has passed, or the count is rising and it
fires at the count's edge, or the count is falling and it is withdrawn. -/
def meetPending (n : Nat) (rising : Bool) (edge : Nat) (s : State) : State :=
  match (s.prog n).pendingAt with
  | none => s
  | some t =>
    let s1 := setProg n { s.prog n with pendingAt := none } s
    if t ≤ edge then firePoint n t false s1 else if rising then firePoint n edge false s1 else s1

/-- A pending interpolated trigger is delivered where its moment is one of `due`, and withdrawn otherwise. -/
def flushPending (n : Nat) (due : Nat → Bool) (s : State) : State :=
  match (s.prog n).pendingAt with
  | none => s
  | some t => onlyIf (due t) (firePoint n t false) (setProg n { s.prog n with pendingAt := none } s)

/-- A live position program's pending trigger meets a count. -/
def progMeets (n : Nat) (rising : Bool) (edge : Nat) (s : State) : State :=
  onlyIf (live s n edge) (meetPending n rising edge) s

/-! Fault action (R108). -/

/-- The program acts on a fault of its encoder, from this instant; a trigger whose moment came before is delivered. -/
def faultAction (n e : Nat) (s : State) : State :=
  let s1 := flushPending n (fun t => decide (t < now s)) s
  if progCfg s n 7 = 0 then setProgState n 3 s1
  else setProgState n 2 (setProg n { s1.prog n with
    extra := some { start := now s, position := posOf s e, speed := speedOf s e } } s1)

/-- The armed position programs of an encoder act on its fault. -/
def programsFault (e : Nat) (s : State) : State :=
  if s.hodo.armed then
    forAll ((List.range 32).filter fun n => usesEncoder s n e && progO s n 8 == 1) (fun n s => faultAction n e s) s
  else s

/-- An event of a fault bit (R97, R98): counted; a record and the event source where the bit becomes set. -/
def encoderFault (e bit : Nat) (s : State) : State :=
  let s1 := addO nH (0x3200 + e) 7 1 s
  if (encO s e 6).testBit bit then s1
  else
    let first := encO s e 6 == 0
    let since := if first then some (now s) else (s.enc e).faultSince
    let s2 := setO nH (0x3200 + e) 6 (setBit (encO s e 6) bit) (setEnc e { s.enc e with clearSince := none, faultSince := since } s1)
    let s3 := fireSource (1408 + e)
      (record { cls := 4, action := 0, kind := 0x0B, unit := e, part := sourceOwner s (1408 + e), code := 2 ^ bit } s2)
    onlyIf first (programsFault e) s3

/-! Counts (R93, R94). -/

/-- Counts within the 1 µs that ends at an edge exceed the rate limit (R97). -/
def tooFast (s : State) (e edge : Nat) (l : List (Nat × Bool)) : Bool :=
  decide (encCfg s e 9 < (l.filter fun c => decide (edge < c.1 + 1000)).length * 1000000)

/-- One count at an edge. It meets the pending triggers of the encoder's programs before an OVERSPEED that it causes stops them (R104). Two
points are the model's choice: R97 and R98 do not say which of the 1 µs windows, which overlap, are events, and each count whose own
trailing window exceeds the limit is one; and R108 does not say whether a count at the instant of a fault still fires its own point, and
neither the count that raises OVERSPEED nor one that is accepted after a fault, be its edge earlier, does. -/
def countStep (e : Nat) (up : Bool) (edge : Nat) (s : State) : State :=
  let x := s.enc e
  let d : Int := if up then 1 else -1
  let pos := signed 8 (unsigned 8 (posOf s e + d))
  let recent := ((edge, up) :: x.recent).take 64
  let s1 := runAll [setI nH (0x3200 + e) 1 pos, setO nH (0x3200 + e) 2 edge,
    setEnc e { x with recent := recent, netIndex := x.netIndex.map (· + d), lastCount := some edge }] s
  let users := (List.range 32).filter fun n => usesEncoder s n e
  let s2 := onlyIf (tooFast s e edge recent) (encoderFault e 1) (forAll users (fun n => progMeets n up edge) (showSpeed e s1))
  if up then forAll users (fun n => crossPoints n pos edge x.lastCount 4) s2 else s2

/-- A program is armed: states 01h to 03h while programs are armed (R118). -/
def progArmed (s : State) (n : Nat) : Bool := s.hodo.armed && [1, 2, 3].contains (progO s n 8)

/-- The position is loaded (R95): no count, and the armed programs set k as at arming. An interpolated trigger that is pending, and whose
index the load does not step over, stays pending: R95 and R104 do not speak of it, and this is the model's choice. So is what a backward
load does while k lags the position, as it can in states 02h and 03h: of the two sentences of R95, 'to the larger of the held value and
the smallest index' and 'leaves k unchanged', the model follows the first, and counts the indices stepped over. -/
def loadPosition (e : Nat) (s : State) : State :=
  let pos := getI s nH (0x3100 + e) 7
  let s1 := runAll [setI nH (0x3200 + e) 1 pos, setO nH (0x3200 + e) 8 1,
    setEnc e { s.enc e with lastCount := none, homing := false }] s
  forAll ((List.range 32).filter fun n => usesEncoder s n e && progArmed s n) (fun n s =>
    let k := progO s n 1
    let s2 := reindex n pos true s
    onlyIf (decide (k < progO s2 n 1)) (setProg n { s2.prog n with pendingAt := none }) s2) s1

/-- An accepted rising edge of Z (R95-R97). At a homing 3200h.04h takes the position that the edge loads: R96 does not say which of
the two positions at that edge it means, and this one is the model's choice. -/
def indexEdge (e edge : Nat) (s : State) : State :=
  let x := s.enc e
  let bad := match x.netIndex with
    | some n => encCfg s e 5 != 0 && decide (encCfg s e 6 < ((n.natAbs : Int) - encCfg s e 5).natAbs)
    | none => false
  let s1 := onlyIf bad (encoderFault e 3) (setEnc e { x with netIndex := some 0 } s)
  let s2 := onlyIf x.homing (loadPosition e) s1
  setO nH (0x3200 + e) 4 (encO s2 e 1) (setO nH (0x3200 + e) 5 edge s2)

/-- A change of A, or of B, gives +1 (R93). -/
def upwards (ofA a b : Bool) : Bool := if ofA then a != b else a == b

/-- A change of one of A and B, decoded. -/
def decodeChange (e : Nat) (ofA a b : Bool) (edge : Nat) (s : State) : State :=
  let counts := match encCfg s e 2 with
    | 4 => true
    | 2 => ofA
    | _ => ofA && a
  if counts then countStep e (upwards ofA a b != (encCfg s e 3 == 1)) edge s else s

/-- Newly accepted levels of A and B in one step. -/
def acceptAB (e : Nat) (la lb : Option Bool) (edge : Nat) (s : State) : State :=
  let x := s.enc e
  let a := la.orElse fun _ => x.a
  let b := lb.orElse fun _ => x.b
  let s1 := setEnc e { x with a := a, b := b } s
  match x.a, x.b, a, b with
  | some a0, some b0, some a1, some b1 =>
    if a0 ≠ a1 ∧ b0 ≠ b1 then encoderFault e 0 s1
    else if a0 ≠ a1 then decodeChange e true a1 b1 edge s1
    else if b0 ≠ b1 then decodeChange e false a1 b1 edge s1
    else s1
  | _, _, _, _ => s1

/-- A newly accepted level of Z; the first counts nothing and is no edge (R92). -/
def acceptZ (e : Nat) (z : Bool) (edge : Nat) (s : State) : State :=
  let x := s.enc e
  onlyIf (x.z == some false && z) (indexEdge e edge) (setEnc e { x with z := some z } s)

/-- The instant is that of a sample, whole nanoseconds of a multiple of 2.5 ns, no count was accepted for a later one, and the level
has been seen on every sample of the filter since (R92). -/
def filtered (s : State) (e edge : Nat) : Bool :=
  (edge % 5 == 0 || edge % 5 == 2) && decide ((s.enc e).lastCount.getD 0 ≤ edge) &&
    decide (edge * 10 + (encCfg s e 4 - 1) * 25 ≤ now s * 10)

/-- ENCODER_LEVEL_ACCEPTED (R92-R97). -/
def execEncoderLevelAccepted (encoder : Nat) (change : EncChange) (edge : Nat) (s : State) : Out :=
  within (decide (encoder < 8)) <|
    if counting s encoder && filtered s encoder edge then
      match change with
      | .a l => acceptAB encoder (some l) none edge s
      | .b l => acceptAB encoder none (some l) edge s
      | .z l => acceptZ encoder l edge s
      | .ab la lb => acceptAB encoder (some la) (some lb) edge s
    else s

/-! Receiver conditions (R97, R98). -/

/-- The persisting conditions of an encoder: LINE, ZLOSS. -/
def lineBad (s : State) (e : Nat) : Bool := counting s e && ((s.enc e).badA || (s.enc e).badB)
def zBad (s : State) (e : Nat) : Bool := counting s e && (s.enc e).badZ && encCfg s e 5 != 0

/-- Between `s` and `t` a persisting condition started: each onset is an event (R98). -/
def onsets (e : Nat) (s t : State) : State :=
  onlyIf (!zBad s e && zBad t e) (encoderFault e 4) (onlyIf (!lineBad s e && lineBad t e) (encoderFault e 2) t)
/-- A change that may start a persisting condition. -/
def withOnsets (e : Nat) (f : State → State) (s : State) : State := onsets e s (f s)

/-- The receiver of a line reports, or no longer reports, open, short or a low differential. -/
def setReceiver (e : Nat) (line : EncLine) (bad : Bool) (s : State) : State :=
  let x := s.enc e
  setEnc e (match line with
    | .a => { x with badA := bad }
    | .b => { x with badB := bad }
    | .z => { x with badZ := bad }) s

/-- ENCODER_LINE_FAULT. -/
def execEncoderLineFault (encoder : Nat) (line : EncLine) (s : State) : Out :=
  within (decide (encoder < 8)) (if s.modes.mode.on then withOnsets encoder (setReceiver encoder line true) s else s)

/-- ENCODER_LINE_RESTORED: the condition ends; the bit stays until it is cleared. -/
def execEncoderLineRestored (encoder : Nat) (line : EncLine) (s : State) : Out :=
  within (decide (encoder < 8)) (if s.modes.mode.on then setReceiver encoder line false s else s)

/-- SPEED_TIMEOUT: 1 ms without a count (R96). -/
def execSpeedTimeout (encoder : Nat) (s : State) : Out :=
  within (decide (encoder < 8)) (if s.modes.mode == .keep || s.modes.mode.active then showSpeed encoder s else s)

/-! Writes (R95, R97, R102, R107, R115). -/

/-- 01h to 3100h.08h. -/
def ruleLoadPreset (e : Nat) : Rule := fun s =>
  if encoderInUse s e then refusedBusy s else actionDone (loadPosition e s)

/-- LOAD_PRESET_NOW. -/
def execLoadPresetNow (who : Requester) (encoder : Nat) (s : State) : Out :=
  within (decide (encoder < 8)) (served who nH (0x3100 + encoder) 8 1 (ruleLoadPreset encoder) s)

/-- 02h to 3100h.08h: a homing that waits for the next rising edge of Z. -/
def ruleHoming (e : Nat) : Rule := fun s =>
  if encoderInUse s e then refusedBusy s else actionDone (setEnc e { s.enc e with homing := true } s)

/-- LOAD_PRESET_AT_INDEX. -/
def execLoadPresetAtIndex (who : Requester) (encoder : Nat) (s : State) : Out :=
  within (decide (encoder < 8)) (served who nH (0x3100 + encoder) 8 2 (ruleHoming encoder) s)

/-- A W1C write to 3200h.06h: a bit whose condition persists sets again at once (R16, R97). -/
def ruleFaultClear (e value : Nat) : Rule := fun s =>
  let kept := (List.range 16).foldl (fun acc i =>
    if (encO s e 6).testBit i && (!value.testBit i || (i == 2 && lineBad s e) || (i == 4 && zBad s e)) then acc + 2 ^ i
    else acc) 0
  answered (onlyIf (kept == 0 && encO s e 6 != 0) (fun s => setEnc e { s.enc e with clearSince := some (now s) } s)
    (setO nH (0x3200 + e) 6 kept s))

/-- FAULT_WORD_CLEAR. -/
def execFaultWordClear (who : Requester) (encoder value : Nat) (s : State) : Out :=
  within (decide (encoder < 8)) (served who nH (0x3200 + encoder) 6 value (ruleFaultClear encoder value) s)

/-- Configuration of an encoder (R92, R107): refused while in use; enabling drops the accepted levels. -/
def ruleEncoderConfig (e sub value : Nat) : Rule := fun s =>
  if encoderInUse s e then refusedBusy s
  else answered (withOnsets e (fun s =>
    let fresh := sub == 1 && value == 1 && encCfg s e 1 == 0
    setO nH (0x3100 + e) sub value (onlyIf fresh (setEnc e { s.enc e with a := none, b := none, z := none }) s)) s)

/-- An output's configuration: refused while its program is armed (R107). -/
def ruleOutputConfig (m sub value : Nat) : Rule := fun s =>
  let n := getO s nH (0x3500 + m) 1
  if decide (n < 32) && progArmed s n then refusedBusy s
  else answered (setO nH (0x3500 + m) sub value s)

/-- What a write of an object of 3300h makes wrong (R100, R113): FFh names no encoder, for time programs only (R118). -/
def progWriteBad (s : State) (n sub value : Nat) : Bool :=
  let v := fun k => if sub = k then value else progCfg s n k
  (sub == 4 && decide (value < 2 ^ 32)) ||
    ((sub == 1 || sub == 2) && v 1 == 1 && v 2 == 0xFF) ||
    ((sub == 1 || sub == 6 || sub == 0x0A) && v 1 == 2 && decide (v 0x0A < v 6)) ||
    (sub == 0x0D && value != 0 && decide (value < getO s nH 0x3000 7))

/-- The index, state, counts and history of a program start anew (R102, R109). -/
def resetProgram (n : Nat) (s0 : State) : State :=
  let s := { s0 with hodo := { s0.hodo with graced := dropFrom s0.hodo.graced n } }
  setProgState n 0 (setProg n {} (runAll [setO nH (0x3400 + n) 1 0, setO nH (0x3400 + n) 3 0, setO nH (0x3400 + n) 4 0,
    setO nH (0x3400 + n) 5 0, setO nH (0x3400 + n) 6 0, setO nH (0x3400 + n) 7 0, setO nH (0x3400 + n) 9 0,
    setO nH (0x3400 + n) 0x0A 0] s))

/-- A write of an object of 3300h (R100, R102, R107). -/
def ruleProgramConfig (n sub value : Nat) : Rule := fun s =>
  if s.hodo.armed && progCfg s n 1 != 0 then refusedBusy s
  else if progWriteBad s n sub value then refusedValue s
  else answered (resetProgram n (setO nH (0x3300 + n) sub value s))

/-- PROGRAM_CONFIG_WRITE. -/
def execProgramConfigWrite (who : Requester) (program sub value : Nat) (s : State) : Out :=
  within (decide (program < 32)) (served who nH (0x3300 + program) sub value (ruleProgramConfig program sub value) s)

/-- The trigger of a test fire (R115). -/
def testTrig (s : State) (n : Nat) : Trig :=
  { k := noLine, instant := now s, position := unsigned 8 (sampledPos s n), extrap := false, uncert := uncertain s n (now s) }

/-- 3000h.08h (R115). -/
def ruleTestFire (n : Nat) : Rule := fun s =>
  if s.modes.mode ≠ .run then refused 0 s else actionDone (deliver n (testTrig s n) s)

/-- TEST_FIRE. -/
def execTestFire (who : Requester) (value : Nat) (s : State) : Out :=
  .next (served who nH 0x3000 8 value (ruleTestFire value) s)

/-! Timed events. -/

/-- INTERPOLATED_TRIGGER: the computed moment has come (R104). -/
def execInterpolatedTrigger (program : Nat) (s : State) : Out :=
  within (decide (program < 32)) <|
    match (s.prog program).pendingAt with
    | some t =>
      if live s program t && decide (t ≤ now s) then
        firePoint program t false (setProg program { s.prog program with pendingAt := none } s)
      else s
    | none => s

/-- The instant of an armed time program's next point, where it is one of `due`, fires (R100). -/
def fireTime (n : Nat) (due : Nat → Bool) (s : State) : State :=
  let t := timeOf s n (progO s n 1)
  if s.hodo.armed && progCfg s n 1 == 2 && progO s n 8 == 1 && due t then fire n t (sampledPos s n) false s else s

/-- TIME_TRIGGER (R100). -/
def execTimeTrigger (program : Nat) (s : State) : Out :=
  within (decide (program < 32)) (fireTime program (fun t => decide (t ≤ now s)) s)

/-- The instant at which an extrapolated position passes the next point (R108); none where it never does. -/
def extrapInstant (s : State) (n : Nat) (x : Extrap) : Option Nat :=
  let p := pointOf s n (progO s n 1)
  let target := if progCfg s n 5 % 2 = 1 then p else ceil32 p * 2 ^ 32
  let d := target - x.position * 2 ^ 32
  if x.speed ≤ 0 then none
  else if d ≤ 0 then some x.start
  else some (x.start + (-((-(d * 1000000000)).ediv (x.speed * 2 ^ 32))).toNat)

/-- The next point of an extrapolating program fires where its instant is one of `due` and within the limit (R108). -/
def fireExtrapolated (n : Nat) (due : Nat → Bool) (s : State) : State :=
  match (s.prog n).extra with
  | none => s
  | some x =>
    match extrapInstant s n x with
    | none => s
    | some t =>
      if s.hodo.armed && progO s n 8 == 2 && due t && decide (t ≤ x.start + progCfg s n 8 * 1000) then firePoint n t true s
      else s

/-- EXTRAPOLATED_TRIGGER (R108). -/
def execExtrapolatedTrigger (program : Nat) (s : State) : Out :=
  within (decide (program < 32)) (fireExtrapolated program (fun t => decide (t ≤ now s)) s)

/-- EXTRAPOLATION_LIMIT_EXPIRY (R108). Where every fault bit is clear then, but for less than 1 ms, R108 does not say whether the fault has
cleared; the program waits in state 03h for the rest of that millisecond, and this is the model's choice. -/
def execExtrapolationLimitExpiry (program : Nat) (s : State) : Out :=
  within (decide (program < 32)) <|
    match (s.prog program).extra with
    | none => s
    | some x =>
      if s.hodo.armed && progO s program 8 == 2 && decide (x.start + progCfg s program 8 * 1000 ≤ now s) then
        setProgState program 3 (setProg program { s.prog program with extra := none } s)
      else s

/-- A program resumes against the counted position (R108): points already passed are counted, not fired. -/
def resume (n e : Nat) (s : State) : State :=
  setProgState n 1 (reindex n (posOf s e) true (setProg n { s.prog n with extra := none, pendingAt := none } s))

/-- FAULT_CLEAR_INTERVAL_END: every fault bit clear for 1 ms (R108). -/
def execFaultClearIntervalEnd (encoder : Nat) (s : State) : Out :=
  within (decide (encoder < 8)) <|
    match (s.enc encoder).clearSince with
    | some t =>
      if s.hodo.armed && !encFault s encoder && decide (t + 1000000 ≤ now s) then
        forAll ((List.range 32).filter fun n =>
          usesEncoder s n encoder && (progO s n 8 == 2 || progO s n 8 == 3)) (fun n s => resume n encoder s) s
      else s
    | none => s

/-- OUTPUT_PULSE_END (R111). -/
def execOutputPulseEnd (output : Nat) (s : State) : Out :=
  within (decide (output < 16)) <|
    if tblGet 0 s.hodo.pulse output ≤ now s * 10 then
      { s with hodo := { s.hodo with pulse := tblErase s.hodo.pulse output } }
    else s

/-! Arming (R102, R106, R108, R117). -/

/-- One program arms. -/
def armProgram (n : Nat) (s : State) : State :=
  if progCfg s n 1 = 0 ∨ progO s n 8 = 4 then s
  else if progCfg s n 1 = 2 then
    setProgState n 1 (setO nH (0x3400 + n) 1 (max (progO s n 1) (firstAfterTime s n (now s))) s)
  else
    let e := progCfg s n 2
    if e < 8 then
      let s1 := setProgState n 1 (reindex n (posOf s e) false s)
      onlyIf (encFault s1 e) (faultAction n e) s1
    else setProgState n 1 s

/-- Triggers arm. -/
def armAll (s : State) : State :=
  if s.hodo.armed then s
  else
    let s1 := forAll s.hodo.graced (fun n s => setProg n { s.prog n with pendingAt := none } s) s
    forAll (List.range 32) armProgram (setO nH 0x3000 4 1 { s1 with hodo := { s1.hodo with armed := true, graced := [] } })

/-- Points of a program that may be due before `t`: as many as its own points allow. -/
def dueBound (s : State) (n t : Nat) : Nat :=
  match (s.prog n).extra with
  | some x => firstAfter s n (x.position + (x.speed * ((t - x.start : Nat) : Int)).ediv 1000000000 + 1) + 1
  | none => firstAfterTime s n t

/-- Every trigger of a program with an instant before `t` that is not delivered yet is delivered (R117). -/
def deliverDue (n t : Nat) (s : State) : State :=
  let s1 := flushPending n (fun u => decide (u < t)) s
  if progCfg s1 n 1 = 2 then
    (List.range (dueBound s1 n t - progO s1 n 1)).foldl (fun s _ => fireTime n (fun u => decide (u < t)) s) s1
  else if progO s1 n 8 = 2 then
    (List.range (dueBound s1 n t - progO s1 n 1)).foldl (fun s _ => fireExtrapolated n (fun u => decide (u < t)) s) s1
  else s1

/-- Triggers disarm. At the acceptance of LOCKSTEP → RUN, `grace`, a trigger with an earlier instant is delivered in full, also where the
count that brings it is accepted only later (R117). -/
def disarmAll (grace : Bool) (s : State) : State :=
  if !s.hodo.armed then s
  else
    let s1 := onlyIf grace (forAll (List.range 32) (fun n s => deliverDue n (now s) s)) s
    let graced := if grace then (List.range 32).filter fun n => progCfg s1 n 1 == 1 && progO s1 n 8 == 1 else []
    let s2 := forAll (List.range 32) (fun n s =>
      let u := setProg n { s.prog n with pendingAt := none, extra := none } s
      onlyIf (progO u n 8 == 1 || progO u n 8 == 2 || progO u n 8 == 3) (setProgState n 0) u) s1
    setO nH 0x3000 4 0 { s2 with hodo := { s2.hodo with armed := false, graceEnd := now s2, graced := graced } }

/-- Positions reload and levels are forgotten at power-up and on every exit from SERVICE (R92, R94). -/
def hodoRestart (s : State) : State :=
  forAll (List.range 8) (fun e s =>
    setI nH (0x3200 + e) 1 (getI s nH (0x3100 + e) 7) (setO nH (0x3200 + e) 8 0
      (setEnc e { s.enc e with a := none, b := none, z := none, recent := [], netIndex := none, lastCount := none,
                               homing := false } s))) s

/-- Histories are lost outside KEEP, RUN, LOCKSTEP and LIMP (R109). -/
def dropHistories (s : State) : State :=
  forAll (List.range 32) (fun n s => setProg n { s.prog n with history := [] } s) s

end Sys2Proof.Machine
end

