-- ==== Sys2Proof/Machine/Accession.lean ====
section
/-! DEFINITION. Accession (R119-R149): lanes, lane time, control traffic, stream contexts, deposit. -/

namespace Sys2Proof.Machine

/-- An object of a lane. -/
def laneO (s : State) (l sub : Nat) : Nat := getO s (nLane l) 0x4010 sub

/-- The link state of a lane; a change fires its event source (R352). -/
def setLink (l v : Nat) (s : State) : State :=
  if laneO s l 0x0C = v then s else fireSource (1344 + l) (setO (nLane l) 0x4010 0x0C v s)

/-- A dropped frame counts once under its reason (R133). -/
def dropFrame (l reason : Nat) (ctx : Option Nat) (s : State) : State :=
  let s1 := pkgEvent 0x904 none l 1 (addO (nLane l) 0x4310 reason 1 (addO nX 0x4310 reason 1 s))
  match ctx with
  | some c => setO (nCtx c) 0x4110 6 reason (addO (nCtx c) 0x4110 5 1 s1)
  | none => s1

/-- A frame that passed the frame check. -/
def frameIn (l : Nat) (s : State) : State := addO (nLane l) 0x4010 0x0F 1 s
/-- The source is not the lane's head (R121). -/
def wrongSource (s : State) (l srcIp : Nat) : Bool := laneO s l 6 != 0 && laneO s l 6 != srcIp

/-- A frame too long for a lane fails the frame check (R119): `bytes` counts it whole, without the preamble. -/
def tooLong (bytes : Nat) : Bool := decide (9018 < bytes)

/-- ARP_REQUEST: answered where it asks for the lane's address; any other ARP frame is not accepted (R121). -/
def execArpRequest (lane senderMac senderIp targetIp : Nat) (s : State) : Out :=
  within (decide (lane < 64)) <|
    if !laneUp s lane then s
    else if targetIp = laneO s lane 4 then emit (.arpReply lane senderIp senderMac) (frameIn lane s)
    else dropFrame lane 3 none (frameIn lane s)

/-- DELAY_REQ: the source is checked first, then it is answered (R121, R122). -/
def execDelayReq (lane srcIp sequenceId portIdentity arrival : Nat) (s : State) : Out :=
  within (decide (lane < 64)) <|
    if laneUp s lane && decide (arrival ≤ now s) then
      if wrongSource s lane srcIp then dropFrame lane 4 none (frameIn lane s)
      else emit (.delayResp lane sequenceId portIdentity (laneTime s arrival)) (frameIn lane s)
    else s

/-- An interval after the last of a lane's messages, or none was sent yet. -/
def elapsed (last : List (Nat × Nat)) (lane interval : Nat) (s : State) : Bool :=
  tblGet 0 last lane = 0 || decide (tblGet 0 last lane - 1 + interval ≤ now s)

/-- PTP_SYNC_TIMER: every 2⁻ⁿ s, n in 4010h.0Bh, Sync and Follow_Up carry lane time (R122). -/
def execPtpSyncTimer (lane : Nat) (s : State) : Out :=
  within (decide (lane < 64)) <|
    if laneUp s lane && elapsed s.acc.syncAt lane (1000000000 / 2 ^ laneO s lane 0x0B) s then
      emit (.ptpSync lane (laneTime s (now s)))
        { s with acc := { s.acc with syncAt := tblSet 0 s.acc.syncAt lane (now s + 1) } }
    else s

/-- PTP_ANNOUNCE_TIMER: once a second, with clockClass 6 while locked, 248 otherwise (R122). -/
def execPtpAnnounceTimer (lane : Nat) (s : State) : Out :=
  within (decide (lane < 64)) <|
    if laneUp s lane && elapsed s.acc.announceAt lane 1000000000 s then
      emit (.ptpAnnounce lane (if getO s nP 0x2010 3 = 2 then 6 else 248))
        { s with acc := { s.acc with announceAt := tblSet 0 s.acc.announceAt lane (now s + 1) } }
    else s

/-- The payload carries the GVCP acknowledge code of ACTION_ACK, 0101h (R124). -/
def isActionAck (payload : List Byte) : Bool := leAt payload 2 2 == 0x0101

/-- The lane's control receive queue takes an entry of `n` bytes now (R124, R341). -/
def controlRoom (s : State) (l n : Nat) : Bool :=
  let q := laneO s l 0x0A
  validTarget s q (laneO s l 2) && decide (n ≤ qRoom s q) && qFree s q != 0 && (s.queue q).waiting.isEmpty

/-- CONTROL_PACKET_RECEIVED (R124), under the rows of R121 in their order: a wrong source, then the ports of lane time, where a packet
that is no Delay_Req has reason 08h. Beside its payload the frame has 14 bytes of Ethernet header, 28 of IPv4 and UDP and 4 of FCS. -/
def execControlPacketReceived (lane srcIp srcPort dstPort : Nat) (payload : List Byte) (s : State) : Out :=
  within (decide (lane < 64) && decide (srcIp < 2 ^ 32) && decide (srcPort < 65536) && decide (dstPort < 65536)) <|
    if laneUp s lane && (dstPort == laneO s lane 7 || dstPort == laneO s lane 8) then
      let s1 := frameIn lane s
      if tooLong (46 + payload.length) then dropFrame lane 2 none s
      else if wrongSource s lane srcIp then dropFrame lane 4 none s1
      else if dstPort = 319 ∨ dstPort = 320 then dropFrame lane 8 none s1
      else if !controlRoom s lane (16 + payload.length) then dropFrame lane 6 none s1
      else if isActionAck payload then dropFrame lane 7 none s1
      else postNow (.lane lane) (laneO s lane 0x0A)
        (leBytes 4 srcIp ++ leBytes 2 srcPort ++ leBytes 2 dstPort ++ leBytes 8 (now s) ++ payload) s1
    else s

/-- A control transmit entry of E bytes that is sent (R123): its bytes behind the frame word, none where it is not sent. -/
def transmitEntry (e : Nat) (slot : List Byte) : Option (List Byte) :=
  let len := leAt slot 0 4
  let b := (slot.drop 8).take len
  if leAt slot 4 4 = 0 ∧ 8 ≤ len ∧ len ≤ e - 8 ∧ len - 8 ≤ 1472 ∧ leAt b 6 2 = 0 ∧ leAt b 4 2 ≠ 0 then some b else none

/-- Bytes of the slot that a control transmit queue's consumer reads: the frame word, and the entry where it fits (R333). -/
def transmitSpan (s : State) (q : Nat) : Nat :=
  let len := leAt (readBytes s (slotAddr s q (qC s q)) 4) 0 4
  if len ≤ qElem s q - 8 then 8 + len else 8

/-- CONTROL_TRANSMIT_ENTRY (R123). A slot that is not mapped is not read (R153), and the entry waits: no rule says how Accession reports it
(DESIGN CHOICE, as for the queues' other consumers). -/
def execControlTransmitEntry (lane : Nat) (s : State) : Out :=
  within (decide (lane < 64)) <|
    let q := laneO s lane 9
    if laneUp s lane && decide (q < 65536) && qRunning s q && qKind s q == 3 && queueOwner s q == laneO s lane 2 &&
        qHeld s q != 0 && mappedRange s (slotAddr s q (qC s q)) 8 &&
        mappedRange s (slotAddr s q (qC s q)) (transmitSpan s q) then
      let (s1, slot, poison) := ioRead (slotAddr s q (qC s q)) (transmitSpan s q) s
      if poison ≠ [] then stopQueue q 4 s1
      else match transmitEntry (qElem s q) slot with
        | none => advanceC q 1 (addO (nLane lane) 0x4010 0x11 1 s1)
        | some b =>
          let ip := leAt b 0 4
          let ip := if ip = 0 then (if laneO s lane 6 = 0 then 0xFFFFFFFF else laneO s lane 6) else ip
          let mac := if ip = 0xFFFFFFFF then 0xFFFFFFFFFFFF else headMac s lane
          emit (.gvcp lane mac ip (laneO s lane 7) (leAt b 4 2) (b.drop 8)) (advanceC q 1 s1)
    else s

/-! Stream packets (R126, R130-R135). -/

/-- The enabled context of a lane and port (R126). -/
def contextOf (s : State) (l port : Nat) : Option Nat :=
  (enabledCtxs s).find? fun c => ctxO s c 2 == l && ctxO s c 3 == port

/-- A leader's fields are those that the context requires (R131). -/
def leaderOk (s : State) (c payloadType pixelFormat sizeX sizeY : Nat) : Bool :=
  payloadType == 1 && sizeY == 1 && (ctxO s c 0x0A == 0 || ctxO s c 0x0A == pixelFormat) &&
    (ctxO s c 0x0B == 0 || ctxO s c 0x0B == sizeX)

/-- The packet's leader part is refused. -/
def leaderRefused (s : State) (c : Nat) : GvspForm → Bool
  | .leader t f x y _ => !leaderOk s c t f x y
  | .allIn t f x y _ _ => !leaderOk s c t f x y
  | _ => false

/-- The leader's timestamp of a packet that has one. -/
def gvspStamp : GvspForm → Option Nat
  | .leader _ _ _ _ t => some t
  | .allIn _ _ _ _ t _ => some t
  | _ => none

/-- Packet ID and size are as R131 requires. -/
def sizeOk (s : State) (c : Nat) (p : StreamPkt) : Bool :=
  let l := layoutOf s c
  let n := l.packets
  match p.form with
  | .leader _ _ _ _ _ => p.packetId == 0
  | .payload b => decide (1 ≤ p.packetId) && decide (p.packetId ≤ n) && b.length == l.len p.packetId
  | .trailer => p.packetId == n + 1
  | .allIn _ _ _ _ _ b => n == 1 && b.length == l.len 1
  | .other => false

/-- The index of a packet's line (R132), or the reason for which it is dropped. -/
def lineIndex (s : State) (c : Nat) (p : StreamPkt) : Nat ⊕ Nat :=
  if ctxO s c 0x0C = 0 then .inr (((p.blockId : Int) + getI s (nCtx c) 0x4100 0x0D) % (2 ^ 64 : Int)).toNat
  else match gvspStamp p.form with
    | some stamp =>
      let t : Int := stamp - getI s nX 0x4000 4
      let n := ringO s (ctxO s c 4) 0x4200 8
      let l := (s.prog n).history.filter fun x =>
        decide (t - ctxO s c 0x0F ≤ x.instant) && decide ((x.instant : Int) ≤ t - ctxO s c 0x0E)
      match l with
      | [] => .inl 0x0E
      | [x] => .inr x.k
      | _ => .inl 0x0D
    | none => match (s.ctx c).leaders.find? (·.1 == p.blockId) with
      | some x => .inr x.2
      | none => .inl 0x0C

/-- What a packet adds to its piece. -/
def Piece.add (x0 : Piece) (p : StreamPkt) : Piece :=
  let x := { x0 with blocks := addTo x0.blocks p.blockId }
  match p.form with
  | .leader _ _ _ _ _ => { x with leader := true }
  | .payload _ => { x with payload := addTo x.payload p.packetId }
  | .trailer => { x with trailer := true }
  | .allIn _ _ _ _ _ _ => { x with leader := true, trailer := true, payload := [1] }
  | .other => x

/-- A packet ID already deposited for the line and member. -/
def Piece.has (x : Piece) (p : StreamPkt) : Bool :=
  match p.form with
  | .leader _ _ _ _ _ => x.leader
  | .payload _ => x.payload.contains p.packetId
  | .trailer => x.trailer
  | .allIn _ _ _ _ _ _ => !x.empty
  | .other => false

/-- The image bytes of a packet and their payload number. -/
def gvspImage : GvspForm → Option (List Byte)
  | .payload b => some b
  | .allIn _ _ _ _ _ b => some b
  | _ => none

/-- A packet deposited into its held line; what was written counts as deposited (R125). -/
def depositPacket (l c r : Nat) (h : HeldLine) (p : StreamPkt) (s : State) : State :=
  let m := ctxO s c 5
  let h1 := { h with pieces := tblSet {} h.pieces m ((tblGet {} h.pieces m).add p) }
  let s1 := setO (nCtx c) 0x4110 7 h.k (addO (nCtx c) 0x4110 4 1 (setLine r h1 s))
  let s2 := match gvspImage p.form with
    | none => s1
    | some b =>
      let i := match p.form with
        | .payload _ => p.packetId
        | _ => 1
      let a := depositAddr s r h.k (layoutOf s c) i
      let n := writableBytes s1 a b.length
      let (s3, bad) := depositWrite r a b s1
      lineFailed r h1 bad (pkgEvent 0x901 none l (n / 64) (addO (nLane l) 0x4010 0x10 n s3))
  pkgEvent 0x900 none l 1 (if lineComplete s2 h1 then meetSeal r h.k 0 s2 else s2)

/-- A packet that has its line index meets the state of its line (R133, R138). -/
def lineState (l c : Nat) (k : Nat) (p : StreamPkt) (s : State) : State :=
  let r := ctxO s c 4
  let m := ctxO s c 5
  let late := latePacket r m k p.blockId (gvspStamp p.form).isSome
  match (s.ring r).held.find? (·.k == k) with
  | none =>
    let newest := ringO s r 0x4210 8
    if newest ≠ noLine ∧ k ≤ newest then late (dropFrame l 0x0F (some c) s) else dropFrame l 0x10 (some c) s
  | some h =>
    if !h.expected.getLsbD m || h.barred.getLsbD m then dropFrame l 0x10 (some c) s
    else if h.sealed then late (dropFrame l 0x0F (some c) s)
    else if (tblGet {} h.pieces m).has p then dropFrame l 0x11 (some c) s
    else depositPacket l c r h p s

/-- A block whose leader was refused. -/
def refuseBlock (c b : Nat) (s : State) : State := setCtx c { s.ctx c with refused := addTo (s.ctx c).refused b } s
/-- A block whose leader gave it a line index. -/
def keepLeader (c : Nat) (p : StreamPkt) (k : Nat) (s : State) : State :=
  if ctxO s c 0x0C = 1 ∧ (gvspStamp p.form).isSome then
    setCtx c { s.ctx c with leaders := (p.blockId, k) :: (s.ctx c).leaders.filter (·.1 != p.blockId) } s
  else s

/-- A stream packet of a context, in the order of R133. -/
def streamCtx (l c : Nat) (p : StreamPkt) (s : State) : State :=
  let drop := fun reason s => dropFrame l reason (some c) s
  if !s.acc.depositing then drop 9 s
  else if !p.extendedId || p.status != 0 || p.form == .other then drop 0x0A s
  else if (s.ctx c).refused.contains p.blockId then drop 0x0B s
  else if leaderRefused s c p.form then drop 0x0B (refuseBlock c p.blockId s)
  else if !sizeOk s c p then drop 0x12 s
  else match lineIndex s c p with
    | .inl reason => drop reason s
    | .inr k =>
      let s1 := keepLeader c p k s
      if progO s (ringO s (ctxO s c 4) 0x4200 8) 1 ≤ k then drop 0x0E s1 else lineState l c k p s1

/-- STREAM_PACKET: a packet that is no control traffic (R121); at the ports of lane time it is no Delay_Req, reason 08h. Beside the image
bytes its frame has 46 bytes of headers and FCS and the 20 of a GVSP header with extended IDs (PRESUMED: the size is that of GigE
Vision 2.x). `context`: what the access to the stream context finds (R176). -/
def execStreamPacket (lane : Nat) (pkt : StreamPkt) (context : ArrayFinding) (s : State) : Out :=
  within (decide (lane < 64) && decide (pkt.blockId < 2 ^ 64) && decide (pkt.dstPort < 65536)) <|
    if laneUp s lane && !([laneO s lane 7, laneO s lane 8].contains pkt.dstPort) then
      let s1 := frameIn lane s
      if tooLong (66 + ((gvspImage pkt.form).getD []).length) then dropFrame lane 2 none s
      else if wrongSource s lane pkt.srcIp then dropFrame lane 4 none s1
      else if pkt.dstPort = 319 ∨ pkt.dstPort = 320 then dropFrame lane 8 none s1
      else match contextOf s lane pkt.dstPort with
        | none => dropFrame lane 5 none s1
        | some c => streamCtx lane c pkt (contextRecord 0 c 0 context s1)
    else s

/-! Sealing and posting. -/

/-- SEAL_TIMEOUT (R136). -/
def execSealTimeout (ring line : Nat) (s : State) : Out :=
  within (decide (ring < 256)) <|
    match (s.ring ring).held.find? (·.k == line) with
    | some h =>
      if s.modes.mode.active && decide (h.trigger + ringO s ring 0x4200 9 ≤ now s) then meetSeal ring line 1 s else s
    | none => s

/-- LINE_SEAL (R137). -/
def execLineSeal (ring : Nat) (s : State) : Out :=
  within (decide (ring < 256)) (if s.modes.mode.active then sealNext ring s else s)

/-- COMPLETION_POST (R137). -/
def execCompletionPost (ring : Nat) (s : State) : Out :=
  within (decide (ring < 256)) (if s.modes.mode.active then postNext ring s else s)

/-- Every held line without a seal condition meets it with CAUSE 2 (R145). -/
def disarmSeals (s : State) : State :=
  forAll s.acc.ring (fun e s => forAll e.2.held (fun h s => onlyIf (!h.sealed) (meetSeal e.1 h.k 2) s) s) s

/-- DISARM_SEAL_TIMEOUT. -/
def execDisarmSealTimeout (s : State) : Out :=
  .next <|
    match s.acc.disarmAt with
    | some t =>
      if t ≤ now s then disarmSeals { s with acc := { s.acc with disarmAt := none } } else s
    | none => s

/-! Links and drops (R133, R147). -/

/-- LANE_LINK_LOSS. -/
def execLaneLinkLoss (lane : Nat) (s : State) : Out :=
  within (decide (lane < 64)) <|
    if laneUp s lane then
      setLink lane 1 (addO (nLane lane) 0x4010 0x0D 1
        (record { cls := 4, action := 0, kind := 0x0A, unit := lane, part := laneO s lane 2 } s))
    else s

/-- A line is open that expects a piece from a lane. -/
def openOnLane (s : State) (l : Nat) : Bool :=
  s.acc.ring.any fun e => e.2.held.any fun h => !h.sealed && h.layout.any fun x => ctxO s x.2.ctx 2 == l

/-- LANE_LINK_RETURN: one record where a line is open (R147). -/
def execLaneLinkReturn (lane : Nat) (s : State) : Out :=
  within (decide (lane < 64)) <|
    if s.modes.mode.active && laneO s lane 1 == 1 && laneO s lane 0x0C == 1 then
      setLink lane 2 (onlyIf (openOnLane s lane)
        (record { cls := 4, action := 0, kind := 0x0A, unit := lane, part := laneO s lane 2 }) s)
    else s

/-- 224.0.1.129 and 01-00-5E-00-01-81, of lane time (R121, R122), and the broadcast address, as the objects hold addresses (R412). -/
abbrev ptpIp : Nat := 0x810100E0
abbrev ptpMac : Nat := 0x8101005E0001
abbrev broadcastMac : Nat := 0xFFFFFFFFFFFF

/-- The reason for which IPv4 UDP to one of the lane's addresses is dropped, by the rows of R121; none: it is lane time, control traffic or
a stream packet. -/
def udpReason (s : State) (l srcIp dstIp dstPort bytes : Nat) (delayReq actionAck : Bool) : Option Nat :=
  if wrongSource s l srcIp then some 4
  else if dstPort = 319 ∨ dstPort = 320 then (if delayReq then none else some 8)
  else if dstIp = ptpIp then some 5
  else if dstPort = laneO s l 7 ∨ dstPort = laneO s l 8 then
    (if !controlRoom s l (16 + bytes) then some 6 else if actionAck then some 7 else none)
  else if (contextOf s l dstPort).isNone then some 5
  else none

/-- The reason, of 01h to 08h, for which a frame is dropped (R121, R133): no room in the lane's buffer, 4000h.06h (R145); its checks or
its length (R119); then the rows of R121. -/
def frameReason (s : State) (l : Nat) (f : LaneFrame) : Option Nat :=
  if getO s nX 0x4000 6 < f.waiting + f.length then some 1
  else if !f.checksGood || tooLong f.length then some 2
  else if f.dstMac ≠ laneO s l 3 ∧ f.dstMac ≠ broadcastMac ∧ f.dstMac ≠ ptpMac then some 3
  else match f.packet with
    | .arp request ip => if request && ip == laneO s l 4 then none else some 3
    | .udp srcIp dstIp dstPort bytes delayReq actionAck =>
      if dstIp = laneO s l 4 ∨ dstIp = ptpIp then udpReason s l srcIp dstIp dstPort bytes delayReq actionAck else some 3
    | .other => some 3

/-- A frame dropped for one of the reasons 01h-08h; one record for each millisecond of buffer overflow (R147). -/
def dropLaneFrame (lane reason : Nat) (s : State) : State :=
  let s1 := dropFrame lane reason none (onlyIf (decide (3 ≤ reason)) (frameIn lane) s)
  let ms := now s / 1000000 + 1
  if reason = 1 ∧ tblGet 0 s.acc.overflowMs lane ≠ ms then
    record { cls := 4, action := 0x0A, kind := 0x0A, unit := lane, part := laneO s lane 2, summary := true }
      { s1 with acc := { s1.acc with overflowMs := tblSet 0 s1.acc.overflowMs lane ms } }
  else s1

/-- LANE_FRAME_DROPPED: a frame that R121 and R133 drop for one of the reasons 01h to 08h. -/
def execLaneFrameDropped (lane : Nat) (frame : LaneFrame) (s : State) : Out :=
  within (decide (lane < 64)) <|
    if !laneUp s lane then s
    else match frameReason s lane frame with
      | some reason => dropLaneFrame lane reason s
      | none => s

/-! Configuration (R120, R126, R129, R146). -/

/-- A queue object names none or one of partition `p`. -/
def queueOrNone (s : State) (q p : Nat) : Bool := q == 0xFFFFFFFF || (decide (q < 65536) && queueOwner s q == p && decide (p < 16))

/-- The control queues of a lane belong to the lane's partition (R120). -/
def laneQueuesOk (s : State) (l : Nat) : Bool :=
  queueOrNone s (laneO s l 9) (laneO s l 2) && queueOrNone s (laneO s l 0x0A) (laneO s l 2)

/-- What an enabled lane must meet (R120). -/
def laneOk (s : State) (l : Nat) : Bool := laneO s l 2 != 0xFF && laneO s l 4 != 0 && laneQueuesOk s l

/-- The byte range of a context in a slot. -/
def ctxRange (s : State) (c : Nat) : Nat × Nat := (ctxO s c 6 + ctxO s c 7, ctxO s c 8)

/-- What an enabled stream context must meet (R126). -/
def ctxOk (s : State) (c : Nat) : Bool :=
  let l := ctxO s c 2
  let r := ctxO s c 4
  let m := ctxO s c 5
  let others := (enabledCtxs s).filter (· != c)
  decide (l < 64) && laneO s l 1 == 1 && decide (r < 256) && ringO s r 0x4200 1 == 1 &&
    ringO s r 0x4200 2 == laneO s l 2 && decide (m < 64) &&
    !(others.any fun d => (ctxO s d 2 == l && ctxO s d 3 == ctxO s c 3) || (ctxO s d 4 == r && ctxO s d 5 == m)) &&
    !([0, 319, 320, laneO s l 7, laneO s l 8].contains (ctxO s c 3)) &&
    [6, 7, 8, 9].all (fun sub => ctxO s c sub % 64 == 0) && ctxO s c 8 != 0 && ctxO s c 9 != 0 &&
    decide ((ctxRange s c).1 + (ctxRange s c).2 ≤ ringO s r 0x4200 4) &&
    !(others.any fun d => ctxO s d 4 == r && overlaps (ctxRange s c).1 (ctxRange s c).2 (ctxRange s d).1 (ctxRange s d).2)

/-- The windows of the enabled rings. -/
def windowSum (s : State) : Nat := ((enabledRings s).map fun r => ringO s r 0x4200 0x0A).sum

/-- What an enabled ring must meet (R128, R129). -/
def ringOk (s : State) (r : Nat) : Bool :=
  let p := ringO s r 0x4200 2
  let q := ringO s r 0x4200 0x0B
  let ranges := [ringSlots s r, ringSeals s r]
  let others := (enabledRings s).filter (· != r)
  decide (ringO s r 0x4200 8 < 32) && (progCfg s (ringO s r 0x4200 8) 1 == 1 || progCfg s (ringO s r 0x4200 8) 1 == 2) &&
    decide (p < 16) && decide (q < 65536) && queueOwner s q == p &&
    (bitsOf 66 (ringO s r 0x4200 0x0E)).all (fun v => partOfCluster s v == some p) &&
    decide (ringO s r 0x4200 0x0A < ringO s r 0x4200 5) &&
    ranges.all (fun x => ownsMem s p x.1 x.2 && inTiers x.1 x.2) &&
    !(ranges.any fun x => others.any fun d => overlaps x.1 x.2 (ringSlots s d).1 (ringSlots s d).2 ||
      overlaps x.1 x.2 (ringSeals s d).1 (ringSeals s d).2) &&
    decide (((others.map fun d => ringO s d 0x4200 0x0A).sum) + ringO s r 0x4200 0x0A ≤ 4096)

/-- The contexts that stand on a lane or ring still meet R126. -/
def ctxsOk (s : State) (on : Nat → Bool) : Bool := ((enabledCtxs s).filter on).all (ctxOk s)

/-- A write of an object of 4010h. -/
def ruleLane (l sub value : Nat) : Rule := fun s =>
  let t := setO (nLane l) 0x4010 sub value s
  let was := laneO s l 1 == 1
  if was && s.acc.depositing then refusedBusy s
  else if was && sub == 2 then refused 0 s
  else if (sub == 2 || sub == 9 || sub == 0x0A) && !laneQueuesOk t l then refused 0 s
  else if laneO t l 1 == 1 && !laneOk t l then refused 0 s
  else if was && !(ctxsOk t fun c => ctxO t c 2 == l) then refused 0 s
  else if sub = 1 ∧ s.modes.mode.active then
    answered (if value = 1 then onlyIf (!was) (setLink l 1) t else setLink l 0 t)
  else answered (onlyIf (sub == 2) dropStraySources t)

/-- LANE_ENABLE. -/
def execLaneEnable (who : Requester) (lane value : Nat) (s : State) : Out :=
  within (decide (lane < 64)) (served who (nLane lane) 0x4010 1 value (ruleLane lane 1 value) s)

/-- A member enabled while lines are open: what they are sent of it is not deposited (R146). A line sealed already is left as it is, so
that a packet for it is late, reason 0Fh (R138), and not 10h: DESIGN CHOICE, both rules apply to it. -/
def barMember (r m : Nat) (s : State) : State :=
  setRing r { s.ring r with held := (s.ring r).held.map fun h =>
                if h.sealed then h else { h with barred := h.barred ||| BitVec.ofNat 64 (2 ^ m) } } s

/-- A write of an object of 4100h. A context enabled anew forgets its refused blocks and the leaders that it kept: DESIGN CHOICE, R131 does
not say how long a refused block stays refused. -/
def ruleCtx (c sub value : Nat) : Rule := fun s =>
  let t := setO (nCtx c) 0x4100 sub value s
  let was := ctxO s c 1 == 1
  if was && s.acc.depositing && sub != 1 then refusedBusy s
  else if ctxO t c 1 == 1 && !(was && sub == 1) && !ctxOk t c then refused 0 s
  else if sub == 0x0E && decide (ctxO s c 0x0F < value) || sub == 0x0F && decide (value < ctxO s c 0x0E) then refusedValue s
  else answered (onlyIf (sub == 1 && value == 1 && !was)
    (fun s => barMember (ctxO s c 4) (ctxO s c 5) (setCtx c {} s)) t)

/-- STREAM_CONTEXT_ENABLE. -/
def execStreamContextEnable (who : Requester) (context value : Nat) (s : State) : Out :=
  within (decide (context < 16384)) (served who (nCtx context) 0x4100 1 value (ruleCtx context 1 value) s)

/-- The ring would be disabled or its window made smaller than the lines that it holds: the pool of R149, in which the lines held never
exceed the windows of the enabled rings, refuses it. R129 names no such refusal, and this is the model's choice. -/
def breaksPool (s : State) (r sub value : Nat) : Bool :=
  ((sub == 1 && value == 0) || (sub == 0x0A && decide (value < (s.ring r).held.length))) && !(s.ring r).held.isEmpty

/-- A write of an object of 4200h. -/
def ruleRing (r sub value : Nat) : Rule := fun s =>
  let t := setO (nRing r) 0x4200 sub value s
  let was := ringO s r 0x4200 1 == 1
  if was && s.acc.depositing then refusedBusy s
  else if ringO t r 0x4200 1 == 1 && !(was && sub == 1) && !ringOk t r then refused 0 s
  else if was && sub == 1 && value == 0 && ringMembers s r != 0 then refused 0 s
  else if was && breaksPool s r sub value then refused 0 s
  else if sub == 5 && decide (value ≤ ringO s r 0x4200 0x0A) then refusedValue s
  else if was && !(sub == 1) && !(ctxsOk t fun c => ctxO t c 4 == r) then refused 0 s
  else answered t

/-- RING_ENABLE. -/
def execRingEnable (who : Requester) (ring value : Nat) (s : State) : Out :=
  within (decide (ring < 256)) (served who (nRing ring) 0x4200 1 value (ruleRing ring 1 value) s)

/-- 4000h.04h: refused while triggers are armed (R122). -/
def ruleLaneOffset (value : Nat) : Rule := fun s =>
  if s.hodo.armed then refused 0 s else answered (setO nX 0x4000 4 value s)

/-! Modes (R145). -/

/-- Deposit starts or ends; 4000h.05h shows it. -/
def setDeposit (on : Bool) (s : State) : State :=
  setO nX 0x4000 5 (if on then 1 else 0) { s with acc := { s.acc with depositing := on, disarmAt := none } }

/-- LOCKSTEP → RUN is accepted: triggers disarm, deposit goes on, held lines meet CAUSE 2 after 1 ms. -/
def beginDisarm (s : State) : State :=
  let s1 := disarmAll true s
  { s1 with acc := { s1.acc with disarmAt := some (now s + 1000000) } }

/-- Every held line has passed step 4 of R137. -/
def allSealed (s : State) : Bool := s.acc.ring.all fun e => e.2.held.all (·.sealed)

/-- Lanes light up or go dark with the mode (R120). While they are dark 4010h.0Ch reads 00h: DESIGN CHOICE, R125 does not say what an
enabled lane shows in SERVICE and KEEP. -/
def lanesOn (on : Bool) (s : State) : State :=
  forAll (nodesWith s 5 0x4010 1 1) (fun l s => setLink l (if on then 1 else 0) s) s

/-- Lines that are held meet CAUSE 2 where they are open and pass step 4; Vitrines that stop lose their notices (R84, R141). -/
def stopLines (s : State) : State :=
  let s1 := forAll s.acc.ring (fun e s => sealAll e.1 e.2.held.length s) (disarmSeals s)
  { s1 with acc := { s1.acc with notices := [], disarmAt := none } }

/-- Entry into KEEP discards the lines that are held, with the records that wait (R87, R141). -/
def discardLines (s : State) : State :=
  let s1 := forAll s.acc.ring (fun e s => setO (nRing e.1) 0x4210 0x0A 0 s) s
  let free := getO s nX 0x4020 4 + getO s nX 0x4020 3
  setO nX 0x4020 3 0 (setO nX 0x4020 4 free
    { s1 with acc := { s1.acc with ring := [], ctx := [], notices := [], disarmAt := none } })

/-- Accession's runtime state and counts start anew at KEEP exit (R145). -/
def accessionReset (s : State) : State :=
  let keys := s.obj.filter fun e =>
    let kind := e.1 / 2 ^ 48
    let ix := e.1 / 2 ^ 8 % 2 ^ 16
    let sub := e.1 % 2 ^ 8
    !(((kind == 4 || kind == 5 || kind == 6 || kind == 7) && (ix == 0x4110 || (ix == 0x4210 && sub != 1) || ix == 0x4310)) ||
      (kind == 5 && ix == 0x4010 && decide (0x0C ≤ sub) && decide (sub ≤ 0x11)) ||
      (kind == 4 && ix == 0x4020 && (sub == 3 || sub == 4)))
  { s with obj := keys, acc := { s.acc with ring := [], ctx := [], notices := [], overflowMs := [], disarmAt := none } }

end Sys2Proof.Machine
end

