-- ==== Sys2Proof/Machine/Domain.lean ====
section
/-! DEFINITION. Partition resets, domain down and the clear phase (R77, R249, R323-R325, R425). -/

namespace Sys2Proof.Machine

/-- A Vitrine reset (R249): slots emptied, queues and rows discarded, tickets from 1. -/
def resetVit (v : Nat) (s : State) : State := setVit v {} (dropWaiting (vitProducer v) s)

/-- A hart in reset: every register and CSR at its reset value, its interrupt files cleared, its store buffer discarded
and its translation and private caches empty (R217, R297, R356, R463). -/
def resetHart (h : Nat) (s : State) : State := setHart h {} s

/-- The partition reset of R77. -/
def partitionReset (p : Nat) (s : State) : State :=
  forAll (clustersOf s p) resetVit (forAll (hartsOf s p) resetHart s)

/-- The enabled outbound queues of a partition's blocks. -/
def outboundOf (s : State) (p : Nat) : List Nat :=
  (enabledQueues s).filter fun q => queueOwner s q == p && qOutbound s q

/-- What a stop and the halt phase of domain down do to a partition's resources (R425). -/
def stopResources (p : Nat) (s : State) : State :=
  let s1 := forAll (outboundOf s p) queueReset (partitionReset p s)
  { s1 with cat := { s1.cat with mbox := tblErase s1.cat.mbox p } }

/-- 6810h of a domain. -/
def domState (s : State) (p : Nat) : Nat := getO s nC 0x6810 (p + 1)
/-- 7040h of a partition. -/
def partState (s : State) (p : Nat) : Nat := getO s nS 0x7040 (p + 1)

/-- The line that a message carries where no cache and no memory may hold it: a writeback, the data of an RspD, and a line granted M. -/
def Msg.dirty : Msg → Option LineData
  | .wbd _ _ _ d => some d
  | .snpData _ _ _ d => some d
  | .data _ _ _ d .m => some d
  | _ => none

/-- Every L2 line of a domain removed: lines in M, those in flight and those that a slice holds for their RspD are written to memory with
no entry check. -/
def flushDomain (p : Nat) (s : State) : State :=
  let s0 := forAll s.conc.tx (fun t s => if t.1 / 2 ^ 46 = p then
    forAll t.2.early (fun x s => ctlWriteback (.l2 x.1) (t.1 % 2 ^ 46) x.2 s) s else s) s
  let s1 := forAll s0.conc.msgs (fun m s => match m.2.dirty with
    | some d => if m.2.dom = p then ctlWriteback (.l2 m.2.gallery) m.2.line d s else s
    | none => s) s0
  forAll (s.caches.l2.filter fun e => e.2.dom == p) (fun e s =>
    let g := e.1 / 2 ^ 46
    let line := e.1 % 2 ^ 46
    removeL2 g line (onlyIf (e.2.st == .m) (ctlWriteback (.l2 g) line e.2.copy) s)) s1

/-- The clear phase (R324): transactions end, dirty lines are written back, every line and entry of the domain goes. -/
def clearDomain (p : Nat) (s : State) : State :=
  let s1 := flushDomain p s
  setO nC 0x6810 (p + 1) 3
    { s1 with
      conc := { s1.conc with
        tx := s1.conc.tx.filter fun t => t.1 / 2 ^ 46 != p
        dir := s1.conc.dir.filter fun e => e.1 / 2 ^ 46 != p
        msgs := s1.conc.msgs.filter fun m => m.2.dom != p
        fullWaits := s1.conc.fullWaits.filter fun w => w.2 / 2 ^ 46 != p }
      caches := { s1.caches with misses := s1.caches.misses.filter fun m => m.2.dom != p } }

/-- The slices stop accepting REQ of a domain: those that wait are discarded, and their credits come back (R324). -/
def discardWaiting (p : Nat) (s : State) : State :=
  { s with conc := { s.conc with waiting := s.conc.waiting.filter fun w => w.2.2.dom != p } }

/-- A start waits no more. -/
def dropStart (p : Nat) (s : State) : State :=
  { s with parts := { s.parts with waiting := dropFrom s.parts.waiting p, badFlash := dropFrom s.parts.badFlash p
                                   action := tblErase s.parts.action p } }

/-- A start that waits ends with status 03h (R428). -/
def cancelStart (p : Nat) (s : State) : State :=
  let s1 := dropStart p s
  match tblFind s.parts.action p with
  | some (who, tag) => endAction who tag 3 0 s1
  | none => s1

/-- A requested stop of the partition is under way, and no domain down has taken its place (R428). -/
def stopUnderWay (s : State) (p : Nat) : Bool := (tblFind s.parts.stopping p).any fun x => !x.down

/-- Domain down takes the place of the stop under way. -/
def markDown (p : Nat) (s : State) : State :=
  { s with parts := { s.parts with stopping := s.parts.stopping.map fun e => if e.1 = p then (p, { e.2 with down := true }) else e } }

/-- Domain down, its halt phase (R323, R324, R425): the partition's harts and Vitrines stop and are reset, the cause is
recorded. It befalls a domain that is UP, one whose partition waits for its start, and one under a requested stop (R428). The clear phase
then begins, for cause 01h not before step 2 of R59 (DESIGN CHOICE: the halt phase takes no time). -/
def domainDown (p cause gallery : Nat) (s : State) : State :=
  if !(decide (p < 16) && (domState s p == 0 || partState s p == 2 || stopUnderWay s p)) then s
  else
    let s2 := runAll [setO nC 0x6810 (p + 1) (if cause = 1 then 1 else 2), addO nC 0x6811 (p + 1) 1, setO nC 0x6812 (p + 1) cause,
      setO nS 0x7040 (p + 1) 4, setO nS 0x7043 (p + 1) 2] (markDown p (cancelStart p s))
    let s3 := stopResources p (discardWaiting p
      { s2 with conc := { s2.conc with causeGallery := tblSet 0 s2.conc.causeGallery p gallery } })
    record { cls := 4, action := 6, kind := 0x10, unit := p, part := p,
             site := if gallery = 0xFF then 0xFF else siteOf s gallery, logical := gallery, code := cause } s3

/-- The entries of a slice and way, and of one set or all. -/
def dirIn (s : State) (slice way : Nat) (set : Option Nat) : List (Nat × DirEntry) :=
  s.conc.dir.filter fun e => e.2.way == way && Config.homeSlice (e.1 % 2 ^ 46) % 32 == slice &&
    (match set with
      | none => true
      | some x => Config.homeSet (e.1 % 2 ^ 46) % 16384 == x)

/-- The entries of faulty ways whose lines are not busy are back-invalidated (R326). One that is pinned, or whose holder is fenced or
holds its snoops, goes when that is over (DESIGN CHOICE: R326 names no time). -/
def sweepFaulty (s : State) : State :=
  forAll (s.conc.faultyWays.flatMap fun k => (dirIn s (k / 16) (k % 16) none).map (·.1)) (fun e s =>
    if lineBusy s (e / 2 ^ 46) (e % 2 ^ 46) (s.dirAt (e / 2 ^ 46) (e % 2 ^ 46)).list then s else backInvalidate e s) s

/-- A directory way of a slice becomes faulty (R326, R450): its entries are back-invalidated, 6800h.02h falls. -/
def faultyWay (slice way : Nat) (s : State) : State :=
  let k := slice % 32 * 16 + way % 16
  if s.conc.faultyWays.contains k then s
  else record { cls := 5, action := 9, kind := 6, unit := slice, sub := way % 16 * 2 ^ 16 }
    (subO nC 0x6800 2 16384 (sweepFaulty { s with conc := { s.conc with faultyWays := addTo s.conc.faultyWays k } }))

/-- The domain that two of the three copies of DOM agree on (R326). -/
def agreed (a b c : Nat) : Option Nat :=
  if a = b ∨ a = c then some a else if b = c then some b else none

/-- DIRECTORY_ENTRY_ERROR (R326, R450): the copies of DOM agree on a domain, and part B is that of the entry in use there. -/
def execDirectoryEntryError (slice set way : Nat) (err : DirError) (s : State) : Out :=
  within (decide (slice < 32) && decide (set < 16384) && decide (way < 16) &&
      (match err with
        | .partA a b c => decide (a < 16) && decide (b < 16) && decide (c < 16)
        | _ => true)) <|
    if !s.modes.mode.active || s.conc.faultyWays.contains (slice * 16 + way) then s
    else
      let sub := way * 2 ^ 16 + set
      let key := hitKey 6 (slice * 16 + way)
      match err, (dirIn s slice way (some set)).head? with
      | .correctable, _ =>
        let (s1, n) := countHit (key 1) (getO s nP 0x8204 2) (addO nC 0x6800 7 1 s)
        let cl := classifyOf n (getO s nP 0x8204 1)
        onlyIf (cl == 2) (faultyWay slice way)
          (record { cls := 1, action := 1, kind := 6, unit := slice, sub := sub, classify := cl, count := n } s1)
      | .partB, none => s
      | .partB, some e =>
        let (s1, n) := countHit (key 2) (getO s nP 0x8204 4) (addO nC 0x6800 8 1 s)
        let cl := classifyOf n (getO s nP 0x8204 3)
        onlyIf (cl == 2) (faultyWay slice way)
          (domainDown (e.1 / 2 ^ 46) 3 0xFF
            (record { cls := 2, action := 6, kind := 6, unit := slice, sub := sub, part := e.1 / 2 ^ 46, classify := cl,
                      count := n } s1))
      | .partA a b c, _ =>
        let (s1, n) := countHit (key 2) (getO s nP 0x8204 4) (addO nC 0x6800 8 1 s)
        let cl := classifyOf n (getO s nP 0x8204 3)
        let s2 := record { cls := 2, action := 6, kind := 6, unit := slice, sub := sub, part := (agreed a b c).getD 0xFF,
                           classify := cl, count := n } s1
        let s3 := match agreed a b c with
          | some p => domainDown p 3 0xFF s2
          | none => forAll (List.range 16) (fun p s => domainDown p 6 0xFF s) s2
        onlyIf (cl == 2) (faultyWay slice way) s3

end Sys2Proof.Machine
end

