-- ==== Sys2Proof/Machine/Shortfall.lean ====
section
/-! DEFINITION. Whether a partition's configuration fits (R420). -/

namespace Sys2Proof.Machine

/-- The top of the tier that an address lies in (R150). -/
def topOf (s : State) (a : Nat) : Nat := if inHbm a then getO s nP 0x5000 3 else getO s nP 0x5000 5

/-- A memory range fits: below the top in force, clear of unmapped window addresses and of retired resources (R420). -/
def rangeFits (s : State) (base len : Nat) : Bool :=
  decide (len = 0) || (decide (base + len ≤ topOf s base) &&
    (getO s nP 0x5000 2 == 0 || !inHbm base || (List.range 4).all fun w =>
      !(overlaps base len (getO s nP (0x5020 + w) 6) ((w + 1) * windowSize - getO s nP (0x5020 + w) 6))) &&
    !(s.mem.retiredPcs.any fun pc => rangeMeets s (.hbm pc) base len) &&
    !(s.mem.retiredChannels.any fun c => rangeMeets s (.ddr c) base len))

/-- A gallery uses the legacy method (R264). -/
def legacyGallery (s : State) (g : Nat) : Bool := getO s (nGal g) 0x6100 1 == 1

/-- The configuration of partition `p` fits (R420). -/
def fits (s : State) (p : Nat) : Bool :=
  (clustersOf s p).all (fun v => siteOf s (v / 3) != 0xFF) &&
  (List.range 22).all (fun g =>
    if legacyGallery s g then
      !ownsOnGallery s p g || getO s (nGal g) 0x6102 (p + 1) &&& getO s (nGal g) 0x6100 3 == 0
    else countBits 16 (waysInForce s g p) == countBits 16 (getO s nS (0x7020 + p) (g + 1))) &&
  (List.range 8).all (fun i => rangeFits s (rangeOf s p i).1 (rangeOf s p i).2) &&
  !((List.range 32).any fun n => getO s nP (0xA100 + n) 1 == 1 && getO s nP (0xA100 + n) 2 == p &&
    s.arch.retiredDies.contains (getO s nP (0xA100 + n) 3))

/-- Every defined partition fits. -/
def allFit (s : State) : Bool := (List.range 16).all fun p => !defined s p || fits s p

end Sys2Proof.Machine
end

