-- ==== Sys2Proof/Machine/Archive.lean ====
section
/-! DEFINITION. The Archive (R360-R388, R452): namespaces, channels and their packets, grants and the write buffer,
drains and programs, dies out of service. -/

namespace Sys2Proof.Machine

/-! Places. -/

/-- The frame key of a unit of a die. -/
def unitKey (die unit : Nat) : Nat := die * 2 ^ 14 + unit
/-- The sector key of a namespace's LBA (R363). -/
def sectorKey (s : State) (ns lba : Nat) : Nat :=
  unitKey (getO s nP (0xA100 + ns) 3) (getO s nP (0xA100 + ns) 4 + lba / 32) * 32 + lba % 32
/-- The sector keys of `n` sectors from an LBA. -/
def sectorKeys (s : State) (ns lba n : Nat) : List Nat := (List.range n).map fun i => sectorKey s ns (lba + i)
/-- A die in state 00h. -/
def dieUp (s : State) (d : Nat) : Bool := getO s nP (0xA010 + d) 1 == 0
/-- A die in state 02h or 03h. -/
def dieOut (s : State) (d : Nat) : Bool := decide (2 ≤ getO s nP (0xA010 + d) 1)
/-- The die of a namespace. -/
def nsDie (s : State) (ns : Nat) : Nat := getO s nP (0xA100 + ns) 3
/-- The enabled namespace that holds a unit of a die, FFFFh none. -/
def nsOfUnit (s : State) (die unit : Nat) : Nat :=
  ((List.range 32).find? fun n => getO s nP (0xA100 + n) 1 == 1 && nsDie s n == die &&
    decide (getO s nP (0xA100 + n) 4 ≤ unit) && decide (unit < getO s nP (0xA100 + n) 4 + getO s nP (0xA100 + n) 5)).getD 0xFFFF

def State.frame (s : State) (k : Nat) : Frame := tblGet {} s.arch.frame k
/-- The frame of a die's share that the next unit is assigned: the lowest that is neither in use nor retired. -/
def nextFrame (s : State) (d : Nat) : Nat :=
  ((List.range 64).find? fun n => !(tblGet 0 s.arch.retiredFrames d).testBit n &&
    !(s.arch.frame.any fun e => e.1 / 2 ^ 14 == d && e.2.number == n)).getD 0
/-- A frame as set; one without slots leaves its unit (R369). -/
def setFrame (k : Nat) (f : Frame) (s : State) : State :=
  let number := if (tblFind s.arch.frame k).isSome then f.number else nextFrame s (k / 2 ^ 14)
  { s with arch := { s.arch with
      frame := if f.slot.isEmpty then tblErase s.arch.frame k else tblSet {} s.arch.frame k { f with number := number } } }
def State.slotOf (s : State) (key : Nat) : Slot := tblGet {} (s.frame (key / 32)).slot (key % 32)
def setSlot (key : Nat) (x : Slot) (s : State) : State :=
  let f := s.frame (key / 32)
  setFrame (key / 32) { f with slot := tblSet {} f.slot (key % 32) x } s

/-- Frames in use of a die. -/
def framesInUse (s : State) (d : Nat) : Nat := (s.arch.frame.filter fun e => e.1 / 2 ^ 14 == d).length
/-- Frames of a die share (R369, R452). A retired frame that still holds grants leaves the share with the last of them (R34). -/
def framesTotal (s : State) (d : Nat) : Nat :=
  64 - ((bitsOf 64 (tblGet 0 s.arch.retiredFrames d)).filter fun n =>
    !(s.arch.frame.any fun e => e.1 / 2 ^ 14 == d && e.2.number == n)).length
/-- Slots of a die in a state. -/
def slotsWith (s : State) (d : Nat) (f : Slot → Bool) : Nat :=
  ((s.arch.frame.filter fun e => e.1 / 2 ^ 14 == d).map fun e => (e.2.slot.filter fun x => f x.2).length).sum
def slotsGranted (s : State) (d : Nat) : Nat := slotsWith s d fun x => x.granted.isSome
def slotsFilled (s : State) (d : Nat) : Nat := slotsWith s d fun x => x.granted.isNone && x.data.isSome
/-- Filled slots of a frame. -/
def Frame.filled (f : Frame) : Nat := (f.slot.filter fun x => x.2.granted.isNone && x.2.data.isSome).length
/-- The time of a frame's oldest filled slot. -/
def Frame.oldest (f : Frame) : Option Nat :=
  ((f.slot.filter fun x => x.2.data.isSome).map (·.2.entryTime)).foldl (fun acc t => match acc with
    | none => some t
    | some u => some (min t u)) none
/-- A frame's drain begins (R378); a frame that holds no data has none. -/
def startDrain (k : Nat) (s : State) : State :=
  let f := s.frame k
  if f.oldest.isSome then setFrame k { f with programming := true } s else s

/-! Channels. -/

/-- A command of a channel that is open, by sequence. -/
def Chan.find (x : Chan) (seq : Nat) : Option Cmd := x.opened.find? (·.seq == seq)
/-- An open command changed. -/
def setCmd (c : Nat) (m : Cmd) (s : State) : State :=
  let x := s.chan c
  setChan c { x with opened := x.opened.map fun y => if y.seq = m.seq then m else y } s
/-- Granted sectors of a command not yet sent. -/
def Cmd.unsent (m : Cmd) : Nat := (m.grants.map (·.1)).sum
/-- Granted-but-unsent sectors of a channel (A200h.09h). -/
def Chan.unsent (x : Chan) : Nat := (x.opened.map Cmd.unsent).sum
/-- A WRITE or ZERO that has not entered every sector. -/
def Cmd.entering (m : Cmd) : Bool := (m.op == 1 || m.op == 4) && decide (m.entered < m.sectors)
/-- The commands of a channel taken before one. -/
def Chan.before (x : Chan) (m : Cmd) : List Cmd := x.opened.takeWhile (·.seq != m.seq)
/-- A READ, ZERO or FLUSH waits for an earlier WRITE or ZERO (R375). -/
def Chan.blocked (x : Chan) (m : Cmd) : Bool :=
  (x.before m).any fun e => e.entering && e.ns == m.ns &&
    (m.op == 3 || (decide (e.lba < m.lba + m.sectors) && decide (m.lba < e.lba + e.sectors)))
/-- Some slot still holds a sector of a command for the medium. -/
def waitsForMedium (s : State) (c seq : Nat) : Bool :=
  s.arch.frame.any fun e => e.2.slot.any fun x => x.2.writers.contains (c, seq)

/-- The channel stops (R368). -/
def stopChannel (c code : Nat) (s : State) : State :=
  record { cls := 4, action := 5, kind := 0x0E, unit := c, part := channelOwner s c, code := code }
    (setO nP (0xA200 + c) 8 code (setO nP (0xA200 + c) 7 2 (dropWaiters (isChan c) s)))

/-- A record for the response queue (R370, R373, R376): posted, or waiting at step 1 of R340 while the queue is full (R385). `id`: the
packet that it finishes, by its number plus one; 0 none. No channel is served outside RUN, LOCKSTEP and LIMP (R384). -/
def pushRecord (c id : Nat) (bytes : List Byte) (s : State) : State :=
  let q := getO s nP (0xA200 + c) 3
  let who := chanProducer c id
  if getO s nP (0xA200 + c) 7 ≠ 1 ∨ s.modes.mode.active = false then s
  else if !validTarget s q (channelOwner s c) then stopChannel c 4 s
  else
    let s1 := post q who bytes s
    onlyIf (!(s1.queue q).waiting.any (·.1 == who)) (afterPost who) s1

/-- The bytes of a result (R373). -/
def resultBytes (c : Nat) (r : Res) (query : Bool) : List Byte :=
  leBytes 1 0x31 ++ leBytes 1 r.status ++ leBytes 2 c ++ leBytes 4 r.seq ++
  leBytes 1 ((if r.durable then 1 else 0) + (if query then 2 else 0)) ++ leBytes 3 0 ++ leBytes 4 r.sectors ++
  leBytes 8 r.badLba ++ leBytes 8 r.time

/-- First bad LBA where none is named. -/
abbrev noLba : Nat := 2 ^ 64 - 1

/-- A command ends with its result (R373): counted, kept among the last 256, posted, its remaining grants free. -/
def endCmd (c : Nat) (m : Cmd) (status badLba : Nat) (s : State) : State :=
  let s1 := releaseGrants c (some m.seq) s
  let n := if m.op = 1 ∨ m.op = 4 then m.entered else if m.op = 2 ∧ (status = 0 ∨ status = 5) then m.sectors else 0
  let durable := (m.op != 1 && m.op != 4) || (!waitsForMedium s1 c m.seq && !(s1.chan c).lost.contains m.seq)
  let r : Res := { seq := m.seq, status := status, durable := durable, sectors := n, badLba := badLba, time := now s }
  let x := s1.chan c
  let s2 := addO nP (0xA200 + c) 6 1
    (setChan c { x with opened := x.opened.filter (·.seq != m.seq), ended := (r :: x.ended).take 256 } s1)
  pushRecord c (m.packet + 1) (resultBytes c r false) s2

/-! The durable sequence (R377). -/

/-- D advances over commands that have ended with every sector on the medium; `n` bounds the walk. -/
def advanceD (c : Nat) : Nat → State → State
  | 0, s => s
  | n + 1, s =>
    let x := s.chan c
    let d := (x.trueD + 1) % 2 ^ 32
    if d ≠ getO s nP (0xA200 + c) 4 ∧ (x.find d).isNone ∧ !waitsForMedium s c d ∧ !x.lost.contains d then
      advanceD c n (setChan c { x with trueD := d } s)
    else s

/-! Grants (R369, R370). -/

/-- The command of a channel to be granted next: the first WRITE or ZERO not granted in full. -/
def Chan.head (x : Chan) : Option Cmd := x.opened.find? fun m => (m.op == 1 || m.op == 4) && decide (m.granted < m.sectors)
/-- Sectors of the next grant. -/
def Cmd.quota (m : Cmd) : Nat := min 32 (m.sectors - m.granted)

/-- The channel's next command waits for a grant on die `d`, nothing of its own channel holding it back. -/
def wantsGrant (s : State) (d c : Nat) : Option Cmd :=
  let x := s.chan c
  match x.head with
  | none => none
  | some m =>
    if getO s nP (0xA200 + c) 7 = 1 ∧ nsDie s m.ns = d ∧ !dieOut s d ∧ x.unsent + m.quota ≤ getO s nP (0xA200 + c) 0x0B ∧
        !(m.op == 4 && x.blocked m) then some m
    else none

/-- The WRITE or ZERO that has waited longest on a die, with its channel. -/
def nextGrant (s : State) (d : Nat) : Option (Nat × Cmd) :=
  s.arch.chan.foldl (fun acc e => match wantsGrant s d e.1, acc with
    | none, _ => acc
    | some m, none => some (e.1, m)
    | some m, some (c', m') => if m.since < m'.since then some (e.1, m) else some (c', m')) none

/-- The sectors of a command's next grant. -/
def grantKeys (s : State) (m : Cmd) : List Nat := sectorKeys s m.ns (m.lba + m.granted) m.quota
/-- Frames that a grant would have to assign. -/
def newFrames (s : State) (keys : List Nat) : List Nat :=
  ((keys.map (· / 32)).filter fun k => (tblFind s.arch.frame k).isNone).foldl addTo []

/-- The slots of a grant can be given together. -/
def grantFits (s : State) (d : Nat) (m : Cmd) : Bool :=
  (grantKeys s m).all (fun k => (s.slotOf k).granted.isNone) &&
    decide (framesInUse s d + (newFrames s (grantKeys s m)).length ≤ framesTotal s d)

/-- The frame of a die that is drained when a grant waits for one: that with the oldest filled slot (R378). -/
def oldestFrame (s : State) (d : Nat) : Option Nat :=
  (s.arch.frame.foldl (fun (acc : Option (Nat × Nat)) e =>
    if e.1 / 2 ^ 14 ≠ d then acc
    else match e.2.oldest, acc with
      | none, _ => acc
      | some t, none => some (e.1, t)
      | some t, some (k, u) => if t < u then some (e.1, t) else some (k, u)) none).map (·.1)

/-- A grant that waits for a frame has one drained, unless a drain of the die is under way. -/
def makeFrame (d : Nat) (s : State) : State :=
  if s.arch.frame.any fun e => e.1 / 2 ^ 14 == d && e.2.programming then s
  else match oldestFrame s d with
    | some k => startDrain k s
    | none => s

/-- The grant made: its slots promised, the command's count and time kept. -/
def giveGrant (c : Nat) (m : Cmd) (s : State) : State :=
  let s1 := forAll (grantKeys s m) (fun k s => setSlot k { s.slotOf k with granted := some (c, m.seq) } s) s
  setCmd c { m with granted := m.granted + m.quota, grants := m.grants ++ [(m.quota, now s)] } s1

/-- A whole sector entered into its slot (R371): newer data replaces older, the age of the older stays. It counts
as written in A100h.08h (R371, R387). -/
def enterSector (c seq key : Nat) (d : BitVec 4096) (s : State) : State :=
  let x := s.slotOf key
  let ns := nsOfUnit s (key / 2 ^ 19) (key / 32 % 2 ^ 14)
  let written := setSlot key { granted := none, data := some d, bad := false,
                               entryTime := if x.data.isSome then x.entryTime else now s,
                               writers := if x.writers.contains (c, seq) then x.writers else x.writers ++ [(c, seq)] } s
  onlyIf (decide (ns < 32)) (addO nP (0xA100 + ns) 8 1) written

/-- `n` unsent sectors of a command taken from its grants, oldest grant first. -/
def takeGrants : Nat → List (Nat × Nat) → List (Nat × Nat)
  | _, [] => []
  | n, (k, t) :: r => if n = 0 then (k, t) :: r else if k ≤ n then takeGrants (n - k) r else (k - n, t) :: r

/-- A frame whose 32 slots are filled is drained (R378). -/
def drainFull (key : Nat) (s : State) : State := onlyIf ((s.frame (key / 32)).filled == 32) (startDrain (key / 32)) s

/-- The next sector of a command entered. -/
def enterNext (c seq : Nat) (d : BitVec 4096) (s : State) : State :=
  match (s.chan c).find seq with
  | none => s
  | some m =>
    let key := sectorKey s m.ns (m.lba + m.entered)
    drainFull key (setCmd c { m with entered := m.entered + 1, grants := takeGrants 1 m.grants } (enterSector c seq key d s))

/-! What open commands do when they can (R374, R375). -/

/-- The newest data of a sector: of the buffer, else of the medium. -/
def newestSector (s : State) (key : Nat) : Sector :=
  match (s.slotOf key).data with
  | some d => { data := d, bad := (s.slotOf key).bad }
  | none => tblGet {} s.arch.medium key

/-- An uncorrectable sector of the medium met (R362, R383, R450): counted and recorded. Answers whether the threshold of
its die is met. -/
def badSector (key : Nat) (s : State) : State × Bool :=
  let d := key / 2 ^ 19
  let (s1, n) := countHit (hitKey 0x0D d 1) (getO s nP 0x8205 2) (addO nP (0xA010 + d) 3 1 s)
  let cl := classifyOf n (getO s nP 0x8205 1)
  (record { cls := 2, action := 0, kind := 0x0D, unit := d, sub := key / 32 % 2 ^ 14, classify := cl, count := n } s1,
   cl == 2)

/-- The 512 bytes of a sector. -/
def sectorBytes (d : BitVec 4096) : List Byte := (List.range 512).map fun i => d.extractLsb' (8 * i) 8
/-- The sector that 512 bytes make. -/
def bytesSector (l : List Byte) : BitVec 4096 := BitVec.ofNat 4096 (fromLe l)

/-- Poison of form 02h into every word of a destination sector (R383). -/
def poisonDest (a : Nat) (s : State) : State :=
  forAll (linesOf a 512) (fun line s =>
    let words := (List.range 8).foldl (fun (acc : BitVec 8) w =>
      if a / 8 ≤ 8 * line + w ∧ 8 * line + w < a / 8 + 64 then acc ||| (1#8 <<< w) else acc) 0
    ctlPoison .io .archive line words 2 s) s

/-- Discarded frames (R382): one record for each that held filled slots; its commands' sectors are lost. -/
def discardFrames (d : Nat) (s : State) : State :=
  forAll (s.arch.frame.filter fun e => e.1 / 2 ^ 14 == d) (fun e s =>
    let mask := e.2.slot.foldl (fun acc x => if x.2.data.isSome then acc + 2 ^ x.1 else acc) 0
    let lost := e.2.slot.flatMap fun x => x.2.writers
    let s1 := forAll lost (fun w s => setChan w.1 { s.chan w.1 with lost := addTo (s.chan w.1).lost w.2 } s)
      { s with arch := { s.arch with frame := tblErase s.arch.frame e.1 } }
    onlyIf (mask != 0)
      (record { cls := 4, action := 0x0A, kind := 0x0D, unit := d, sub := e.1 % 2 ^ 14,
                code := nsOfUnit s d (e.1 % 2 ^ 14), addr := mask }) s1) s

/-- An object held in the system area (R361) that step 3 of R80 reads: 7100h.05h is in fuses, and what the Strongroom shows of the images
is found anew (R440). -/
def inSystem (k : Nat) : Bool :=
  persists k && !(decide (nS * 2 ^ 16 + 0x7100 ≤ k / 2 ^ 8) && decide (k / 2 ^ 8 < nS * 2 ^ 16 + 0x7230))

/-- The system area as every available die holds it (R361). -/
def systemNow (s : State) : SystemCopy :=
  { generation := s.arch.generation + 1, obj := s.obj.filter fun e => inSystem e.1
    promo := s.panel.promo, wayDisabled := s.panel.wayDisabled, records := s.errs.committed
    pcs := s.mem.committedPcs, channels := s.mem.committedChannels
    dies := s.arch.retiredDies, frames := s.arch.retiredFrames }

/-- A die that is not available misses the records written from now on: it keeps the copy that it has. -/
def leaveCopy (d : Nat) (s : State) : State :=
  if (tblFind s.arch.copies d).isSome then s
  else { s with arch := { s.arch with copies := tblInsert s.arch.copies d (systemNow s), generation := s.arch.generation + 1 } }

/-- A die is available again, and takes the newest records. -/
def renewCopy (d : Nat) (s : State) : State := { s with arch := { s.arch with copies := tblErase s.arch.copies d } }

/-- The copy of the system area that step 3 of R80 finds on the dies that answer, the one of the highest generation: none where one
of them holds the newest records, or where none answers (R361). -/
def bestCopy (up : List Nat) (s : State) : Option SystemCopy :=
  if up.any fun d => (tblFind s.arch.copies d).isNone then none
  else (up.filterMap (tblFind s.arch.copies)).foldl (fun acc x => match acc with
    | none => some x
    | some y => if y.generation < x.generation then some x else some y) none

/-- The system area is what a copy holds. -/
def loadCopy (x : SystemCopy) (s : State) : State :=
  { s with
    obj := x.obj.foldl (fun l e => tblInsert l e.1 e.2) (s.obj.filter fun e => !inSystem e.1)
    panel := { s.panel with promo := x.promo, wayDisabled := x.wayDisabled }
    errs := { s.errs with committed := x.records }
    mem := { s.mem with committedPcs := x.pcs, committedChannels := x.channels }
    arch := { s.arch with retiredDies := x.dies, retiredFrames := x.frames } }

/-- Commands that name a namespace of die `d` end with 07h; a WRITE with granted sectors unsent ends at its next DATA
(R382). Outside RUN, LOCKSTEP and LIMP no channel is served, and they end without results at the reset that follows (R384). -/
def endDieCommands (d : Nat) (s : State) : State :=
  onlyIf s.modes.mode.active (fun s => forAll s.arch.chan (fun e s => forAll e.2.opened (fun m s =>
    if nsDie s m.ns = d ∧ !(m.op == 1 && m.unsent != 0) then endCmd e.1 m 7 noLba s else s) s) s) s

/-- A die retired (R452): frames discarded, state 03h, LIMP where an enabled namespace lies on it (R455). -/
def retireDie (d : Nat) (s : State) : State :=
  if s.arch.retiredDies.contains d then s
  else
    let s1 := discardFrames d (endDieCommands d (setO nP (0xA010 + d) 1 3 (leaveCopy d
      { s with arch := { s.arch with retiredDies := addTo s.arch.retiredDies d } })))
    let s2 := record { cls := 5, action := 8, kind := 0x0D, unit := d } s1
    onlyIf ((List.range 32).any fun n => getO s nP (0xA100 + n) 1 == 1 && nsDie s n == d) enterLimp s2

/-- A sector of the medium is uncorrectable from now on. -/
def spoilSector (key : Nat) (s : State) : State :=
  { s with arch := { s.arch with
    medium := tblSet {} s.arch.medium key { tblGet {} s.arch.medium key with bad := true } } }

/-- A corrected sector of the medium (R383, R386): counted and recorded. -/
def fixedSector (key : Nat) (s : State) : State :=
  record { cls := 1, action := 1, kind := 0x0D, unit := key / 2 ^ 19, sub := key / 32 % 2 ^ 14 }
    (addO nP (0xA010 + key / 2 ^ 19) 2 1 s)

/-- UNIT of KIND 0Fh: the frame that holds a unit. -/
def frameUnit (s : State) (k : Nat) : Nat := k / 2 ^ 14 * 64 + (s.frame k).number

/-- A frame retired (R452): it leaves its die's share for good. -/
def retireFrame (k : Nat) (s : State) : State :=
  let d := k / 2 ^ 14
  let n := (s.frame k).number
  if (tblGet 0 s.arch.retiredFrames d).testBit n then s
  else record { cls := 5, action := 9, kind := 0x0F, unit := frameUnit s k }
    { s with arch := { s.arch with
        retiredFrames := tblSet 0 s.arch.retiredFrames d (setBit (tblGet 0 s.arch.retiredFrames d) n) } }

/-- A command of a lost slot that has not ended ends with status 05h; the LBA is that of the sector (R383). -/
def endLostCommand (key c seq : Nat) (s : State) : State :=
  match (s.chan c).find seq with
  | none => s
  | some m => endCmd c m 5 (match (List.range m.sectors).find? fun i => sectorKey s m.ns (m.lba + i) == key with
    | some i => m.lba + i
    | none => noLba) s

/-- An uncorrectable error in a filled slot (R383): its sector will read as uncorrectable; counted and recorded. -/
def slotLost (k i : Nat) (s : State) : State :=
  let x := s.slotOf (k * 32 + i)
  let (s1, n) := countHit (hitKey 0x0F (frameUnit s k) 2) (getO s nP 0x8205 6) s
  let cl := classifyOf n (getO s nP 0x8205 5)
  let s2 := record { cls := 2, action := 0, kind := 0x0F, unit := frameUnit s k, sub := i, classify := cl, count := n }
    (setSlot (k * 32 + i) { x with bad := true } s1)
  onlyIf (cl == 2) (retireFrame k) (forAll x.writers (fun w s => endLostCommand (k * 32 + i) w.1 w.2 s) s2)

/-- What reading a sector finds (R383): an error of the buffer where this holds the sector, else of the medium. A sector of the medium that
is uncorrectable has no correction. -/
def readSector (key : Nat) (light bad : Bool) (s : State) : State :=
  if (s.slotOf key).data.isSome then
    (if bad then slotLost (key / 32) (key % 32) s
     else onlyIf light (record { cls := 1, action := 1, kind := 0x0F, unit := frameUnit s (key / 32), sub := key % 32 }) s)
  else if bad then spoilSector key s
  else onlyIf (light && !(tblGet {} s.arch.medium key).bad) (fixedSector key) s

/-- What reading a frame's slots, and the sectors of its unit that it does not hold, finds for a program (R378, R383): an uncorrectable
sector of the medium is counted and stays so. -/
def readFrame (k : Nat) (corrected uncorrectable : BitVec 32) (s : State) : State :=
  forAll (List.range 32) (fun i s =>
    let key := k * 32 + i
    let s1 := readSector key (corrected.getLsbD i) (uncorrectable.getLsbD i) s
    if (s.slotOf key).data.isNone && uncorrectable.getLsbD i then
      (match badSector key s1 with
        | (t, hit) => onlyIf hit (retireDie (key / 2 ^ 19)) t)
    else s1) s

/-- A READ performed (R374, R375, R383). -/
def performRead (c : Nat) (m : Cmd) (s : State) : State :=
  let p := channelOwner s c
  if !ioRangeOk s p m.dest (512 * m.sectors) then endCmd c m 9 m.lba s
  else
    let keys := sectorKeys s m.ns m.lba m.sectors
    let s0 := forAll (List.range m.sectors) (fun i => readSector (keys.getD i 0) (m.light.contains i) (m.bad.contains i)) s
    let firstBad := (List.range m.sectors).find? fun i => (newestSector s0 (keys.getD i 0)).bad
    let s1 := (List.range m.sectors).foldl (fun (s : State × Bool) i =>
      let x := newestSector s.1 (keys.getD i 0)
      if x.bad then
        let s1 := poisonDest (m.dest + 512 * i) s.1
        if (s1.slotOf (keys.getD i 0)).data.isSome then (s1, s.2)
        else match badSector (keys.getD i 0) s1 with
          | (t, hit) => (t, s.2 || hit)
      else (ioWrite .io .archive (m.dest + 512 * i) (sectorBytes x.data) s.1, s.2)) (s0, false)
    let s2 := match firstBad with
      | some i => endCmd c m 5 (m.lba + i) s1.1
      | none => endCmd c m 0 noLba s1.1
    onlyIf s1.2 (retireDie (nsDie s m.ns)) s2

/-- The frames that hold sectors of a command for the medium and are not being drained. -/
def idleFramesOf (s : State) (c seq : Nat) : List Nat :=
  (s.arch.frame.filter fun e => !e.2.programming && e.2.slot.any fun x => x.2.writers.contains (c, seq)).map (·.1)

/-- The filled sectors of a namespace. -/
def filledOf (s : State) (ns : Nat) : List Nat :=
  s.arch.frame.flatMap fun e =>
    if nsOfUnit s (e.1 / 2 ^ 14) (e.1 % 2 ^ 14) = ns then
      (e.2.slot.filter fun x => x.2.data.isSome).map fun x => e.1 * 32 + x.1
    else []

/-- The units of some filled sectors whose frames are not being drained. -/
def idleUnits (s : State) (keys : List Nat) : List Nat :=
  ((keys.map (· / 32)).foldl addTo []).filter fun k => !(s.frame k).programming && (s.frame k).oldest.isSome

/-- The next thing that an open command of a channel can do; none where it waits. A FLUSH waits for the sectors that were filled as it was
taken. -/
def cmdStep (s : State) (c : Nat) (x : Chan) (m : Cmd) : Option State :=
  if m.op = 2 then
    if x.blocked m then none else some (performRead c m s)
  else if m.op = 3 then
    if x.blocked m then none
    else match idleUnits s m.waits with
      | [] => if m.waits.isEmpty && (x.before m).isEmpty then some (endCmd c m 0 noLba s) else none
      | l => some (forAll l startDrain s)
  else if m.entered < m.sectors then none
  else if m.force || getO s nP (0xA100 + m.ns) 6 == 1 then
    if waitsForMedium s c m.seq then
      match idleFramesOf s c m.seq with
      | [] => none
      | l => some (forAll l startDrain s)
    else some (endCmd c m 0 noLba s)
  else some (endCmd c m 0 noLba s)

/-- A ZERO at the head of a die's waiting commands is granted and fills its slots itself (R370). -/
def zeroStep (s : State) (d : Nat) : Option State :=
  match nextGrant s d with
  | none => none
  | some (c, m) =>
    if m.op ≠ 4 ∨ !grantFits s d m then none
    else some (forAll (List.range m.quota) (fun _ s => enterNext c m.seq 0 s) (giveGrant c m s))

/-- The first open command that can go on. -/
def openStep (s : State) : Option State :=
  s.arch.chan.findSome? fun e => e.2.opened.findSome? fun m => cmdStep s e.1 e.2 m

/-- Everything that can go on does; `n` bounds it. -/
def goOn : Nat → State → State
  | 0, s => s
  | n + 1, s =>
    match openStep s with
    | some t => goOn n t
    | none => match [0, 1, 2, 3].findSome? (zeroStep s) with
      | some t => goOn n t
      | none => s

/-- A grant that waits for a frame of a die. -/
def wantFrame (d : Nat) (s : State) : State :=
  match nextGrant s d with
  | none => s
  | some (_, m) =>
    onlyIf (decide (framesTotal s d < framesInUse s d + (newFrames s (grantKeys s m)).length)) (makeFrame d) s

/-- A channel whose records wait on a queue that is no valid target any more stops (R368). -/
def checkTarget (c : Nat) (s : State) : State :=
  let q := getO s nP (0xA200 + c) 3
  onlyIf ((s.queue q).waiting.any (isChan c ·.1) && getO s nP (0xA200 + c) 7 == 1 && !validTarget s q (channelOwner s c)) (stopChannel c 4) s

/-- The Archive after an event: open commands of the channels served go on, frames are drained for waiting grants, D advances. -/
def settle (s : State) : State :=
  let s1 := forAll (s.arch.chan.map (·.1)) checkTarget s
  let s2 := onlyIf s1.modes.mode.active (fun s => forAll [0, 1, 2, 3] wantFrame (goOn 20000 s)) s1
  forAll (s2.arch.chan.map (·.1)) (fun c s => advanceD c (idxDiff (getO s nP (0xA200 + c) 4) (s.chan c).trueD) s) s2

/-! Packets (R365-R368). -/

/-- The channels are served (R384): RUN, LOCKSTEP, LIMP. -/
def channelServed (s : State) (c : Nat) : Bool :=
  s.modes.mode.active && getO s nP (0xA200 + c) 1 == 1 && getO s nP (0xA200 + c) 7 == 1 &&
    qRunning s (getO s nP (0xA200 + c) 2)

/-- Bytes `i` to `j` of a packet are zero. -/
def zeroBytes (b : List Byte) (i j : Nat) : Bool := leAt b i (j + 1 - i) == 0

/-- The packet's fields are as R365 has them. -/
def packetOk (b : List Byte) : Bool :=
  let sectors := leAt b 16 4
  let counted := decide (1 ≤ sectors) && decide (sectors ≤ 4096)
  match leAt b 0 1 with
  | 1 => decide (leAt b 1 1 ≤ 1) && counted && zeroBytes b 20 63
  | 2 => leAt b 1 1 == 0 && counted && zeroBytes b 20 23 && leAt b 24 8 % 64 == 0 && zeroBytes b 32 63
  | 3 => leAt b 1 1 == 0 && zeroBytes b 8 63
  | 4 => decide (leAt b 1 1 ≤ 1) && counted && zeroBytes b 20 63
  | 5 => zeroBytes b 1 3 && zeroBytes b 8 15 && decide (1 ≤ sectors) && zeroBytes b 20 23 && leAt b 24 8 % 64 == 0 && zeroBytes b 32 63
  | 6 => zeroBytes b 1 3 && zeroBytes b 8 63
  | _ => false

/-- A command names an enabled namespace of the channel's owner and a range inside it (R373, 06h). -/
def nameOk (s : State) (c : Nat) (m : Cmd) : Bool :=
  decide (m.ns < 32) && getO s nP (0xA100 + m.ns) 1 == 1 && getO s nP (0xA100 + m.ns) 2 == channelOwner s c &&
    (m.op == 3 || decide (m.lba + m.sectors ≤ getO s nP (0xA100 + m.ns) 5 * 32))

/-- A packet taken: the channel's list of packets from C on grows. -/
def takePacket (c : Nat) (s : State) : State :=
  let x := s.chan c
  setChan c { x with taken := x.taken ++ [(x.packets, false)], packets := x.packets + 1 } s

/-- A command taken: sequence, namespace and die are checked in this order (R367, R373, R382). -/
def takeCommand (c : Nat) (b : List Byte) (light bad : List Nat) (s : State) : State :=
  let seq := leAt b 4 4
  if seq ≠ getO s nP (0xA200 + c) 4 then stopChannel c 2 s
  else
    let op := leAt b 0 1
    let m : Cmd := { op := op, packet := (s.chan c).packets, force := leAt b 1 1 == 1, ns := leAt b 2 2, seq := seq,
                     lba := if op = 3 then 0 else leAt b 8 8, sectors := if op = 3 then 0 else leAt b 16 4,
                     dest := if op = 2 then leAt b 24 8 else 0, since := now s, light := light, bad := bad
                     waits := if op = 3 then filledOf s (leAt b 2 2) else [] }
    let s1 := setO nP (0xA200 + c) 4 ((seq + 1) % 2 ^ 32) (takePacket c s)
    let s2 := setChan c { s1.chan c with opened := (s1.chan c).opened ++ [m] } s1
    if !nameOk s c m then endCmd c m 6 noLba s2
    else if dieOut s (nsDie s m.ns) then endCmd c m 7 noLba s2
    else s2

/-- The sectors of a DATA packet in order, each entered when whole (R371); a poisoned one ends the WRITE. -/
def enterData (c seq src n : Nat) : Nat → State → State
  | 0, s => s
  | k + 1, s =>
    let i := n - (k + 1)
    let (s1, b, bad) := ioRead (src + 512 * i) 512 s
    if bad.isEmpty then enterData c seq src n k (enterNext c seq (bytesSector b) s1)
    else
      let s2 := forAll bad (fun w s => consumeRecord (8 * w.1) w.2 0xFFFF 4 (channelOwner s c) s) s1
      match (s2.chan c).find seq with
      | some m => endCmd c m 4 (m.lba + m.entered) s2
      | none => s2

/-- A DATA packet (R371, R382). -/
def takeData (c : Nat) (b : List Byte) (s : State) : State :=
  let seq := leAt b 4 4
  let n := leAt b 16 4
  let src := leAt b 24 8
  let x := s.chan c
  match x.opened.find? fun m => m.op == 1 && m.unsent != 0 with
  | none => stopChannel c 3 s
  | some m =>
    if m.seq ≠ seq ∨ m.unsent < n then stopChannel c 3 s
    else
      let id := x.packets
      let s1 := takePacket c s
      finishPacket c id <|
        if dieOut s (nsDie s m.ns) then endCmd c m 7 noLba s1
        else if !ioRangeOk s (channelOwner s c) src (512 * n) then endCmd c m 9 (m.lba + m.entered) s1
        else enterData c seq src n n s1

/-- The answer to a QUERY (R376). -/
def queryResult (s : State) (c seq : Nat) : Res :=
  let x := s.chan c
  let plain := fun status =>
    { seq := seq, status := status, durable := false, sectors := 0, badLba := noLba, time := now s : Res }
  if (x.find seq).isSome then plain 1
  else match x.ended.find? (·.seq == seq) with
    | some r => r
    | none => if idxDiff seq (getO s nP (0xA200 + c) 4) < 2 ^ 31 then plain 2 else plain 3

/-- A QUERY packet: its packet is finished when the answer is posted. -/
def takeQuery (c : Nat) (b : List Byte) (s : State) : State :=
  let id := (s.chan c).packets
  pushRecord c (id + 1) (resultBytes c (queryResult s c (leAt b 4 4)) true) (takePacket c s)

/-- The controller takes the channel's next packet. `own`: the opcode of the command, which also takes an unknown opcode
and a poisoned packet; `light` and `bad`: what the medium will return to a READ. -/
def archiveTake (own c : Nat) (light bad : List Nat) (s : State) : State :=
  let q := getO s nP (0xA200 + c) 2
  let i := (s.chan c).taken.length
  if !channelServed s c || decide (qHeld s q ≤ i) || !mappedRange s (slotAddr s q (qC s q + i)) 64 then s
  else
    let (s1, b, poison) := ioRead (slotAddr s q (qC s q + i)) 64 s
    let op := leAt b 0 1
    if poison ≠ [] then stopChannel c 5 s1
    else if op ≠ own ∧ 1 ≤ op ∧ op ≤ 6 then s
    else if !packetOk b then stopChannel c 1 s1
    else settle (if op = 5 then takeData c b s1 else if op = 6 then takeQuery c b s1 else takeCommand c b light bad s1)

/-- ARCHIVE_WRITE (R370). -/
def execArchiveWrite (channel : Nat) (s : State) : Out := within (decide (channel < 64)) (archiveTake 1 channel [] [] s)
/-- ARCHIVE_READ (R375). `light` and `bad`: the sectors, by place, that the medium returns corrected and uncorrectable (R383). -/
def execArchiveRead (channel : Nat) (light bad : List Nat) (s : State) : Out :=
  within (decide (channel < 64)) (archiveTake 2 channel light bad s)
/-- ARCHIVE_FLUSH (R374). -/
def execArchiveFlush (channel : Nat) (s : State) : Out := within (decide (channel < 64)) (archiveTake 3 channel [] [] s)
/-- ARCHIVE_ZERO (R370). -/
def execArchiveZero (channel : Nat) (s : State) : Out := within (decide (channel < 64)) (archiveTake 4 channel [] [] s)
/-- ARCHIVE_DATA (R371). -/
def execArchiveData (channel : Nat) (s : State) : Out := within (decide (channel < 64)) (archiveTake 5 channel [] [] s)
/-- ARCHIVE_QUERY (R376). -/
def execArchiveQuery (channel : Nat) (s : State) : Out := within (decide (channel < 64)) (archiveTake 6 channel [] [] s)

/-- The type-30h record of a grant (R370). -/
def grantRecord (c : Nat) (m : Cmd) (time : Nat) : List Byte :=
  leBytes 1 0x30 ++ leBytes 1 0 ++ leBytes 2 c ++ leBytes 4 m.seq ++ leBytes 4 m.quota ++
  leBytes 4 (m.sectors - m.granted - m.quota) ++ leBytes 8 (m.lba + m.granted) ++ leBytes 8 time

/-- TRANSFER_READY: the channel's WRITE is the longest waiting on its die and its slots can be given together. -/
def execTransferReady (channel : Nat) (s : State) : Out :=
  within (decide (channel < 64)) <|
    match (s.chan channel).head with
    | none => s
    | some h =>
      let d := nsDie s h.ns
      match nextGrant s d with
      | none => s
      | some (c, m) =>
        if s.modes.mode.active && c == channel && m.op == 1 && grantFits s d m then
          settle (pushRecord c 0 (grantRecord c m (now s)) (giveGrant c m s))
        else s

/-- GRANT_TIMEOUT (R372). -/
def execGrantTimeout (channel seq : Nat) (s : State) : Out :=
  within (decide (channel < 64) && decide (seq < 2 ^ 32)) <|
    match (s.chan channel).find seq with
    | none => s
    | some m =>
      match m.op, m.grants with
      | 1, (_, t) :: _ =>
        if s.modes.mode.active && decide (t + getO s nP (0xA200 + channel) 0x0A * 1000 ≤ now s) then
          settle (endCmd channel { m with grants := [] } 8 (m.lba + m.entered) s)
        else s
      | _, _ => s

/-! Drains and the medium (R362, R378, R379). -/

/-- DRAIN_AGE_EXPIRY (R378). -/
def execDrainAgeExpiry (die unit : Nat) (s : State) : Out :=
  within (decide (die < 4) && decide (unit < 16384)) <|
    match (s.frame (unitKey die unit)).oldest with
    | some t =>
      if s.modes.mode.active && decide (t + getO s nP 0xA000 7 * 1000 ≤ now s) then startDrain (unitKey die unit) s else s
    | none => s

/-- The sectors of a program are on the medium: no FLUSH waits for them any more. -/
def dropWaits (keys : List Nat) (s : State) : State :=
  forAll s.arch.chan (fun e s => onlyIf (e.2.opened.any fun m => !m.waits.isEmpty)
    (setChan e.1 { s.chan e.1 with opened := (s.chan e.1).opened.map fun m =>
      { m with waits := m.waits.filter fun k => !keys.contains k } }) s) s

/-- A sector as it is programmed (R360): its check bytes cover its data, its address and the unit's write generation; those of an
uncorrectable one fail. -/
def storedSector (key gen : Nat) (x : Sector) : Sector :=
  let good := Config.sectorCheck x.data key gen
  { x with check := if x.bad then ~~~good else good }

/-- A frame's data on the medium as one unit program with the other sectors of the unit (R378), in the next write generation; its slots
without a grant become free. -/
def programUnit (k : Nat) (s : State) : State :=
  let f := s.frame k
  let gen := tblGet 0 s.arch.writes k + 1
  let medium := (List.range 32).foldl (fun t i =>
    tblSet {} t (k * 32 + i) (storedSector (k * 32 + i) gen (newestSector s (k * 32 + i)))) s.arch.medium
  let held := f.slot.filter fun x => x.2.data.isSome
  let rest := (f.slot.filter fun x => x.2.granted.isSome).map fun x => (x.1, { granted := x.2.granted : Slot })
  let s1 := setFrame k { f with slot := rest, programming := false }
    { s with arch := { s.arch with medium := medium, writes := tblSet 0 s.arch.writes k gen } }
  let s2 := addO nP (0xA010 + k / 2 ^ 14) 4 1 s1
  dropWaits (held.map fun x => k * 32 + x.1) s2

/-- The committed durable sequence of a channel takes the true one, where a die takes the commit (R361, R377). -/
def commitD (c : Nat) (s : State) : State := onlyIf (systemArea s) (setO nP (0xA200 + c) 5 (s.chan c).trueD) s

/-- Every channel's D committed. -/
def commitAll (s : State) : State := forAll (s.arch.chan.map (·.1)) commitD s

/-- UNIT_PROGRAM_COMPLETE: a drain that is under way ends, its last step the commit of D (R377). `corrected` and `uncorrectable`: the
slots in which reading the buffer found an error. -/
def execUnitProgramComplete (die unit : Nat) (corrected uncorrectable : BitVec 32) (s : State) : Out :=
  within (decide (die < 4) && decide (unit < 16384)) <|
    if (s.frame (unitKey die unit)).programming && dieUp s die && s.modes.mode.on && s.modes.mode != .keep then
      commitAll (settle (programUnit (unitKey die unit) (readFrame (unitKey die unit) corrected uncorrectable s)))
    else s

/-- A frame drained whole; `found`: the sectors in whose slot, or on whose place of the medium, an error is found, with whether it is
uncorrectable (R383). -/
def drainFrame (found : List (Nat × Bool)) (k : Nat) (s : State) : State :=
  let mask := fun bad => (found.filter fun e => e.1 / 32 == k && e.2 == bad).foldl
    (fun (acc : BitVec 32) e => acc ||| (1#32 <<< (e.1 % 32))) 0
  onlyIf (!dieOut s (k / 2 ^ 14) && ((s.frame k).oldest).isSome) (fun s => programUnit k (readFrame k (mask false) (mask true) s)) s

/-- Every assigned frame of every die that is not out of service drained (R378, R380). -/
def drainAll (found : List (Nat × Bool)) (s : State) : State := forAll (s.arch.frame.map (·.1)) (drainFrame found) s

/-- The true D of every channel after drains (R377). -/
def advanceAll (s : State) : State :=
  forAll (s.arch.chan.map (·.1)) (fun c s => advanceD c (idxDiff (getO s nP (0xA200 + c) 4) (s.chan c).trueD) s) s

/-- The drains of an entry to KEEP or SERVICE (R378), whose last step commits every D (R377). -/
def drainCommit (found : List (Nat × Bool)) (s : State) : State := commitAll (advanceAll (drainAll found s))

/-- DURABLE_SEQUENCE_COMMIT. -/
def execDurableSequenceCommit (channel : Nat) (s : State) : Out :=
  within (decide (channel < 64)) (if s.modes.mode.on && s.modes.mode != .keep then commitD channel s else s)

/-- The scan moves past its unit of a die; past the last one a lap ends (R362). -/
def scanAdvance (d : Nat) (s : State) : State :=
  let next := (tblGet 0 s.arch.scanPos d + 1) % 16384
  let s1 := { s with arch := { s.arch with scanPos := tblSet 0 s.arch.scanPos d next } }
  if next ≠ 0 then s1
  else setO nP (0xA010 + d) 5 ((now s - tblGet 0 s.arch.scanPos (100 + d)) / 1000000000)
    { s1 with arch := { s1.arch with scanPos := tblSet 0 s1.arch.scanPos (100 + d) (now s) } }

/-- One uncorrectable sector found by the medium lap. -/
def scanBad (key : Nat) (s : State) : State :=
  let (s1, hit) := badSector key (spoilSector key s)
  onlyIf hit (retireDie (key / 2 ^ 19)) s1

/-- MEDIUM_SCAN: the next unit of a die's lap, in the order of the units (DESIGN CHOICE: R362 asks for each once a lap), while no drain of
the die is under way. `light` and `heavy` are the sectors that needed fewer than five and five or more corrected bits. A sector
stored as uncorrectable is found so. -/
def execMediumScan (die : Nat) (light heavy uncorrectable : BitVec 32) (s : State) : Out :=
  within (decide (die < 4)) <|
    if s.modes.mode.active && dieUp s die && !(s.arch.frame.any fun e => e.1 / 2 ^ 14 == die && e.2.programming) then
      let k := unitKey die (tblGet 0 s.arch.scanPos die)
      let bad := (List.range 32).filter fun i =>
        uncorrectable.getLsbD i || (tblGet {} s.arch.medium (k * 32 + i)).bad
      let fixed := (List.range 32).filter fun i => (light ||| heavy).getLsbD i && !bad.contains i
      let s1 := forAll fixed (fun i => fixedSector (k * 32 + i)) (scanAdvance die s)
      let s2 := onlyIf (fixed.any fun i => heavy.getLsbD i) (addO nP (0xA010 + die) 4 1) s1
      settle (forAll bad (fun i => scanBad (k * 32 + i)) s2)
    else s

/-! Dies out of service (R382, R452). -/

/-- A die becomes unavailable (R43, R73, R382); the unavailability counts toward its retirement (R450). -/
def dieUnavailable (d : Nat) (s : State) : State :=
  if dieOut s d then s
  else
    let (s1, n) := countHit (hitKey 0x0D d 2) (getO s nP 0x8205 4)
      (endDieCommands d (setO nP (0xA010 + d) 1 2 (leaveCopy d { s with arch := { s.arch with
        lostAt := tblSet 0 (tblSet 0 s.arch.lostAt (10 + d) (now s)) d (now s) } })))
    onlyIf (classifyOf n (getO s nP 0x8205 3) == 2) (retireDie d) s1

/-- ARCHIVE_DIE_UNAVAILABLE. -/
def execArchiveDieUnavailable (die : Nat) (s : State) : Out :=
  within (decide (die < 4)) <|
    if s.modes.mode.on && s.modes.mode != .keep then settle (dieUnavailable die s) else s

/-- A die's module has trained (R382, R386): an unavailable die's frames are drained within 1 s of the loss, and discarded later. -/
def dieBack (d : Nat) (s : State) : State :=
  if getO s nP (0xA010 + d) 1 = 1 then settle (setO nP (0xA010 + d) 1 0 s)
  else if getO s nP (0xA010 + d) 1 = 2 then
    let s1 := renewCopy d (onlyIf (decide (tblGet 0 s.arch.lostAt d + 1000000000 < now s)) (discardFrames d) s)
    settle (forAll ((s1.arch.frame.filter fun e => e.1 / 2 ^ 14 == d).map (·.1)) startDrain (setO nP (0xA010 + d) 1 0 s1))
  else s

/-- ARCHIVE_DIE_LOSS_TIMEOUT: 1 s without a success discards the die's frames. -/
def execArchiveDieLossTimeout (die : Nat) (s : State) : Out :=
  within (decide (die < 4)) <|
    if getO s nP (0xA010 + die) 1 == 2 && decide (tblGet 0 s.arch.lostAt die + 1000000000 ≤ now s) then
      settle (discardFrames die s)
    else s

/-- 8205h.07h (R452): in SERVICE only; the dies are tested at the next SERVICE → RUN. -/
def ruleClearArchive : Rule := fun s =>
  if s.modes.mode ≠ .service then refused 0 s
  else actionDone { s with arch := { s.arch with retiredDies := [], retiredFrames := [] } }

/-- CLEAR_ARCHIVE_RETIREMENTS. -/
def execClearArchiveRetirements (who : Requester) (value : Nat) (s : State) : Out :=
  .next (served who nP 0x8205 7 value ruleClearArchive s)

/-- SERVICE → RUN: a die whose retirement was cleared has passed its test. -/
def returnDies (s : State) : State :=
  forAll [0, 1, 2, 3] (fun d s =>
    onlyIf (getO s nP (0xA010 + d) 1 == 3 && !s.arch.retiredDies.contains d)
      (fun s => setO nP (0xA010 + d) 1 0 (renewCopy d s)) s) s

/-! Channel and namespace objects (R363, R364, R384). -/

/-- 01h to A200h.0Ch. -/
def ruleChannelReset (c : Nat) : Rule := fun s =>
  actionDone (onlyIf (getO s nP (0xA200 + c) 1 == 1) (fun s => settle (chanReset c s)) s)

/-- ARCHIVE_CHANNEL_RESET. -/
def execArchiveChannelReset (who : Requester) (channel value : Nat) (s : State) : Out :=
  within (decide (channel < 64)) (served who nP (0xA200 + channel) 0x0C value (ruleChannelReset channel) s)

/-- Another enabled channel names a queue as its command queue. -/
def namedElsewhere (s : State) (c q : Nat) : Bool :=
  (List.range 64).any fun d => d != c && getO s nP (0xA200 + d) 1 == 1 && getO s nP (0xA200 + d) 2 == q

/-- The conditions of R364. -/
def channelMayEnable (s : State) (c : Nat) : Bool :=
  let q := getO s nP (0xA200 + c) 2
  let r := getO s nP (0xA200 + c) 3
  let p := channelOwner s c
  decide (q < 65536) && qEnabled s q && qKind s q == 4 && qElem s q == 64 && validTarget s r p &&
    (if qFramed s r then decide (64 ≤ qElem s r) else qElem s r == 32) && !namedElsewhere s c q && !namedElsewhere s c r

/-- A channel is disabled: its open commands end as at a channel reset. -/
def channelOff (c : Nat) (s : State) : State :=
  settle (setO nP (0xA200 + c) 7 0 (setO nP (0xA200 + c) 1 0 (chanReset c s)))

/-- A200h.01h: enabling sets N from D (R367); disabling ends open commands as a channel reset does. -/
def ruleChannelEnable (c value : Nat) : Rule := fun s =>
  if value = 1 then
    if getO s nP (0xA200 + c) 1 = 1 then answered s
    else if channelMayEnable s c then
      answered (runAll [setO nP (0xA200 + c) 1 1, setO nP (0xA200 + c) 7 1,
        setO nP (0xA200 + c) 4 (((s.chan c).trueD + 1) % 2 ^ 32),
        setChan c { s.chan c with opened := [], taken := [], lost := [] }] s)
    else refused 0 s
  else if getO s nP (0xA200 + c) 1 = 1 then
    answered (channelOff c s)
  else answered s

/-- ARCHIVE_CHANNEL_ENABLE. -/
def execArchiveChannelEnable (who : Requester) (channel value : Nat) (s : State) : Out :=
  within (decide (channel < 64)) (served who nP (0xA200 + channel) 1 value (ruleChannelEnable channel value) s)

/-- Queues, timeout and limit of a channel: refused as busy while it is enabled (R388). -/
def ruleChannelConfig (c sub value : Nat) : Rule := fun s =>
  if getO s nP (0xA200 + c) 1 = 1 then refusedBusy s else answered (setO nP (0xA200 + c) sub value s)

/-- The conditions of R363. -/
def nsMayEnable (s : State) (n : Nat) : Bool :=
  let first := getO s nP (0xA100 + n) 4
  let units := getO s nP (0xA100 + n) 5
  decide (getO s nP (0xA100 + n) 2 < 16) && decide (nsDie s n < 4) && decide (1 ≤ units) && decide (128 ≤ first) &&
    decide (first + units - 1 ≤ 16383) &&
    !((List.range 32).any fun m => m != n && getO s nP (0xA100 + m) 1 == 1 && nsDie s m == nsDie s n &&
      overlaps first units (getO s nP (0xA100 + m) 4) (getO s nP (0xA100 + m) 5))

/-- A command that names the namespace is open. -/
def nsOpen (s : State) (n : Nat) : Bool := s.arch.chan.any fun e => e.2.opened.any (·.ns == n)

/-- The other objects of a namespace: refused as busy while it is enabled (R387). -/
def ruleNsConfig (n sub value : Nat) : Rule := fun s =>
  if getO s nP (0xA100 + n) 1 = 1 then refusedBusy s else answered (setO nP (0xA100 + n) sub value s)

/-! The power-fail drain (R380, R381). -/

/-- Sectors of the Archive, as a drain's findings name them. -/
def foundOk (found : List (Nat × Bool)) : Bool := found.all fun e => decide (e.1 < 2 ^ 21)

/-- Open commands of every channel end without results, and grants are gone (R384). -/
def resetChannels (s : State) : State := forAll (s.arch.chan.map (·.1)) chanReset s

/-- At an entry into KEEP the retained results are lost (R376). The channels are reset at its exit (R384). -/
def loseResults (s : State) : State := forAll (s.arch.chan.map (·.1)) (fun c s => setChan c { s.chan c with ended := [] } s) s

/-- Some frame of a die that is out of service holds data: the power-fail drain loses it (R381). -/
def strandedData (s : State) : Bool := s.arch.frame.any fun e => dieOut s (e.1 / 2 ^ 14) && e.2.oldest.isSome

/-- A drain in which data was lost: A000h.0Ah reads 01h and the next power-up reports it (R381). -/
def drainLost (s : State) : State := setO nP 0xA000 0x0A 1 { s with power := { s.power with lostBuffer := true } }

/-- Steps 1 to 4 of R380: the start marker is written, every frame of an available die is drained, each D is exact and committed, and the
count and the end marker are. The frames of another die are lost (R381). The time taken is open. -/
def powerFailDrain (found : List (Nat × Bool)) (s : State) : State :=
  let s0 := setO nP 0xA000 0x0A 1 (resetChannels s)
  let stranded := strandedData s0
  let s1 := forAll [0, 1, 2, 3] (fun d s => onlyIf (dieOut s d) (discardFrames d) s) (drainAll found s0)
  let (s2, t) := takeFree (commitAll (advanceAll s1))
  onlyIf stranded drainLost (runAll [addO nP 0xA000 8 1, setO nP 0xA000 9 (t.toNat % 1501), setO nP 0xA000 0x0A 0] s2)

/-- The supplies fall before step 4 of R380 ends: the units whose program had finished are drained, the others keep their old contents,
and D is not committed (R381). -/
def brokenDrain (found : List (Nat × Bool)) (units : List Nat) (s : State) : State :=
  drainLost (forAll ((s.arch.frame.map (·.1)).filter units.contains) (drainFrame found) (resetChannels s))

end Sys2Proof.Machine
end

