-- ==== Sys2Proof/Machine/Concourse.lean ====
section
/-! DEFINITION. The Concourse message by message (R305-R322): REQs as a slice serves them, snoops, answers,
writebacks, grants and the watchdog. -/

namespace Sys2Proof.Machine

/-! Messages in flight (R39, R42, R308, R309). -/

/-- A message joins those in flight, on the module of its line. One beyond its pool's credits waits at its sender in order, as one that
has not arrived does. -/
def sendMsg (m : Msg) (s : State) : State :=
  { s with conc := { s.conc with msgs := s.conc.msgs ++ [(moduleOf s m.gallery m.line, m)] } }

/-- A snoop that an L2 holds for an LR (R311): it has arrived, and holds back no other. -/
def heldSnoop (s : State) : Msg → Bool
  | .snp _ g l _ => lrHeld s g l
  | _ => false

/-- No message of its module, direction and class, to or from its gallery, is ahead of it (R309). -/
def isFirst (s : State) (x : Nat × Msg) : Bool :=
  !((s.conc.msgs.takeWhile (· != x)).any fun y =>
    y.1 == x.1 && y.2.gallery == x.2.gallery && y.2.pool == x.2.pool && !heldSnoop s y.2)

/-- The first message in flight that meets a condition arrives: it, and the state without it. None while another is ahead of it, while
its gallery is fenced (R42), or on a module at width 0 (R44). -/
def takeMsg (p : Msg → Bool) (s : State) : Option (Msg × State) :=
  match s.conc.msgs.find? fun x => p x.2 with
  | none => none
  | some x =>
    if isFirst s x && !fenced s x.2.gallery && getO s (nGal x.2.gallery) (0x6010 + x.1) 1 != 0 then
      some (x.2, { s with conc := { s.conc with msgs := s.conc.msgs.erase x } })
    else none

/-! Requests (R312-R314, R319). -/

def State.txAt (s : State) (dom line : Nat) : Option Tx := tblFind s.conc.tx (dirKey dom line)
def setTx (dom line : Nat) (t : Tx) (s : State) : State :=
  { s with conc := { s.conc with tx := tblInsert s.conc.tx (dirKey dom line) t } }

/-- The gallery of an L2 that asks; 31 for an agent that is no L2. -/
def agentGal : CohAgent → Nat
  | .l2 g => g
  | _ => 31

/-- A set of galleries as bits. -/
def galBits (l : List Nat) : BitVec 22 := l.foldl (fun a g => a ||| (1#22 <<< g)) 0

/-- The request may need a new entry. -/
def needsEntry : ReqKind → Bool
  | .rdS => true | .rdX => true | .upg => true | .claimZ => true | _ => false

/-- A REQ becomes the active one of its line, `queue` behind it (R312, R319): where it needs an entry and the set has none, a
back-invalidation goes first. False: every entry of the set is pinned. `kept`: the line's entry is still pinned. -/
def startTx (line : Nat) (r : Req) (queue : List Req) (kept : Bool) (s : State) : State × Bool :=
  let dom := r.dom
  let present := (s.dirAt dom line).holders != 0
  let tx : Tx := { req := r, start := now s, entry := present || needsEntry r.kind, queue := queue }
  if needsEntry r.kind && !present && !kept && setFull s line then
    match chooseVictim r.victim line s with
    | (_, none) => (s, false)
    | (s1, some k) =>
      let hs := (s1.dirAt (k / 2 ^ 46) (k % 2 ^ 46)).list
      (setTx dom line { tx with entry := false, snoops := galBits hs, backInv := some k }
        (forAll hs (fun h s => sendMsg (.snp .x h (k % 2 ^ 46) (k / 2 ^ 46)) s) s1), true)
  else (setTx dom line tx s, true)

/-- A REQ waits at its slice with its REQ credit (R312). -/
def joinWaiting (line : Nat) (r : Req) (s : State) : State :=
  { s with conc := { s.conc with waiting := s.conc.waiting ++ [(moduleOf s (agentGallery r.agent) line, line, r)] } }

/-- The REQ waits because all 16 entries of its set are pinned (R319). -/
def setPinned (line : Nat) (r : Req) (s : State) : Bool :=
  slotFree s line && needsEntry r.kind && (s.dirAt r.dom line).holders == 0 && setFull s line && (victims s line).isEmpty

/-- A transaction ends (R312, R329): the longest time is kept and the next REQ of the line becomes active; where it finds every entry of
its set pinned, the queue waits under its credits again and that REQ's wait is counted (DESIGN CHOICE: R319 speaks of a REQ that holds its
credit still). -/
def closeTx (dom line : Nat) (t : Tx) (s : State) : State :=
  let s1 := maxO nC 0x6800 0x0A (now s - t.start) { s with conc := { s.conc with tx := tblErase s.conc.tx (dirKey dom line) } }
  match t.queue with
  | [] => s1
  | r :: rest => match startTx line r rest t.entry s1 with
    | (u, true) => u
    | (u, false) => forAll (r :: rest) (joinWaiting line) (onlyIf (setPinned line r s1) (countSetFull r.dom line) u)

/-- What the slice does once every snoop of the request is answered and all awaited data has arrived (R314). -/
def finishReq (dom line : Nat) (t : Tx) (s : State) : State × Bool :=
  let g := agentGal t.req.agent
  let e := s.dirAt dom line
  let others := e.list.filter (· != g)
  let fetch := fun (s : State) => match t.got with
    | some d => (s, d)
    | none => sliceRead line .clean s
  let grantData := fun (s : State) (d : LineData) (gr : Grant) => sendMsg (.data t.req.agent line dom d gr) s
  match t.req.kind with
  | .rdS =>
    let (s1, d) := fetch s
    if t.keepShared then (grantData (setDir dom line { owned := false, holders := galBits (g :: others) } s1) d .s, true)
    else (grantData (setDir dom line (ownedBy1 g) s1) d .e, true)
  | .rdX =>
    let (s1, d) := fetch s
    (grantData (setDir dom line (ownedBy1 g) s1) d .m, true)
  | .upg => (sendMsg (.cmp t.req.agent line dom .m false) (setDir dom line (ownedBy1 g) s), true)
  | .claimZ => (sendMsg (.cmp t.req.agent line dom .m true) (setDir dom line (ownedBy1 g) s), true)
  | .crd =>
    let (s1, d) := fetch s
    (grantData s1 d .none, false)
  | .cwrFull =>
    (sendMsg (.cmp t.req.agent line dom .none false)
      (setDir dom line {} (sliceWrite (agentGallery t.req.agent) line t.req.data t.req.mask 0xFF#8 s)), false)
  | .cwrPart =>
    let s1 := match t.got with
      | some d => sliceWriteback (agentGallery t.req.agent) line (mergeLine d t.req.data t.req.mask t.req.whole) s
      | none => sliceWrite (agentGallery t.req.agent) line t.req.data t.req.mask t.req.whole s
    (sendMsg (.cmp t.req.agent line dom .none false) (setDir dom line {} s1), false)
  | .cmoClean => (sendMsg (.cmp t.req.agent line dom .none false) s, false)
  | _ => (sendMsg (.cmp t.req.agent line dom .none false) (setDir dom line {} s), false)

/-- The slice starts to serve the active request of a line; an Upg whose sender is no holder is served as RdX (R314). -/
def beginReq (dom line : Nat) (s : State) : State :=
  match s.txAt dom line with
  | none => s
  | some t =>
    let e := s.dirAt dom line
    let g := agentGal t.req.agent
    let kind := if t.req.kind = .upg ∧ (e.owned ∨ e.holders.getLsbD g = false) then ReqKind.rdX else t.req.kind
    let t := { t with req := { t.req with kind := kind }, keepShared := !e.owned && e.holders != 0 }
    match snoopPlan e kind g with
    | some (k, l) => forAll l (fun h s => sendMsg (.snp k h line dom) s) (setTx dom line { t with snoops := galBits l } s)
    | none =>
      match finishReq dom line t s with
      | (s1, true) => setTx dom line { t with waitAck := true } s1
      | (s1, false) => closeTx dom line t s1

/-- Requests queued behind one another of a line are served in turn while they end at once; `n` bounds them. -/
def serveQueue (dom line : Nat) : Nat → State → State
  | 0, s => s
  | n + 1, s =>
    match s.txAt dom line with
    | none => s
    | some t =>
      if t.waitAck || t.snoops != 0 || t.awaitData != 0 || t.backInv.isSome then s
      else serveQueue dom line n (beginReq dom line s)

/-- The bound of a line's queue (R321), and one. -/
abbrev queueBound : Nat := 353

/-- A REQ at its slice (R312, R313, R319, R324): discarded when its domain is not UP; queued behind an open transaction of the line
or of its entry's victimisation; started, with a back-invalidation first where its set is full. False: it waits unaccepted. One accepted
before keeps the watchdog of its acceptance (R329). -/
def acceptReq (line : Nat) (r : Req) (s : State) : State × Bool :=
  let dom := r.dom
  let r := if r.limit = 0 then { r with limit := getO s nC 0x6800 3 } else r
  if domState s dom ≠ 0 then (s, true)
  else if !slotFree s line then (s, false)
  else match s.txAt dom line with
    | some t => (setTx dom line { t with queue := t.queue ++ [r] } s, true)
    | none =>
      match s.conc.tx.find? fun t => t.2.backInv == some (dirKey dom line) with
      | some (k, t) => (setTx (k / 2 ^ 46) (k % 2 ^ 46) { t with victimQueue := t.victimQueue ++ [r] } s, true)
      | none => match startTx line r [] false s with
        | (u, true) => (serveQueue dom line queueBound (countTx dom line u), true)
        | (u, false) => (u, false)

/-- A REQ reaches its slice: accepted, or waiting there with its REQ credit (R312). -/
def sendReq (line : Nat) (r : Req) (s : State) : State :=
  match acceptReq line r s with
  | (t, true) => t
  | (_, false) => onlyIf (setPinned line r s) (countSetFull r.dom line) (joinWaiting line r s)

/-- The REQs that wait are tried again in the order of their arrival, and one accepted returns its credit; then the entries of faulty
ways go. -/
def admitWaiting (s : State) : State :=
  sweepFaulty (forAll s.conc.waiting (fun w s =>
    match acceptReq w.2.1 w.2.2 s with
    | (t, true) => { t with conc := { t.conc with waiting := t.conc.waiting.erase w } }
    | (_, false) => s) s)

/-! REQs of an L2 (R310). -/

/-- The fabric runs. -/
def fabricRuns (s : State) : Bool := s.modes.mode.active

/-- The request goes out and the line is pending in its way. -/
def startFill (g line way : Nat) (r : Req) (s : State) : State :=
  setL2 g line { st := .ip, dom := r.dom, way := way }
    (sendReq line r { s with caches := { s.caches with misses := tblErase s.caches.misses (l2Key g line) } })

/-- A dirty victim is written back ahead of the request, which waits for its WbAck in a miss entry (R259). -/
def writeVictim (g line way v : Nat) (r : Req) (s : State) : State :=
  let x := s.l2 g v
  let s1 := sendMsg (.wbd g v x.dom x.copy) (dropCopies g v (setL2 g v { x with st := .wp } s))
  { s1 with caches := { s1.caches with misses := tblInsert s1.caches.misses (l2Key g line) { way := way, dom := r.dom, victim := v } } }

/-- A miss takes an entry and chooses a way and victim at once (R258, R259). -/
def missLine (g line : Nat) (core : Option Nat) (r : Req) (s : State) : State :=
  match if missFree s g then chooseWay s g r.dom line core else none with
  | none => s
  | some (w, none) => startFill g line w r s
  | some (w, some v) =>
    if (s.l2 g v).st ≠ .m then startFill g line w r (removeL2 g v s)
    else if mayWriteBack s g v then writeVictim g line w v r s
    else s

/-- An L2 asks for a line it lacks. A miss that waits keeps its way while the victim's WbAck is due, wherever OPEN has put the victim;
where the way is NORMAL no more by then, or another line has come into it, the miss chooses another (DESIGN CHOICE: R268 bars the fill and
R275 says nothing of it). -/
def l2Ask (g line : Nat) (core : Option Nat) (r : Req) (s : State) : State :=
  if !maySend s g line then s
  else match tblFind s.caches.misses (l2Key g line) with
    | none => missLine g line core r s
    | some m =>
      if (s.l2 g m.victim).st = .wp then s
      else if wayState s g m.way = 0 ∧ (slotLine s g m.way (line % 16384)).isNone then startFill g line m.way r s
      else missLine g line core r { s with caches := { s.caches with misses := tblErase s.caches.misses (l2Key g line) } }

/-- An operand that names a gallery, a domain and a line. -/
def reqOk (g dom line : Nat) : Bool := decide (g < 22) && decide (dom < 16) && decide (line < 2 ^ 46)

/-- The memory of a line is partition `dom`'s (R304: check 6 of R286). -/
def lineOwned (s : State) (dom line : Nat) : Bool := mappedRange s (64 * line) 64 && ownsMem s dom (64 * line) 64

/-- An agent has a REQ open for the line (R313): sent, and not yet answered. -/
def agentOpen (s : State) (a : CohAgent) (dom line : Nat) : Bool :=
  (match s.txAt dom line with
    | some t => t.req.agent == a || t.queue.any (·.agent == a)
    | none => false) ||
  (s.conc.tx.any fun t => t.2.backInv == some (dirKey dom line) && t.2.victimQueue.any (·.agent == a)) ||
  (s.conc.waiting.any fun w => w.2.1 == line && w.2.2.agent == a) ||
  s.conc.msgs.any fun m => match m.2 with
    | .data d l _ _ _ => d == a && l == line
    | .cmp d l _ _ _ => d == a && l == line
    | _ => false

/-- A REQ of an L2 of the domain for a line of its memory, none open before it; waiting REQs go first. The agents of a domain that is not
UP have stopped (R324). -/
def askL2 (g dom line : Nat) (f : State → State) (s : State) : State :=
  let t := admitWaiting s
  if fabricRuns t && domState t dom == 0 && ownsOnGallery t dom g && lineOwned t dom line && !agentOpen t (.l2 g) dom line then f t else s

/-- RDS (R310, R314). `core`: the core whose access the fill serves, none for a walk or the stride prefetcher (R272). -/
def execRds (gallery domain line : Nat) (core victim : Option Nat) (s : State) : Out :=
  within (reqOk gallery domain line) <| askL2 gallery domain line (fun s =>
    if (s.l2 gallery line).st = .i then
      l2Ask gallery line core { kind := .rdS, agent := .l2 gallery, dom := domain, victim := victim } s
    else s) s

/-- RDX (R310, R314). -/
def execRdx (gallery domain line : Nat) (core victim : Option Nat) (s : State) : Out :=
  within (reqOk gallery domain line) <| askL2 gallery domain line (fun s =>
    if (s.l2 gallery line).st = .i then
      l2Ask gallery line core { kind := .rdX, agent := .l2 gallery, dom := domain, victim := victim } s
    else s) s

/-- An L2 in S asks for ownership: it moves to SP. -/
def l2Upgrade (g line : Nat) (r : Req) (s : State) : State :=
  if (s.l2 g line).st = .s ∧ (s.l2 g line).dom = r.dom ∧ maySend s g line = true then
    let t := sendReq line r s
    setL2 g line { t.l2 g line with st := .sp } t
  else s

/-- UPG (R310, R314). -/
def execUpg (gallery domain line : Nat) (victim : Option Nat) (s : State) : Out :=
  within (reqOk gallery domain line) <| askL2 gallery domain line
    (l2Upgrade gallery line { kind := .upg, agent := .l2 gallery, dom := domain, victim := victim }) s

/-- CLAIMZ (R310, R314). -/
def execClaimz (gallery domain line : Nat) (core victim : Option Nat) (s : State) : Out :=
  within (reqOk gallery domain line) <| askL2 gallery domain line (fun s =>
    let r : Req := { kind := .claimZ, agent := .l2 gallery, dom := domain, victim := victim }
    if (s.l2 gallery line).st = .i then l2Ask gallery line core r s else l2Upgrade gallery line r s) s

/-- A hart or a Vitrine that exists; an L2 sends no CRd or CWr. -/
def agentOk : CohAgent → Bool
  | .hart h => decide (h < 264)
  | .vitrine v => decide (v < 66)
  | .l2 _ => false

/-- A hart in no-allocate operation or a Vitrine, of the partition whose domain it names (R304, R305). -/
def agentOf (s : State) (dom : Nat) : CohAgent → Bool
  | .hart h => partOfHart s h == some dom && noAllocate s (h / 12) dom
  | .vitrine v => partOfCluster s v == some dom
  | .l2 _ => false

/-- A CRd or CWr (R305, R313); waiting REQs go first. -/
def askAgent (line : Nat) (r : Req) (s : State) : State :=
  let t := admitWaiting s
  if fabricRuns t && domState t r.dom == 0 && agentOf t r.dom r.agent && lineOwned t r.dom line && !agentOpen t r.agent r.dom line &&
      mayAsk t (agentGallery r.agent) line then sendReq line r t
  else s

/-- CRD (R314). -/
def execCrd (agent : CohAgent) (domain line : Nat) (s : State) : Out :=
  within (agentOk agent && decide (domain < 16) && decide (line < 2 ^ 46))
    (askAgent line { kind := .crd, agent := agent, dom := domain } s)

/-- A CWr is full when its mask covers the line (R306); where a word was not written whole, merged narrow stores filled the mask, and the
drained store stays partial (R183, R305). -/
def cwrKind (mask : BitVec 64) (whole : BitVec 8) : ReqKind :=
  if mask = BitVec.allOnes 64 ∧ whole = BitVec.allOnes 8 then .cwrFull else .cwrPart

/-- CWR (R314). -/
def execCwr (agent : CohAgent) (domain line : Nat) (data : Line) (mask : BitVec 64) (whole : BitVec 8) (s : State) : Out :=
  within (agentOk agent && decide (domain < 16) && decide (line < 2 ^ 46))
    (askAgent line { kind := cwrKind mask whole, agent := agent, dom := domain, data := data, mask := mask, whole := whole } s)

/-- A CMO waits for a fill or a writeback of its line in the issuing L2 (R263). -/
def sendCmo (k : ReqKind) (g dom line : Nat) (s : State) : State :=
  askL2 g dom line (fun s =>
    if (s.l2 g line).pendingSt || !mayAsk s g line then s else sendReq line { kind := k, agent := .l2 g, dom := dom } s) s

/-- CMO_CLEAN (R314). -/
def execCmoClean (gallery domain line : Nat) (s : State) : Out :=
  within (reqOk gallery domain line) (sendCmo .cmoClean gallery domain line s)
/-- CMO_FLUSH (R314). -/
def execCmoFlush (gallery domain line : Nat) (s : State) : Out :=
  within (reqOk gallery domain line) (sendCmo .cmoFlush gallery domain line s)
/-- CMO_INVAL (R314). -/
def execCmoInval (gallery domain line : Nat) (s : State) : Out :=
  within (reqOk gallery domain line) (sendCmo .cmoInval gallery domain line s)

/-! Snoops at an L2 (R310, R311). -/

/-- An L2 takes a snoop of one kind and answers it; a fenced gallery and an LR hold keep it waiting (R311, R322). -/
def takeSnoop (k : SnpKind) (g line : Nat) (s : State) : State :=
  if lrHeld s g line then s
  else match takeMsg (fun m => match m with
      | .snp k' g' l _ => k' == k && g' == g && l == line
      | _ => false) s with
    | some (.snp _ _ _ dom, s1) =>
      let (s2, r, d) := snoopL2 k g dom line s1
      let s3 := sendMsg (.rsp r g line dom) s2
      if r = .d then sendMsg (.snpData g line dom d) s3 else s3
    | _ => s

/-- SNPS. -/
def execSnps (gallery line : Nat) (s : State) : Out := within (reqOk gallery 0 line) (takeSnoop .s gallery line s)
/-- SNPX. -/
def execSnpx (gallery line : Nat) (s : State) : Out := within (reqOk gallery 0 line) (takeSnoop .x gallery line s)
/-- SNPINV. -/
def execSnpinv (gallery line : Nat) (s : State) : Out := within (reqOk gallery 0 line) (takeSnoop .inv gallery line s)
/-- SNPCLN. -/
def execSnpcln (gallery line : Nat) (s : State) : Out := within (reqOk gallery 0 line) (takeSnoop .cln gallery line s)

/-! Answers at a slice (R314, R315, R318). -/

/-- The transaction that waits on a line's snoops: the line's own, or one that back-invalidates the line's entry. -/
def waitingTx (s : State) (dom line : Nat) : Option (Nat × Tx) :=
  s.conc.tx.find? fun t => t.2.backInv == some (dirKey dom line) || (t.1 == dirKey dom line && t.2.backInv.isNone)

/-- A transaction with no snoop and no data outstanding goes on: a back-invalidation frees its victim and the request is
served; a request ends or waits for its Ack. -/
def advanceTx (k : Nat) (s : State) : State :=
  let dom := k / 2 ^ 46
  let line := k % 2 ^ 46
  match tblFind s.conc.tx k with
  | none => s
  | some t =>
    if t.snoops ≠ 0 ∨ t.awaitData ≠ 0 ∨ t.waitAck = true then s
    else match t.backInv with
      | some v =>
        forAll t.victimQueue (sendReq (v % 2 ^ 46)) (serveQueue dom line queueBound
          (setTx dom line { t with entry := true, backInv := none, got := none, victimQueue := [] }
            (countBackInv v (setDir (v / 2 ^ 46) (v % 2 ^ 46) {} s))))
      | none =>
        match finishReq dom line t s with
        | (s1, true) => setTx dom line { t with waitAck := true } s1
        | (s1, false) => serveQueue dom line queueBound (closeTx dom line t s1)

/-- The snooped L2 leaves HOLDERS. -/
def leaveHolders (g dom line : Nat) (s : State) : State := setDir dom line ((s.dirAt dom line).minus g) s

/-- A message that the state tables do not allow takes its domain down (R323, cause 05h). -/
def badMessage (dom : Nat) (s : State) : State := domainDown dom 5 0xFF s

/-- A message of a line arrives that no agent of the model has sent: none in flight meets the command's description. No state table
allows it, and it takes the domain of the line down (R323, cause 05h; DESIGN CHOICE: the domain is the one whose memory holds the line,
R304). -/
def strayMessage (line : Nat) (s : State) : State :=
  match partOfAddr s (64 * line) with
  | some p => onlyIf (fabricRuns s) (badMessage p) s
  | none => s

/-- A message of a line arrives and is taken by `f`; one that must wait yet leaves the state as it is. -/
def arrive (line : Nat) (p : Msg → Bool) (f : Msg → State → State) (s : State) : State :=
  match takeMsg p s with
  | some (m, s1) => f m s1
  | none => if s.conc.msgs.any (fun x => p x.2) then s else strayMessage line s

/-- The request's snoop leaves the owner a copy: SnpS keeps S, SnpCln keeps E. -/
def keepsCopy (t : Tx) : Bool :=
  t.backInv.isNone && (t.req.kind == .rdS || t.req.kind == .crd || t.req.kind == .cmoClean)

/-- A slice takes the data of an RspD (R314): written to memory but for RdX and a partial CWr, which use it whole. -/
def takeSnpData (g line dom : Nat) (d : LineData) (s : State) : State :=
  match waitingTx s dom line with
  | none => s
  | some (k, t) =>
    let t1 := { t with awaitData := t.awaitData &&& ~~~(1#22 <<< g) }
    let s1 := if keepsCopy t then s else leaveHolders g dom line s
    let uses := t.backInv.isNone && (t.req.kind == .rdX || t.req.kind == .cwrPart)
    let s2 := if uses then s1 else sliceWriteback g line d s1
    advanceTx k (setTx (k / 2 ^ 46) (k % 2 ^ 46)
      { t1 with got := if t.backInv.isNone then some d else none, keepShared := t1.keepShared || keepsCopy t } s2)

/-- A slice takes an answer (R314, R318); one to no snoop is not allowed, nor one other than RspD where SnpData has come. A gallery that
a WbD took out of HOLDERS is no stale holder. -/
def takeRsp (r : RspKind) (g line dom : Nat) (s : State) : State :=
  match (waitingTx s dom line).filter fun x => x.2.snoops.getLsbD g && (r == .d || (tblFind x.2.early g).isNone) with
  | none => badMessage dom s
  | some (k, t) =>
    let t1 := { t with snoops := t.snoops &&& ~~~(1#22 <<< g), early := tblErase t.early g }
    let put := fun (t : Tx) (s : State) => setTx (k / 2 ^ 46) (k % 2 ^ 46) t s
    let named := (s.dirAt dom line).holders.getLsbD g
    let await := put { t1 with awaitData := t1.awaitData ||| (1#22 <<< g) } s
    match r with
    | .miss => advanceTx k (put t1 (onlyIf named (staleHolder g dom line) s))
    | .i => advanceTx k (put t1 (leaveHolders g dom line s))
    | .s => advanceTx k (put { t1 with keepShared := true } s)
    | .e => advanceTx k (put t1 s)
    | .d => match tblFind t.early g with
      | some d => takeSnpData g line dom d await
      | none => await
    | .wb => if named then await else advanceTx k (put t1 s)

/-- SNOOP_RESPONSE. -/
def execSnoopResponse (gallery line : Nat) (s : State) : Out :=
  within (reqOk gallery 0 line) <|
    arrive line (fun m => match m with
        | .rsp _ g l _ => g == gallery && l == line
        | _ => false) (fun m s1 => match m with
      | .rsp r g l dom => admitWaiting (takeRsp r g l dom s1)
      | _ => s1) s

/-- SnpData at a slice: the data of an RspD that has come, or held for one that is still to come, since DAT waits on nothing (R307); where
neither is due it is not allowed. -/
def meetSnpData (g line dom : Nat) (d : LineData) (s : State) : State :=
  match waitingTx s dom line with
  | none => badMessage dom s
  | some (k, t) =>
    if t.awaitData.getLsbD g then takeSnpData g line dom d s
    else if t.snoops.getLsbD g ∧ (tblFind t.early g).isNone then
      setTx (k / 2 ^ 46) (k % 2 ^ 46) { t with early := tblInsert t.early g d } s
    else badMessage dom s

/-- SNPDATA. -/
def execSnpdata (gallery line : Nat) (s : State) : Out :=
  within (reqOk gallery 0 line) <|
    arrive line (fun m => match m with
        | .snpData g l _ _ => g == gallery && l == line
        | _ => false) (fun m s1 => match m with
      | .snpData g l dom d => admitWaiting (meetSnpData g l dom d s1)
      | _ => s1) s

/-- A slice takes a writeback (R315): written and acknowledged; it is also the data that an open transaction awaits. -/
def takeWbd (g line dom : Nat) (d : LineData) (s : State) : State :=
  let named := (s.dirAt dom line).holders.getLsbD g
  let s1 := sendMsg (.wbAck g line dom) (acceptWbd g dom line d s)
  match waitingTx s1 dom line with
  | none => s1
  | some (k, t) =>
    if named ∧ t.awaitData.getLsbD g then
      advanceTx k (setTx (k / 2 ^ 46) (k % 2 ^ 46)
        { t with awaitData := t.awaitData &&& ~~~(1#22 <<< g)
                 got := if t.backInv.isNone && t.req.kind != .cwrPart then some d else none } s1)
    else s1

/-- WBD. -/
def execWbd (gallery line : Nat) (s : State) : Out :=
  within (reqOk gallery 0 line) <|
    arrive line (fun m => match m with
        | .wbd g l _ _ => g == gallery && l == line
        | _ => false) (fun m s1 => match m with
      | .wbd g l dom d => admitWaiting (takeWbd g l dom d s1)
      | _ => s1) s

/-! Grants at a requester (R310). -/

/-- The L2 state that a grant gives. -/
def Grant.st : Grant → L2St
  | .none => .i | .s => .s | .e => .e | .m => .m

/-- A line in state M leaves the L2 by WbD and waits for its WbAck; a clean one goes silently (R310). -/
def evictLater (g line : Nat) (s : State) : State :=
  let x := s.l2 g line
  if x.st = .m then sendMsg (.wbd g line x.dom x.copy) (dropCopies g line (setL2 g line { x with st := .wp } s))
  else removeL2 g line s

/-- The way of a pending line was emptied or locked meanwhile: it takes no fill (R268). The granted line is evicted at once (DESIGN
CHOICE: R268 does not say what becomes of the grant). -/
def wayClosed (s : State) (g : Nat) (x : L2Line) : Bool := x.way == noWay || (wayState s g x.way == 2 && x.st == .ip)

/-- A grant for an L2: a pending line takes the granted state, and Ack is sent; a grant for no pending line is not allowed. -/
def takeGrant (g line dom : Nat) (gr : Grant) (d : Option LineData) (s : State) : State :=
  let x := s.l2 g line
  if x.st = .ip ∨ x.st = .sp then
    sendMsg (.ack g line dom) (onlyIf (wayClosed s g x) (evictLater g line)
      (touchWay g x.way line (setL2 g line { x with st := gr.st, copy := d.getD x.copy } s)))
  else badMessage dom s

/-- Data or Cmp at its requester (R306, R310): an L2 gets Data with a grant, and Cmp with M or for its CMO; a hart or a Vitrine gets no
grant. -/
def takeReply : Msg → State → State
  | .data (.l2 g) l dom d gr, s => if gr = .none then badMessage dom s else takeGrant g l dom gr (some d) s
  | .data _ _ dom _ gr, s => onlyIf (gr != .none) (badMessage dom) s
  | .cmp (.l2 g) l dom gr zero, s => if gr = .none then s else takeGrant g l dom gr (if zero then some {} else none) s
  | .cmp _ _ dom gr _, s => onlyIf (gr != .none) (badMessage dom) s
  | _, s => s

/-- An agent to which Data and Cmp go. -/
def replyOk (line : Nat) : CohAgent → Bool
  | .l2 g => reqOk g 0 line
  | a => agentOk a && decide (line < 2 ^ 46)

/-- DATA. -/
def execData (agent : CohAgent) (line : Nat) (s : State) : Out :=
  within (replyOk line agent) <|
    arrive line (fun m => match m with
        | .data a l _ _ _ => a == agent && l == line
        | _ => false) (fun m s1 => admitWaiting (takeReply m s1)) s

/-- CMP. -/
def execCmp (agent : CohAgent) (line : Nat) (s : State) : Out :=
  within (replyOk line agent) <|
    arrive line (fun m => match m with
        | .cmp a l _ _ _ => a == agent && l == line
        | _ => false) (fun m s1 => admitWaiting (takeReply m s1)) s

/-- WbAck at an L2: a line in WP becomes I. -/
def takeWback (g line dom : Nat) (s : State) : State :=
  if (s.l2 g line).st = .wp then removeL2 g line s else badMessage dom s

/-- WBACK. -/
def execWback (gallery line : Nat) (s : State) : Out :=
  within (reqOk gallery 0 line) <|
    arrive line (fun m => match m with
        | .wbAck g l _ => g == gallery && l == line
        | _ => false) (fun m s1 => admitWaiting (takeWback gallery line m.dom s1)) s

/-- Ack at a slice: the granting transaction ends; an Ack with no grant open takes its domain down (R323). -/
def takeAck (g line dom : Nat) (s : State) : State :=
  match s.txAt dom line with
  | some t =>
    if t.waitAck ∧ t.req.agent = .l2 g then serveQueue dom line queueBound (closeTx dom line t s) else badMessage dom s
  | none => badMessage dom s

/-- ACK. -/
def execAck (gallery line : Nat) (s : State) : Out :=
  within (reqOk gallery 0 line) <|
    arrive line (fun m => match m with
        | .ack g l _ => g == gallery && l == line
        | _ => false) (fun m s1 => admitWaiting (takeAck gallery line m.dom s1)) s

/-- TRANSACTION_WATCHDOG (R322): a transaction of the line active longer than 6800h.03h takes its domain down. -/
def execTransactionWatchdog (line : Nat) (s : State) : Out :=
  within (decide (line < 2 ^ 46)) <|
    match s.conc.tx.find? fun t => t.1 % 2 ^ 46 == line && decide (t.2.start + t.2.req.limit * 1000 < now s) with
    | some t => domainDown (t.1 / 2 ^ 46) 4 0xFF s
    | none => s

/-- LR_SNOOP_HOLD_END (R311). -/
def execLrSnoopHoldEnd (gallery line : Nat) (s : State) : Out :=
  within (reqOk gallery 0 line)
    (admitWaiting { s with caches := { s.caches with lrHold := tblErase s.caches.lrHold (l2Key gallery line) } })

/-! The clear phase (R324, R325). -/

/-- Keys of transactions of other domains that back-invalidate an entry of a domain. -/
def victimTxs (p : Nat) (s : State) : List Nat :=
  (s.conc.tx.filter fun t => t.1 / 2 ^ 46 != p && t.2.backInv.any fun k => k / 2 ^ 46 == p).map (·.1)

/-- A set entry of the domain that another domain's transaction pins unpins: it goes without an answer of its holders, whose lines the
clear phase writes back and removes, and the transaction goes on. -/
def endVictims (p : Nat) (s : State) : State :=
  forAll (victimTxs p s) (fun k s => match tblFind s.conc.tx k with
    | some t => advanceTx k (setTx (k / 2 ^ 46) (k % 2 ^ 46) { t with snoops := 0, awaitData := 0, early := [], victimQueue := [] } s)
    | none => s) s

/-- The clear phase, whole. -/
def clearPhase (p : Nat) (s : State) : State := clearDomain p (endVictims p s)

/-- The clear phase waits: a gallery of the domain is fenced for retirement and its purge, step 2 of R59, still waits behind
another promotion (R61, R324). -/
def purgeWaits (s : State) (p : Nat) : Bool := s.panel.promoQueue.any fun x => ownsOnGallery s p x.gallery

/-- It cannot end yet: the purge waits, or a transaction of the domain back-invalidates an entry of a domain that is UP, and that
transaction ends with the answers to its snoops (R325). -/
def clearWaits (s : State) (p : Nat) : Bool :=
  purgeWaits s p || s.conc.tx.any fun t => t.1 / 2 ^ 46 == p &&
    (match t.2.backInv with
      | some v => v / 2 ^ 46 != p && domState s (v / 2 ^ 46) == 0
      | none => false)

end Sys2Proof.Machine
end

