-- ==== Sys2Proof/Machine/Strongroom.lean ====
section
/-! DEFINITION. The Strongroom (R431-R441): images on the boot flash, their verification and installation, attestation,
zeroisation. Boot-flash targets are numbered 0 and 1 for the Curator banks and 10h + s for partition slot s. -/

namespace Sys2Proof.Machine

/-! The boot flash (R435, R437). -/

/-- Offset and room of a target (R491). -/
def flashBase (t : Nat) : Nat := if t < 2 then t * 0x900000 else 0x1200000 + t % 16 * 0x1200000
def flashRoom (t : Nat) : Nat := if t < 2 then 0x900000 else 0x1200000
/-- A byte of a target; an erased byte reads FFh. -/
def flashByte (s : State) (t i : Nat) : Byte := tblGet 0xFF s.strong.flash (flashBase t + i)
def flashBytes (s : State) (t i n : Nat) : List Byte := (List.range n).map fun k => flashByte s t (i + k)
/-- A little-endian field of a target. -/
def flashLe (s : State) (t i n : Nat) : Nat := fromLe (flashBytes s t i n)
/-- A target erased. -/
def eraseFlash (t : Nat) (s : State) : State :=
  let inPlace := fun k => decide (flashBase t ≤ k) && decide (k < flashBase t + flashRoom t)
  { s with strong := { s.strong with flash := tblDrop inPlace s.strong.flash } }
/-- Bytes programmed at an offset of a target. -/
def programFlash (t off : Nat) (bytes : List Byte) (s : State) : State :=
  let put := fun (l : List (Nat × Byte)) (p : Nat × Byte) => tblSet 0xFF l (flashBase t + off + p.1) p.2
  { s with strong := { s.strong with flash := ((List.range bytes.length).zip bytes).foldl put s.strong.flash } }

/-- The target is a Curator bank. -/
def isBank (t : Nat) : Bool := decide (t < 2)
/-- Index of the target's objects: 7210h + slot, 7220h + bank. -/
def slotIx (t : Nat) : Nat := if isBank t then 0x7220 + t else 0x7210 + t % 16
def slotState (s : State) (t : Nat) : Nat := getO s nS (slotIx t) 1
def setSlotState (t v : Nat) (s : State) : State := setO nS (slotIx t) 1 v s

/-- Where the payload begins: after the header, and for a Curator image after the 97 bytes of the vendor key. -/
def payloadAt (t : Nat) : Nat := if isBank t then 353 else 256
def imageLength (s : State) (t : Nat) : Nat := flashLe s t 16 8
def entryOffset (s : State) (t : Nat) : Nat := flashLe s t 24 8
/-- SHA-384 of bytes. -/
def digest (b : List Byte) : Nat := Config.sha384 (b.map BitVec.toNat)

/-- The magic is there: the target holds an image. -/
def holdsImage (s : State) (t : Nat) : Bool := flashLe s t 0 4 == 0x4934324E

/-- Magic, format, type, key, reserved bytes, length and entry offset of the header. -/
def headerOk (s : State) (t : Nat) : Bool :=
  holdsImage s t && flashLe s t 4 1 == 1 && flashLe s t 5 1 == (if isBank t then 1 else 2) &&
  (if isBank t then flashLe s t 6 1 == 0 else decide (flashLe s t 6 1 < 4)) &&
  flashLe s t 7 1 == 0 && flashLe s t 12 4 == 0 && flashLe s t 96 64 == 0 &&
  decide (imageLength s t ≤ (if isBank t then 2 ^ 23 else 2 ^ 24)) &&
  decide (entryOffset s t < imageLength s t) && entryOffset s t % 4 == 0

/-- The signature over bytes [159:0], under the vendor key that the image carries or under an enabled owner key. -/
def signatureOk (s : State) (t : Nat) : Bool :=
  let signed := (flashBytes s t 0 160).map BitVec.toNat
  let sig := flashLe s t 160 96
  if isBank t then
    digest (flashBytes s t 256 97) == Config.vendorRootDigest && Config.sigVerify (flashLe s t 256 97) signed sig
  else
    let k := flashLe s t 6 1
    getO s nS (0x7230 + k) 1 == 1 && Config.sigVerify (getO s nS (0x7230 + k) 2) signed sig

/-- The payload's digest is the header's. -/
def payloadOk (s : State) (t : Nat) : Bool :=
  digest (flashBytes s t (payloadAt t) (imageLength s t)) == flashLe s t 32 48

/-- The security version is at least the minimum for its place. -/
def versionOk (s : State) (t : Nat) : Bool :=
  decide ((if isBank t then getO s nS 0x7100 5 else getO s nS (slotIx t) 3) ≤ flashLe s t 8 4)

/-- Verification (R435): 0, or 1 format, 2 signature, 3 digest, 4 security version. -/
def verdict (s : State) (t : Nat) : Nat :=
  if !headerOk s t then 1 else if !signatureOk s t then 2 else if !payloadOk s t then 3
  else if !versionOk s t then 4 else 0

/-- The Curator image of a bank verifies (R433, R435); `good`: its signature and digest do. A bank left in state 03h is never booted
(R441). -/
def canBoot (s : State) (b : Nat) (good : Bool) : Bool := slotState s b != 3 && headerOk s b && versionOk s b && good

/-- The bank that starts: the one that 7100h.07h names, else the other one (R433). -/
def bootBank (s : State) (good0 good1 : Bool) : Option Nat :=
  let good := fun b => if b = 0 then good0 else good1
  let a := getO s nS 0x7100 7 % 2
  if canBoot s a (good a) then some a else if canBoot s (1 - a) (good (1 - a)) then some (1 - a) else none

/-- What the objects of a target show from its header (R440). -/
def showHeader (t : Nat) (s : State) : State :=
  runAll [setO nS (slotIx t) 2 (flashLe s t 8 4), setO nS (slotIx t) 4 (flashLe s t 32 48),
    setO nS (slotIx t) 5 (imageLength s t), setO nS (slotIx t) 6 (flashLe s t 80 16)] s

/-- A target verified: state 01h or 02h. -/
def verifyTarget (t : Nat) (s : State) : State := setSlotState t (if verdict s t = 0 then 1 else 2) (showHeader t s)

/-- The image slots that defined partitions name. -/
def namedSlots (s : State) : List Nat :=
  ((List.range 16).filter (defined s)).filterMap fun p =>
    if getO s nS (0x7000 + p) 4 < 8 then some (16 + getO s nS (0x7000 + p) 4) else none

/-- 7100h.03h: every named slot has been verified (R434). -/
def showVerified (s : State) : State :=
  setO nS 0x7100 3 (if (namedSlots s).any fun t => slotState s t == 4 then 0 else 1) s

/-- IMAGE_VERIFICATION (R434): every named slot that is not yet verified, then 7100h.03h. -/
def execImageVerification (s : State) : Out :=
  .next <|
    if s.modes.mode = .service ∧ getO s nS 0x7100 3 = 0 then
      setO nS 0x7100 3 1 (forAll (namedSlots s) (fun t s => onlyIf (slotState s t == 4) (verifyTarget t) s) s)
    else s

/-! Installing (R437). -/

/-- 7200h.01h. -/
def ruleInstallTarget (who : Requester) (v : Nat) : Rule := fun s =>
  let t := if v = 0 then 1 - getO s nS 0x7100 7 % 2 else v
  if s.modes.mode ≠ .service then refused 0 s
  else if (match s.strong.inst with
      | some i => i.who != who
      | none => false) = true then refusedBusy s
  else
    let s1 := setSlotState t 3 (eraseFlash t s)
    actionDone (setO nS 0x7200 3 0 { s1 with strong := { s1.strong with
      written := addTo s1.strong.written t, inst := some { who := who, target := t, offset := 0 } } })

/-- INSTALL_TARGET. -/
def execInstallTarget (who : Requester) (value : Nat) (s : State) : Out :=
  .next (served who nS 0x7200 1 value (ruleInstallTarget who value) s)

/-- 7200h.02h: 1,024 bytes at the next offset. -/
def ruleInstallData (who : Requester) (v : Nat) : Rule := fun s =>
  match s.strong.inst with
  | none => refused 0 s
  | some i =>
    if i.who ≠ who ∨ s.modes.mode ≠ .service ∨ flashRoom i.target < i.offset + 1024 then refused 0 s
    else
      let s1 := programFlash i.target i.offset (leBytes 1024 v) s
      actionDone (setO nS 0x7200 3 (i.offset + 1024)
        { s1 with strong := { s1.strong with inst := some { i with offset := i.offset + 1024 } } })

/-- INSTALL_DATA. -/
def execInstallData (who : Requester) (value : Nat) (s : State) : Out :=
  .next (served who nS 0x7200 2 value (ruleInstallData who value) s)

/-- 7200h.04h: the target is verified; a Curator bank becomes the active one for the next power-up. -/
def ruleInstall (who : Requester) : Rule := fun s =>
  match s.strong.inst with
  | none => refused 0 s
  | some i =>
    if i.who ≠ who ∨ s.modes.mode ≠ .service then refused 0 s
    else
      let code := verdict s i.target
      let s1 := verifyTarget i.target { s with strong := { s.strong with inst := none } }
      if code ≠ 0 then (s1, .action 2 code)
      else actionDone (onlyIf (isBank i.target) (setO nS 0x7100 7 i.target) s1)

/-- INSTALL. -/
def execInstall (who : Requester) (value : Nat) (s : State) : Out :=
  .next (served who nS 0x7200 4 value (ruleInstall who) s)

/-- The install of a requester, or any install, is abandoned; its target stays in state 03h (R437, R441). -/
def abandonInstall (who : Option Requester) (s : State) : State :=
  match s.strong.inst with
  | none => s
  | some i =>
    if who = none ∨ who = some i.who then { s with strong := { s.strong with inst := none } } else s

/-! Sessions (R404, R411, R437). -/

/-- A session closes: its objects, results and install go. -/
def closeSession (n : Nat) (s : State) : State :=
  let s1 := abandonInstall (some (.session n)) (dropRequester (.session n) s)
  { s1 with cat := { s1.cat with sessions := tblErase s1.cat.sessions n } }
/-- Every session closes. -/
def closeSessions (s : State) : State := forAll (List.range 8) closeSession s

/-! Keys and anchors (R436, R440). -/

/-- The objects of a security record (R432): owner keys 0 to 3, then trust anchors 0 to 7. -/
def securityIndex (n : Nat) : Nat := if n < 4 then 0x7230 + n else 0x7300 + (n - 4)

/-- A security record is written to the system area with its tag. -/
def tagRecord (n : Nat) (s : State) : State :=
  let bytes := [1, 2, 3, 4].map fun sub => getO s nS (securityIndex n) sub
  { s with strong := { s.strong with tags := tblInsert s.strong.tags n (Config.archiveTag (n :: bytes)) } }

/-- 7230h: owner keys, in SERVICE only. -/
def ruleOwnerKey (k sub v : Nat) : Rule := fun s =>
  if s.modes.mode ≠ .service then refused 0 s else answered (tagRecord k (setO nS (0x7230 + k) sub v s))

/-- Anchor `a` is enabled with role 05h. -/
def officerAnchor (s : State) (a : Nat) : Bool := getO s nS (0x7300 + a) 1 == 1 && getO s nS (0x7300 + a) 2 == 5

/-- 7300h: trust anchors, in SERVICE only. Anchor 0 is disabled when another one with role 05h is enabled; some enabled
anchor with role 05h stays (R436). -/
def ruleAnchor (a sub v : Nat) : Rule := fun s =>
  if s.modes.mode ≠ .service then refused 0 s
  else
    let s1 := setO nS (0x7300 + a) sub v s
    let s2 := onlyIf ((sub == 1 || sub == 2) && a != 0 && officerAnchor s1 a) (setO nS 0x7300 1 0) s1
    if (sub = 1 ∨ sub = 2) ∧ !((List.range 8).any (officerAnchor s2)) then refused 1 s
    else answered (tagRecord (4 + a) (onlyIf (getO s2 nS 0x7300 1 != getO s nS 0x7300 1) (tagRecord 4) s2))

/-- 7210h.03h: the minimum version of a slot may only be raised. -/
def ruleMinVersion (slot v : Nat) : Rule := fun s =>
  if v < getO s nS (0x7210 + slot) 3 then refused 0 s else answered (setO nS (0x7210 + slot) 3 v s)

/-- 7100h.06h: the minimum rises to the version of the running Curator; SERVICE only. -/
def ruleRaiseMinimum : Rule := fun s =>
  if s.modes.mode ≠ .service then refused 0 s else actionDone (maxO nS 0x7100 5 (getO s nS 0x7100 4) s)

/-- RAISE_MINIMUM. -/
def execRaiseMinimum (who : Requester) (value : Nat) (s : State) : Out :=
  .next (served who nS 0x7100 6 value ruleRaiseMinimum s)

/-! Zeroisation (R439). -/

/-- Owner keys and every trust anchor but 0 erased, anchor 0 enabled again with its commissioning key, roles set back. -/
def eraseKeys (s : State) : State :=
  let s1 := { s with obj := tblDrop (fun k => k / 2 ^ 24 == nS && (let ix := k / 2 ^ 8 % 2 ^ 16;
      (decide (0x7230 ≤ ix) && decide (ix ≤ 0x7233)) || (decide (0x7300 ≤ ix) && decide (ix ≤ 0x7307)))) s.obj }
  forAll (List.range 16) (fun p s => setO nS (0x7000 + p) 3 2 s)
    (setO nV 0x1200 7 1 { s1 with strong := { s1.strong with tags := [] } })

/-- 7100h.09h. -/
def ruleZeroise : Rule := fun s =>
  if s.modes.mode ≠ .service then refused 0 s
  else
    let s1 := eraseKeys s
    actionDone { s1 with strong := { s1.strong with zeroised := true } }

/-- ZEROISE: the session keys go too, after the answer. -/
def execZeroise (who : Requester) (value : Nat) (s : State) : Out :=
  let t := served who nS 0x7100 9 value ruleZeroise s
  .next (if accepted who s t then closeSessions t else t)

/-- 7100h.0Ah: only after a zeroisation in the same power cycle; the device's keys are destroyed for good. -/
def ruleDecommission : Rule := fun s =>
  if s.modes.mode ≠ .service ∨ s.strong.zeroised = false then refused 0 s
  else
    let s1 := setO nS 0x7300 3 0 s
    actionDone { s1 with strong := { s1.strong with decommissioned := true } }

/-- DECOMMISSION. -/
def execDecommission (who : Requester) (value : Nat) (s : State) : Out :=
  let t := served who nS 0x7100 0x0A value ruleDecommission s
  .next (if accepted who s t then closeSessions t else t)

/-- 7100h.01h (R440). -/
def strongState (s : State) : Nat :=
  if s.strong.decommissioned then 3 else if s.strong.zeroised then 2
  else if s.modes.mode = .service ∧ getO s nS 0x7100 3 = 0 then 1 else 0

/-! Attestation (R438). -/

/-- Values of a run of objects of P.S in index and subindex order, as bytes. -/
def objBytes (s : State) (ixs subs : List Nat) : List Byte :=
  ixs.flatMap fun ix => subs.flatMap fun sub => leBytes (objSize nS ix sub) (getO s nS ix sub)
/-- Indexes `a` to `a + n - 1`. -/
def upFrom (a n : Nat) : List Nat := (List.range n).map (a + ·)

/-- The image table: subindexes 01h-05h of the eight slots. -/
def imageTable (s : State) : List Byte := objBytes s (upFrom 0x7210 8) (upFrom 1 5)
/-- Every value of 7000h-703Fh. -/
def partitionTable (s : State) : List Byte :=
  objBytes s (upFrom 0x7000 16) (upFrom 1 7) ++ objBytes s (upFrom 0x7010 16) (upFrom 1 8) ++
  objBytes s (upFrom 0x7020 16) (upFrom 1 22) ++ objBytes s (upFrom 0x7030 16) (upFrom 1 3)
/-- Every value of 7230h-7233h, 7300h-7307h and 1200h.07h. Anchor 0's key is the commissioning key until it is written. -/
def anchorKey (s : State) (a : Nat) : Nat :=
  if a = 0 ∧ getO s nS 0x7300 3 = 0 ∧ s.strong.decommissioned = false then Config.commissioningKey
  else getO s nS (0x7300 + a) 3
def policyTable (s : State) : List Byte :=
  objBytes s (upFrom 0x7230 4) (upFrom 1 2) ++
  ((List.range 8).flatMap fun a => objBytes s [0x7300 + a] [1, 2] ++ leBytes 97 (anchorKey s a) ++
    objBytes s [0x7300 + a] [4]) ++ leBytes 1 (getO s nV 0x1200 7)

/-- Bytes [415:0] of a report. -/
def reportBody (s : State) (nonce : Nat) : List Byte :=
  let running := (List.range 16).any fun p => getO s nS 0x7040 (p + 1) == 3
  leBytes 4 0x4134324E ++ leBytes 1 1 ++ leBytes 1 s.modes.mode.code ++
  leBytes 1 (getO s nS 0x7100 3 + (if running then 2 else 0) + (if getO s nS 0x7300 1 = 1 then 4 else 0)) ++ leBytes 1 0 ++
  leBytes 8 (now s) ++ leBytes 48 nonce ++ leBytes 4 Config.serialNumber ++ leBytes 4 (getO s nV 0x1018 3) ++
  leBytes 4 (getO s nS 0x7100 4) ++ leBytes 4 (getO s nS 0x7100 5) ++
  leBytes 48 s.strong.curator ++
  leBytes 48 (digest (imageTable s)) ++ leBytes 48 (digest (partitionTable s)) ++ leBytes 48 (digest (policyTable s)) ++
  leBytes 4 (getO s nP 0x2040 2) ++ leBytes 4 (getO s nP 0x2103 1) ++ leBytes 4 (getO s nP 0x2030 3) ++
  leBytes 4 (getO s nP 0x2102 4) ++ leBytes 128 0

/-- 7410h.01h: one report for the requester, who holds at most four. -/
def ruleAttest (who : Requester) (nonce : Nat) : Rule := fun s =>
  if s.modes.mode = .keep ∨ s.strong.decommissioned = true then refused 0 s
  else
    let body := reportBody s nonce
    let r := body ++ leBytes 96 (Config.attestSign (body.map BitVec.toNat))
    let l := (s.req who).reports ++ [r]
    actionDone (setReq who { s.req who with reports := if 4 < l.length then l.drop 1 else l } s)

/-- ATTESTATION. -/
def execAttestation (who : Requester) (nonce : Nat) (s : State) : Out :=
  .next (served who nS 0x7410 1 nonce (ruleAttest who nonce) s)

end Sys2Proof.Machine
end

