-- ==== Sys2Proof/Machine/Ways.lean ====
section
/-! DEFINITION. Partitioned ways, locking and way disabling (R258-R281). -/

namespace Sys2Proof.Machine

/-! Ways in force (R265, R266, R276). -/

/-- The disabled ways of the site that holds gallery `g`; they belong to the site (R278). -/
def disabledWays (s : State) (g : Nat) : Nat := (tblGet 0 s.panel.wayDisabled (siteOf s g)).toNat
/-- Way `w` of gallery `g` is not disabled. -/
def wayEnabled (s : State) (g w : Nat) : Bool := !(disabledWays s g).testBit w
/-- The way set that the configuration gives partition `p` on gallery `g`; an undefined partition has none. -/
def waySet (s : State) (p g : Nat) : Nat := if defined s p then getO s nS (0x7020 + p) (g + 1) else 0
/-- Way `w` is in some defined partition's way set on gallery `g`. -/
def inSomeSet (s : State) (g w : Nat) : Bool := (List.range 16).any fun q => (waySet s q g).testBit w
/-- Way `w` is in force for a partition other than `p`. -/
def inForceOther (s : State) (g p w : Nat) : Bool :=
  (List.range 16).any fun q => q != p && (waysInForce s g q).testBit w
/-- Enabled ways that belong to no partition, native method (R265). -/
def spareWays (s : State) (g : Nat) : List Nat :=
  (List.range 16).filter fun w => wayEnabled s g w && !inSomeSet s g w &&
    !((List.range 16).any fun q => (waysInForce s g q).testBit w)
/-- Enabled ways in no mask of a partition with a cluster on the gallery, legacy method (6100h.04h). -/
def unmaskedWays (s : State) (g : Nat) : List Nat :=
  (List.range 16).filter fun w => wayEnabled s g w &&
    !((List.range 16).any fun q => ownsOnGallery s q g && (getO s (nGal g) 0x6102 (q + 1)).testBit w)
/-- A set of ways as bits. -/
def wayBits (l : List Nat) : Nat := l.foldl setBit 0

/-- The ways of partition `p` on gallery `g`: under the native method its set, each disabled way replaced by the
lowest-numbered spare (R265, R276); under the legacy method its mask less the disabled ways (R266). -/
def forceWays (g p : Nat) (s : State) : State :=
  let put := fun v => setO (nGal g) 0x6101 (p + 1) v
  if legacyGallery s g then
    put (wayBits ((bitsOf 16 (getO s (nGal g) 0x6102 (p + 1))).filter (wayEnabled s g))) s
  else
    let set := bitsOf 16 (waySet s p g)
    let own := set.filter fun w => wayEnabled s g w && !inForceOther s g p w
    let s0 := put 0 s
    put (wayBits (own ++ (spareWays s0 g).take (set.length - own.length))) s

/-- The ways of every partition on gallery `g` from the configuration (R59 step 9). -/
def forceGallery (g : Nat) (s : State) : State :=
  forAll (List.range 16) (forceWays g) (forAll (List.range 16) (fun p => setO (nGal g) 0x6101 (p + 1) 0) s)

/-- 6100h.03h of the site that holds the gallery, and DISABLED in 6110h (R268, R280). -/
def showDisabled (g : Nat) (s : State) : State :=
  forAll (List.range 16) (fun w s =>
    if !wayEnabled s g w then setO (nGal g) 0x6110 (w + 1) 3 s
    else if wayState s g w = 3 then setO (nGal g) 0x6110 (w + 1) 0 s else s)
    (setO (nGal g) 0x6100 3 (disabledWays s g) s)

/-- The lines held in a way. -/
def linesOfWay (s : State) (g w : Nat) : List Nat :=
  (s.caches.l2.filter fun e => e.1 / 2 ^ 46 == g && e.2.way == w).map (·.1 % 2 ^ 46)

/-- A line leaves its way: evicted, or, where a fill, an upgrade or a writeback of it is pending, without a slot from now on, to be evicted
as its transaction ends (DESIGN CHOICE: R270 and R275 do not say how they meet a pending line, which R310 lets no eviction take). -/
def leaveWay (g line : Nat) (s : State) : State :=
  if (s.l2 g line).pendingSt then setL2 g line { s.l2 g line with way := noWay } s else evictL2 g line s

/-- Every slot of a way emptied, dirty lines written back (R270, R275). -/
def emptyWay (g w : Nat) (s : State) : State := forAll (linesOfWay s g w) (leaveWay g) s

/-- Steps 2 to 5 of the disabling of a way (R275, R276): emptied, marked and committed, replaced by a spare, reported. -/
def closeWay (g w : Nat) (s : State) : State :=
  if !wayEnabled s g w then s
  else
    let site := siteOf s g
    let old := wayState s g w
    let owner := (List.range 16).find? fun p => (waysInForce s g p).testBit w
    let s1 := emptyWay g w s
    let mask := tblGet 0 s1.panel.wayDisabled site ||| (1#16 <<< w)
    let s2 := showDisabled g { s1 with panel := { s1.panel with wayDisabled := tblSet 0 s1.panel.wayDisabled site mask } }
    let s3 :=
      if legacyGallery s2 g then
        onlyIf ((List.range 16).any fun p => defined s2 p && ownsOnGallery s2 p g &&
            (getO s2 (nGal g) 0x6102 (p + 1)).testBit w) enterLimp (forAll (List.range 16) (forceWays g) s2)
      else match owner with
        | none => s2
        | some p =>
          let keep := clrBit (waysInForce s2 g p) w
          match spareWays s2 g with
          | [] => enterLimp (setO (nGal g) 0x6101 (p + 1) keep s2)
          | x :: _ => setO (nGal g) 0x6110 (x + 1) (if old = 2 then 2 else 0)
              (setO (nGal g) 0x6101 (p + 1) (setBit keep x) s2)
    record { cls := 5, action := 9, kind := 2, unit := g, sub := w, site := site, logical := g } s3

/-- Disabling a way (R275). While the gallery is fenced no writeback leaves it (R42): the way takes no fill from now on, and the rest
follows as the fence ends. -/
def disableWay (g w : Nat) (s : State) : State :=
  if fenced s g then
    (if wayEnabled s g w && !s.caches.closing.contains (g, w) then
      { s with caches := { s.caches with closing := s.caches.closing ++ [(g, w)] } } else s)
  else closeWay g w s

/-- The disablings that waited for the end of a gallery's fence go on. -/
def endClosing (g : Nat) (s : State) : State :=
  forAll (s.caches.closing.filter (·.1 == g)) (fun e s => closeWay g e.2 s)
    { s with caches := { s.caches with closing := s.caches.closing.filter (·.1 != g) } }

/-! Locking (R269-R272). -/

/-- Some gallery's retirement or promotion is in progress (2102h.03h). -/
def promoting (s : State) : Bool := getO s nP 0x2102 3 == 1

/-- The refusals of R271, lowest code first; 0 none. -/
def lockRefusal (who : Requester) (g v : Nat) (s : State) : Nat :=
  let op := v % 16
  let w := v / 16 % 16
  let p := v / 256 % 16
  let core := v / 4096 % 16
  let st := wayState s g w
  let otherMailbox := match who with
    | .mailbox k => k != p
    | _ => false
  if !(defined s p && ownsOnGallery s p g) || otherMailbox then 1
  else if !((waysInForce s g p).testBit w) || st == 3 then 2
  else if (op == 1 && st == 1) || (op == 2 && st != 1) || (op == 3 && st != 2) || (op == 4 && st != 1) then 3
  else if op == 1 && (List.range 16).any (fun x => x != w && wayState s g x == 1) then 4
  else if op == 1 && ((normalWays s g p).filter (· != w)).isEmpty then 5
  else if legacyGallery s g then 6
  else if op == 1 && (decide (12 ≤ core) || !ownsCluster s p (3 * g + core / 4)) then 7
  else if decide (65536 ≤ v) || op == 0 || decide (4 < op) then 8
  else if promoting s || s.caches.closing.any (·.1 == g) then 9
  else 0

/-- OPEN may go on: the gallery is not fenced, so that writebacks leave it, and no line that an emptying found pending is pending still
(R42, R270). -/
def openReady (s : State) (g : Nat) : Bool :=
  !fenced s g && !s.caches.l2.any fun e => e.1 / 2 ^ 46 == g && e.2.way == noWay

/-- OPEN (R270): the way is emptied, and PRELOAD with its core once every line has gone; the answer waits till then. -/
def openWay (g w core : Nat) (s : State) : State × Ans :=
  let t := onlyIf (!fenced s g) (emptyWay g w) s
  if openReady t g then
    actionDone (setO (nGal g) 0x6120 2 0 (setO (nGal g) 0x6110 (w + 1) 1
      { t with caches := { t.caches with preloadCore := tblSet 0 t.caches.preloadCore g core } }))
  else answerWaits t

/-- 6120h.01h: the operation of R270, or its refusal with the code in 6120h.02h (R271). -/
def ruleLock (who : Requester) (g v : Nat) : Rule := fun s =>
  let w := v / 16 % 16
  let code := lockRefusal who g v s
  if code ≠ 0 then refused code (setO (nGal g) 0x6120 2 code s)
  else if v % 16 = 1 then openWay g w (v / 4096 % 16) s
  else actionDone (setO (nGal g) 0x6120 2 0 (setO (nGal g) 0x6110 (w + 1) (if v % 16 = 2 then 2 else 0) s))

/-- A lock control value with OP replaced. -/
def withOp (v op : Nat) : Nat := v / 16 * 16 + op

/-- LOCK_OPEN. -/
def execLockOpen (who : Requester) (gallery value : Nat) (s : State) : Out :=
  within (decide (gallery < 22))
    (served who (nGal gallery) 0x6120 1 (withOp value 1) (ruleLock who gallery (withOp value 1)) s)
/-- LOCK_LOCK. -/
def execLockLock (who : Requester) (gallery value : Nat) (s : State) : Out :=
  within (decide (gallery < 22))
    (served who (nGal gallery) 0x6120 1 (withOp value 2) (ruleLock who gallery (withOp value 2)) s)
/-- LOCK_UNLOCK. -/
def execLockUnlock (who : Requester) (gallery value : Nat) (s : State) : Out :=
  within (decide (gallery < 22))
    (served who (nGal gallery) 0x6120 1 (withOp value 3) (ruleLock who gallery (withOp value 3)) s)
/-- LOCK_CANCEL. -/
def execLockCancel (who : Requester) (gallery value : Nat) (s : State) : Out :=
  within (decide (gallery < 22))
    (served who (nGal gallery) 0x6120 1 (withOp value 4) (ruleLock who gallery (withOp value 4)) s)

/-! Method, masks, clearing (R264, R266, R278). -/

/-- 6100h.01h: on a change every way that is not DISABLED becomes NORMAL and the lines stay (R264). -/
def ruleWayMethod (g v : Nat) : Rule := fun s =>
  if [0, 1, 2].any fun k => match partOfCluster s (3 * g + k) with
      | some p => partState s p == 3
      | none => false
  then refused 0 s
  else if getO s (nGal g) 0x6100 1 = v then answered s
  else
    let s1 := forAll (List.range 16) (fun w s => onlyIf (wayState s g w != 3) (setO (nGal g) 0x6110 (w + 1) 0) s)
      (setO (nGal g) 0x6100 1 v s)
    answered (forceGallery g s1)

/-- WAY_METHOD_WRITE. -/
def execWayMethodWrite (who : Requester) (gallery value : Nat) (s : State) : Out :=
  within (decide (gallery < 22)) (served who (nGal gallery) 0x6100 1 value (ruleWayMethod gallery value) s)

/-- 6100h.06h: the disabled ways of the site are cleared; SERVICE only (R278). -/
def ruleClearDisabled (g : Nat) : Rule := fun s =>
  if s.modes.mode ≠ .service then refused 0 s
  else
    actionDone (forceGallery g (showDisabled g
      { s with panel := { s.panel with wayDisabled := tblSet 0 s.panel.wayDisabled (siteOf s g) 0 } }))

/-- CLEAR_DISABLED_WAYS. -/
def execClearDisabledWays (who : Requester) (gallery value : Nat) (s : State) : Out :=
  within (decide (gallery < 22)) (served who (nGal gallery) 0x6100 6 value (ruleClearDisabled gallery) s)

end Sys2Proof.Machine
end

