-- ==== Sys2Proof/Machine/Partitions.lean ====
section
/-! DEFINITION. Partitions (R417-R428): composition, start, stop, restart. -/

namespace Sys2Proof.Machine

/-! Composition (R417-R419). -/

/-- Stopped or down: states in which clusters, way sets and the image slot may change (R419). -/
def atRest (s : State) (p : Nat) : Bool := [0, 1, 5].contains (partState s p)

/-- The memory ranges in use of a partition. -/
def usedRanges (s : State) (p : Nat) : List (Nat × Nat) := ((List.range 8).map (rangeOf s p)).filter (·.2 != 0)

/-- The two tiers' architectural spans hold a range whole (R418). -/
def inOneSpan (r : Nat × Nat) : Bool :=
  decide (r.1 + r.2 ≤ ddrBase) || (decide (ddrBase ≤ r.1) && decide (r.1 + r.2 ≤ ddrEnd))

/-- The defined partitions other than `p`. -/
def otherParts (s : State) (p : Nat) : List Nat := (List.range 16).filter fun q => q != p && defined s q

/-- Some two of a partition's own ranges share a byte. -/
def selfOverlap (s : State) (p : Nat) : Bool :=
  (List.range 8).any fun i => (List.range i).any fun j =>
    overlaps (rangeOf s p i).1 (rangeOf s p i).2 (rangeOf s p j).1 (rangeOf s p j).2

/-- The first of details 10h-13h that the configuration of partition `p` breaks; 0 none (R418). -/
def configConflict (s : State) (p : Nat) : Nat :=
  let others := otherParts s p
  let o := fun ix sub => getO s nS (ix + p) sub
  let q' := fun q ix sub => getO s nS (ix + q) sub
  if others.any (fun q => o 0x7000 2 &&& q' q 0x7000 2 != 0) then 0x10
  else if (List.range 22).any (fun g => o 0x7020 (g + 1) != 0 &&
      (!ownsOnGallery s p g || others.any fun q => o 0x7020 (g + 1) &&& q' q 0x7020 (g + 1) != 0)) then 0x11
  else if (usedRanges s p).any (fun r => r.1 % 2 ^ 21 != 0 || r.2 % 2 ^ 21 != 0 || !inOneSpan r ||
      others.any fun q => (usedRanges s q).any fun t => overlaps r.1 r.2 t.1 t.2) || selfOverlap s p then 0x12
  else if others.any (fun q => [1, 2, 3].any fun sub => o 0x7030 sub &&& q' q 0x7030 sub != 0) then 0x13
  else 0

/-- An enabled queue still has its block, its ring memory, its source and its completion queue. -/
def queueHeld (s : State) (p q : Nat) : Bool :=
  let src := getO s (nQueue q) 0xB100 7
  let cq := getO s (nQueue q) 0xB100 0x0B
  queueOwner s q == p && ownsMem s p (qBase s q) (qElem s q * qCount s q) &&
    (src == 0xFFFF || sourceOwner s src == p) && (cq == 0xFFFFFFFF || queueOwner s cq == p)

/-- The resources of partition `p` that a ring needs, each with whether it has it: its slots, its seals, its queue, and the cluster of each
Vitrine that it feeds (R129). -/
def ringHas (s : State) (p r : Nat) : List Bool :=
  [ownsMem s p (ringSlots s r).1 (ringSlots s r).2, ownsMem s p (ringSeals s r).1 (ringSeals s r).2,
    queueOwner s (ringO s r 0x4200 0x0B) == p] ++
  (bitsOf 66 (ringO s r 0x4200 0x0E)).map fun v => partOfCluster s v == some p

/-- What was there is there still. -/
def stillThere (before after : List Bool) : Bool := (before.zip after).all fun e => !e.1 || e.2

/-- Everything enabled that belonged to `p` before has after it what it needs and had (R418, detail 15h). -/
def keepsResources (s t : State) (p : Nat) : Bool :=
  ((enabledQueues s).filter fun q => queueOwner s q == p).all (queueHeld t p) &&
  ((enabledRings s).filter fun r => getO s (nRing r) 0x4200 2 == p).all (fun r => stillThere (ringHas s p r) (ringHas t p r)) &&
  ((List.range 64).filter fun l => laneO s l 1 == 1 && laneO s l 2 == p).all (fun l => !laneQueuesOk s l || laneQueuesOk t l) &&
  ((nodesWith s 0xA 0xB200 1 1).filter fun e => sourceOwner s e == p).all (fun e => sourceOwner t e == p) &&
  ((List.range 64).filter fun c => getO s nP (0xA200 + c) 1 == 1 && channelOwner s c == p).all
    (fun c => channelOwner t c == p && queueOwner t (getO t nP (0xA200 + c) 3) == p)

/-- Some object names `p` as its owner: a lane, a ring, a namespace, a queue block or an event source. -/
def namesOwner (s : State) (p : Nat) : Bool :=
  (List.range 64).any (fun l => laneO s l 2 == p) || (List.range 256).any (fun r => getO s (nRing r) 0x4200 2 == p) ||
    (List.range 32).any (fun n => getO s nP (0xA100 + n) 2 == p) || [1, 2, 3].any fun sub => getO s nS (0x7030 + p) sub != 0

/-- A producer whose work of partition `p` has not ended while its record waits at a queue: a Vitrine's step, or the Dray's load. -/
def producerOf (s : State) (p n : Nat) : Bool :=
  if n < drayProducer 0 then decide (vitProducer 0 ≤ n) && (clustersOf s p).contains (n - vitProducer 0)
  else !isRing n && decide (n < chanProducer 0 0) && queueOwner s (n - drayProducer 0) == p

/-- I/O of the partition in progress, which the answer to a removal of memory waits for (R419), each piece under a name of its own: jobs
of its Vitrines, loads in progress, steps and loads whose record waits, and READs of its channels. -/
def ioUnderWay (s : State) (p : Nat) : List (Nat × Nat × Nat) :=
  ((clustersOf s p).flatMap fun v => (s.vit v).jobs.map fun j => (0, v, j.ticket)) ++
  ((s.queues.filter fun e => e.2.load.isSome && queueOwner s e.1 == p).map fun e => (1, e.1, qC s e.1)) ++
  (s.queues.flatMap fun e => (e.2.waiting.filter fun w => producerOf s p w.1).map fun w => (2, e.1, w.1)) ++
  s.arch.chan.flatMap fun e => if channelOwner s e.1 = p then (e.2.opened.filter (·.op == 2)).map fun m => (3, e.1, m.seq) else []

/-- The I/O that was in progress when the request under service arrived, and is so still. -/
def oldWork (s : State) (p : Nat) : List (Nat × Nat × Nat) :=
  match s.cat.serving.bind (·.work) with
  | some l => l.filter (ioUnderWay s p).contains
  | none => ioUnderWay s p

/-- The answer waits for I/O that was in progress when the request arrived; past 10 ms the request is refused as busy (R419). -/
def waitForWork (p : Nat) (s : State) : State × Ans :=
  match s.cat.serving with
  | none => refusedBusy s
  | some w =>
    if w.since + 10000000 < now s then refusedBusy s
    else answerWaits { s with cat := { s.cat with serving := some { w with work := some (w.work.getD (ioUnderWay s p)) } } }

/-- The write takes memory from a partition that is not stopped. -/
def removesMemory (s t : State) (p : Nat) : Bool :=
  !atRest s p && (usedRanges s p).any fun r => !ownsMem t p r.1 r.2

/-! Start (R424). -/

/-- The slot that partition `p` names, as a boot-flash target. -/
def slotOf (s : State) (p : Nat) : Option Nat :=
  if getO s nS (0x7000 + p) 4 < 8 then some (16 + getO s nS (0x7000 + p) 4) else none
/-- The image address and the bytes that it covers. -/
def imageAddr (s : State) (p : Nat) : Nat := getO s nS (0x7000 + p) 5
def imageBytes (s : State) (p : Nat) : Nat := match slotOf s p with
  | some t => imageLength s t
  | none => 1

/-- A slot not yet verified in this power cycle is verified at step 1. -/
def verifyAtStart (p : Nat) (s : State) : State := match slotOf s p with
  | some t => if slotState s t = 4 then showVerified (verifyTarget t s) else s
  | none => s

/-- The first precondition of step 1 that fails; 0 none. -/
def startRefusal (s : State) (p : Nat) : Nat :=
  if !s.modes.mode.active then 5
  else if partState s p ≠ 1 ∧ partState s p ≠ 5 then 2
  else if !fits s p then 3
  else if (match slotOf s p with
      | some t => slotState s t != 1
      | none => false) then 4
  else if (usedRanges s p).any (fun r => inDdr r.1) && getO s nP 0x5000 9 != 1 then 6
  else if !ownsMem s p (imageAddr s p) (imageBytes s p) then 7
  else 0

/-- Step 2: the image in memory is the verified one, copied from the boot flash where it differs; false: it still does, or the boot flash
met a read error. -/
def placeImage (p : Nat) (flashError : Bool) (s : State) : State × Bool :=
  match slotOf s p with
  | none => (s, true)
  | some t =>
    let a := imageAddr s p
    let n := imageLength s t
    let same := fun (x : State) => (formsIn x a n).isEmpty && digest (readBytes x a n) == getO x nS (slotIx t) 4
    if same s then (s, true)
    else if flashError then (s, false)
    else
      let s1 := ioWrite .io .package a (flashBytes s t (payloadAt t) n) s
      (s1, same s1)

/-- A hart released from reset by a start (step 5). -/
def releaseHart (p pc addr h : Nat) (s : State) : State :=
  let x := tblSet 0 (tblSet 0 (tblSet 0 [] 10 (BitVec.ofNat 64 h)) 11 (BitVec.ofNat 64 addr)) 12 (BitVec.ofNat 64 p)
  setHart h { run := .running, pc := BitVec.ofNat 64 pc, x := x } s

/-- Steps 3 to 6. -/
def releasePartition (p : Nat) (s : State) : State :=
  let pc := imageAddr s p + (match slotOf s p with
    | some t => entryOffset s t
    | none => 0)
  let inbound := (enabledQueues s).filter fun q => queueOwner s q == p && !qOutbound s q
  let s1 := setO nC 0x6810 (p + 1) 0 (forAll inbound armQueue s)
  let s2 := forAll (hartsOf s1 p) (releaseHart p pc (imageAddr s p)) s1
  let s3 := forAll (clustersOf s2 p) (fun v s => setVit v { running := true } s) s2
  runAll [setO nS 0x7040 (p + 1) 3, addO nS 0x7041 (p + 1) 1, setO nS 0x7044 (p + 1) (now s),
    fun s => { s with parts := { s.parts with held := dropFrom s.parts.held p } }] s3

/-- Steps 2 to 6; false: the start failed, detail 04h, and the partition is stopped. -/
def runStart (p : Nat) (flashError : Bool) (s : State) : State × Bool :=
  match placeImage p flashError s with
  | (s1, true) => (releasePartition p s1, true)
  | (s1, false) => (setO nS 0x7040 (p + 1) 1 (setO nS 0x7043 (p + 1) 4 s1), false)

/-- A gallery of the partition is fenced. -/
def startWaits (s : State) (p : Nat) : Bool := (galleriesOf s p).any (fenced s)

/-- A start whose preconditions hold, with its action: it waits in state 02h while a gallery of the partition is fenced. The status of the
action: 0 done, 1 pending, 2 failed. -/
def launch (p : Nat) (act : Option (Requester × Nat)) (flashError : Bool) (s : State) : State × Nat :=
  if startWaits s p then
    (setO nS 0x7040 (p + 1) 2 { s with parts := { s.parts with
      waiting := addTo s.parts.waiting p
      badFlash := if flashError then addTo s.parts.badFlash p else s.parts.badFlash
      action := s.parts.action ++ (act.map (p, ·)).toList } }, 1)
  else match runStart p flashError s with
    | (s1, true) => (s1, 0)
    | (s1, false) => (s1, 2)

/-- The detail of a start's status: 04h where it failed (R427). -/
def startDetail (st : Nat) : Nat := if st = 2 then 4 else 0

/-- An action with an owner ends. -/
def endOwned (act : Option (Requester × Nat)) (status detail : Nat) (s : State) : State :=
  match act with
  | some (who, tag) => endAction who tag status detail s
  | none => s

/-- A start that waited goes on when no gallery of its partition is fenced any more. -/
def resumeStart (p : Nat) (s : State) : State :=
  if startWaits s p then s
  else match runStart p (s.parts.badFlash.contains p) (dropStart p s) with
    | (s1, true) => endOwned (tblFind s.parts.action p) 0 0 s1
    | (s1, false) => endOwned (tblFind s.parts.action p) 2 4 s1

/-- Every start that waited and may go on. -/
def resumeStarts (s : State) : State := forAll s.parts.waiting resumeStart s

/-- The request under service leads to a start whose reading of the boot flash meets an error. -/
def flashFails (s : State) : Bool := s.cat.serving.any (·.flash)

/-- 7050h.01h. -/
def ruleStart (who : Requester) (p : Nat) : Rule := fun s =>
  let s1 := if startRefusal s p = 4 then verifyAtStart p s else s
  if startRefusal s1 p ≠ 0 then refused (startRefusal s1 p) s1
  else match launch p (some (who, s1.cat.nextTag)) (flashFails s1) s1 with
    | (t, st) => (t, .action st (startDetail st))

/-- PARTITION_START. -/
def execPartitionStart (who : Requester) (value : Nat) (flashError : Bool) (s : State) : Out :=
  .next (servedWith flashError who nS 0x7050 1 value (ruleStart who value) s)

/-! Stop and restart (R425, R427, R428). -/

/-- A requested stop (R425): a start that waits ends; a running partition is stopping till the clear phase has ended, another one is
stopped at once. The status of the action: 0 done, 1 pending. -/
def beginStop (p : Nat) (x : Stopping) (s : State) : State × Nat :=
  let s1 := stopResources p (discardWaiting p (cancelStart p s))
  if domState s p = 0 then
    (settle (setO nC 0x6810 (p + 1) 2 (setO nS 0x7040 (p + 1) 4
      { s1 with parts := { s1.parts with stopping := tblInsert s1.parts.stopping p x } })), 1)
  else (settle (setO nS 0x7040 (p + 1) 1 (setO nS 0x7043 (p + 1) 1 s1)), 0)

/-- A stop is allowed in states 02h, 03h and 05h. -/
def mayStop (s : State) (p : Nat) : Bool := [2, 3, 5].contains (partState s p)

/-- 7050h.02h. -/
def ruleStop (who : Requester) (p : Nat) : Rule := fun s =>
  if mayStop s p then
    match beginStop p { action := some (who, s.cat.nextTag) } s with
    | (t, st) => (t, .action st 0)
  else refused 2 s

/-- PARTITION_STOP. -/
def execPartitionStop (who : Requester) (value : Nat) (s : State) : Out :=
  .next (served who nS 0x7050 2 value (ruleStop who value) s)

/-- The start that follows the stop of a restart, its status and its detail: one that its preconditions refuse fails the action with
their detail. -/
def relaunch (p : Nat) (act : Option (Requester × Nat)) (flashError : Bool) (s : State) : State × Nat × Nat :=
  let s1 := verifyAtStart p s
  if startRefusal s1 p ≠ 0 then (s1, 2, startRefusal s1 p)
  else match launch p act flashError s1 with
    | (t, st) => (t, st, startDetail st)

/-- 7050h.03h: a stop, then a start. -/
def ruleRestart (who : Requester) (p : Nat) : Rule := fun s =>
  if !mayStop s p then refused 2 s
  else
    let act := some (who, s.cat.nextTag)
    match beginStop p { action := act, restart := true, flash := flashFails s } s with
    | (t, 0) => match relaunch p act (flashFails s) t with
      | (u, st, d) => (u, .action st d)
    | (t, st) => (t, .action st 0)

/-- PARTITION_RESTART. -/
def execPartitionRestart (who : Requester) (value : Nat) (flashError : Bool) (s : State) : Out :=
  .next (servedWith flashError who nS 0x7050 3 value (ruleRestart who value) s)

/-- A requested stop ends with its clear phase (R425, R428): the partition is stopped, not down, and the start of a restart follows. -/
def endStop (p : Nat) (x : Stopping) (s : State) : State :=
  let s1 := settle (setO nS 0x7040 (p + 1) 1 (onlyIf (!x.down) (setO nS 0x7043 (p + 1) 1)
    { s with parts := { s.parts with stopping := tblErase s.parts.stopping p } }))
  if x.restart then
    match relaunch p x.action x.flash s1 with
    | (t, 1, _) => t
    | (t, st, d) => endOwned x.action st d t
  else endOwned x.action 0 0 s1

/-- DOMAIN_CLEAR: the clear phase ends, and the partition is down, or stopped where a stop was requested (R324, R425, R428). -/
def execDomainClear (domain : Nat) (s : State) : Out :=
  within (decide (domain < 16)) <|
    if clearWaits s domain then s
    else if domState s domain = 1 ∨ domState s domain = 2 then
      match tblFind s.parts.stopping domain with
      | some x => endStop domain x (clearPhase domain s)
      | none => setO nS 0x7040 (domain + 1) 5 (clearPhase domain s)
    else s

/-! Automatic starts (R426). -/

/-- An automatic start: counted, and made when its preconditions hold. -/
def autoStart (p : Nat) (flashError : Bool) (s : State) : State :=
  let s1 := verifyAtStart p s
  if startRefusal s1 p ≠ 0 then s1
  else
    let times := now s :: tblGet [] s1.parts.autoTimes p
    (launch p none flashError (addO nS 0x7042 (p + 1) 1
      { s1 with parts := { s1.parts with autoTimes := tblSet [] s1.parts.autoTimes p times } })).1

/-- A retirement of a gallery of the partition has not reached step 11 of R59. -/
def ownPromotion (s : State) (p : Nat) : Bool :=
  (s.panel.promo.toList ++ s.panel.promoQueue).any fun x => ownsOnGallery s p x.gallery

/-- AUTOMATIC_START: a partition that domain down left down, whose 7000h.06h is 01h, starts after the clear phase, or for
cause 01h after step 11 of R59 for its own gallery; the fourth start within 60 s is not made. -/
def execAutomaticStart (partition : Nat) (flashError : Bool) (s : State) : Out :=
  within (decide (partition < 16)) <|
    if partState s partition ≠ 5 ∨ getO s nS 0x7043 (partition + 1) ≠ 2 ∨ getO s nS (0x7000 + partition) 6 ≠ 1 ∨
        s.parts.held.contains partition ∨ (getO s nC 0x6812 (partition + 1) = 1 ∧ ownPromotion s partition = true) then s
    else if 3 ≤ ((tblGet [] s.parts.autoTimes partition).filter fun t => decide (now s < t + 60000000000)).length then
      setO nS 0x7043 (partition + 1) 6 s
    else autoStart partition flashError s

/-- The partition may start by itself at an entry into RUN: it is stopped, or down, unless the restart limit or an empty gallery keeps it
there until a start is requested (R424, R426). -/
def mayAutoStart (s : State) (p : Nat) : Bool :=
  partState s p == 1 || (partState s p == 5 && !s.parts.held.contains p && getO s nS 0x7043 (p + 1) != 6)

/-- Auto start at the completion of every transition into RUN (7000h.07h); `flash`: partitions whose boot-flash image cannot be read. -/
def autoStartAll (flash : List Nat) (s : State) : State :=
  forAll (List.range 16) (fun p s => if defined s p && getO s nS (0x7000 + p) 7 == 1 && mayAutoStart s p then
    (let s1 := verifyAtStart p s
     if startRefusal s1 p = 0 then (launch p none (flash.contains p) s1).1 else s1)
    else s) s

/-! The exit from LIMP, and the writes that may end it (R89, R420). -/

/-- The mode recorded in 2000h.04h is entered and 2000h.04h cleared (R89); into RUN, partitions start by themselves. `flash`: as in
`autoStartAll`. -/
def leaveLimp (flash : List Nat) (s : State) : State :=
  if s.modes.mode = .limp then
    (if getO s nP 0x2000 4 = 4 then changeMode .lockstep 3 (now s) (setO nP 0x2000 4 0 s)
     else autoStartAll flash (changeMode .run 3 (now s) (setO nP 0x2000 4 0 s)))
  else s

/-- An accepted write after which every defined partition fits ends LIMP (R89), also while an accepted LIMP → SERVICE transition is
pending, which then completes from the mode that LIMP is left for: the spec does not say which of the two yields, and this order is
the model's choice. The partitions that start then meet no read error of the boot flash. -/
def fittedWrite (s : State) : State := if s.modes.mode = .limp ∧ allFit s then leaveLimp [] s else s

/-- 6102h: a legacy mask; fills that choose their victim afterwards follow it (R266). An accepted write may end LIMP
(R420). -/
def ruleLegacyMask (g sub v : Nat) : Rule := fun s =>
  answered (fittedWrite (forceWays g (sub - 1) (setO (nGal g) 0x6102 sub v s)))

/-- A100h.01h. An accepted write after which every partition fits ends LIMP (R89). -/
def ruleNsEnable (n value : Nat) : Rule := fun s =>
  if value = 1 then
    if getO s nP (0xA100 + n) 1 = 1 then answered (fittedWrite s)
    else if nsMayEnable s n then answered (fittedWrite (setO nP (0xA100 + n) 1 1 s))
    else refused 0 s
  else if getO s nP (0xA100 + n) 1 = 1 ∧ nsOpen s n then refused 0 s
  else answered (fittedWrite (setO nP (0xA100 + n) 1 0 s))

/-- NAMESPACE_ENABLE. -/
def execNamespaceEnable (who : Requester) (ns value : Nat) (s : State) : Out :=
  within (decide (ns < 32)) (served who nP (0xA100 + ns) 1 value (ruleNsEnable ns value) s)

/-- States that follow 7000h.01h (R423): stopped once defined. -/
def followDefined (p v : Nat) (s : State) : State :=
  if v = 1 ∧ partState s p = 0 then setO nS 0x7040 (p + 1) 1 (setO nC 0x6810 (p + 1) 3 s)
  else if v = 0 then setO nS 0x7040 (p + 1) 0 (setO nC 0x6810 (p + 1) 4 s)
  else s

/-- A write of an object of R417. -/
def rulePartition (ix sub v : Nat) : Rule := fun s =>
  let p := ix % 16
  let t := setO nS ix sub v s
  let group := ix / 16 * 16
  let resting := (group == 0x7000 && (sub == 2 || sub == 4)) || group == 0x7020
  if promoting s then refusedBusy s
  else if group == 0x7000 && sub == 1 && v == 0 && (!atRest s p || (defined s p && namesOwner s p)) then refused 0x16 s
  else if resting && !atRest s p then refused 0x14 s
  else if defined t p && configConflict t p != 0 then refused (configConflict t p) s
  else if defined s p && v != getO s nS ix sub && !(group == 0x7000 && sub == 1) && !keepsResources s t p then refused 0x15 s
  else if removesMemory s t p && !(oldWork s p).isEmpty then waitForWork p s
  else
    let s1 := if group = 0x7000 ∧ sub = 1 then followDefined p v t else t
    let s2 := dropStraySources s1
    let s3 := if group = 0x7020 ∨ (group = 0x7000 ∧ (sub = 1 ∨ sub = 2)) then forAll (List.range 22) (fun g => forceWays g p) s2
      else s2
    answered (ringsLoseQueue s (fittedWrite (showVerified s3)))

/-- PARTITION_CONFIG_WRITE. -/
def execPartitionConfigWrite (who : Requester) (index sub value : Nat) (s : State) : Out :=
  within (decide (0x7000 ≤ index) && decide (index ≤ 0x703F))
    (served who nS index sub value (rulePartition index sub value) s)

end Sys2Proof.Machine
end

