-- ==== Sys2Proof/Machine/Panel.lean ====
section
/-! DEFINITION. Sites, couplings, retirement and promotion (R35-R62, R450, R451). A die is a gallery site 0-23 or
24 + d for Archive die d; a module of a die is numbered die * 4 + module. -/

namespace Sys2Proof.Machine

/-! References that follow a die's power (R71, R75). 2021h: OPRES 1, EPRES 2, ELEC 4, HOLD 8. -/

def refBits (s : State) (die : Nat) : Nat := getO s nP 0x2021 (die + 1)
def setRef (die v : Nat) (s : State) : State := setO nP 0x2021 (die + 1) v s
/-- A die that gets power uses its optical reference where one is present (R71). -/
def powerRef (die : Nat) (s : State) : State :=
  let v := refBits s die % 4
  setRef die (if v.testBit 0 then v else v + 4) s
/-- A site without power reads 0 in HOLD and ELEC (R75). -/
def unpowerRef (die : Nat) (s : State) : State :=
  setRef die (refBits s die % 4) { s with clock := { s.clock with holdSince := tblSet 0 s.clock.holdSince die 0 } }
/-- A gallery site gets power and its reference clocks (R59 step 6, R71). -/
def powerSite (n : Nat) (s : State) : State :=
  powerRef n { s with panel := { s.panel with powered := addTo s.panel.powered n } }
/-- A gallery site loses power and its reference clocks (R59 step 4, R75); it throttles no more, and an entry after its next power-up
counts anew (R493). -/
def unpowerSite (n : Nat) (s : State) : State :=
  unpowerRef n { s with panel := { s.panel with powered := dropFrom s.panel.powered n },
                        power := { s.power with throttled := dropFrom s.power.throttled n } }

/-! Coupling modules (R38, R44, R50, R51). -/

/-- The modules of a die. -/
def modulesOf (die : Nat) : List Nat := if die < 24 then [0, 1, 2, 3] else [0]
/-- The node and index of a module's objects; a site's are at the logical gallery that it holds. -/
def moduleNode (s : State) (die : Nat) : Nat := if die < 24 then nGal (siteLogicalOf s die) else nP
def moduleIx (die m : Nat) : Nat := if die < 24 then 0x6010 + m else 0xAF00 + (die - 24)
def getMod (s : State) (die m sub : Nat) : Nat := getO s (moduleNode s die) (moduleIx die m) sub
def setMod (die m sub v : Nat) (s : State) : State := setO (moduleNode s die) (moduleIx die m) sub v s
def addMod (die m sub : Nat) (s : State) : State := addO (moduleNode s die) (moduleIx die m) sub 1 s

/-- The die's couplings are in service. -/
def dieServes (s : State) (die : Nat) : Bool :=
  if die < 24 then siteStateOf s die == 0 && decide (siteLogicalOf s die < 22) && s.modes.mode.active
  else s.modes.mode.on && s.modes.mode != .keep && !dieOut s (die - 24)

/-- Trained width and half in use for a mask of retired lanes (R44). -/
def widthFor (retired : Nat) : Nat × Nat :=
  if retired % 65536 = 0 then (16, 0)
  else if retired % 256 = 0 then (8, 1)
  else if retired / 256 % 256 = 0 then (8, 2)
  else (0, 3)

/-- Lanes that the four modules of a gallery train together (R45). -/
def trainedLanes (s : State) (die : Nat) : Nat := ((modulesOf die).map fun m => getMod s die m 1).sum
/-- 6000h.06h shows it. -/
def showLanes (die : Nat) (s : State) : State :=
  onlyIf (decide (die < 24)) (setO (moduleNode s die) 0x6000 6 (trainedLanes s die)) s

/-- The epoch after `e` (R46). -/
def nextEpoch (e : Nat) : Nat := if e % 65536 = 65535 then 1 else e % 65536 + 1

/-- A record of a coupling module: `sub` is the module and, above it, the lane or FFh. -/
def moduleRecord (die m lane cls action classify count code : Nat) : ErrRec :=
  { cls := cls, action := action, kind := 4, unit := die, sub := m + lane * 256, classify := classify, count := count,
    code := code }
/-- The same with the site and logical gallery. -/
def siteFields (s : State) (die : Nat) (r : ErrRec) : ErrRec :=
  if die < 24 then { r with site := die, logical := siteLogicalOf s die } else r

/-- A training's outcome for one module: the failed lanes retired and reported, width and half (R44, R449). `keep`: lanes
retired earlier stay so. -/
def trainModule (die : Nat) (keep : Bool) (m bad : Nat) (s : State) : State :=
  let old := getMod s die m 8
  let retired := (if keep then old else 0) ||| bad
  let s1 := setMod die m 8 retired (setMod die m 1 (widthFor retired).1 (setMod die m 2 (widthFor retired).2 s))
  let fresh := (bitsOf 16 bad).filter fun l => !old.testBit l
  let s2 := forAll fresh (fun l s => record (siteFields s die (moduleRecord die m l 5 8 3 0 0)) s) s1
  onlyIf (decide ((widthFor retired).1 = 0)) (fun s => record (siteFields s die (moduleRecord die m 0xFF 5 8 3 0 0)) s) s2

/-- Both ends hold an epoch and the width just trained; an end that did not see a retirement of lanes keeps its map (R49). -/
def setEpoch (die m e : Nat) (seen : Bool) (s : State) : State :=
  let s1 := setMod die m 3 e s
  let old := tblGet {} s.panel.galEnd (die * 4 + m)
  let x : GalEnd := if seen then { epoch := e, width := getMod s1 die m 1, half := getMod s1 die m 2 } else { old with epoch := e }
  { s1 with panel := { s1.panel with galEnd := tblSet {} s1.panel.galEnd (die * 4 + m) x } }

/-- An initial training (R47): both ends set epoch 1. -/
def initialTraining (die : Nat) (keep : Bool) (bad : Nat → Nat) (s : State) : State :=
  let s1 := forAll (modulesOf die) (fun m s => setEpoch die m 1 true (trainModule die keep m (bad m) s)) s
  showLanes die { s1 with panel := { s1.panel with full := dropFrom s1.panel.full die } }

/-- The modules of a die that train. -/
def trainingMods (s : State) (die : Nat) : List Nat :=
  (modulesOf die).filter fun m => tblGet 0 s.panel.training (die * 4 + m) != 0
/-- The time of the fence. -/
def fenceTime (s : State) (die : Nat) : Nat :=
  ((trainingMods s die).map fun m => tblGet 0 s.panel.training (die * 4 + m) - 1).foldl min (now s)
/-- Training of modules begins: the gallery is fenced (R42), an available Archive die reads 01h (R386); the earliest fence bounds it. -/
def beginTraining (die : Nat) (ms : List Nat) (s : State) : State :=
  let t := fenceTime s die + 1
  let tr := ms.foldl (fun l m => tblSet 0 l (die * 4 + m) t) s.panel.training
  let s1 := { s with panel := { s.panel with training := tr } }
  if die < 24 then setO (moduleNode s die) 0x6000 7 1 s1 else onlyIf (dieUp s (die - 24)) (setO nP (0xA010 + (die - 24)) 1 1) s1
/-- Undelivered messages of a gallery, and the REQs that wait, lie on the modules that the widths now in force give their lines, in the
order sent (R39). -/
def retagMessages (g : Nat) (s : State) : State :=
  { s with conc := { s.conc with
      msgs := s.conc.msgs.map fun x => if x.2.gallery = g then (moduleOf s g x.2.line, x.2) else x
      waiting := s.conc.waiting.map fun w => if agentGallery w.2.2.agent = g then (moduleOf s g w.2.1, w.2) else w } }

/-- The fence of a gallery ends: its messages go on, and the ways whose disabling waited for it are disabled (R42, R275). -/
def endFence (g : Nat) (s : State) : State :=
  endClosing g (admitWaiting (retagMessages g (setO (nGal g) 0x6000 7 0 s)))

/-- Training is over; the fence ends. -/
def endTraining (die : Nat) (s : State) : State :=
  onlyIf (decide (die < 24)) (endFence (siteLogicalOf s die))
    { s with panel := { s.panel with
        training := s.panel.training.filter fun e => e.1 / 4 != die
        full := dropFrom s.panel.full die
        kept := s.panel.kept.filter fun e => e.1 / 4 != die
        retestMods := s.panel.retestMods.filter (· / 4 != die) } }

/-! Transitions that a retirement abandons (R90). -/

/-- The end of the transition in progress: outcome 1 abandoned, 2 failed; the mode stays (R85, R90). -/
def stopTransition (outcome cause : Nat) (s : State) : State :=
  match s.modes.trans with
  | none => s
  | some t =>
    let s1 := setLastTransition t.src t.dst outcome cause t.start
      (setO nP 0x2000 6 0 { s with modes := { s.modes with trans := none } })
    let s2 := match t.owner with
      | none => s1
      | some (who, tag) => endAction who tag (if outcome = 1 then 3 else 2) 0 s1
    onlyIf s2.modes.limpDue enterLimp s2

/-- A transition in progress is abandoned; triggers that it disarmed at acceptance are armed again in LOCKSTEP. -/
def abandonTransition (s : State) : State :=
  match s.modes.trans with
  | none => s
  | some t =>
    stopTransition 1 t.cause
      (if t.src = .lockstep then armAll { s with acc := { s.acc with disarmAt := none } } else s)

/-! Retirement and promotion (R59). -/

/-- Partitions that own a cluster of gallery `g`. -/
def partsOn (s : State) (g : Nat) : List Nat := (List.range 16).filter fun p => defined s p && ownsOnGallery s p g

/-- 2102h.06h: sites in STATE 1. -/
def countReserves (s : State) : State :=
  setO nP 0x2102 6 ((List.range 24).filter fun n => siteStateOf s n == 1).length s

/-- Step 1: the gallery is fenced and every partition with a cluster on it goes down. -/
def fenceAndDown (g : Nat) (s : State) : State :=
  forAll (partsOn s g) (domainDown · 1 g)
    (setO (nGal g) 0x6000 7 1 { s with panel := { s.panel with
      training := s.panel.training.filter fun e => e.1 / 4 != siteOf s g } })

/-- One line that the gallery owned: poison of form 03h in memory and one record (R59 step 2, R320). -/
def poisonOwned (g site dom line : Nat) (s : State) : State :=
  record { cls := 4, action := 3, kind := 0x11, unit := site, site := site, logical := g, form := 3, addr := 64 * line,
           part := dom }
    (ctlWriteback .package line (mkLine (fun _ => 0) fun _ => 3) s)

/-- A writeback of the purged gallery: no entry names it, so that it is counted and acknowledged, not written (R315). -/
def purgeWbd (g : Nat) (m : Nat × Msg) (s : State) : State :=
  match m.2 with
  | .wbd g' line dom d => if g' = g then sendMsg (.wbAck g line dom) (acceptWbd g dom line d s) else s
  | _ => s

/-- What a transaction holds of the purged gallery's data goes. -/
def Tx.without (t : Tx) (g : Nat) : Tx := { t with early := tblErase t.early g }

/-- Step 2: every entry that names the gallery is purged, and its L2 is gone, with every message between it and the slices but the
acknowledgements of its writebacks. -/
def purgeGallery (g site : Nat) (s : State) : State :=
  let named := s.conc.dir.filter fun e => e.2.holders.getLsbD g
  let s1 := forAll named (fun e s =>
    let dom := e.1 / 2 ^ 46
    let line := e.1 % 2 ^ 46
    setDir dom line (e.2.minus g) (onlyIf e.2.owned (poisonOwned g site dom line) s)) s
  let s2 := forAll (s1.caches.l2.filter fun e => e.1 / 2 ^ 46 == g) (fun e s => removeL2 g (e.1 % 2 ^ 46) s) s1
  forAll s2.conc.msgs (purgeWbd g) { s2 with
    conc := { s2.conc with
      msgs := s2.conc.msgs.filter fun m => m.2.gallery != g
      tx := s2.conc.tx.map fun t => (t.1, t.2.without g)
      fullWaits := s2.conc.fullWaits.filter (·.1 != g) }
    caches := { s2.caches with
      misses := s2.caches.misses.filter fun e => e.1 / 2 ^ 46 != g
      lrHold := s2.caches.lrHold.filter fun e => e.1 / 2 ^ 46 != g
      closing := s2.caches.closing.filter (·.1 != g) } }

/-- Step 3: the retirement is committed and reported. CLASSIFY is 03h where the cause is permanent without a threshold (R449), else
00h: what a threshold counted is the event, and its own record carries 02h with the count; the report of CLASS 05h is no counted
event (R442, R453). -/
def commitRetired (site reason g : Nat) (s : State) : State :=
  record { cls := 5, action := 8, kind := 0x11, unit := site, site := site, logical := g, code := reason,
           classify := if reason = 1 || reason = 5 then 0 else 3 }
    (setSite site 3 reason 0xFF s)

/-- Steps 5 and 6: the lowest-numbered reserve is chosen and powered; false: none is to be tried. -/
def chooseReserve (s : State) : State × Bool :=
  match s.panel.promo with
  | none => (s, false)
  | some x =>
    match if getO s nP 0x2102 2 = 0 then none else (List.range 24).find? fun n => siteStateOf s n == 1 with
    | none => (s, false)
    | some r =>
      (powerSite r (countReserves (setSite r 2 0 x.gallery { s with panel := { s.panel with
        promo := some { x with trying := some r } } })), true)

/-- 2102h.05h (R57). Bytes [27:20] hold the time of the record where no reserve was promoted: the spec names no time there, and
this one is the model's choice. -/
def promotionRecord (x : Promotion) (new : Option Nat) (outcome : Nat) (s : State) : State :=
  setO nP 0x2102 5 (x.gallery + x.oldSite * 2 ^ 32 + (new.getD 0xFFFFFFFF) * 2 ^ 64 + x.fenceTime * 2 ^ 96 +
    now s * 2 ^ 160 + outcome * 2 ^ 224) s

/-- Step 11 without the promotions that wait; outside RUN, LOCKSTEP and LIMP the promoted site loses power again, as every gallery is off
there (R64). Where 2102h.02h reads 00h and reserves exist the outcome is 1, no reserve: the
table of R57 has no code for that case, and this one is the model's choice. -/
def finishPromotion (x : Promotion) (new : Option Nat) (s : State) : State :=
  let outcome := match new with
    | some _ => 0
    | none => if x.failed then 2 else 1
  let s1 := promotionRecord x new outcome
    (setO nP 0x2102 3 0 { s with panel := { s.panel with promo := none } })
  let s2 := endFence x.gallery (onlyIf (!s1.modes.mode.active) (fun s => match new with
    | some r => unpowerSite r s
    | none => s) s1)
  if siteOf s2 x.gallery = 0xFF ∧ !((partsOn s2 x.gallery).isEmpty) then
    enterLimp { s2 with parts := { s2.parts with held := (partsOn s2 x.gallery).foldl addTo s2.parts.held } }
  else resumeStarts s2

/-- The clear phase of the domains that waited for step 2 begins (R324). -/
def beginClears (s : State) : State :=
  forAll (List.range 16) (fun p s => if domState s p = 1 ∧ purgeWaits s p = false then setO nC 0x6810 (p + 1) 2 s else s) s

/-- Steps 2 to 6 of one retirement; false: it ended at step 5. -/
def runRetirement (x : Promotion) (s : State) : State × Bool :=
  let s1 := beginClears (purgeGallery x.gallery x.oldSite s)
  let s2 := setO nP 0x2101 (x.gallery + 1) 0xFF (commitRetired x.oldSite x.reason x.gallery s1)
  let s3 := unpowerSite x.oldSite { s2 with panel := { s2.panel with promo := some x } }
  match chooseReserve (setO nP 0x2102 3 1 s3) with
  | (s4, true) => (s4, true)
  | (s4, false) => (finishPromotion x none s4, false)

/-- The retirements that wait, one after the other, until one of them has a reserve under test (R61). -/
def runQueue : Nat → State → State
  | 0, s => s
  | n + 1, s =>
    match s.panel.promo, s.panel.promoQueue with
    | none, x :: t =>
      match runRetirement x { s with panel := { s.panel with promoQueue := t } } with
      | (u, true) => u
      | (u, false) => runQueue n u
    | _, _ => s

/-- A reserve failed or none is left: the next one, or the end. -/
def nextReserve (s : State) : State :=
  match chooseReserve s with
  | (u, true) => u
  | (u, false) => match u.panel.promo with
    | some x => runQueue 22 (finishPromotion x none u)
    | none => u

/-- Retirement of a logical gallery (R59): step 1 at once, steps 2 onward now or behind the promotion in progress. A
transition in progress is abandoned (R90). -/
def beginRetirement (g reason : Nat) (s : State) : State :=
  let under := (match s.panel.promo with
    | some x => x.gallery == g
    | none => false) || s.panel.promoQueue.any fun x => x.gallery == g
  if siteOf s g = 0xFF ∨ under = true then s
  else
    let x : Promotion := { gallery := g, oldSite := siteOf s g, reason := reason, fenceTime := now s }
    let s1 := settle (fenceAndDown g s)
    let s2 := abandonTransition { s1 with panel := { s1.panel with promoQueue := s1.panel.promoQueue ++ [x] } }
    runQueue 22 s2

/-- Gallery retirements happen where galleries run, and in SERVICE (R459). -/
def mayRetire (s : State) : Bool := s.modes.mode.active || s.modes.mode == .service

/-- GALLERY_RETIREMENT (R59). -/
def execGalleryRetirement (gallery reason : Nat) (s : State) : Out :=
  within (decide (gallery < 22) && decide (1 ≤ reason) && decide (reason ≤ 6)) <|
    if mayRetire s then beginRetirement gallery reason s else s

/-- A retirement that the mode does not allow now waits for the next completion into RUN (R459). -/
def retireWhenRun (g reason : Nat) (s : State) : State :=
  if mayRetire s then beginRetirement g reason s
  else { s with panel := { s.panel with due := if s.panel.due.any (·.1 == g) then s.panel.due else s.panel.due ++ [(g, reason)] } }

/-- 2102h.01h (R57, R58). In KEEP the sequence waits for the next completion into RUN. -/
def ruleRetireGallery (g : Nat) : Rule := fun s =>
  if siteOf s g = 0xFF ∨ promoting s = true then refused 0 s
  else actionDone (retireWhenRun g 5 s)

/-- RETIRE_GALLERY. -/
def execRetireGallery (who : Requester) (value : Nat) (s : State) : Out :=
  .next (served who nP 0x2102 1 value (ruleRetireGallery value) s)

/-! Identification (R52-R55). -/

/-- What a site reports over the sideband. -/
def identOf (s : State) (site : Nat) : SiteId := tblGet {} s.panel.ident site

/-- The feature word of a site: bits [31:2] are reserved and read 0, and a gallery of minor revision 0 reports 3 (R55). -/
def featureWord (s : State) (site : Nat) : Nat :=
  if (identOf s site).minor % 256 = 0 then 3 else (identOf s site).features % 4

/-- MAJOR and MINOR in a site's record. -/
def showIdent (site : Nat) (s : State) : State :=
  let i := identOf s site
  setO nP 0x2100 (site + 1) (siteRec s site % 0x10000 + i.major % 256 * 0x10000 + i.minor % 256 * 0x1000000) s

/-- Step 9: the logical number's way states on the new site: LOCKED ways start empty, PRELOAD ways NORMAL (R273). -/
def handOverWays (g : Nat) (s : State) : State :=
  forceGallery g (showDisabled g
    (forAll (List.range 16) (fun w s => onlyIf (wayState s g w == 1) (setO (nGal g) 0x6110 (w + 1) 0) s) s))

/-- The objects of R50, the counts of the ways (R280) and those of the Vitrines (R251) restart from their defaults. -/
def clearCouplingObjects (g : Nat) (s : State) : State :=
  let vits := [nVit g 0, nVit g 1, nVit g 2]
  { s with obj := tblDrop (fun k =>
      let ix := k / 2 ^ 8 % 2 ^ 16
      (k / 2 ^ 24 == nGal g && (ix == 0x6000 || (decide (0x6010 ≤ ix) && decide (ix ≤ 0x6013)) || ix == 0x6130 || ix == 0x6131)) ||
        (vits.contains (k / 2 ^ 24) && ix == 0x6400)) s.obj }

/-- The ways that a site's self-test found bad are disabled with its record (R278). -/
def addBadWays (site : Nat) (ways : BitVec 16) (s : State) : State :=
  { s with panel := { s.panel with
      wayDisabled := tblSet 0 s.panel.wayDisabled site (tblGet 0 s.panel.wayDisabled site ||| ways) } }

/-- Steps 9 to 11: the site takes the logical number and is committed. -/
def takeNumber (x : Promotion) (r : Nat) (training : Nat → Nat) (s : State) : State :=
  let s0 := { s with panel := { s.panel with training := s.panel.training.filter fun e => e.1 / 4 != r } }
  let s1 := setO nP 0x2101 (x.gallery + 1) r (setSite r 0 0 x.gallery (clearCouplingObjects x.gallery s0))
  let s2 := initialTraining r true training s1
  let s3 := forAll (List.range 12) (fun i s => resetHart (12 * x.gallery + i) s) s2
  let s4 := forAll (List.range 3) (fun k s => resetVit (3 * x.gallery + k) s) (handOverWays x.gallery s3)
  runQueue 22 (finishPromotion x (some r) (addO nP 0x2102 4 1 s4))

/-- A reserve fails at step 7 or 8. -/
def reserveFails (x : Promotion) (r reason : Nat) (s : State) : State :=
  nextReserve (unpowerSite r (commitRetired r reason 0xFF { s with panel := { s.panel with
    promo := some { x with trying := none, failed := true } } }))

/-- A reserve that passed steps 7 and 8 is promoted, unless its disabled ways are as many as retire a gallery (R277): it then fails with
REASON 1 (DESIGN CHOICE: R277 speaks of a site that holds a logical gallery, and R59 names no step for it). -/
def promote (x : Promotion) (r : Nat) (training : Nat → Nat) (s : State) : State :=
  if getO s nP 0x6F00 5 ≤ countBits 16 (tblGet 0 s.panel.wayDisabled r).toNat then reserveFails x r 1 s else takeNumber x r training s

/-- The failed lanes that a training reports for each module. -/
def badLanes : Training → Nat → Nat
  | .timeout, _ => 0xFFFF
  | .done a b c d _, m => ([a, b, c, d].getD m 0).toNat

/-- The far end of a module saw the lanes that the training retired (R49). -/
def mapSeen : Training → Nat → Bool
  | .timeout, _ => true
  | .done _ _ _ _ u, m => !u.getLsbD m

/-- Lanes that would train from scratch, lanes retired earlier counting as `old`. -/
def lanesAfter (old bad : Nat → Nat) : Nat := ((List.range 4).map fun m => (widthFor (old m ||| bad m)).1).sum

/-- Why a site is refused after its self-test (R59 steps 7 and 8): 4, 3, 2 or 6; 0: it passes. -/
def siteVerdict (s : State) (site : Nat) (pass : Bool) (t : Training) : Nat :=
  if !pass then 4
  else if (identOf s site).major ≠ 2 then 3
  else match t with
    | .timeout => 2
    | .done .. => if lanesAfter (fun _ => 0) (badLanes t) < 32 then 6 else 0

/-- The retest of a site ends (R52, R57, R278): the disabled ways that pass are cleared; on a pass the site is a reserve, and its
retired lanes were those of the coupling objects that its logical number no longer shows; a refused major revision marks REASON 3. -/
def retestDone (site verdict : Nat) (ways : BitVec 16) (s : State) : State :=
  let asked := s.panel.retest.filter fun e => e.1 == site
  let s1 := unpowerSite site (showIdent site { s with panel := { s.panel with
    retest := s.panel.retest.filter fun e => e.1 != site } })
  let s2 := { s1 with panel := { s1.panel with
    wayDisabled := tblSet 0 s1.panel.wayDisabled site (tblGet 0 s1.panel.wayDisabled site &&& ways) } }
  let s3 := match verdict with
    | 0 => countReserves (setSite site 1 0 0xFF s2)
    | 3 => setSite site 3 3 0xFF s2
    | _ => s2
  forAll asked (fun e s => endAction e.2.1 e.2.2 (if verdict = 0 then 0 else 2) 0 s) s3

/-- 2102h.07h (R57, R58): SERVICE only, for a site in STATE 3 with REASON 1, 2, 4 or 6. -/
def ruleRetestSite (who : Requester) (n : Nat) : Rule := fun s =>
  if s.modes.mode ≠ .service ∨ siteStateOf s n ≠ 3 ∨ !([1, 2, 4, 6].contains (siteReasonOf s n)) then refused 0 s
  else actionPending (powerSite n { s with panel := { s.panel with retest := s.panel.retest ++ [(n, who, s.cat.nextTag)] } })

/-- RETEST_SITE. -/
def execRetestSite (who : Requester) (value : Nat) (s : State) : Out :=
  .next (served who nP 0x2102 7 value (ruleRetestSite who value) s)

/-! Trainings in service (R40-R49, R450, R451). -/

/-- FLIT_CRC_ERROR: the flit and every later one are replayed (R40). `again`: it is the replay of the flit that failed last, and
the replays that failed in a row are counted (R41). A module that trains, and one at width 0, carries no flits (R42, R44). -/
def execFlitCrcError (die module : Nat) (again : Bool) (s : State) : Out :=
  within (decide (die < 28) && (modulesOf die).contains module) <|
    if dieServes s die && tblGet 0 s.panel.training (die * 4 + module) == 0 && getMod s die module 1 != 0 then
      let n := if again then tblGet 0 s.panel.replays (die * 4 + module) + 1 else 0
      addMod die module 5 (addMod die module 4
        { s with panel := { s.panel with replays := tblSet 0 s.panel.replays (die * 4 + module) n } })
    else s

/-- RECOVERY_RETRAINING begins where one flit has failed on four replays in a row (R41, R42). -/
def execRecoveryRetraining (die module : Nat) (s : State) : Out :=
  within (decide (die < 28) && (modulesOf die).contains module) <|
    if dieServes s die && decide (4 ≤ tblGet 0 s.panel.replays (die * 4 + module)) &&
        tblGet 0 s.panel.training (die * 4 + module) == 0 && !s.panel.full.contains die then
      beginTraining die [module]
        { s with panel := { s.panel with replays := tblSet 0 s.panel.replays (die * 4 + module) 0 } }
    else s

/-- A die leaves service because its couplings do (R43, R45). -/
def couplingsFail (die reason : Nat) (s : State) : State :=
  if die < 24 then beginRetirement (siteLogicalOf s die) reason s
  else settle (dieUnavailable (die - 24) (endTraining die s))

/-- A mismatch (R48): the Rotunda end keeps its epochs' numbers and all modules run a full retraining; counted against
the gallery's threshold (R450). CODE 1 names the Rotunda end (R49). -/
def mismatch (die : Nat) (s : State) : State :=
  let rotunda := (modulesOf die).all fun m => getMod s die m 3 == 0
  let kept := (modulesOf die).foldl (fun l m => tblSet 0 l (die * 4 + m) (getMod s die m 3)) s.panel.kept
  let s1 := beginTraining die (modulesOf die)
    { s with panel := { s.panel with kept := kept, full := addTo s.panel.full die,
                                     retestMods := s.panel.retestMods.filter (· / 4 != die) } }
  let (s2, n) := countHit (hitKey 4 die 7) (getO s nP 0x8203 4) s1
  let cl := if die < 24 then classifyOf n (getO s nP 0x8203 3) else 0
  let s3 := record (siteFields s2 die (moduleRecord die 0xFF 0xFF 4 2 cl (if cl = 0 then 0 else n) (if rotunda then 1 else 0))) s2
  onlyIf (cl == 2) (couplingsFail die 1) s3

/-- A training has left a die too few lanes: below 32 the gallery is retired (R45), an Archive module below x8 makes its die
unavailable (R43). -/
def tooNarrow (s : State) (die : Nat) : Bool := decide (trainedLanes s die < (if die < 24 then 32 else 8))

/-- The end of a training: a die with too few lanes leaves service; otherwise the fence ends, and an Archive die that was unavailable is
back (R382). -/
def settleTraining (die : Nat) (s : State) : State :=
  let s1 := showLanes die s
  if tooNarrow s1 die then couplingsFail die 6 s1
  else onlyIf (decide (24 ≤ die)) (dieBack (die - 24)) (resumeStarts (endTraining die s1))

/-- A full retraining ends (R48). -/
def fullDone (die : Nat) (bad : Nat → Nat) (seen : Nat → Bool) (s : State) : State :=
  settleTraining die (forAll (modulesOf die) (fun m s =>
    addMod die m 7 (setEpoch die m (nextEpoch (tblGet 0 s.panel.kept (die * 4 + m))) (seen m) (trainModule die false m (bad m) s))) s)

/-- A module under the retest of R451 in which no lane fails trains at width 0. -/
def retestResult (die : Nat) (m bad : Nat) (s : State) : State :=
  if s.panel.retestMods.contains (die * 4 + m) ∧ bad = 0 then
    record (siteFields s die (moduleRecord die m 0xFF 5 8 3 0 0)) (setMod die m 1 0 (setMod die m 2 3 s))
  else trainModule die true m bad s

/-- A recovery retraining ends with a continuation (R47); it is counted against the module's threshold, past which the
module is retested (R450, R451). -/
def recoveryDone (die : Nat) (bad : Nat → Nat) (seen : Nat → Bool) (s : State) : State :=
  let ms := trainingMods s die
  let s1 := forAll ms (fun m s =>
    addMod die m 6 (setEpoch die m (nextEpoch (getMod s die m 3)) (seen m) (retestResult die m (bad m) s))) s
  let due := ms.filter fun m => !s.panel.retestMods.contains (die * 4 + m)
  let (s2, again) := due.foldl (fun (r : State × List Nat) m =>
    let (t, n) := countHit (hitKey 4 die m) (getO s nP 0x8203 2) r.1
    let cl := classifyOf n (getO s nP 0x8203 1)
    (record (siteFields t die (moduleRecord die m 0xFF 4 2 cl n 0)) t, if cl = 2 then m :: r.2 else r.2)) (s1, [])
  if again = [] ∨ tooNarrow s2 die = true then settleTraining die s2
  else
    let s3 := endTraining die (showLanes die s2)
    beginTraining die again { s3 with panel := { s3.panel with
      retestMods := again.foldl (fun l m => addTo l (die * 4 + m)) s3.panel.retestMods } }

/-- The ends of a module hold the same history (R47). -/
def sameHistory (s : State) (die m : Nat) : Bool :=
  let g := tblGet {} s.panel.galEnd (die * 4 + m)
  getMod s die m 3 != 0 && g.epoch == getMod s die m 3 && g.width == getMod s die m 1 && g.half == getMod s die m 2

/-- Neither end holds an epoch (R46, R47). -/
def neverTrained (s : State) (die m : Nat) : Bool :=
  getMod s die m 3 == 0 && (tblGet {} s.panel.galEnd (die * 4 + m)).epoch == 0

/-- TRAINING_COMPLETE (R47, R48). -/
def execTrainingComplete (die : Nat) (result : Training) (s : State) : Out :=
  within (decide (die < 28)) <|
    if trainingMods s die = [] then s
    else match result with
      | .timeout => couplingsFail die 2 s
      | .done .. =>
        if s.panel.full.contains die then fullDone die (badLanes result) (mapSeen result) s
        else if (trainingMods s die).all (neverTrained s die) then
          settleTraining die (initialTraining die true (badLanes result) s)
        else if (trainingMods s die).all (sameHistory s die) then recoveryDone die (badLanes result) (mapSeen result) s
        else mismatch die s

/-- ARCHIVE_DIE_RETRAIN: the controller retrains an unavailable die's module every 100 ms (R382). An attempt that trains ends as every
training does (R47, R48): ends with the same history, or with none, adopt the width and go on; others run a full retraining. The
die is back where the module trains at x8 or wider. -/
def execArchiveDieRetrain (die : Nat) (failed : Option (BitVec 16)) (s : State) : Out :=
  within (decide (die < 4)) <|
    if s.modes.mode.on && s.modes.mode != .keep && getO s nP (0xA010 + die) 1 == 2 &&
        decide (tblGet 0 s.arch.lostAt (10 + die) + 100000000 ≤ now s) then
      let s1 := { s with arch := { s.arch with lostAt := tblSet 0 s.arch.lostAt (10 + die) (now s) } }
      match failed with
      | none => s1
      | some lanes =>
        if neverTrained s1 (24 + die) 0 then settleTraining (24 + die) (initialTraining (24 + die) true (fun _ => lanes.toNat) s1)
        else if sameHistory s1 (24 + die) 0 then
          settleTraining (24 + die) (setEpoch (24 + die) 0 (nextEpoch (getMod s1 (24 + die) 0 3)) true
            (trainModule (24 + die) true 0 lanes.toNat s1))
        else mismatch (24 + die) s1
    else s

/-- TRAINING_TIMEOUT: 2 ms after the fence (R43). -/
def execTrainingTimeout (die : Nat) (s : State) : Out :=
  within (decide (die < 28)) <|
    if trainingMods s die ≠ [] ∧ fenceTime s die + 2000000 ≤ now s then couplingsFail die 2 s else s

/-- COUPLING_END_RESET: one end of the modules of a die holds no epoch, and the modules train (R46, R49). -/
def execCouplingEndReset (die : Nat) (rotundaEnd : Bool) (s : State) : Out :=
  within (decide (die < 28)) <|
    if dieServes s die then
      let x : GalEnd := { epoch := 0, width := 0, half := 3 }
      beginTraining die (modulesOf die) (forAll (modulesOf die) (fun m s =>
        if rotundaEnd then setMod die m 3 0 s
        else { s with panel := { s.panel with galEnd := tblSet {} s.panel.galEnd (die * 4 + m) x } }) s)
    else s

end Sys2Proof.Machine
end

