-- ==== Sys2Proof/Machine/Arrays.lean ====
section
/-! DEFINITION. Errors in the arrays of a gallery (R176, R274-R277, R450): a core's arrays, the L2's data and tags, and the
retirement of a gallery whose cluster or ways are worn. -/

namespace Sys2Proof.Machine

/-- A gallery past a threshold is retired with REASON 1 (R277, R450), now or at the next completion into RUN (R459). -/
def retireWorn (g : Nat) (s : State) : State := retireWhenRun g 1 s

/-- An error in a cluster's arrays: one record with its count, and the gallery retired at the threshold (R450, R453). -/
def clusterError (v : Nat) (fatal : Bool) (r : ErrRec) (s : State) : State :=
  let (s1, cl, n) := clusterHit v fatal s
  onlyIf (cl == 2) (retireWorn (v / 3)) (record { r with classify := cl, count := n } s1)

/-! A core's arrays. -/

/-- A translation leaves the TLBs or the walk cache, by its place among all that are held. -/
def Hart.dropTranslation (h : Hart) (i : Nat) : Hart :=
  let a := h.itlb.length
  let b := a + h.dtlb.length
  let c := b + h.l2tlb.length
  if i < a then { h with itlb := h.itlb.eraseIdx i }
  else if i < b then { h with dtlb := h.dtlb.eraseIdx (i - a) }
  else if i < c then { h with l2tlb := h.l2tlb.eraseIdx (i - b) }
  else { h with walk := h.walk.eraseIdx (i - c) }

/-- What a core does about an uncorrectable error, by SUB of KIND 01h (R176): the lines of the L1 caches and of the line buffer are
dropped, to be fetched again; words of a store-buffer entry are lost; a translation is discarded, on a corrected error too (R297). -/
def Hart.loseEntry (h : Hart) (array entry : Nat) (words : BitVec 8) : Hart :=
  match array with
  | 0 => { h with l1i := tblErase h.l1i entry }
  | 1 => { h with lineBuf := h.lineBuf.filter (·.1 != entry) }
  | 2 => { h with l1d := dropFrom h.l1d entry }
  | 3 => { h with sb := h.sb.modify entry fun e => { e with bad := e.bad ||| words } }
  | _ => h.dropTranslation entry

/-- ACTION of an error in a core's array. -/
def coreAction (array : Nat) (fatal : Bool) : Nat := if !fatal then 1 else if array = 3 then 3 else 2

/-- An error in a core's array. -/
def coreArrayError (hart array entry : Nat) (words : BitVec 8) (fatal : Bool) (s : State) : State :=
  let g := hart / 12
  clusterError (hart / 4) fatal
    { cls := if fatal then 2 else 1, action := coreAction array fatal, kind := 1, part := partByte s hart, site := siteOf s g,
      logical := g, form := if fatal && array == 3 then 2 else 0, unit := hart, sub := array, hart := hart }
    (onlyIf (fatal || array == 4) (setHart hart ((s.hart hart).loseEntry array entry words)) s)

/-! The L2. -/

/-- The partition that owns a way (R265); under the legacy method, whose masks may share it, that of the line (R266). -/
def wayOwner (s : State) (g w : Nat) (x : Option L2Line) : Option Nat :=
  if legacyGallery s g then x.map (·.dom)
  else (List.range 16).find? fun p => (waysInForce s g p).testBit w

/-- An error of a way counted against it (R274): the objects, one record, the way disabled at its threshold, and the gallery retired
at the limit of ways (R277). -/
def wayError (g w sub action form addr : Nat) (fatal : Bool) (s : State) : State :=
  let ix := if fatal then 3 else 1
  let site := siteOf s g
  let (s1, n) := countHit (hitKey 2 (site * 16 + w) ix) (getO s nP 0x6F00 (ix + 1))
    (addO (nGal g) (if fatal then 0x6131 else 0x6130) (w + 1) 1 s)
  let cl := classifyOf n (getO s nP 0x6F00 ix)
  let s2 := record { cls := if fatal then 2 else 1, action := action, kind := 2, site := site, logical := g, form := form, addr := addr,
                     unit := g, sub := sub, classify := cl, count := n } s1
  if cl ≠ 2 then s2
  else
    let s3 := disableWay g w s2
    onlyIf (decide (getO s3 nP 0x6F00 5 ≤ countBits 16 (disabledWays s3 g))) (retireWorn g) s3

/-- An uncorrectable error in the data of a line (R176): a clean line is invalidated, the failing words of a dirty one are poison. -/
def loseData (g line : Nat) (words : BitVec 8) (s : State) : State :=
  match (s.l2 g line).st with
  | .m => poisonL2 g line words s
  | .s => removeL2 g line s
  | .e => removeL2 g line s
  | _ => s

/-- An error in an L2's data array. -/
def l2DataError (g w line : Nat) (words : BitVec 8) (fatal : Bool) (s : State) : State :=
  let dirty := (s.l2 g line).st == .m
  wayError g w w (if !fatal then 1 else if dirty then 3 else 2) (if fatal && dirty then 2 else 0) (64 * line) fatal
    (onlyIf fatal (loseData g line words) s)

/-- An error in an L2's tags and states. Uncorrectable, it is the fatal coherence error of the partition that owns the way (R323);
the line whose tag cannot be read is dropped (R324). -/
def l2TagError (g w : Nat) (line : Option Nat) (fatal : Bool) (s : State) : State :=
  let owner := wayOwner s g w (line.map (s.l2 g))
  let addr := match line with
    | some l => 64 * l
    | none => 2 ^ 64 - 1
  if !fatal then wayError g w (w + 0x100) 1 0 addr false s
  else
    let s1 := match line with
      | some l => removeL2 g l s
      | none => s
    let s2 := wayError g w (w + 0x100) (if owner.isSome then 6 else 0) 0 addr true s1
    match owner with
    | some p => domainDown p 2 g s2
    | none => s2

/-- Operands of an array error that exist. -/
def arrayErrorOk : ArrayError → Bool
  | .core array _ _ _ => decide (array < 5)
  | .l2 _ way set _ _ => decide (way < 16) && decide (set < 16384)

/-- An access of a running hart meets an error in an array of its core or of its gallery's L2. A disabled way is not accessed. -/
def meetArrayError (hart : Nat) (e : ArrayError) (s : State) : State :=
  let g := hart / 12
  match e with
  | .core array entry words fatal => coreArrayError hart array entry words fatal s
  | .l2 tag way set words fatal =>
    if !wayEnabled s g way then s
    else match tag, slotLine s g way set with
      | true, line => l2TagError g way line fatal s
      | false, some line => l2DataError g way line words fatal s
      | false, none => s

end Sys2Proof.Machine
end

