-- ==== Sys2Proof/Machine/Clocks.lean ====
section
/-! DEFINITION. The timebase and its servo (R66-R70), and the references of the dies (R71-R76). -/

namespace Sys2Proof.Machine

/-! The timebase (R66, R68). -/

/-- One nanosecond of the nominal rate: the timebase advances by one, by two or by none as the rate adjustment asks. -/
def tickClock (c : Clock) (rate : Int) : Clock :=
  let acc := c.rateAcc + rate
  if 1000000000 ≤ acc then { c with timebase := c.timebase + 2, rateAcc := acc - 1000000000 }
  else if acc ≤ -1000000000 then { c with rateAcc := acc + 1000000000 }
  else { c with timebase := c.timebase + 1, rateAcc := acc }

/-- What an idle step does: the always-on clock, where it runs, advances the timebase. -/
def tick (s : State) : State :=
  if s.clock.running then { s with clock := tickClock s.clock (getI s nP 0x2010 5) } else s

/-! The servo (R68, R69). -/

/-- The source code of 2010h.02h that a message belongs to. -/
def sourceOf (port : Nat) (ieee1588 : Bool) : Nat := if ieee1588 then 3 + port else 1 + port

/-- The rate that the servo applies after a message: an open value within ±200 ppm (R68). -/
def newRate (s : State) : State :=
  let (s1, v) := takeFree s
  setI nP 0x2010 5 ((v.toNat % 400001 : Nat) - (200000 : Int)) s1

/-- A forward step of the whole offset, while triggers are disarmed and the timebase is more than 1 ms behind. The source's time is
a TIME64, so the timebase never passes its end and never decreases (R66). -/
def forwardStep (offset : Int) (s : State) : State :=
  if 1000000 < offset ∧ (now s : Int) + offset < 2 ^ 64 ∧ s.hodo.armed = false then
    addO nP 0x2010 6 1 { s with clock := { s.clock with timebase := s.clock.timebase + BitVec.ofInt 64 offset } }
  else s

/-- The lock state after a message with this offset. -/
def lockAfter (offset : Int) (s : State) : State :=
  if offset.natAbs ≤ getO s nP 0x2010 7 then
    let n := s.clock.goodIntervals + 1
    setO nP 0x2010 3 (if 16 ≤ n then 2 else 1) { s with clock := { s.clock with goodIntervals := min n 16 } }
  else setO nP 0x2010 3 1 { s with clock := { s.clock with goodIntervals := 0 } }

/-- SYNC_MESSAGE_RECEIVED (R68, R69). -/
def execSyncMessageReceived (port : Nat) (ieee1588 : Bool) (offset : Int) (s : State) : Out :=
  within (decide (port < 2) && decide (-2 ^ 63 ≤ offset) && decide (offset < 2 ^ 63)) <|
    if s.clock.running && getO s nP 0x2010 2 == sourceOf port ieee1588 then
      lockAfter offset (forwardStep offset (newRate (setI nP 0x2010 4 offset s)))
    else s

/-- HOLDOVER_ENTRY: no message for 3 intervals; the last rate is kept (R69). -/
def execHoldoverEntry (s : State) : Out :=
  .next <|
    if s.clock.running && getO s nP 0x2010 2 != 0 && (getO s nP 0x2010 3 == 1 || getO s nP 0x2010 3 == 2) then
      addO nP 0x2010 8 1 (setO nP 0x2010 3 3 { s with clock := { s.clock with goodIntervals := 0 } })
    else s

/-- 2010h.02h: refused while triggers are armed; a new source starts in lock state 01h (R70). The last
offset and the rate adjustment stay: the spec does not say that free run clears them, and that is the model's choice. -/
def ruleDiscipline (v : Nat) : Rule := fun s =>
  if s.hodo.armed then refused 0 s
  else if v = getO s nP 0x2010 2 then answered s
  else answered (setO nP 0x2010 3 (if v = 0 then 0 else 1)
    (setO nP 0x2010 2 v { s with clock := { s.clock with goodIntervals := 0 } }))

/-! References of the dies (R71-R76). -/

/-- The always-on domain runs: any mode but OFF, or the steps of R80 that precede SERVICE. -/
def running (s : State) : Bool := s.modes.mode.on || s.modes.booting

/-- The die has power: an Archive die wherever the control domain runs, a gallery site when it is powered. -/
def diePowered (s : State) (die : Nat) : Bool :=
  if die < 24 then s.panel.powered.contains die else s.modes.mode == .service || s.modes.mode.active || s.modes.booting

/-- The bit that shows a reference. -/
def presBit (optical : Bool) : Nat := if optical then 0 else 1

/-- A record about a die's reference. -/
def refRecord (s : State) (die sub classify count : Nat) : ErrRec :=
  siteFields s die { cls := 4, action := 7, kind := 5, unit := die, sub := sub, classify := classify, count := count }

/-- The loss of the optical reference in use is counted; past the threshold the die keeps the electrical one (R450, R451). -/
def countOptical (die : Nat) (s : State) : State :=
  let (s1, n) := countHit (hitKey 5 die 0) (getO s nP 0x8206 2) s
  let cl := classifyOf n (getO s nP 0x8206 1)
  let s2 := record (refRecord s1 die 0 cl n) s1
  if cl = 2 ∧ s2.clock.opticalOff.contains die = false then
    record (siteFields s2 die { cls := 5, action := 9, kind := 5, unit := die, sub := 0 })
      { s2 with clock := { s2.clock with opticalOff := addTo s2.clock.opticalOff die } }
  else s2

/-- A powered die loses a reference: nothing more where it was not in use, a switch where the other one is present,
otherwise it holds frequency (R71, R73, R76). The loss of both at a gallery site is permanent on its first occurrence, CLASSIFY 03h (R449). -/
def loseReference (die : Nat) (optical : Bool) (s : State) : State :=
  let v := clrBit (refBits s die) (presBit optical)
  let inUse := !v.testBit 3 && (v.testBit 2 != optical)
  let s1 := setRef die v s
  if !diePowered s die then s1
  else if !inUse then record (refRecord s1 die (presBit optical) 0 0) s1
  else if v.testBit (presBit (!optical)) && (optical || !s.clock.opticalOff.contains die) then
    let s2 := addO nP 0x2020 5 1 (setRef die (if optical then setBit v 2 else clrBit v 2) s1)
    if optical then countOptical die s2 else record (refRecord s2 die 1 0 0) s2
  else
    record (refRecord s1 die 2 (if die < 24 then 3 else 0) 0) (setRef die (setBit v 3)
      { s1 with clock := { s1.clock with holdSince := tblSet 0 s1.clock.holdSince die (now s + 1) } })

/-- DIE_REFERENCE_LOSS. `engine`: the optical one is lost because the photonic engine's source failed, which 2020h.02h shows
(R75, R76); every die then has its own command. -/
def execDieReferenceLoss (die : Nat) (optical engine : Bool) (s : State) : Out :=
  within (decide (die < 28)) <|
    if running s && (refBits s die).testBit (presBit optical) then
      let s1 := if optical && engine then { s with clock := { s.clock with engineFailed := true } } else s
      loseReference die optical s1
    else s

/-- DIE_REFERENCE_RETURN: the presence bit, and the end of a hold on a reference that the die may use (R71, R73). An optical
reference that is back shows that the photonic engine sends again (R75). -/
def execDieReferenceReturn (die : Nat) (optical : Bool) (s : State) : Out :=
  within (decide (die < 28)) <|
    if running s && !(refBits s die).testBit (presBit optical) then
      let s := if optical then { s with clock := { s.clock with engineFailed := false } } else s
      let v := setBit (refBits s die) (presBit optical)
      if v.testBit 3 && !(optical && s.clock.opticalOff.contains die) then
        onlyIf (v.testBit 2 == optical) (addO nP 0x2020 5 1)
          (setRef die (if optical then clrBit (clrBit v 3) 2 else setBit (clrBit v 3) 2)
            { s with clock := { s.clock with holdSince := tblSet 0 s.clock.holdSince die 0 } })
      else setRef die v s
    else s

/-- REFERENCE_HOLDOVER_EXPIRY: 100 µs with no reference retire a gallery, or make an Archive die unavailable (R73). -/
def execReferenceHoldoverExpiry (die : Nat) (s : State) : Out :=
  within (decide (die < 28)) <|
    let since := tblGet 0 s.clock.holdSince die
    if (refBits s die).testBit 3 && since != 0 && decide (since - 1 + 100000 ≤ now s) then
      if die < 24 then
        if siteStateOf s die = 0 ∧ mayRetire s = true then beginRetirement (siteLogicalOf s die) 1 s else s
      else settle (dieUnavailable (die - 24) s)
    else s

/-- 2020h.03h: every powered die whose optical reference is present, and not disabled, returns to it (R72). -/
def ruleRevertOptical : Rule := fun s =>
  if s.hodo.armed ∨ promoting s = true then refused 0 s
  else actionDone (forAll (List.range 28) (fun die s =>
    let v := refBits s die
    if diePowered s die && v.testBit 0 && v.testBit 2 && !s.clock.opticalOff.contains die then
      addO nP 0x2020 5 1 (setRef die (clrBit v 2) s)
    else s) s)

/-- REVERT_TO_OPTICAL. -/
def execRevertToOptical (who : Requester) (value : Nat) (s : State) : Out :=
  .next (served who nP 0x2020 3 value ruleRevertOptical s)

end Sys2Proof.Machine
end

