-- ==== Sys2Proof/Machine/Lands.lean ====
section
/-! DEFINITION. What crosses the package outline (R472-R492): the land array, the supply rails, the levels of the output
pins and the fibre positions of the optical ports. -/

namespace Sys2Proof.Machine

/-! Lands (R473-R475). -/

/-- The land groups of R473 with their numbers of lands, by the first rail or signal that names each. -/
def landGroups : List (String × Nat) :=
  [("VSS", 3600), ("VDD_GAL", 1920), ("VDDM_GAL", 192), ("VDD_ROT", 480), ("VDD_CTL", 48), ("VDD_AON", 24), ("VIO", 16),
   ("VDD_HBM", 256), ("VDDQ_HBM", 224), ("VPP_HBM", 16), ("VDD_PHO", 96), ("VLD_PHO", 16), ("VDD_CPL", 224)] ++
  [("VDDQ_DDR", 96), ("VDD_ARC", 32), ("VDD_MRM", 16), ("DDR5 signals", 1440), ("Control field", 128), ("Sense", 30),
   ("Reserved", 362)]

/-- A signal of the control field: by name, or by name, instance and polarity where it comes in pairs. -/
inductive Land where
  | single (name : String)
  | pair (name : String) (instance_ : Nat) (positive : Bool)
  | reserved
deriving DecidableEq, Repr

/-- The lands of rows 83, 84 and 90, from column 41 on. -/
def controlRow (row : Nat) : List String :=
  match row with
  | 83 => ["FL_CLK", "FL_CS_N", "FL_DQS", "FL_DQ0", "FL_DQ1", "FL_DQ2", "FL_DQ3", "FL_DQ4", "FL_DQ5", "FL_DQ6", "FL_DQ7", "FL_RST_N"]
  | 84 => ["SG0_TX_P", "SG0_TX_N", "SG0_RX_P", "SG0_RX_N", "SG1_TX_P", "SG1_TX_N", "SG1_RX_P", "SG1_RX_N", "MDC", "MDIO",
           "PHY0_RST_N", "PHY1_RST_N", "PHY_INT_N"]
  | 90 => ["REFCLK_P", "REFCLK_N", "PORESET_N", "PWRFAIL_N", "THERMTRIP_N", "STAT0", "STAT1", "STAT2", "TCK", "TMS", "TDI", "TDO",
           "TRST_N", "CAN_TX", "CAN_RX", "CAN_STBY"]
  | _ => []

/-- The land at a row and column of the control field (R475): encoder pairs in rows 85 to 87, trigger pairs in 88 and 89. -/
def controlLand (row col : Nat) : Land :=
  let c := col - 41
  if col < 41 ∨ 56 < col then .reserved
  else match row with
    | 85 => .pair "ENC_A" (c / 2) (c % 2 == 0)
    | 86 => .pair "ENC_B" (c / 2) (c % 2 == 0)
    | 87 => .pair "ENC_Z" (c / 2) (c % 2 == 0)
    | 88 => .pair "TRG" (c / 2) (c % 2 == 0)
    | 89 => .pair "TRG" (8 + c / 2) (c % 2 == 0)
    | _ => match (controlRow row)[c]? with
      | some n => .single n
      | none => .reserved

/-! Supply rails (R476-R480). -/

/-- A rail: nominal voltage and limits in mV, bound current in mA, and whether it is held up in a power failure. -/
structure Rail where
  name : String
  nominal : Nat
  low : Nat
  high : Nat
  bound : Nat
  holdUp : Bool := false
deriving DecidableEq, Repr

/-- The rails in the row order of R477, which 8401h follows (R494). -/
def rails : List Rail :=
  [⟨"VDD_AON", 800, 776, 824, 6000, true⟩, ⟨"VIO", 1800, 1710, 1890, 2000, true⟩, ⟨"VDD_CTL", 800, 776, 824, 18000, true⟩,
   ⟨"VDD_ARC", 800, 776, 824, 14000, true⟩, ⟨"VDD_MRM", 1800, 1710, 1890, 4000, true⟩, ⟨"VDD_ROT", 750, 728, 772, 180000, false⟩,
   ⟨"VDD_CPL", 750, 728, 772, 85000, false⟩, ⟨"VDDQ_DDR", 1100, 1067, 1133, 40000, false⟩] ++
  [⟨"VDD_PHO", 900, 873, 927, 40000, false⟩, ⟨"VLD_PHO", 2500, 2375, 2625, 5000, false⟩, ⟨"VPP_HBM", 1800, 1710, 1890, 3000, false⟩,
   ⟨"VDD_HBM", 1100, 1067, 1133, 100000, false⟩, ⟨"VDDQ_HBM", 400, 388, 412, 90000, false⟩,
   ⟨"VDDM_GAL", 850, 825, 875, 60000, false⟩, ⟨"VDD_GAL", 750, 728, 772, 640000, false⟩]

/-- The rail that a number names. -/
def railAt (n : Nat) : Option Rail := rails[n]?

/-- A rail is monitored: every one while PWRFAIL_N is high, then those marked for hold-up (R480). -/
def railWatched (s : State) (n : Nat) : Bool :=
  match railAt n with
  | some r => s.power.pwrfailN || r.holdUp
  | none => false

/-! Levels of the output pins. -/

/-- The CAN FD port runs: enabled, and not in OFF or KEEP (R409, R490). -/
def canRuns (s : State) : Bool :=
  (s.modes.mode == .service || s.modes.mode.active) && getO s nV 0x1200 4 == 1

/-- The CAN FD port takes frames and sends them: it runs and is not bus-off (R414). -/
def canOn (s : State) : Bool := canRuns s && getO s nV 0x1200 5 != 3

/-- CAN_STBY is high: the transceiver is in standby (R490). -/
def canStandby (s : State) : Bool := !canRuns s

/-- PHY0_RST_N and PHY1_RST_N are high: released at the end of step 6 of R80 (R488). -/
def phyReleased (s : State) : Bool := s.modes.mode.on

/-- FL_RST_N is high: not in OFF; the flash is read from step 2 of R80 on (R491). -/
def flashReleased (s : State) : Bool := s.modes.mode.on || s.modes.booting

/-- TRG0-TRG15 are driven: from the end of step 6 of R80 until OFF; otherwise high-impedance (R487). -/
def triggersDriven (s : State) : Bool := s.modes.mode.on

/-- The transmitter of lane `n` is lit (R120, R492). -/
def laneLit (s : State) (n : Nat) : Bool := s.modes.mode.active && getO s (nLane n) 0x4010 1 == 1

/-! Optical ports (R492). -/

/-- The receptacle and the positions on which a lane transmits and receives. -/
def fibreOf (lane : Nat) : Nat × Nat × Nat :=
  let k := lane % 8 + 1
  (lane / 8, k, 17 - k)

end Sys2Proof.Machine
end

