-- ==== Sys2Proof/Machine/Power.lean ====
section
/-! DEFINITION. Power-on reset, power-up and the ways into OFF (R74, R77-R81, R91, R380, R433, R480-R486, R493). -/

namespace Sys2Proof.Machine

/-! Into OFF (R77). -/

/-- A site under test for a promotion returns to STATE 1; the promotion is remembered with the site map (R61). -/
def dropTrial (s : State) : State :=
  match s.panel.promo with
  | some x => match x.trying with
    | some r => setSite r 1 0 0xFF s
    | none => s
  | none => s

/-- Everything that OFF loses is lost: what stays are the committed objects, the Archive medium and its commits, the boot
flash, the pins and the cause latch. -/
def powerLoss (s0 : State) : State :=
  let s := dropTrial s0
  { obj := s.obj.filter fun e => persists e.1
    power := { poresetN := s.power.poresetN, pwrfailN := s.power.pwrfailN, refclk := s.power.refclk, stat := s.power.stat
               thermtrip := s.power.thermtrip, causeLatch := s.power.causeLatch, archCause := s.power.archCause
               lostBuffer := s.power.lostBuffer, offHeld := s.power.offHeld, aonOut := s.power.aonOut }
    panel := { wayDisabled := s.panel.wayDisabled
               promo := s.panel.promo.map fun x => { x with trying := none } }
    mem := { committedPcs := s.mem.committedPcs, committedChannels := s.mem.committedChannels }
    arch := { medium := s.arch.medium, writes := s.arch.writes, copies := s.arch.copies, generation := s.arch.generation
              retiredDies := s.arch.retiredDies, retiredFrames := s.arch.retiredFrames }
    strong := { flash := s.strong.flash, written := s.strong.written, tags := s.strong.tags
                decommissioned := s.strong.decommissioned }
    errs := { committed := s.errs.committed }
    free := s.free
    emitted := s.emitted
    pending := s.pending }

/-- OFF with a cause in the latch and STAT as given. `held`: not yet the power-on reset that lifts the hold, so that THERMTRIP_N
stays latched (R77, R493). -/
def enterOff (cause : Nat) (stat : BitVec 3) (held : Bool) (s : State) : State :=
  powerLoss { s with power := { s.power with causeLatch := cause, stat := stat, offHeld := held, resetting := false,
                                             thermtrip := held && s.power.thermtrip } }

/-- A transition that power ends is recorded as abandoned with its cause (R83, R90). -/
def cutTransition (cause : Nat) (s : State) : State :=
  match s.modes.trans with
  | none => s
  | some t => setLastTransition t.src t.dst 1 cause t.start s

/-- STAT while it reads a code, sent out as such (R486). -/
def showStat (code : BitVec 3) (s : State) : State :=
  emit (.stat code.toNat) { s with power := { s.power with stat := code } }

/-- Triggers disarm, deposit stops, the Archive drains and commits the cause while STAT reads 110 (R74, R91, R380, R486); a
transition is abandoned with its own cause code. -/
def stopAndDrain (abandon cause : Nat) (found : List (Nat × Bool)) (s : State) : State :=
  let s1 := powerFailDrain found (showStat 6 (setDeposit false (disarmAll false (cutTransition abandon s))))
  { s1 with power := { s1.power with archCause := cause } }

/-- A cut that breaks a drain off: a fall of PORESET_N, or a rail that is watched (R480). -/
def cutActs (s : State) (c : DrainCut) : Bool :=
  match c.rail with
  | none => true
  | some r => railWatched s r

/-- The cause of a power-on reset, by what makes it (R79, R482): PORESET_N, VDD_AON, which loses the latch, or another rail. -/
def resetCause (rail : Option Nat) : Nat :=
  match rail with
  | none => 1
  | some r => if r = 0 then 0 else 2

/-- A drain into OFF is broken off: a power-on reset, held while PORESET_N is low (R79, R381, R480, R482). -/
def cutDrain (found : List (Nat × Bool)) (c : DrainCut) (s : State) : State :=
  let t := enterOff (resetCause c.rail) 0 false
    (brokenDrain found c.units (showStat 6 (setDeposit false (disarmAll false s))))
  { t with power := { t.power with poresetN := c.rail.isSome, aonOut := c.rail == some 0 } }

/-- POWER_FAIL: PWRFAIL_N falls (R91, R481, R482). In OFF before a power-up it is noted, or holds the N24 in OFF. The N24 acts on
the fall only; `rises` is the pin's return, which the refusal 07h of R86 reads. `found`: the sectors in which the drain finds an error, with
whether it is uncorrectable (R383); `cut`: how the drain is broken off, where it is. -/
def execPowerFail (rises : Bool) (found : List (Nat × Bool)) (cut : Option DrainCut) (s : State) : Out :=
  within (foundOk found) <|
    let s1 := { s with power := { s.power with pwrfailN := rises } }
    if rises || !s.power.pwrfailN then s1
    else if running s then match cut.filter (cutActs s1) with
      | none => enterOff 5 7 true (stopAndDrain 4 5 found s1)
      | some c => cutDrain found c s1
    else if s.power.poresetN && !s.power.offHeld then { s1 with power := { s1.power with offHeld := true, stat := 7 } }
    else s1

/-- A mode in which the Archive's volatile buffer may hold sectors: KEEP drained it (R87), and OFF has none. -/
def bufferInUse (s : State) : Bool := s.modes.mode.on && s.modes.mode != .keep

/-- RAIL_OUT_OF_LIMITS: an immediate power-on reset with no drain, in OFF too; once PWRFAIL_N is low only the five hold-up rails
are watched (R480). Rails by their number in `rails`; rail 0 is VDD_AON, which holds the cause latch (R79) and powers the monitors: none
acts once it has failed (R472). While PORESET_N is low the package is in power-on reset already, and only the latch of VDD_AON is lost. -/
def execRailOutOfLimits (rail : Nat) (s : State) : Out :=
  within (decide (rail < 15)) <|
    let t := onlyIf (decide (rail = 0)) (fun s => { s with power := { s.power with aonOut := true } }) s
    if s.power.aonOut then s
    else if !s.power.poresetN && !running s then
      onlyIf (decide (rail = 0)) (fun s => { s with power := { s.power with causeLatch := 0 } }) t
    else if railWatched s rail then
      let s1 := enterOff (if rail = 0 then 0 else 2) 0 false t
      onlyIf (bufferInUse s) (setO nP 0xA000 0x0A 1)
        { s1 with power := { s1.power with lostBuffer := s1.power.lostBuffer || bufferInUse s } }
    else s

/-- PORESET_N_ASSERTED: power-on reset held while the pin is low (R77); a drain under way is abandoned. -/
def execPoresetNAsserted (s : State) : Out :=
  .next <|
    let s1 := enterOff (if running s then 1 else s.power.causeLatch) 0 false s
    { s1 with power := { s1.power with poresetN := false } }

/-- 2030h.01h: refused in LOCKSTEP and KEEP, during a transition and while a promotion is in progress (R78). -/
def rulePackageReset : Rule := fun s =>
  if s.modes.mode = .lockstep ∨ s.modes.mode = .keep ∨ s.modes.trans.isSome = true ∨ promoting s = true then refused 0 s
  else actionDone { s with power := { s.power with resetting := true } }

/-- PACKAGE_RESET: acknowledged, then a power-on reset without removing power (R77, R78). -/
def execPackageReset (who : Requester) (value : Nat) (s : State) : Out :=
  let t := served who nP 0x2030 1 value rulePackageReset s
  .next (if accepted who s t && t.power.resetting then enterOff 3 0 false (emit (.acknowledged who) t) else t)

/-! REFCLK (R74). -/

/-- REFCLK_LOSS: the mode is kept for 10 ms; one error record. So it is in the steps of R80 before SERVICE. -/
def execRefclkLoss (s : State) : Out :=
  .next <|
    if !s.power.refclk then s
    else if running s then
      record { cls := 4, action := 7, kind := 5, unit := 0xFFFFFFFF, sub := 3 }
        (setO nP 0x2020 1 0 { s with power := { s.power with refclk := false, refclkLost := some (now s) } })
    else { s with power := { s.power with refclk := false } }

/-- REFCLK_RETURN: within the 10 ms the hold ends; in OFF the pin is back (R74). -/
def execRefclkReturn (s : State) : Out :=
  .next <|
    if s.power.refclk then s
    else
      onlyIf (running s) (setO nP 0x2020 1 1)
        { s with power := { s.power with refclk := true, refclkLost := none } }

/-- REFERENCE_LOSS_STOP: 10 ms without REFCLK (R74). -/
def execReferenceLossStop (found : List (Nat × Bool)) (cut : Option DrainCut) (s : State) : Out :=
  within (foundOk found) <|
    match s.power.refclkLost with
    | none => s
    | some t =>
      if running s && decide (t + 10000000 ≤ now s) then
        match cut.filter (cutActs s) with
        | none => enterOff 4 3 true (addO nP 0x2020 4 1 (stopAndDrain 5 4 found s))
        | some c => cutDrain found c (addO nP 0x2020 4 1 s)
      else s

/-! Thermal protection (R493). -/

/-- The sensor exists. -/
def sensorOk : Sensor → Bool
  | .site n => decide (n < 24)
  | .rotunda => true
  | .stack n => decide (n < 4)
  | .archive n => decide (n < 4)

/-- THERMAL_TRIP: THERMTRIP_N latched, STAT 100, 8403h.01h counts. The board wires it to PWRFAIL_N. -/
def execThermalTrip (sensor : Sensor) (s : State) : Out :=
  within (sensorOk sensor) <|
    if running s && !s.power.thermtrip then
      addO nP 0x8403 1 1 { s with power := { s.power with thermtrip := true, stat := 4 } }
    else s

/-- THERMAL_THROTTLE_ENTRY: the site's clocks halve, 8402h counts; timing only. -/
def execThermalThrottleEntry (site : Nat) (s : State) : Out :=
  within (decide (site < 24)) <|
    if s.panel.powered.contains site && !s.power.throttled.contains site then
      addO nP 0x8402 (site + 1) 1 { s with power := { s.power with throttled := addTo s.power.throttled site } }
    else s

/-- THERMAL_THROTTLE_EXIT. -/
def execThermalThrottleExit (site : Nat) (s : State) : Out :=
  within (decide (site < 24)) { s with power := { s.power with throttled := dropFrom s.power.throttled site } }

/-! Power-up (R80, R433). -/

/-- The boot flash as it left the factory, in the targets that nothing has written since. -/
def factoryFlash (env : BootEnv) (s : State) : State :=
  forAll env.factory (fun e s =>
    if s.strong.written.contains e.1 then s
    else
      let s1 := programFlash e.1 0 e.2 s
      { s1 with strong := { s1.strong with written := addTo s1.strong.written e.1 } }) s

/-- Step 2: the booted bank is the active one and verified; a slot or bank that holds an image reads 04h. -/
def bootStrong (bank : Nat) (s : State) : State :=
  let targets := [0, 1] ++ (List.range 8).map (16 + ·)
  let s1 := forAll targets (fun t s =>
    onlyIf ((slotState s t != 0 || holdsImage s t) && slotState s t != 3) (setSlotState t 4) s) s
  let s2 := showHeader bank (setSlotState bank 1 (onlyIf (getO s nS 0x7100 7 != bank && slotState s1 (1 - bank % 2) != 3)
    (setSlotState (1 - bank % 2) 2) s1))
  { setO nS 0x7100 4 (flashLe s2 bank 8 4) (setO nS 0x7100 7 bank s2) with
    strong := { s2.strong with curator := flashLe s2 bank 32 48, curatorVersion := flashLe s2 bank 80 16 } }

/-- The module of an Archive die trains initially: its lanes are tested from scratch, and a die that does not answer holds no epoch
and no width (R43, R44, R47). -/
def bootDie (env : BootEnv) (d : Nat) (s : State) : State :=
  if env.diesUp.getLsbD d then
    initialTraining (24 + d) false (fun _ => env.archiveLanes.toNat / 2 ^ (16 * d) % 2 ^ 16) s
  else setMod (24 + d) 0 1 0 (setMod (24 + d) 0 2 3 (setMod (24 + d) 0 3 0 s))

/-- A die's state once its module has trained; one that is out of service misses the records written from then on (R361). -/
def settleDie (d : Nat) (s : State) : State :=
  let v := if s.arch.retiredDies.contains d then 3 else if 8 ≤ getMod s (24 + d) 0 1 then 0 else 2
  setO nP (0xA010 + d) 1 v (if v = 0 then renewCopy d s else leaveCopy d s)

/-- The Archive modules train, and the newest copy of the system area that a die holds is read (R361). -/
def loadSystem (env : BootEnv) (s : State) : State :=
  let s1 := forAll [0, 1, 2, 3] (bootDie env) s
  let up := [0, 1, 2, 3].filter fun d => decide (8 ≤ getMod s1 (24 + d) 0 1)
  forAll [0, 1, 2, 3] settleDie (match bestCopy up s1 with
    | some x => loadCopy x s1
    | none => s1)

/-- Step 3, once the system area is read: retirements and durable sequences, DIMMs. A channel whose Enable is kept is enabled: its state
is no kept object (R388). -/
def bootArchive (env : BootEnv) (s : State) : State :=
  let s1 := { s with mem := { s.mem with dimms := env.dimms } }
  let s2 := forAll (List.range 64) (fun c s =>
    let d := getO s nP (0xA200 + c) 5
    onlyIf (getO s nP (0xA200 + c) 1 == 1) (setO nP (0xA200 + c) 7 1)
      (setO nP (0xA200 + c) 4 ((d + 1) % 2 ^ 32) (setChan c { s.chan c with trueD := d } s))) s1
  let s3 := forAll (List.range 4) (fun st s =>
    let n := s.mem.committedPcs.filter (· / 32 == st)
    setO nP (0x5020 + st) 1 (if n.length = 32 then 2 else 3)
      (setO nP (0x5020 + st) 2 (n.foldl (fun acc pc => setBit acc (pc % 32)) 0) s)) s2
  forAll (List.range 8) (fun c s =>
    setO nP (0x5030 + c) 2 (population s c).length (setO nP (0x5030 + c) 1 (channelState s false c) s)) s3

/-- Security records whose tags fail are treated as absent, with one error record each (R432). -/
def bootTags (env : BootEnv) (s : State) : State :=
  forAll (bitsOf 12 env.badTags.toNat) (fun n s => record { cls := 4, action := 0, kind := 0x0D, unit := 0xFFFFFFFF }
    { s with obj := tblDrop (fun k => k / 2 ^ 8 == nS * 2 ^ 16 + securityIndex n) s.obj }) s

/-- 2030h.02h and 2030h.03h (R79). -/
def bootCause (s : State) : State :=
  let c := if s.power.causeLatch ≠ 0 then s.power.causeLatch else if s.power.archCause ≠ 0 then s.power.archCause else 1
  addO nP 0x2030 3 1 (setO nP 0x2030 2 c { s with power := { s.power with causeLatch := 0, archCause := 0 } })

/-- A buffer lost with no drain is reported once (R381). -/
def bootLostBuffer (s : State) : State :=
  if s.power.lostBuffer then
    record { cls := 4, action := 0, kind := 0x0D, unit := 0xFFFFFFFF }
      { s with power := { s.power with lostBuffer := false } }
  else s

/-- Step 4: the reference detectors. The Archive dies have power. -/
def bootReferences (env : BootEnv) (s : State) : State :=
  let present := fun die => (if env.optical.getLsbD die then 1 else 0) + (if env.electrical.getLsbD die then 2 else 0)
  forAll [24, 25, 26, 27] powerRef (setO nP 0x2020 1 1 (forAll (List.range 28) (fun die s => setRef die (present die) s) s))

/-- 2103h.01h: the common subset, computed once per power-up over the sites that are active or reserve after identification; a site
of another major revision is on its way out (R52, R54). -/
def showFeatures (s : State) : State :=
  let sites := (List.range 24).filter fun n =>
    (siteStateOf s n == 0 || siteStateOf s n == 1) && (identOf s n).major == 2
  setO nP 0x2103 1 (sites.foldl (fun acc n => acc &&& featureWord s n) 3) s

/-- The abandoned promotion of the last power cycle is reported, and goes on with step 5 (R61). -/
def resumePromotion (x : Promotion) (s : State) : State :=
  nextReserve (record { cls := 5, action := 0, kind := 0x11, unit := x.oldSite, site := x.oldSite, logical := x.gallery, code := 3 }
    (setO nP 0x2102 3 1 (promotionRecord x none 3
      { s with panel := { s.panel with promo := some { x with trying := none, failed := false } } })))

/-- Step 5: identification; a site of another major revision is refused (R52, R53). An abandoned promotion is reported and
goes on with its step 5 (R61). -/
def bootSites (idents : List (Nat × SiteId)) (s : State) : State :=
  let tab := idents.foldl (fun l e => tblSet {} l e.1 e.2) []
  let s1 := { s with panel := { s.panel with ident := tab, promo := none } }
  let s2 := forAll ((List.range 24).filter fun n => siteStateOf s1 n != 3) (fun n s =>
    let t := showIdent n s
    onlyIf ((identOf t n).major != 2 && siteStateOf t n == 1) (commitRetired n 3 0xFF) t) s1
  let s3 := showFeatures (countReserves s2)
  let s4 := match s.panel.promo with
    | none => s3
    | some x => resumePromotion x s3
  forAll ((List.range 22).filter fun g => siteOf s4 g != 0xFF && (identOf s4 (siteOf s4 g)).major != 2)
    (fun g s => beginRetirement g 3 s) s4

/-- Partitions, galleries, the field ports, whose links are still down, and the CAN FD port as step 6 leaves them (R413, R423). -/
def bootUnits (s : State) : State :=
  let s1 := forAll (List.range 16) (fun p s =>
    setReq (.mailbox p) { cursor := some 1 } (if defined s p then setO nS 0x7040 (p + 1) 1 (setO nC 0x6810 (p + 1) 3 s)
      else setO nC 0x6810 (p + 1) 4 s)) s
  let s2 := forAll (List.range 22) (fun g s => forceGallery g (showDisabled g s)) s1
  let s2 := forAll [0x1100, 0x1101] (fun ix s => onlyIf (getO s nV ix 1 == 1) (setO nV ix 7 1) s) s2
  let s3 := { s2 with cat := { s2.cat with
    nmt := .preOperational, canNodeId := getO s2 nV 0x1200 1, canRates := (getO s2 nV 0x1200 2, getO s2 nV 0x1200 3) } }
  if getO s3 nV 0x1200 4 = 1 then emit (.bootUp s3.cat.canNodeId) (setO nV 0x1200 5 1 s3) else s3

/-- A selected source starts in lock state 01h at power-up too, so that silence can end in holdover (R69, R70). -/
def bootServo (s : State) : State := onlyIf (getO s nP 0x2010 2 != 0) (setO nP 0x2010 3 1) s

/-- Step 6: the ports open, the N24 is in SERVICE, and the power-up mode request is due (R80, R81). The way from OFF to SERVICE counts
nothing in 2000h.09h and leaves 2000h.07h as it was: R83 does not say whether it is a transition that they tell of, and this is the
model's choice. After a thermal trip on the way STAT stays at 100 (R486, R493). -/
def finishBoot (s : State) : State :=
  let s1 := { s with modes := { mode := .service, waitImages := true }, power := { s.power with stat := if s.power.thermtrip then 4 else 5 } }
  setO nP 0x2000 6 1 (hodoRestart (bootUnits s1))

/-- Step 5 ends when no promotion is in progress or waits; step 6 then follows (R80). -/
def bootOn (s : State) : State :=
  if s.modes.booting && s.panel.promo.isNone && s.panel.promoQueue.isEmpty then finishBoot s else s

/-- R80 from the timebase start to SERVICE, or to the self-test of a reserve whose promotion step 5 must end first. -/
def powerUp (bank : Nat) (env : BootEnv) (s : State) : State :=
  let s1 := { s with clock := { running := true }, modes := { booting := true },
                     power := { s.power with poresetN := true, stat := 0, aonOut := false } }
  let s2 := bootReferences env (bootServo (bootTags env (bootArchive env (bootCause (loadSystem env (bootStrong bank s1))))))
  bootOn (bootSites env.idents (bootLostBuffer s2))

/-- A target of the boot flash. -/
def flashTargetOk (t : Nat) : Bool := decide (t < 2) || (decide (16 ≤ t) && decide (t < 24))

/-- POWER_ON_RESET: PORESET_N is high again with every supply and REFCLK within limits (R80, R433, R482). -/
def execPowerOnReset (boot : BootOutcome) (env : BootEnv) (s : State) : Out :=
  within (env.factory.all fun e => flashTargetOk e.1 && decide (e.2.length ≤ flashRoom e.1)) <|
    if running s = true ∨ s.power.offHeld = true ∨ s.power.refclk = false then s
    else
      let s1 := factoryFlash env s
      let failed := fun (stat : BitVec 3) =>
        { s1 with power := { s1.power with poresetN := true, stat := stat, offHeld := true, aonOut := false } }
      match boot with
      | .selfTestFailed => failed 1
      | .banks good0 good1 => match bootBank s1 good0 good1 with
        | none => failed 2
        | some bank => powerUp bank env s1

/-- SITE_SELF_TEST_COMPLETE: the site of a promotion or of a retest (R57, R59); `ways`: the L2 ways that its self-test found bad
(R278). The self-tests of a transition are carried by its completion. A promotion of step 5 of R80 that ends lets the power-up go on. -/
def execSiteSelfTestComplete (site : Nat) (pass : Bool) (training : Training) (ways : BitVec 16) (s : State) : Out :=
  within (decide (site < 24)) <|
    let verdict := siteVerdict s site pass training
    match s.panel.promo with
    | some x =>
      if x.trying = some site then
        bootOn (if verdict = 0 then promote x site (badLanes training) (addBadWays site ways (showIdent site s))
          else reserveFails x site verdict s)
      else if s.panel.retest.any (·.1 == site) then retestDone site verdict ways s else s
    | none => if s.panel.retest.any (·.1 == site) then retestDone site verdict ways s else s

end Sys2Proof.Machine
end

