-- ==== Sys2Proof/Machine/Modes.lean ====
section
/-! DEFINITION. Mode requests, transitions and their completion (R81-R90). -/

namespace Sys2Proof.Machine

/-! Requests (R84, R86). -/

/-- The transitions that the table lets a request make (R84). -/
def permits : Mode → Mode → Bool
  | .keep, .service => true
  | .keep, .run => true
  | .service, .run => true
  | .run, .keep => true
  | .run, .service => true
  | .run, .lockstep => true
  | .lockstep, .run => true
  | .limp, .service => true
  | _, _ => false

/-- A partition starts, runs or stops. -/
def somePartitionRuns (s : State) : Bool :=
  (List.range 16).any fun p => partState s p == 2 || partState s p == 3 || partState s p == 4

/-- The position programs that are valid and the encoder of one of them is under a fault, or no program is valid (R85, R99,
R101). -/
def programsBlock (s : State) : Bool :=
  let valid := (List.range 32).filter (progValid s)
  valid.isEmpty || (List.range 8).any fun e => encFault s e && valid.any fun n => usesEncoder s n e

/-- The code that refuses a request for `dst`, 0 for none; where several apply, in this order (R86; DEDUCED). -/
def modeRefusal (s : State) (dst : Mode) : Nat :=
  let src := s.modes.mode
  if s.modes.trans.isSome ∨ promoting s = true then 1
  else if permits src dst = false then 2
  else if s.power.pwrfailN = false then 7
  else if (dst = .keep ∨ dst = .service) ∧ (src = .run ∨ src = .limp) ∧ somePartitionRuns s = true then 3
  else if src = .service ∧ (s.panel.retest ≠ [] ∨ (getO s nS 0x7100 3 == 0 && !(namedSlots s).isEmpty)) then 9
  else if dst = .lockstep ∧ getO s nP 0x2010 2 ≠ 0 ∧ getO s nP 0x2010 3 ≠ 2 then 4
  else if dst = .lockstep ∧ programsBlock s = true then 5
  else if dst = .lockstep ∧ enabledCtxs s = [] then 6
  else 0

/-- The transition is accepted (R85): LOCKSTEP → RUN disarms at once. -/
def beginTransition (dst : Mode) (cause : Nat) (owner : Option (Requester × Nat)) (s : State) : State :=
  let t : Transition := { src := s.modes.mode, dst := dst, cause := cause, start := now s, owner := owner }
  onlyIf (s.modes.mode == .lockstep) beginDisarm
    (setO nP 0x2000 6 1 { s with modes := { s.modes with trans := some t, waitImages := false } })

/-- 2000h.02h. -/
def ruleMode (who : Requester) (v : Nat) : Rule := fun s =>
  let code := if s.modes.waitImages then 1 else match modeOf v with
    | some dst => modeRefusal s dst
    | none => 2
  if code ≠ 0 then refused code (setO nP 0x2000 5 code s)
  else match modeOf v with
    | some dst => actionPending (beginTransition dst 0 (some (who, s.cat.nextTag)) s)
    | none => refused 2 s

/-- MODE_REQUEST. -/
def execModeRequest (who : Requester) (value : Nat) (s : State) : Out :=
  .next (served who nP 0x2000 2 value (ruleMode who value) s)

/-- POWER_UP_MODE_REQUEST: the request of 2000h.03h, which for RUN waits until the named images are verified (R81). -/
def execPowerUpModeRequest (s : State) : Out :=
  .next <|
    if s.modes.mode = .service ∧ s.modes.waitImages = true then
      let dst : Mode := if getO s nP 0x2000 3 = 2 then .service else .run
      if dst = .run ∧ namedSlots s ≠ [] ∧ getO s nS 0x7100 3 = 0 then s
      else
        let s1 := setO nP 0x2000 6 0 { s with modes := { s.modes with waitImages := false } }
        let code := modeRefusal s1 dst
        if code ≠ 0 then setO nP 0x2000 5 code s1 else beginTransition dst 1 none s1
    else s

/-- 2000h.08h: accepted only in LIMP, with the codes of R86 (R83, R89). -/
def ruleAcknowledge (flash : List Nat) : Rule := fun s =>
  let code := if s.modes.trans.isSome then 1 else if s.modes.mode ≠ .limp then 2 else 0
  if code ≠ 0 then refused code (setO nP 0x2000 5 code s) else actionDone (leaveLimp flash s)

/-- ACKNOWLEDGE_LOSS. `flash`: partitions whose automatic start meets a read error of the boot flash (R424). -/
def execAcknowledgeLoss (who : Requester) (value : Nat) (flash : List Nat) (s : State) : Out :=
  within (flash.all (decide <| · < 16)) (served who nP 0x2000 8 value (ruleAcknowledge flash) s)

/-! What stops and starts with a mode. -/

/-- Every dirty line, and every writeback in flight, goes to memory (R87). -/
def writeBackAll (s : State) : State :=
  let s1 := forAll s.conc.msgs (fun m s => match m.2.dirty with
    | some d => ctlWriteback (.l2 m.2.gallery) m.2.line d s
    | none => s) s
  forAll (s1.caches.l2.filter fun e => e.2.st == .m) (fun e s => ctlWriteback (.l2 (e.1 / 2 ^ 46)) (e.1 % 2 ^ 46) e.2.copy s) s1

/-- A line that KEEP retains: valid, in a locked way. -/
def retained (s : State) (e : Nat × L2Line) : Bool :=
  e.2.st != .i && wayState s (e.1 / 2 ^ 46) e.2.way == 2

/-- Ways of a kind become NORMAL on every gallery. -/
def waysNormal (st : Nat) (s : State) : State :=
  forAll (List.range 22) (fun g s => forAll (List.range 16) (fun w s =>
    onlyIf (wayState s g w == st) (setO (nGal g) 0x6110 (w + 1) 0) s) s) s

/-- A gallery whose retirement is in progress or waits: its fence ends with the sequence (R59, R61). -/
def retiring (s : State) (g : Nat) : Bool :=
  (match s.panel.promo with
    | some x => x.gallery == g
    | none => false) || s.panel.promoQueue.any fun x => x.gallery == g

/-- Cores, Vitrines, Concourse, queue runtime, mailboxes and lanes end with the fabric (R87). The trainings of the galleries end with
their power, and so do their fences (R42, R50); those of the Archive dies only where `archive` says that these lose power too. -/
def stopFabric (archive : Bool) (s : State) : State :=
  let sites := s.panel.powered
  let stays := fun die => !archive && decide (24 ≤ die)
  let trained := (List.range 22).filter fun g => siteOf s g != 0xFF && trainingMods s (siteOf s g) != [] && !retiring s g
  let s1 := { s with
    harts := [], vits := [], queues := []
    conc := { faultyWays := s.conc.faultyWays, causeGallery := s.conc.causeGallery }
    power := { s.power with throttled := [] }
    panel := { s.panel with
      powered := [], replays := []
      training := s.panel.training.filter fun e => stays (e.1 / 4)
      full := s.panel.full.filter stays
      kept := s.panel.kept.filter fun e => stays (e.1 / 4)
      galEnd := s.panel.galEnd.filter fun e => stays (e.1 / 4)
      retestMods := s.panel.retestMods.filter fun m => stays (m / 4) }
    cat := { s.cat with mbox := [], queue := s.cat.queue.filter fun w => !isMailbox w.who } }
  forAll trained (fun g s => setO (nGal g) 0x6000 7 0 s) (forAll sites unpowerRef (lanesOn false s1))

/-- Mailbox results are lost; the cursor and the RW objects 1F80h.01h and 8002h.01h stay (R87, R394, R404, R446). -/
def dropMailboxes (s : State) : State :=
  forAll (List.range 16) (fun p s =>
    let r := s.req (.mailbox p)
    setReq (.mailbox p) { cursor := r.cursor, selected := r.selected, select := r.select } s) s

/-- The queues' runtime objects and those of their blocks are lost (R87, R351). -/
def dropQueueRuntime (s : State) : State :=
  { s with obj := tblDrop (fun k => k / 2 ^ 48 == 9 && k / 2 ^ 8 % 2 ^ 16 == 0xB110) s.obj }

/-- The corrected errors that the entry into KEEP finds in locked ways (R193). -/
def keepErrors (env : TransEnv) (s : State) : State :=
  forAll env.keepErrors (fun e s =>
    match slotLine s e.1 e.2.1 e.2.2 with
    | some line => onlyIf (wayState s e.1 e.2.1 == 2) (l2DataError e.1 e.2.1 line 0 false) s
    | none => s) s

/-- RUN → KEEP (R87). The session objects and results of CAN FD clients stay: R87 lists only those of field-network sessions, and R404
names KEEP only for the mailboxes. Keeping them is the model's choice. -/
def enterKeep (env : TransEnv) (s : State) : State :=
  let s := keepErrors env s
  let s1 := discardLines (loseResults (drainCommit env.archive (writeBackAll s)))
  let lines := (s1.caches.l2.filter (retained s1)).map fun e => (e.1, { e.2 with st := L2St.s })
  let s2 := waysNormal 1 { s1 with caches := { l2 := lines } }
  forAll [24, 25, 26, 27] unpowerRef (dropQueueRuntime (dropMailboxes (stopFabric true (keepMemory true s2))))

/-- The failed lanes that the trainings of a transition find at a die's module (R44). -/
def trainLanes (env : TransEnv) (die m : Nat) : Nat :=
  (tblGet 0#64 env.badLanes die).toNat / 2 ^ (16 * m) % 2 ^ 16

/-- At KEEP exit the Archive dies have power again and their modules train, lanes retired earlier staying so (R44, R47); a die whose
module is narrower than x8 is unavailable (R43). -/
def startArchive (env : TransEnv) (s : State) : State :=
  forAll [0, 1, 2, 3] (fun d s =>
    if !dieOut s d then
      let t := setO nP (0xA010 + d) 1 0 (initialTraining (24 + d) true (trainLanes env (24 + d)) s)
      onlyIf (decide (getMod t (24 + d) 0 1 < 8)) (dieUnavailable d) t
    else s) (forAll [24, 25, 26, 27] powerRef s)

/-- RUN, KEEP or LIMP → SERVICE (R85). Locked and preloading ways are NORMAL again: their contents
are gone. Records that wait for a queue slot go on waiting (R141). -/
def enterService (env : TransEnv) (s : State) : State :=
  let fromKeep := s.modes.mode = .keep
  let s1 := if fromKeep then accessionReset (startArchive env (resetChannels s)) else drainCommit env.archive (stopLines s)
  let s2 := waysNormal 1 (waysNormal 2 { s1 with caches := {} })
  let s3 := stopFabric false (stopMemory (disarmAll false (setDeposit false s2)))
  showVerified (dropHistories (setO nP 0x2000 4 0 s3))

/-- Sites that hold a logical number (R56). -/
def activeSites (s : State) : List Nat := (List.range 22).filterMap fun g =>
  if siteOf s g = 0xFF then none else some (siteOf s g)

/-- Every active site is powered, on its reference, and trained initially; lanes retired earlier stay so (R47, R85). -/
def startSites (env : TransEnv) (s : State) : State :=
  let sites := activeSites s
  forAll sites (fun site s => initialTraining site true (trainLanes env site) s) (forAll sites powerSite s)

/-- Queues and Archive channels start from their configuration, and lanes light up (R87, R120, R343). -/
def startUnits (s : State) : State :=
  let s1 := forAll (enabledQueues s) queueReset s
  let s2 := forAll ((List.range 64).filter fun c => getO s1 nP (0xA200 + c) 1 == 1) chanReset s1
  lanesOn true (settle s2)

/-- A retained line enters the directory as shared, every gallery that kept it a sharer, or is removed where its set is full
(R88, R327). -/
def reenterLine (e : Nat × L2Line) (s : State) : State :=
  let line := e.1 % 2 ^ 46
  let copies := s.caches.l2.filter fun c => c.1 % 2 ^ 46 == line && c.2.dom == e.2.dom
  let old := s.dirAt e.2.dom line
  if copies = [] then s
  else if old.holders = 0 ∧ setFull s line = true then
    addO nC 0x6800 4 1 (forAll copies (fun c s => removeL2 (c.1 / 2 ^ 46) line s) s)
  else setDir e.2.dom line { old.plus (e.1 / 2 ^ 46) with owned := false } s

/-- Ways that fail a site's self-test are disabled (R278). -/
def disableBad (env : TransEnv) (test : Nat → Nat → State → Bool) (s : State) : State :=
  forAll env.badWays (fun e s =>
    if siteStateOf s e.1 = 0 then
      forAll (bitsOf 16 e.2.toNat) (fun w s => onlyIf (test (siteLogicalOf s e.1) w s) (disableWay (siteLogicalOf s e.1) w) s) s
    else s) s

/-- KEEP → RUN (R85, R88), once the Archive has started: memory resources that fail are retired, and locked ways are not tested. -/
def leaveKeep (env : TransEnv) (s : State) : State :=
  let s1 := keepMemory false (accessionReset s)
  let s2 := forAll env.badChannels (retireChannel 3) (forAll env.badPcs (retirePc 3) s1)
  startUnits (disableBad env (fun g w s => wayState s g w != 2) (startSites env (forAll s2.caches.l2 reenterLine s2)))

/-- SERVICE → RUN (R85, R92, R278): memories trained, sites started with the ways that their self-test disabled. -/
def leaveService (env : TransEnv) (s : State) : State :=
  let s1 := returnDies (startSites env (trainMemory env.badPcs env.badChannels (hodoRestart (abandonInstall none s))))
  let s2 := forAll (List.range 22) forceGallery s1
  startUnits (disableBad env (fun _ _ _ => true) s2)

/-- What the completion of a transition does besides the mode code. -/
def transitionWork (env : TransEnv) (src dst : Mode) (s : State) : State :=
  match dst with
  | .keep => enterKeep env s
  | .service => enterService env s
  | .run =>
    if src = .service then leaveService env s
    else if src = .keep then leaveKeep env s
    else setDeposit false s
  | .lockstep => setDeposit true (armAll s)
  | _ => s

/-! Completion. -/

/-- The transition ends: mode code, outcome 0, the action's result. -/
def endTransition (t : Transition) (s : State) : State :=
  let s1 := setO nP 0x2000 6 0 (changeMode t.dst t.cause t.start { s with modes := { s.modes with trans := none } })
  match t.owner with
  | none => s1
  | some (who, tag) => endAction who tag 0 0 s1

/-- A gallery with a failed site, or with as many disabled ways as the limit, is retired (R85, R278). -/
def retireFaulty (env : TransEnv) (s : State) : State :=
  let s1 := forAll env.badSites (fun e s =>
    onlyIf (siteStateOf s e.1 == 0 && decide (siteLogicalOf s e.1 < 22)) (beginRetirement (siteLogicalOf s e.1) e.2) s) s
  let s2 := forAll env.badWays (fun e s =>
    let g := siteLogicalOf s e.1
    onlyIf (siteStateOf s e.1 == 0 && decide (g < 22) &&
      decide (getO s nP 0x6F00 5 ≤ countBits 16 (disabledWays s g))) (beginRetirement g 1) s) s1
  forAll (List.range 22) (fun g s =>
    onlyIf (siteOf s g != 0xFF && decide (trainedLanes s (siteOf s g) < 32)) (beginRetirement g 6) s) s2

/-- The retirements that waited for a completion into RUN (R459). -/
def retireDue (s : State) : State :=
  forAll s.panel.due (fun e s => beginRetirement e.1 e.2 s) { s with panel := { s.panel with due := [] } }

/-- What the entry to RUN from SERVICE or KEEP leads to (R32, R85, R426). -/
def enterRun (env : TransEnv) (s : State) : State :=
  let s1 := retireDue (retireFaulty env s)
  autoStartAll env.flashErrors (if allFit s1 then s1 else enterLimp s1)

/-- The memory resources that fail their test are retired (R85). -/
def retireMemories (env : TransEnv) (s : State) : State :=
  forAll env.badChannels (retireChannel 3) (forAll env.badPcs (retirePc 3) s)

/-- Some pseudo-channel is in service: not every HBM stack is unavailable (R85). -/
def someStack (s : State) : Bool := (List.range 128).any fun pc => !s.mem.committedPcs.contains pc

/-- Some Archive die is in service, or returns to it at the completion (R85, R452). -/
def someArchiveDie (s : State) : Bool :=
  (List.range 4).any fun d => !dieOut s d || (getO s nP (0xA010 + d) 1 == 3 && !s.arch.retiredDies.contains d)

/-- The reasons and numbers of an environment are ones that the package has. -/
def TransEnv.ok (env : TransEnv) : Bool :=
  env.badSites.all (fun e => decide (e.1 < 24) && decide (1 ≤ e.2) && decide (e.2 ≤ 6)) &&
  env.badWays.all (fun e => decide (e.1 < 24)) && env.badPcs.all (decide <| · < 128) &&
  env.badChannels.all (decide <| · < 8) && env.badLanes.all (fun e => decide (e.1 < 28)) &&
  env.keepErrors.all (fun e => decide (e.1 < 22) && decide (e.2.1 < 16) && decide (e.2.2 < 16384)) &&
  env.flashErrors.all (decide <| · < 16) && foundOk env.archive

/-- At the exit from KEEP the Archive starts first: whether a die is in service shows only then (R43, R85). -/
def tryArchive (env : TransEnv) (t : Transition) (s : State) : State :=
  if t.src = .keep ∧ t.dst = .run then startArchive env (resetChannels s) else s

/-- The package stays in KEEP: the Archive dies lose power again. -/
def archiveStays (t : Transition) (s : State) : State :=
  onlyIf (t.src == .keep) (forAll [24, 25, 26, 27] unpowerRef) s

/-- LOCKSTEP → RUN is complete: a shortfall committed meanwhile makes LIMP, and partitions start by themselves (R85, R417). -/
def relaunched (env : TransEnv) (s : State) : State :=
  autoStartAll env.flashErrors (onlyIf s.modes.limpDue enterLimp s)

/-- MODE_TRANSITION_COMPLETE. For RUN from SERVICE or KEEP the Archive and some HBM stack must be available after the tests, or the
transition fails with outcome 2; under a loss of REFCLK it waits (R74, R85, R90). LOCKSTEP → RUN waits until every line has passed step
4 (R145). -/
def execModeTransitionComplete (env : TransEnv) (s : State) : Out :=
  within (TransEnv.ok env) <|
    match s.modes.trans with
    | none => s
    | some t =>
      let starts := t.dst = .run ∧ (t.src = .service ∨ t.src = .keep)
      let s0 := tryArchive env t s
      if s.power.refclk = false then s
      else if starts ∧ (env.available = false ∨ someArchiveDie s0 = false) then stopTransition 2 t.cause (archiveStays t s0)
      else if starts ∧ someStack (retireMemories env s) = false then stopTransition 2 t.cause (archiveStays t (retireMemories env s0))
      else if t.src = .lockstep ∧ allSealed s = false then s
      else
        let s1 := endTransition t (transitionWork env t.src t.dst s0)
        let s2 := onlyIf (t.src == .service) (forAll (List.range 8) (fun e u => onsets e s u)) s1
        let s3 := if starts then enterRun env s2 else if t.src = .lockstep then relaunched env s2 else onlyIf s2.modes.limpDue enterLimp s2
        { s3 with modes := { s3.modes with limpDue := false } }

end Sys2Proof.Machine
end

