-- ==== Sys2Proof/Machine/Counters.lean ====
section
/-! DEFINITION. The audit of conserved pools (R456-R458) and the package counters' controls (R462, R466, R467). -/

namespace Sys2Proof.Machine

/-- The record of a mismatch. -/
def poolRecord (pool instance_ action : Nat) : ErrRec :=
  { cls := 6, action := action, kind := 0x12, unit := pool, sub := instance_ }

/-- A mismatch of pool `n` is counted and reported. -/
def poolMismatch (pool instance_ action : Nat) (s : State) : State :=
  record (poolRecord pool instance_ action) (addO nP 0x8310 pool 1 s)

/-- An instance with work in flight at the sample. -/
def notQuiescent (pool : Nat) (s : State) : State := addO nP 0x8311 pool 1 s

/-- Lines that the rings hold. -/
def linesHeld (s : State) : Nat := (s.acc.ring.map fun e => e.2.held.length).sum

/-- Seal records of ring `r` in memory of lines no longer held, STATE 2 with a given CAUSE (R139). -/
def sealsWith (s : State) (r cause : Nat) : Nat :=
  ((List.range (ringO s r 0x4200 5)).filter fun i =>
    let b := readBytes s (ringO s r 0x4200 7 + i * 64) 64
    leAt b 48 1 % 4 == 2 && leAt b 48 1 / 4 % 4 == cause && !((s.ring r).held.any fun h => h.k == leAt b 0 8)).length

/-- Pool 1: a class of a module of a gallery, `k` = (gallery × 4 + module) × 7 + class; a mismatch retrains the gallery. -/
def auditCredits (k : Nat) (s : State) : State :=
  let site := siteOf s (k / 28)
  if site = 0xFF ∨ poolHeld s (k / 28) (k / 7 % 4) (k % 7 + 1) ≤ poolTotal s (k / 28) (k / 7 % 4) (k % 7 + 1) then s
  else onlyIf (dieServes s site) (mismatch site) (poolMismatch 1 k 2 s)

/-- Pool 3: open-line slots. -/
def auditLines (s : State) : State :=
  if getO s nX 0x4020 3 + getO s nX 0x4020 4 = getO s nX 0x4020 1 then s
  else
    let held := linesHeld s
    poolMismatch 3 0 0x0B (setO nX 0x4020 3 held (setO nX 0x4020 4 (getO s nX 0x4020 1 - held) s))

/-- Pool 5: the slots of an enabled queue; a mismatch stops the queue with code 06h. -/
def auditQueue (q : Nat) (s : State) : State :=
  if qHeld s q ≤ qCount s q then s else stopQueue q 6 (poolMismatch 5 q 5 s)

/-- R457 for a ring; a mismatch recomputes the counts from the seal array. -/
def auditRing (r : Nat) (s : State) : State :=
  let o := ringO s r 0x4210
  if o 2 = o 3 + o 4 + o 5 + o 0x0A then s
  else
    let n := fun c => sealsWith s r c
    let held := (s.ring r).held.length
    record (poolRecord 3 r 0x0B)
      (runAll [setO (nRing r) 0x4210 3 (n 0), setO (nRing r) 0x4210 4 (n 1), setO (nRing r) 0x4210 5 (n 2),
        setO (nRing r) 0x4210 0x0A held, setO (nRing r) 0x4210 2 (n 0 + n 1 + n 2 + held)] s)

/-- The instances of the pools 1 to 7 (R456), and as 8 the count of each ring (R457). -/
def auditInstances (s : State) : List (Nat × Nat) :=
  (((List.range 22).filter fun g => siteOf s g != 0xFF).flatMap fun g => (List.range 28).map fun k => (1, g * 28 + k)) ++
  [(2, 0), (3, 0), (4, 0)] ++ (enabledQueues s).map (fun q => (5, q)) ++ [(6, 0), (6, 1), (6, 2), (6, 3)] ++
  [(7, 0), (7, 1), (7, 2), (7, 3)] ++ (enabledRings s).map (fun r => (8, r))

/-- The instance is at a quiescent point (R456): no flit of the class on the module, no transaction open, no grant or drain of the die in
flight; never while its block is fenced or goes down (R459). The other instances have nothing in flight between two commands. -/
def quiescent (s : State) (i : Nat × Nat) : Bool :=
  match i.1 with
  | 1 => !fenced s (i.2 / 28) && poolUse s (i.2 / 28) (i.2 / 7 % 4) (i.2 % 7 + 1) == 0
  | 2 => s.conc.tx.isEmpty && (List.range 16).all fun p => domState s p != 1 && domState s p != 2
  | 6 | 7 => slotsGranted s i.2 == 0 && !s.arch.frame.any fun e => e.1 / 2 ^ 14 == i.2 && e.2.programming
  | _ => true

/-- The sample of one instance. Free is total less held in pools 2, 4, 6 and 7, so that a sample of these breaks R456 in no state. -/
def sample (i : Nat × Nat) (s : State) : State :=
  match i.1 with
  | 1 => auditCredits i.2 s
  | 3 => auditLines s
  | 5 => auditQueue i.2 s
  | 8 => auditRing i.2 s
  | _ => s

/-- The Curator runs: not in OFF and KEEP (R64). -/
def curatorRuns (s : State) : Bool := s.modes.mode == .service || s.modes.mode.active

/-- The audit ends: 8312h.01h names its start, and the actions that asked for it end. -/
def endAudit (a : Audit) (s : State) : State :=
  setO nP 0x8312 1 a.start
    (forAll a.asked (fun x s => endAction x.1 x.2 0 0 s) { s with errs := { s.errs with audit := none } })

/-- The audit in progress goes on (R458): what is at a quiescent point is sampled; what reaches none within 8300h.03h ms is counted as
not quiescent. -/
def continueAudit (s : State) : State :=
  match s.errs.audit with
  | none => s
  | some a =>
    if !curatorRuns s then s
    else
      let left := a.left.filter fun i => !quiescent s i
      let t := forAll (a.left.filter (quiescent s)) sample s
      if left.isEmpty || decide (a.start + getO s nP 0x8300 3 * 1000000 ≤ now s) then
        endAudit a (forAll left (fun i s => notQuiescent i.1 s) t)
      else { t with errs := { t.errs with audit := some { a with left := left } } }

/-- An audit of every instance of every pool begins, or the one in progress goes on. -/
def audit (s : State) : State :=
  continueAudit
    (if s.errs.audit.isSome then s
     else { s with errs := { s.errs with audit := some { start := now s, left := auditInstances s } } })

/-- AUDIT_TIMER: 8300h.02h seconds after the last audit, or after power-up; 0 disables. An audit in progress goes on. -/
def execAuditTimer (s : State) : Out :=
  .next <|
    let period := getO s nP 0x8300 2
    if curatorRuns s && (s.errs.audit.isSome ||
        (period != 0 && decide (getO s nP 0x8312 1 + period * 1000000000 ≤ now s))) then audit s else s

/-- 8300h.01h: the action's result ends when the audit ends. -/
def ruleAudit (who : Requester) : Rule := fun s =>
  let t := audit s
  match t.errs.audit with
  | none => actionDone t
  | some a => actionPending
    { t with errs := { t.errs with audit := some { a with asked := a.asked ++ [(who, s.cat.nextTag)] } } }

/-- AUDIT_NOW. -/
def execAuditNow (who : Requester) (value : Nat) (s : State) : Out := .next (served who nP 0x8300 1 value (ruleAudit who) s)

/-! Counters. -/

/-- 9000h.03h. -/
def ruleClearCounters : Rule := fun s =>
  actionDone (forAll (List.range 32) (fun i s => setO nP (0x9100 + i) 4 0 (setO nP (0x9100 + i) 5 0 s)) s)

/-- COUNTERS_CLEAR_ALL. -/
def execCountersClearAll (who : Requester) (value : Nat) (s : State) : Out :=
  .next (served who nP 0x9000 3 value ruleClearCounters s)

/-- The package events of R465. -/
def isPackageEvent (ev : Nat) : Bool :=
  (decide (0x800 ≤ ev) && decide (ev ≤ 0x807)) || (decide (0x880 ≤ ev) && decide (ev ≤ 0x883)) ||
  (decide (0x900 ≤ ev) && decide (ev ≤ 0x905))

/-- 9100h + i, subindexes 1-3 and 6: busy while enabled, and a new event starts from 0 (R467). -/
def ruleCounter (i sub value : Nat) : Rule := fun s =>
  if sub ≤ 3 ∧ getO s nP (0x9100 + i) 6 = 1 then refusedBusy s
  else if sub = 1 then
    if value = 0 ∨ isPackageEvent value = true then
      answered (setO nP (0x9100 + i) 1 value (setO nP (0x9100 + i) 4 0 (setO nP (0x9100 + i) 5 0 s)))
    else refusedValue s
  else answered (setO nP (0x9100 + i) sub value s)

/-- PACKAGE_COUNTER_EVENT_WRITE. -/
def execPackageCounterEventWrite (who : Requester) (counter value : Nat) (s : State) : Out :=
  within (decide (counter < 32)) (served who nP (0x9100 + counter) 1 value (ruleCounter counter 1 value) s)

/-- HART_COUNTER_WRAP: the next count of a counter that holds 2^64 − 1 (R462, R463). -/
def execHartCounterWrap (hart counter : Nat) (s : State) : Out :=
  within (decide (hart < 264) && decide (3 ≤ counter) && decide (counter ≤ 31)) <|
    let h := s.hart hart
    let ev := field (h.csrOf (0x320 + counter)) 0 12
    if h.run != .inReset && h.counts (getO s nP 0x2103 1 % 2 == 1) ev counter &&
        h.csrOf (0xB00 + counter) == BitVec.allOnes 64 then
      setHart hart (h.bump counter 1) s
    else s

end Sys2Proof.Machine
end

