-- ==== Sys2Proof/Machine/Memory.lean ====
section
/-! DEFINITION. Commands of the memory tiers: requests, refresh and self-refresh, initialisation, clearing of
retirements, the patrol scrubber and the checker test mode (R158-R194). -/

namespace Sys2Proof.Machine

/-- The resource exists (R22, R155). -/
def chExists : MemCh → Bool
  | .hbm pc => decide (pc < 128)
  | .ddr c => decide (c < 8)

/-- The finding names a word of an HBM line or a device of a DDR5 line's subchannel (R175, R443). -/
def findingOk (hbm : Bool) : Finding → Bool
  | .correctable d => decide (d < if hbm then 8 else 10)
  | _ => true

/-- The source of a request exists (R162). -/
def sourceOk : MemSource → Bool
  | .l2 g => decide (g < 22)
  | .queue q => decide (q < 65536)
  | .ring r => decide (r < 256)
  | .lane l => decide (l < 64)
  | _ => true

/-- MEMORY_REQUEST: a controller accepts a read or a write and performs it (R161, R177, R178); of a full-line write the finding
says nothing. A request at an address that is not mapped is not performed (R153). -/
def execMemoryRequest (cls : SvcClass) (src : MemSource) (addr : Nat) (op : MemOp) (f : Finding) (s : State) : Out :=
  within (sourceOk src && findingOk (inHbm addr) f) <|
    if mapped s addr then
      match op with
      | .read => (ctlRead (addr / 64) f s).1
      | .write d k => ctlWrite cls src (addr / 64) d k 0xFF#8 f s
    else s

/-- The postponement limit in force (R164). -/
def postponeLimit (s : State) : Nat :=
  if lockstepLike s then min (getO s nP 0x5010 4) 1 else getO s nP 0x5010 4

/-- HBM_REFRESH_DUE (R164): postponed while reads are pending and the limit allows. A bank at its limit is refreshed at once, before what
waits at the controller (rank 1 of R158); with no read pending the postponed refreshes are made up, behind the writes that wait (rank
8). -/
def execHbmRefreshDue (pc bank : Nat) (readsPending : Bool) (s : State) : Out :=
  within (decide (pc < 128) && decide (bank < 1024)) <|
    if s.modes.mode.active && !s.mem.retiredPcs.contains pc then
      let k := pc * 1024 + bank
      let n := tblGet 0 s.mem.postponed k
      let first := !readsPending && decide (postponeLimit s ≤ n) && !(wqNow s (.hbm pc)).1.entries.isEmpty
      let n' := if readsPending then min (n + 1) (postponeLimit s) else if first then min n (postponeLimit s) else 0
      let s := if readsPending then s else if first then setWq (.hbm pc) (wqNow s (.hbm pc)) s else queueEmptied (.hbm pc) s
      onlyIf (decide (n < n')) (pkgEvent 0x806 none pc 1) <| maxO nP (0x5020 + pc / 32) 4 n'
        { s with mem := { s.mem with postponed := tblSet 0 s.mem.postponed k n' } }
    else s

/-- DDR5_REFRESH_DUE: the refresh is issued and never postponed; nothing that software can see changes (R165). -/
def execDdr5RefreshDue (channel : Nat) (s : State) : Out := within (decide (channel < 8)) s

/-- Idle self-refresh may be entered (R165): no request of the channel for 5011h.04h µs and nothing queued by now. The scrubber's
own reads do not count as requests here, or no channel would ever fall idle (DEDUCED from R189). -/
def idleMayEnter (s : State) (c : Nat) : Bool :=
  s.modes.mode.active && getO s nP (0x5030 + c) 1 == 1 && getO s nP 0x5011 4 != 0 && !lockstepLike s &&
    (wqNow s (.ddr c)).1.entries.isEmpty &&
    decide (tblGet 0 s.mem.lastRequest (chKey (.ddr c)) + getO s nP 0x5011 4 * 1000 ≤ now s)

/-- IDLE_SELF_REFRESH_ENTRY (R165). -/
def execIdleSelfRefreshEntry (channel : Nat) (s : State) : Out :=
  within (decide (channel < 8)) <|
    if idleMayEnter s channel then
      addO nP (0x5030 + channel) 4 1 (setO nP (0x5030 + channel) 1 2
        (queueEmptied (.ddr channel) { s with mem := { s.mem with selfRefresh := addTo s.mem.selfRefresh channel } }))
    else setWq (.ddr channel) (wqNow s (.ddr channel)) s

/-- DDR5_INIT_COMPLETE: every line of the tier holds never-written poison and the tier may be used (R166). -/
def execDdr5InitComplete (s : State) : Out :=
  .next <|
    if s.modes.mode.active && s.mem.trained && getO s nP 0x5000 9 == 0 then
      setO nP 0x5000 9 1 (setO nP 0x5000 0x0A 100
        { s with mem := { s.mem with bytes := tblDrop (decide <| ddrBase ≤ ·) s.mem.bytes
                                     marks := tblDrop (decide <| ddrBase / 8 ≤ ·) s.mem.marks
                                     check := tblDrop (decide <| ddrBase / 64 ≤ ·) s.mem.check } })
    else s

/-- 5000h.0Bh: clears every committed memory retirement; SERVICE only (R169). -/
def ruleClearRetirements : Rule := fun s =>
  if s.modes.mode ≠ .service then refused 0 s
  else
    let s1 := { s with mem := { s.mem with committedPcs := [], committedChannels := [] } }
    let s2 := forAll (List.range 4) (fun st s => setO nP (0x5020 + st) 2 0 (setO nP (0x5020 + st) 1 3 s)) s1
    actionDone (forAll (List.range 8) (fun c s => setO nP (0x5030 + c) 1 (channelState s false c) s) s2)

/-- CLEAR_RETIREMENTS. -/
def execClearRetirements (who : Requester) (value : Nat) (s : State) : Out :=
  .next (served who nP 0x5000 0x0B value ruleClearRetirements s)

/-! Patrol scrubber (R187-R190). -/

/-- The scrub interval and enable of a resource, and the earliest time of its next scrub read (R188, R194). -/
def scrubIx : MemCh → Nat
  | .hbm _ => 0x5040
  | .ddr _ => 0x5041

/-- The lines of a resource (R154, R156). -/
def resourceLines (s : State) : MemCh → Nat
  | .hbm _ => pcBytes / 64
  | .ddr c => gibOf (population s c) * 2 ^ 30 / 64

/-- The resource is in the map, in service and initialised. -/
def resourceUp (s : State) (ch : MemCh) : Bool :=
  s.modes.mode.active && !resourceRetired s ch && (match ch with
    | .hbm pc => s.mem.pcs.contains pc && getO s nP 0x5000 8 == 1
    | .ddr c => s.mem.channels.contains c && getO s nP 0x5000 9 == 1)

/-- A scrub read falls due (R188): enabled, its resource in service, its interval passed; not in self-refresh (R189). -/
def scrubMay (s : State) (ch : MemCh) : Bool :=
  resourceUp s ch && getO s nP (scrubIx ch) 1 == 1 &&
    decide (tblGet 0 s.mem.lastScrub (chKey ch) + getO s nP (scrubIx ch) 2 ≤ now s) && (match ch with
      | .ddr c => !s.mem.selfRefresh.contains c
      | _ => true)

/-- The resources whose laps the stack or channel object shows, and the object's index. -/
def lapPeers (s : State) : MemCh → List Nat
  | .hbm pc => s.mem.pcs.filter fun x => x / 32 == pc / 32 && !s.mem.retiredPcs.contains x
  | .ddr c => [1000 + c]

/-- A lap ends (R190): its duration and the count of the slowest go to the stack or channel object; a stack's own
error-check-and-scrub count, of which the spec says nothing more, is read into 5042h.06h (R174). -/
def lapEnd (ch : MemCh) (s : State) : State :=
  let k := chKey ch
  let m := s.mem
  let dur := now s - tblGet 0 m.lapStart k
  let s1 := { s with mem := { m with laps := tblSet 0 m.laps k (tblGet 0 m.laps k + 1),
                                     lastLap := tblSet 0 m.lastLap k dur, lapStart := tblSet 0 m.lapStart k (now s) } }
  let peers := lapPeers s ch
  let s2 := setO nP (memStatIx ch) 4 ((peers.map fun p => tblGet 0 s1.mem.lastLap p).foldl max 0)
    (setO nP (memStatIx ch) 5 ((peers.map fun p => tblGet 0 s1.mem.laps p).foldl min (tblGet 0 s1.mem.laps k)) s1)
  match ch with
  | .hbm _ =>
    let (s3, v) := takeFree s2
    setO nP (memStatIx ch) 6 v.toNat s3
  | .ddr _ => s2

/-- One full-line read of the scrubber at its place in address order, and the move to the next line; the wrap ends a lap
(R187, R190). A resource that the finding retires is left where it was. -/
def scrubLine (ch : MemCh) (f : Finding) (s : State) : State :=
  let j := tblGet 0 s.mem.scrubPos (chKey ch)
  let s1 := (readHandled (resourceLine s ch j) f s).1
  let wraps := decide (resourceLines s ch ≤ j + 1)
  if resourceRetired s1 ch then s1
  else onlyIf wraps (lapEnd ch)
    { s1 with mem := { s1.mem with scrubPos := tblSet 0 s1.mem.scrubPos (chKey ch) (if wraps then 0 else j + 1),
                                   lastScrub := tblSet 0 s1.mem.lastScrub (chKey ch) (now s) } }

/-- The finding fits the resource. -/
def scrubFindingOk (ch : MemCh) (f : Finding) : Bool :=
  findingOk (match ch with
    | .hbm _ => true
    | .ddr _ => false) f

/-- SCRUB_READ_DUE: one full-line read of the scrubber and what it does about the finding (R187), once nothing else waits. -/
def execScrubReadDue (ch : MemCh) (f : Finding) (s : State) : Out :=
  within (chExists ch && scrubFindingOk ch f) <|
    if scrubMay s ch then scrubLine ch f (queueEmptied ch s) else s

/-- The lines that fell due while a channel slept, at most 1,048,576 (R189). -/
def dueLines (s : State) (ch : MemCh) : Nat :=
  min ((now s - tblGet 0 s.mem.lastScrub (chKey ch)) / getO s nP (scrubIx ch) 2) 1048576

/-- SCRUB_WAKE: a channel in idle self-refresh is woken and the lines that fell due are scrubbed, as long as it is in service; it may then
return, by IDLE_SELF_REFRESH_ENTRY (R165, R189). `findings`: of the first of them, in order; the others hold no error. -/
def execScrubWake (channel : Nat) (findings : List Finding) (s : State) : Out :=
  within (decide (channel < 8) && findings.all (findingOk false)) <|
    let ch := MemCh.ddr channel
    if resourceUp s ch && s.mem.selfRefresh.contains channel && getO s nP 0x5041 1 == 1 &&
        decide (tblGet 0 s.mem.lastScrub (chKey ch) + getO s nP 0x5041 3 * 1000000 ≤ now s) then
      let s0 := setO nP (0x5030 + channel) 1 1 { s with mem := { s.mem with selfRefresh := dropFrom s.mem.selfRefresh channel } }
      let s1 := forAll (List.range (dueLines s ch)) (fun i s =>
        onlyIf (!resourceRetired s ch) (scrubLine ch (findings.getD i .clean)) s) s0
      { s1 with mem := { s1.mem with lastScrub := tblSet 0 s1.mem.lastScrub (chKey ch) (now s) } }
    else s

/-! Checker test mode (R191, R192). -/

/-- The line under test. -/
def testLine (s : State) : Nat := getO s nP 0x5050 2 / 64

/-- An action of the checker test mode is refused (R192). -/
def testRefused (who : Requester) (s : State) : Bool :=
  let a := getO s nP 0x5050 2
  getO s nP 0x5050 1 != 1 || s.modes.mode != .run || a % 64 != 0 || !mapped s a ||
    resourceRetired s (resourceOf s a) ||
    (match who with
      | .mailbox p => !ownsMem s p a 64
      | _ => false)

/-- 5050h.08h shows the action performed. -/
def testPerformed (s : State) : State × Ans := actionDone (setO nP 0x5050 8 1 s)

/-- A line's stored check bits set whatever they belong to. -/
def setCheck (line : Nat) (c : BitVec 128) (s : State) : State :=
  let p := properCheck (inHbm (64 * line)) (storedLine s.mem line)
  { s with mem := { s.mem with check := tblSet 0 s.mem.check line (p ^^^ c) } }

/-- The action is one request of a source of its own at the line's controller (R191): it wakes the channel; a write takes an entry, a
read comes after the writes that rank before it. -/
def testRequest (write : Bool) (s : State) : State :=
  let ch := resourceOf s (64 * testLine s)
  let s1 := reachController ch s
  if write then enterWrite .io .checker ch (testLine s) s1 else queueForRead ch s1

/-- Action 01h: the data of 5050h.03h, check bits unchanged. -/
def ruleTestWriteData (who : Requester) : Rule := fun s =>
  if testRefused who s then refused 0 s
  else
    let line := testLine s
    let s := testRequest true s
    let c := storedCheck s line
    let d := BitVec.ofNat 512 (getO s nP 0x5050 3)
    testPerformed (setCheck line c { s with mem := writeLine line d (BitVec.allOnes 64) 0xFF#8 s.mem })

/-- Action 02h: the check bits of 5050h.04h, data unchanged; HBM has 8 of them. -/
def ruleTestWriteCheck (who : Requester) : Rule := fun s =>
  if testRefused who s then refused 0 s
  else
    let c := BitVec.ofNat 128 (getO s nP 0x5050 4)
    let s := testRequest true s
    testPerformed (setCheck (testLine s) (if inHbm (64 * testLine s) then (c.setWidth 64).setWidth 128 else c) s)

/-- Action 03h: the raw line into 5050h.06h and 5050h.07h. -/
def ruleTestReadRaw (who : Requester) : Rule := fun s =>
  if testRefused who s then refused 0 s
  else
    let s := testRequest false s
    testPerformed (setO nP 0x5050 6 (storedLine s.mem (testLine s)).data.toNat
      (setO nP 0x5050 7 (storedCheck s (testLine s)).toNat s))

/-- Action 04h: every word of the line is poison of form 06h. -/
def ruleTestPoison (who : Requester) : Rule := fun s =>
  if testRefused who s then refused 0 s
  else testPerformed (storeLine (testLine s) (mkLine (fun _ => 0) fun _ => 6) (testRequest true s))

/-- TEST_WRITE_DATA. -/
def execTestWriteData (who : Requester) (s : State) : Out :=
  .next (served who nP 0x5050 5 1 (ruleTestWriteData who) s)
/-- TEST_WRITE_CHECK. -/
def execTestWriteCheck (who : Requester) (s : State) : Out :=
  .next (served who nP 0x5050 5 2 (ruleTestWriteCheck who) s)
/-- TEST_READ_RAW. -/
def execTestReadRaw (who : Requester) (s : State) : Out :=
  .next (served who nP 0x5050 5 3 (ruleTestReadRaw who) s)
/-- TEST_POISON. -/
def execTestPoison (who : Requester) (s : State) : Out :=
  .next (served who nP 0x5050 5 4 (ruleTestPoison who) s)

/-- The reported temperature class of a stack or channel changes its refresh rate (R164, R165). -/
def execRefreshRateChange (ch : MemCh) (hot : Bool) (s : State) : Out :=
  within (chExists ch) <|
    match ch with
    | .hbm pc => setO nP (0x5020 + pc / 32) 3 (if hot then 2 else 1) s
    | .ddr c =>
      let l := if hot then addTo s.mem.hotChannels c else dropFrom s.mem.hotChannels c
      { s with mem := { s.mem with hotChannels := l } }

end Sys2Proof.Machine
end

