-- ==== Sys2Proof/Machine/Stencil.lean ====
section
/-! DEFINITION. Vitrine program blocks (R231-R236, R241): fields, the validity rules, the line-buffer demand, and what the
stages make of image rows. -/

namespace Sys2Proof.Machine

/-! Header fields of a block of 640 bytes (R231). -/

def blkStages (b : List Byte) : Nat := leAt b 1 1
/-- Bytes of an input pixel and of an output pixel. -/
def blkInSize (b : List Byte) : Nat := if leAt b 2 1 = 0 then 1 else 2
def blkOutSize (b : List Byte) : Nat := if leAt b 3 1 = 0 then 1 else 2
def blkHist (b : List Byte) : Bool := (leAt b 4 1).testBit 0
def blkSkip (b : List Byte) : Bool := (leAt b 4 1).testBit 1
def blkRing (b : List Byte) : Nat := leAt b 6 2
def blkMembers (b : List Byte) : Nat := leAt b 8 8
def blkInOffset (b : List Byte) : Nat := leAt b 16 4
def blkWidth (b : List Byte) : Nat := leAt b 20 4
def blkOutBase (b : List Byte) : Nat := leAt b 24 8
def blkOutPitch (b : List Byte) : Nat := leAt b 32 4
def blkOutLines (b : List Byte) : Nat := leAt b 36 4
def blkOrigin (b : List Byte) : Nat := leAt b 40 8
def blkOutOffset (b : List Byte) : Nat := leAt b 48 4
def blkQueue (b : List Byte) : Nat := leAt b 52 4
def blkHistBase (b : List Byte) : Nat := leAt b 56 8
def blkHistRows (b : List Byte) : Nat := leAt b 64 4
def blkFill (b : List Byte) : Nat := leAt b 68 2

/-! Stage records (R232). -/

/-- Bytes of stage record `k`. -/
def stageRec (b : List Byte) (k : Nat) : List Byte := (b.drop (128 + 128 * k)).take 128
def stOp (r : List Byte) : Nat := leAt r 0 1
def stWidth (r : List Byte) : Nat := leAt r 1 1
def stHeight (r : List Byte) : Nat := leAt r 2 1
def stSigned (r : List Byte) : Bool := (leAt r 3 1).testBit 0
def stShift (r : List Byte) : Nat := leAt r 4 1
/-- Bit `i` of an ERODE or DILATE mask. -/
def stMask (r : List Byte) (i : Nat) : Bool := (leAt r (32 + i / 8) 1).testBit (i % 8)
/-- The positions of the mask. -/
def stPositions (r : List Byte) : List Nat := (List.range (stWidth r * stHeight r)).filter (stMask r)
/-- The stage records in use. -/
def stagesOf (b : List Byte) : List (List Byte) := (List.range (blkStages b)).map (stageRec b)

/-- Rows and pixels that the stages take off: Σ (wy − 1) and Σ (wx − 1). -/
def blkRowsLost (b : List Byte) : Nat := ((stagesOf b).map fun r => stHeight r - 1).sum
def blkColsLost (b : List Byte) : Nat := ((stagesOf b).map fun r => stWidth r - 1).sum
/-- Wout (R233). -/
def blkWout (b : List Byte) : Nat := blkWidth b - blkColsLost b
/-- Bytes of an output row, whole lines (R234). -/
def blkOutBytes (b : List Byte) : Nat := (blkWout b * blkOutSize b + 63) / 64 * 64
/-- A histogram is kept (R231, R241). -/
def blkHistOn (b : List Byte) : Bool := blkHist b && blkHistRows b != 0

/-- Line-buffer demand of stages whose first input row has `w` pixels (R235). -/
def demandFrom : List (List Byte) → Nat → Nat
  | [], _ => 0
  | r :: rest, w => stHeight r * ((w + 63) / 64 * 64) + demandFrom rest (w - (stWidth r - 1))

/-- A block's line-buffer demand. -/
def blkDemand (b : List Byte) : Nat := demandFrom (stagesOf b) (blkWidth b)

/-- Bytes that are all zero. -/
def blankBytes (b : List Byte) (i n : Nat) : Bool := ((b.drop i).take n).all (· == 0)

/-- A stage record is valid (R235). -/
def stageValid (r : List Byte) : Bool :=
  [1, 2, 3, 4].contains (stOp r) && [1, 3, 5, 7, 9].contains (stWidth r) && [1, 3, 5, 7, 9].contains (stHeight r) &&
    decide (stShift r ≤ 31) && decide (leAt r 3 1 < 2) && blankBytes r 5 3 && blankBytes r 20 12 && blankBytes r 113 15 &&
    (stOp r != 4 || (stWidth r == 1 && stHeight r == 1)) &&
    (!(stOp r == 2 || stOp r == 3) || !(stPositions r).isEmpty)

/-- A block is valid (R235, code 02h). -/
def blkValid (b : List Byte) : Bool :=
  leAt b 0 1 == 1 && decide (1 ≤ blkStages b) && decide (blkStages b ≤ 4) && decide (leAt b 2 1 ≤ 1) &&
    decide (leAt b 3 1 ≤ 2) && decide (leAt b 4 1 < 4) && leAt b 5 1 == 0 && blankBytes b 70 58 &&
    decide (1 ≤ blkWidth b) && decide (blkWidth b ≤ 8192) && (stagesOf b).all stageValid &&
    decide (blkColsLost b < blkWidth b)

/-! Pixels and stages (R233). -/

/-- The pixels that bytes spell. -/
def pixelsOf (size : Nat) (bytes : List Byte) : List Int :=
  (List.range (bytes.length / size)).map fun i => (leAt bytes (i * size) size : Int)

/-- A value held within a range. -/
def saturate (lo hi v : Int) : Int := if v < lo then lo else if hi < v then hi else v

/-- A 16-bit field read in a signedness. -/
def field16 (sg : Bool) (r : List Byte) (i : Nat) : Int := if sg then signed 2 (leAt r i 2) else (leAt r i 2 : Int)

/-- A stage's result on a window; `p y x` are its pixels, `sgIn` the signedness of its input. -/
def stageResult (r : List Byte) (sgIn : Bool) (p : Nat → Nat → Int) : Int :=
  let n := stWidth r * stHeight r
  let at_ := fun (i : Nat) => p (i / stWidth r) (i % stWidth r)
  let v := match stOp r with
    | 1 => (((List.range n).map fun i => signed 1 (leAt r (32 + i) 1) * at_ i).sum + signed 4 (leAt r 8 4)) / 2 ^ stShift r
    | 2 => ((stPositions r).map at_).foldl min (at_ ((stPositions r).headD 0))
    | 3 => ((stPositions r).map at_).foldl max (at_ ((stPositions r).headD 0))
    | _ => if field16 sgIn r 12 ≤ p 0 0 ∧ p 0 0 ≤ field16 sgIn r 14 then field16 (stSigned r) r 16
           else field16 (stSigned r) r 18
  if stSigned r then saturate (-32768) 32767 v else saturate 0 65535 v

/-- One row of a stage from the rows of its window. -/
def stageRow (r : List Byte) (sgIn : Bool) (rows : List (List Int)) : List Int :=
  (List.range ((rows.headD []).length + 1 - stWidth r)).map fun i =>
    stageResult r sgIn fun y x => (rows.getD y []).getD (i + x) 0

/-- Every row of a stage: one for each position at which the window fits. -/
def stageRows (r : List Byte) (sgIn : Bool) (rows : List (List Int)) : List (List Int) :=
  (List.range (rows.length + 1 - stHeight r)).map fun i => stageRow r sgIn ((rows.drop i).take (stHeight r))

/-- The rows of the last stage. -/
def runStages : List (List Byte) → Bool → List (List Int) → List (List Int)
  | [], _, rows => rows
  | r :: rest, sg, rows => runStages rest (stSigned r) (stageRows r sg rows)

/-- The output row of a full set of input rows, saturated to the output format. -/
def outputRow (b : List Byte) (rows : List (List Int)) : List Int :=
  ((runStages (stagesOf b) false rows).headD []).map fun v =>
    match leAt b 3 1 with
    | 0 => saturate 0 255 v
    | 1 => saturate 0 65535 v
    | _ => saturate (-32768) 32767 v

/-- The bytes of an output row, zero past the last pixel (R234). -/
def outputBytes (b : List Byte) (row : List Int) : List Byte :=
  let l := row.flatMap fun v => leBytes (blkOutSize b) (unsigned (blkOutSize b) v)
  l ++ List.replicate (blkOutBytes b - l.length) 0

/-- The bin of an output pixel (R241). -/
def binOf (b : List Byte) (v : Int) : Nat :=
  match leAt b 3 1 with
  | 0 => v.toNat
  | 1 => v.toNat / 256
  | _ => (v + 32768).toNat / 256

/-- The bins with a row counted. -/
def countRow (b : List Byte) (row : List Int) (bins : List (Nat × Nat)) : List (Nat × Nat) :=
  row.foldl (fun l v => tblSet 0 l (binOf b v) (tblGet 0 l (binOf b v) + 1)) bins

/-- The 1,024 bytes of a histogram. -/
def binBytes (bins : List (Nat × Nat)) : List Byte := (List.range 256).flatMap fun i => leBytes 4 (tblGet 0 bins i)

end Sys2Proof.Machine
end

