-- ==== Sys2Proof/Machine/Registry.lean ====
section
/-! DEFINITION. The Catalogue as a directory: which nodes exist and what they carry (R389-R392), the values that are computed
when read, and each object's own rule for a write. -/

namespace Sys2Proof.Machine

/-! Nodes (R12, R389, R390). -/

/-- A handle names a node. -/
def nodeExists (node : Nat) : Bool :=
  let n := node % 0x10000
  let g := node / 0x100 % 0x20
  node / 0x10000 % 0x100 == 0 &&
  match node / 2 ^ 24 with
  | 0 => n == 0
  | 1 => n == 0
  | 2 => n == 0
  | 3 => n == 0
  | 4 => n == 0
  | 5 => decide (n < 64)
  | 6 => decide (n < 16384)
  | 7 => decide (n < 256)
  | 8 => n == 0
  | 9 => true
  | 0xA => decide (n < 1536)
  | 0xB => n == 0
  | 0xC => decide (g < 22) && node == nGal g
  | 0xD => decide (g < 22) && decide (n / 0x10 % 0x10 < 3) && node == nCluster g (n / 0x10 % 0x10)
  | 0xE => decide (g < 22) && decide (n / 0x10 % 0x10 < 3) && decide (n % 0x10 < 4) &&
      node == nCore g (n / 0x10 % 0x10) (n % 0x10)
  | 0xF => decide (g < 22) && decide (n / 0x10 % 0x10 < 3) && node == nVit g (n / 0x10 % 0x10)
  | _ => false

/-- The default node of an index (R12). -/
def defaultNode (ix : Nat) : Option Nat :=
  match ix / 0x1000 with
  | 1 => some nV
  | 2 => some nP
  | 3 => some nH
  | 4 => some nX
  | 5 => some nP
  | 6 => if ix / 0x100 = 0x68 then some nC else if ix / 0x100 = 0x6F then some nP else none
  | 7 => some nS
  | 8 => some nP
  | 9 => some nP
  | 0xA => some nP
  | 0xB => some nQ
  | _ => none

/-- The node that a handle and an index name; FFFF_FFFFh is the default node. -/
def resolveNode (handle ix : Nat) : Option Nat :=
  if handle = 0xFFFFFFFF then defaultNode ix else if nodeExists handle then some handle else none

/-- The decimal digits of a number, at least `w`. -/
def digits (w n : Nat) : List Char :=
  (List.range w).reverse.map fun i => Char.ofNat (48 + n / 10 ^ i % 10)

/-- A node's path (R389). -/
def pathOf (node : Nat) : List Char :=
  let n := node % 0x10000
  let gal := "P.G".toList ++ digits 2 (node / 0x100 % 0x20)
  let clu := gal ++ ".K".toList ++ digits 1 (node / 0x10 % 4)
  match node / 2 ^ 24 with
  | 0 => "P".toList
  | 1 => "P.V".toList
  | 2 => "P.S".toList
  | 3 => "P.H".toList
  | 4 => "P.X".toList
  | 5 => "P.X.L".toList ++ digits 2 n
  | 6 => "P.X.S".toList ++ digits 5 n
  | 7 => "P.X.W".toList ++ digits 3 n
  | 8 => "P.Q".toList
  | 9 => "P.Q.Q".toList ++ digits 5 n
  | 0xA => "P.Q.E".toList ++ digits 4 n
  | 0xB => "P.C".toList
  | 0xC => gal
  | 0xD => clu
  | 0xE => clu ++ ".C".toList ++ digits 1 (node % 4)
  | _ => clu ++ ".V".toList

/-- The families of a node's children: first handle, step, count (R391). -/
def familiesOf (node : Nat) : List (Nat × Nat × Nat) :=
  match node / 2 ^ 24 with
  | 0 => [(nV, 0x01000000, 4), (nQ, 0x03000000, 2), (nGal 0, 0x100, 22)]
  | 4 => [(nLane 0, 1, 64), (nCtx 0, 1, 16384), (nRing 0, 1, 256)]
  | 8 => [(nQueue 0, 1, 65536), (nSource 0, 1, 1536)]
  | 0xC => [(node + 0x01000000, 0x10, 3)]
  | 0xD => [(node + 0x01000000, 1, 4), (node + 0x02000000, 0, 1)]
  | _ => []

/-- A run put into a list of runs ordered by their first index. -/
def insertRun (r : Nat × Nat) : List (Nat × Nat) → List (Nat × Nat)
  | [] => [r]
  | x :: t => if r.1 ≤ x.1 then r :: x :: t else x :: insertRun r t

/-- Runs that touch become one. -/
def mergeRuns : List (Nat × Nat) → List (Nat × Nat)
  | [] => []
  | x :: t =>
    match mergeRuns t with
    | [] => [x]
    | y :: u => if y.1 ≤ x.2 + 1 then (x.1, max x.2 y.2) :: u else x :: y :: u

/-- The runs of indexes that a node kind carries (R391). -/
def runsOf (kind : Nat) : List (Nat × Nat) :=
  let rows := (List.range 12).flatMap objRows
  mergeRuns ((rows.filter fun r => r.kind == kind || r.kind == 0xFF).foldl (fun l r => insertRun (r.ixLo, r.ixHi) l) [])

/-! Node states (R392): 0 normal, 1 degraded, 2 faulty, 3 inactive, 4 absent. -/

/-- A gallery has power. -/
def galleryPowered (s : State) (g : Nat) : Bool := s.panel.powered.contains (siteOf s g)

/-- A node's state taken alone. -/
def ownState (s : State) (node : Nat) : Nat :=
  let n := node % 0x10000
  let g := node / 0x100 % 0x20
  let cluster := 3 * g + node / 0x10 % 4
  let idle := !galleryPowered s g || (partOfCluster s cluster).isNone
  match node / 2 ^ 24 with
  | 0 =>
    if (List.range 64).any fun c => getO s nP (0xA200 + c) 7 == 2 then 2
    else if s.mem.retiredPcs ≠ [] ∨ s.mem.committedPcs ≠ [] ∨ s.mem.committedChannels ≠ [] ∨ s.mem.failedDevices ≠ [] ∨
        s.arch.retiredFrames ≠ [] ∨ ([0, 1, 2, 3].any fun d => getO s nP (0xA010 + d) 1 == 2 || getO s nP (0xA010 + d) 1 == 3) = true ∨
        ((List.range 24).any fun n => siteStateOf s n == 3) = true then 1
    else 0
  | 2 => if s.modes.mode = .keep then 3 else if (List.range 16).any fun p => getO s nS 0x7040 (p + 1) == 5 then 2 else 0
  | 3 => if s.modes.mode = .service then 3 else if (List.range 8).any (encFault s) then 2 else 0
  | 4 => if s.modes.mode.active then 0 else 3
  | 5 =>
    if getO s node 0x4010 1 = 1 ∧ s.modes.mode.active then (if getO s node 0x4010 0x0C = 1 then 2 else 0) else 3
  | 6 => if getO s node 0x4100 1 = 1 ∧ s.modes.mode.active then 0 else 3
  | 7 => if getO s node 0x4200 1 = 1 ∧ s.modes.mode.active then 0 else 3
  | 8 => if s.modes.mode.active then 0 else 3
  | 9 => if qState s n = 2 then 2 else if qState s n = 1 ∧ s.modes.mode.active then 0 else 3
  | 0xA => if getO s node 0xB200 1 = 1 ∧ s.modes.mode.active then 0 else 3
  | 0xB =>
    if !s.modes.mode.active then 3
    else if (List.range 16).any fun p => getO s nC 0x6810 (p + 1) == 1 || getO s nC 0x6810 (p + 1) == 2 ||
        (getO s nC 0x6810 (p + 1) == 3 && getO s nS 0x7040 (p + 1) == 5) then 2
    else if s.conc.faultyWays ≠ [] then 1 else 0
  | 0xC =>
    if siteOf s g = 0xFF then 4 else if !galleryPowered s g then 3
    else if disabledWays s g ≠ 0 ∨ getO s node 0x6000 6 < 64 then 1 else 0
  | 0xD => if idle then 3 else 0
  | 0xE => if idle then 3 else 0
  | 0xF => if (s.vit cluster).slot.any fun e => e.2.state == 3 then 2 else if idle then 3 else 0
  | _ => 0

/-- Nodes below another that can be in a state other than 00h and 03h, or below such a node. -/
def watched (s : State) (node : Nat) : List Nat :=
  match node / 2 ^ 24 with
  | 0 => [nV, nS, nH, nX, nQ, nC] ++ (List.range 22).map nGal
  | 4 => (nodesWith s 5 0x4010 0x0C 1).map nLane
  | 8 => (nodesWith s 9 0xB110 1 2).map nQueue
  | 0xC => [0, 1, 2].map fun k => node + 0x01000000 + k * 0x10
  | 0xD => [0, 1, 2, 3].map (node + 0x01000000 + ·) ++ [node + 0x02000000]
  | _ => []

/-- The aggregated state (R392), over at most four levels. -/
def aggState (s : State) : Nat → Nat → Nat
  | 0, node => ownState s node
  | n + 1, node =>
    let own := ownState s node
    let kids := (watched s node).map (aggState s n)
    let worst := kids.foldl (fun acc k => if k = 1 ∨ k = 2 then max acc k else acc) 0
    if own = 3 ∨ own = 4 then (if kids.all fun k => k == 3 || k == 4 then own else worst) else max worst own

/-! Objects computed when read. -/

/-- The requester's transport: 1 and 2 the field ports, 3 CAN FD, 4 mailbox (R402). -/
def transportOf (s : State) : Requester → Nat
  | .session n => match tblFind s.cat.sessions n with
    | some x => 1 + x.port
    | none => 0
  | .can _ => 3
  | .mailbox _ => 4

/-- The bytes of a result record (R403). -/
def Result.bytes (r : Result) : List Byte :=
  leBytes 4 r.tag ++ leBytes 4 r.node ++ leBytes 2 r.index ++ leBytes 1 r.sub ++ leBytes 1 r.status ++ leBytes 1 r.detail ++
    leBytes 3 0 ++ leBytes 8 r.started ++ leBytes 8 r.ended

/-- The record with a SEQ in the log, if it is held. -/
def logAt (s : State) (seq : Nat) : Option ErrRec := s.errs.log.find? fun r => r.seq == seq

/-- Harts in debug mode (R470). -/
def haltedHarts (s : State) : List Nat := (s.harts.filter fun e => e.2.run == .debug).map (·.1)

/-- The requester's own objects and the rest of 1000h-1FFFh. -/
def readV (who : Requester) (ix sub : Nat) (s : State) : Nat :=
  let q := s.req who
  if ix = 0x1F80 then
    match sub with
    | 1 => q.selected
    | 2 => transportOf s who
    | 3 => roleOf s who
    | 4 => match who with
      | .mailbox p => p
      | _ => 0xFF
    | 5 => q.lastDetail
    | 6 => q.lastTag
    | _ => q.dropped
  else if ix = 0x1F81 then fromLe ((q.results[sub - 1]?.map Result.bytes).getD [])
  else if ix = 0x1001 then (if aggState s 4 nP = 2 ∨ s.modes.mode = .limp then 1 else 0)
  else if ix = 0x100A then s.strong.curatorVersion
  else if ix = 0x1010 ∧ sub ≠ 0 then siteRec s (sub - 1) / 0x10000 % 256 * 256 + siteRec s (sub - 1) / 0x1000000 % 256
  else if ix = 0x1018 ∧ sub = 4 then Config.serialNumber
  else if (ix = 0x1100 ∨ ix = 0x1101) ∧ sub = 2 then Config.macAddress (64 + ix % 2)
  else if (ix = 0x1100 ∨ ix = 0x1101) ∧ sub = 7 then
    (if getO s nV ix 1 = 0 then 0 else max 1 (getO s nV ix 7))
  else if (ix = 0x1100 ∨ ix = 0x1101) ∧ sub = 0x0A then (s.cat.sessions.filter fun e => e.2.port == ix % 2).length
  else if ix = 0x1300 ∧ sub = 3 then s.cat.sessions.length
  else getO s nV ix sub

/-- Archive objects that count what the buffer holds (R386, R387). -/
def readArchive (ix sub : Nat) (s : State) : Nat :=
  let dies := [0, 1, 2, 3]
  let free := fun d => framesTotal s d * 32 - slotsGranted s d - slotsFilled s d
  if ix = 0xA000 then
    match sub with
    | 1 => (dies.filter (dieUp s)).foldl setBit 0
    | 2 => 16256 * (dies.filter (dieUp s)).length
    | 3 => (dies.map fun d => framesTotal s d * 32).sum
    | 4 => (dies.map free).sum
    | 5 => (dies.map (slotsGranted s)).sum
    | 6 => (dies.map (slotsFilled s)).sum
    | _ => getO s nP ix sub
  else if 0xA010 ≤ ix ∧ ix ≤ 0xA013 then
    let d := ix - 0xA010
    match sub with
    | 6 => framesTotal s d * 32
    | 7 => free d
    | 8 => slotsGranted s d
    | 9 => slotsFilled s d
    | 0x0A => framesTotal s d
    | 0x0B => framesInUse s d
    | _ => getO s nP ix sub
  else if 0xA100 ≤ ix ∧ ix ≤ 0xA11F ∧ sub = 7 then getO s nP ix 5 * 32
  else if 0xA200 ≤ ix ∧ ix ≤ 0xA23F ∧ sub = 9 then (s.chan (ix - 0xA200)).unsent
  else getO s nP ix sub

/-- 2103h.03h: the lowest MINOR among the sites that are not retired (R57). -/
def lowestMinor (s : State) : Nat :=
  let minors := ((List.range 24).filter fun n => siteStateOf s n != 3).map fun n => siteRec s n / 0x1000000 % 256
  if minors = [] then 0 else minors.foldl min 255

/-- P's objects. -/
def readP (who : Requester) (ix sub : Nat) (s : State) : Nat :=
  if ix = 0x2000 ∧ sub = 1 then s.modes.mode.code
  else if ix = 0x2010 ∧ sub = 1 then now s
  else if ix = 0x2020 ∧ sub = 2 then (if s.modes.mode = .keep then 2 else if s.clock.engineFailed then 1 else 0)
  else if ix = 0x2103 ∧ sub = 3 then lowestMinor s
  else if ix = 0x8002 ∧ sub = 1 then (s.req who).select
  else if ix = 0x8002 ∧ sub = 2 then fromLe (((logAt s (s.req who).select).map ErrRec.bytes).getD [])
  else if ix = 0x8020 then fromLe ((s.errs.committed[sub - 1]?.map ErrRec.bytes).getD [])
  else if 0xA000 ≤ ix ∧ ix < 0xB000 then readArchive ix sub s
  else getO s nP ix sub

/-- P.S's objects. -/
def readS (ix sub : Nat) (s : State) : Nat :=
  if ix = 0x7045 then (if defined s (sub - 1) && fits s (sub - 1) then 1 else 0)
  else if ix = 0x7100 ∧ sub = 1 then strongState s
  else if ix = 0x7100 ∧ sub = 2 then Config.romVersion
  else if ix = 0x7300 ∧ sub = 3 then anchorKey s 0
  else if ix = 0x7400 then Config.certificate sub
  else if ix = 0x7500 ∧ sub = 3 then (haltedHarts s).length
  else getO s nS ix sub

/-- A gallery's objects (R50, R280, R330). -/
def readG (g ix sub : Nat) (s : State) : Nat :=
  let site := siteOf s g
  let r := siteRec s site
  let enabled := (List.range 16).filter (wayEnabled s g)
  if ix = 0x6000 ∧ sub ≤ 5 then
    match sub with
    | 1 => site
    | 2 => if site = 0xFF then 0 else r / 0x10000 % 256
    | 3 => if site = 0xFF then 0 else r / 0x1000000 % 256
    | 4 => if site = 0xFF then 0 else featureWord s site
    | _ => if site = 0xFF then 0 else siteStateOf s site
  else if ix = 0x6100 ∧ sub = 2 then wayBits enabled
  else if ix = 0x6100 ∧ sub = 4 then wayBits (if legacyGallery s g then unmaskedWays s g else spareWays s g)
  else if ix = 0x6100 ∧ sub = 5 then ((List.range 16).filter fun p => defined s p && noAllocate s g p).foldl setBit 0
  else if ix = 0x6111 then ((linesOfWay s g (sub - 1)).filter fun l => (s.l2 g l).holdsCopy).length
  else if 0x6030 ≤ ix ∧ ix ≤ 0x6033 then
    let m := ix - 0x6030
    if sub ≤ 7 then poolTotal s g m sub
    else if sub ≤ 14 then poolTotal s g m (sub - 7) - poolHeld s g m (sub - 7)
    else poolHeld s g m (sub - 14)
  else getO s (nGal g) ix sub

/-- P.C's objects (R329). -/
def readC (ix sub : Nat) (s : State) : Nat :=
  if ix = 0x6801 ∧ sub = 2 then slotsHeld s (fun _ => true)
  else if ix = 0x6801 ∧ sub = 3 then 16384 - slotsHeld s (fun _ => true)
  else if ix = 0x6813 then ((entriesUsed s).filter fun k => k / 2 ^ 46 == sub - 1).length
  else if ix = 0x6814 then slotsHeld s (· == sub - 1)
  else getO s nC ix sub

/-- Pixels of the line buffer that loaded programs take, but for one slot (R235, R251). -/
def Vit.reservedBut (x : Vit) (but : Nat) : Nat :=
  ((x.slot.filter fun e => e.1 != but && e.2.state != 0).map fun e => blkDemand e.2.block).sum
def Vit.reserved (x : Vit) : Nat := x.reservedBut 4
/-- The states of the four slots, two bits each (R251). -/
def Vit.states (x : Vit) : Nat := ((List.range 4).map fun i => (tblGet {} x.slot i).state * 4 ^ i).sum

/-- Runtime objects of blocks that SERVICE stops read their defaults there (R409): of contexts, rings, lanes and Accession, of queues, of
event sources, of Vitrines. What the configuration gives is no runtime object. -/
def stoppedObject (s : State) (node ix sub : Nat) : Bool :=
  s.modes.mode == .service && match node / 2 ^ 24 with
    | 4 => ix == 0x4310 || (ix == 0x4020 && (sub == 3 || sub == 4))
    | 5 => ix == 0x4310
    | 6 => ix == 0x4110
    | 7 => ix == 0x4210 && sub != 1
    | 9 => ix == 0xB110
    | 0x0A => ix == 0xB200 && decide (6 ≤ sub)
    | 0x0F => ix == 0x6400 && sub != 1
    | _ => false

/-- The value that a read of a node's object gives now, measured values aside. -/
def readObject (who : Requester) (node ix sub : Nat) (s : State) : Nat :=
  let n := node % 0x10000
  let g := node / 0x100 % 0x20
  if ix = 0 then
    match sub with
    | 1 => textNat (pathOf node)
    | 2 => node
    | 3 => if node = nP then 0xFFFFFFFF else parentOf node
    | _ => 0x0100
  else if ix = 1 then
    if sub = 0 then (familiesOf node).length
    else match (familiesOf node)[sub - 1]? with
      | some (a, b, c) => a + b * 2 ^ 32 + c * 2 ^ 64
      | none => 0
  else if ix = 2 ∧ sub = 1 then aggState s 4 node
  else if ix = 3 then
    let runs := runsOf (node / 2 ^ 24)
    if sub = 0 then runs.length
    else match runs[sub - 1]? with
      | some (a, b) => a + b * 2 ^ 16
      | none => 0
  else if ix < 0x1000 then getO s node ix sub
  else if stoppedObject s node ix sub then objDefault node ix sub
  else
    match node / 2 ^ 24 with
    | 0 => readP who ix sub s
    | 1 => readV who ix sub s
    | 2 => readS ix sub s
    | 3 =>
      if 0x3200 ≤ ix ∧ ix ≤ 0x3207 ∧ sub = 3 then unsigned 4 (speedOf s (ix - 0x3200))
      else if 0x3400 ≤ ix ∧ ix ≤ 0x341F ∧ sub = 2 then unsigned 8 (nextPoint s (ix - 0x3400))
      else getO s node ix sub
    | 4 => if ix = 0x4020 ∧ sub = 2 then windowSum s else getO s node ix sub
    | 7 => if ix = 0x4210 ∧ sub = 1 then ringMembers s n else getO s node ix sub
    | 5 => if ix = 0x4010 ∧ sub = 3 then Config.macAddress n else getO s node ix sub
    | 8 =>
      if ix = 0xB000 ∧ sub = 9 then (nodesWith s 9 0xB110 1 2).length else getO s node ix sub
    | 9 =>
      if ix = 0xB100 ∧ sub = 2 then queueOwner s n
      else if ix = 0xB110 ∧ sub = 4 then (if qEnabled s n then qCount s n else 0)
      else if ix = 0xB110 ∧ sub = 5 then qHeld s n
      else if ix = 0xB110 ∧ sub = 6 then (if qEnabled s n then qFree s n else 0)
      else getO s node ix sub
    | 0xA => if ix = 0xB200 ∧ sub = 2 then sourceOwner s n else getO s node ix sub
    | 0xB => readC ix sub s
    | 0xC => readG g ix sub s
    | 0xF =>
      let v := 3 * g + node / 0x10 % 4
      if ix = 0x6400 ∧ sub = 1 then v
      else if ix = 0x6400 ∧ sub = 3 then (s.vit v).reserved
      else if ix = 0x6400 ∧ sub = 0x0D then (s.vit v).states
      else getO s node ix sub
    | _ => getO s node ix sub

/-- Measured values: temperatures and rail voltages, the Vitrine clock in force, and the progress of a DDR5 initialisation under way
(R166, R251, R494). -/
def measured (s : State) (node ix sub : Nat) : Bool :=
  (node == nP && ((ix == 0x5000 && sub == 0x0A && s.modes.mode.active && s.mem.trained && getO s nP 0x5000 9 == 0) ||
    (ix == 0x8400 && (decide (24 < sub) || s.panel.powered.contains (sub - 1))) || ix == 0x8401 ||
    (decide (0x5020 ≤ ix) && decide (ix ≤ 0x5023) && sub == 5))) ||
  (s.modes.mode.active && node / 2 ^ 24 == 0xF && ix == 0x6400 && sub == 2)

/-- The sensor that a measured object shows: the temperature of a stack is shown twice (R494). -/
def measuredKey (node ix sub : Nat) : Nat :=
  if ix = 0x8400 ∧ 26 ≤ sub ∧ sub ≤ 29 then objKey nP (0x5020 + (sub - 26)) 5 else objKey node ix sub

/-- The value that a read gives: an open one where it is measured, the same while nothing happens between two reads (R15);
progress is a percentage, and a Vitrine's clock is at most 1,300 MHz (R228). -/
def readValue (who : Requester) (node ix sub : Nat) (s : State) : Nat :=
  (if measured s node ix sub then
    let v := Config.measured (measuredKey node ix sub) s.free (now s)
    if ix = 0x5000 then v % 101 else if ix = 0x6400 then v % 1301 else v
  else readObject who node ix sub s) % 2 ^ (8 * objSize node ix sub)

/-! Halting harts (R469-R471). -/

/-- The debug module is authenticated, and the hart's partition is open to the debugger (R470). -/
def debugOpen (s : State) (h : Nat) : Bool :=
  getO s nS 0x7500 1 == 1 && match partOfHart s h with
    | some p => (getO s nS 0x7500 2).testBit p
    | none => false

/-- Debug mode is entered: dpc, and dcsr's prv and cause (RISC-V debug). -/
def haltHart (hart cause : Nat) (s : State) : State :=
  let h := s.hart hart
  let d := setField (setField (h.csrOf 0x7B0) 6 3 cause) 0 2 h.priv.level
  setHart hart { (h.withCsr 0x7B1 h.pc).withCsr 0x7B0 d with run := .debug, priv := .m } s

/-- Debug mode is left: the pc and mode that dpc and dcsr hold. -/
def resumeHart (hart : Nat) (s : State) : State :=
  let h := s.hart hart
  if h.run = .debug then
    let run : HartRun := .running
    setHart hart { h with run := run, pc := h.csrOf 0x7B1, priv := privOf (field (h.csrOf 0x7B0) 0 2) } s
  else s

/-- 7500h: harts that the write closes to the debugger resume (R471). -/
def ruleDebug (sub v : Nat) : Rule := fun s =>
  let t := setO nS 0x7500 sub v s
  answered (forAll (haltedHarts t) (fun h s => onlyIf (!debugOpen s h) (resumeHart h) s) t)

/-! Writes: each object's own rule. -/

/-- The watermarks of a write queue: 1 ≤ low < high ≤ depth (R159). -/
def ruleWatermark (ix sub v : Nat) : Rule := fun s =>
  let t := setO nP ix sub v s
  if 1 ≤ getO t nP ix 3 ∧ getO t nP ix 3 < getO t nP ix 2 ∧ getO t nP ix 2 ≤ getO t nP ix 1 then answered t else refused 0 s

/-- 5050h: the objects of the checker test mode, and its actions (R190-R192). -/
def ruleTest (who : Requester) (sub v : Nat) : Rule :=
  if sub = 5 then
    match v with
    | 1 => ruleTestWriteData who
    | 2 => ruleTestWriteCheck who
    | 3 => ruleTestReadRaw who
    | _ => ruleTestPoison who
  else plainWrite nP 0x5050 sub v

/-- 2040h.01h: in SERVICE only; every RWP object but those of 7100h-7FFFh returns to its default (R395, R440). A partition is
then no longer defined, and has no ways (R265). The objects 4200h of a ring that still holds lines stay, as its single write would be
refused: the pool of R149 counts its lines against its window (DESIGN CHOICE). A channel that was enabled is so no more (R388), and the
field ports and the CAN port follow their enables. -/
def ruleRestore : Rule := fun s =>
  if s.modes.mode ≠ .service then refused 0 s
  else
    let drop := fun k =>
      let kind := k / 2 ^ 48
      let ix := k / 2 ^ 8 % 2 ^ 16
      let rwp := match rowOf kind ix (k % 2 ^ 8) with
        | some r => r.acc == .rwp
        | none => false
      rwp && !(kind == 2 && decide (0x7100 ≤ ix)) && !(s.acc.ring.any fun e => !e.2.held.isEmpty && k / 2 ^ 24 == nRing e.1)
    let s0 := forAll (List.range 64) (fun c s => onlyIf (getO s nP (0xA200 + c) 1 == 1) (channelOff c) s) s
    let s1 := runAll [onlyIf (getO s nV 0x1200 4 == 0) (setO nV 0x1200 5 1),
      forAll [0x1100, 0x1101] fun ix s => onlyIf (getO s nV ix 1 == 0) (setO nV ix 7 1) s]
      { s0 with obj := tblDrop drop s0.obj }
    let s2 := forAll (List.range 16) (fun p s => followDefined p 0 s) s1
    actionDone (setO nP 0x2010 3 0 (rwpCommitted (forAll (List.range 22) forceGallery s2)))

/-- P's objects. -/
def ruleP (who : Requester) (ix sub v : Nat) : Rule :=
  if ix = 0x2000 then (if sub = 2 then ruleMode who v else if sub = 8 then ruleAcknowledge [] else plainWrite nP ix sub v)
  else if ix = 0x2010 ∧ sub = 2 then ruleDiscipline v
  else if ix = 0x2020 then ruleRevertOptical
  else if ix = 0x2030 then rulePackageReset
  else if ix = 0x2040 then ruleRestore
  else if ix = 0x2102 then
    (if sub = 1 then ruleRetireGallery v else if sub = 7 then ruleRetestSite who v else plainWrite nP ix sub v)
  else if ix = 0x5000 ∧ sub = 0x0B then ruleClearRetirements
  else if (ix = 0x5010 ∨ ix = 0x5011) ∧ (sub = 2 ∨ sub = 3) then ruleWatermark ix sub v
  else if ix = 0x5050 then ruleTest who sub v
  else if ix = 0x8002 then fun s => answered (setReq who { s.req who with select := v } s)
  else if ix = 0x8205 ∧ sub = 7 then ruleClearArchive
  else if ix = 0x8300 ∧ sub = 1 then ruleAudit who
  else if ix = 0x9000 ∧ sub = 3 then ruleClearCounters
  else if 0x9100 ≤ ix ∧ ix ≤ 0x911F then
    (if sub = 5 then fun s => answered (setO nP ix 5 (if v = 1 then 0 else getO s nP ix 5) s) else ruleCounter (ix - 0x9100) sub v)
  else if 0xA100 ≤ ix ∧ ix ≤ 0xA11F then
    (if sub = 1 then ruleNsEnable (ix - 0xA100) v else ruleNsConfig (ix - 0xA100) sub v)
  else if 0xA200 ≤ ix ∧ ix ≤ 0xA23F then
    (if sub = 1 then ruleChannelEnable (ix - 0xA200) v
     else if sub = 0x0C then ruleChannelReset (ix - 0xA200) else ruleChannelConfig (ix - 0xA200) sub v)
  else plainWrite nP ix sub v

/-- 1100h.01h: both ports are never disabled together; a port just enabled has its link down (R412). -/
def rulePortEnable (ix v : Nat) : Rule := fun s =>
  if v = 0 ∧ getO s nV (if ix = 0x1100 then 0x1101 else 0x1100) 1 = 0 then refused 0 s
  else answered (onlyIf (getO s nV ix 1 != v) (setO nV ix 7 v) (setO nV ix 1 v s))

/-- P.V's objects. -/
def ruleV (who : Requester) (ix sub v : Nat) : Rule :=
  if ix = 0x1F80 then fun s => answered (setReq who { s.req who with selected := v } s)
  else if (ix = 0x1100 ∨ ix = 0x1101) ∧ sub = 1 then rulePortEnable ix v
  else if ix = 0x1200 ∧ sub = 4 then fun s => answered (setO nV 0x1200 5 v (setO nV 0x1200 4 v s))
  else plainWrite nV ix sub v

/-- P.S's objects. -/
def ruleS (who : Requester) (ix sub v : Nat) : Rule :=
  if ix < 0x7040 then rulePartition ix sub v
  else if ix = 0x7050 then (if sub = 1 then ruleStart who v else if sub = 2 then ruleStop who v else ruleRestart who v)
  else if ix = 0x7100 then (if sub = 6 then ruleRaiseMinimum else if sub = 9 then ruleZeroise else ruleDecommission)
  else if ix = 0x7200 then
    (if sub = 1 then ruleInstallTarget who v else if sub = 2 then ruleInstallData who v else ruleInstall who)
  else if 0x7210 ≤ ix ∧ ix ≤ 0x7217 then ruleMinVersion (ix - 0x7210) v
  else if 0x7230 ≤ ix ∧ ix ≤ 0x7233 then ruleOwnerKey (ix - 0x7230) sub v
  else if 0x7300 ≤ ix ∧ ix ≤ 0x7307 then ruleAnchor (ix - 0x7300) sub v
  else if ix = 0x7410 then ruleAttest who v
  else if ix = 0x7500 then ruleDebug sub v
  else plainWrite nS ix sub v

/-- P.H's objects. -/
def ruleH (ix sub v : Nat) : Rule :=
  if ix = 0x3000 then ruleTestFire v
  else if 0x3100 ≤ ix ∧ ix ≤ 0x3107 then
    (if sub = 8 then (if v = 1 then ruleLoadPreset (ix - 0x3100) else ruleHoming (ix - 0x3100))
     else ruleEncoderConfig (ix - 0x3100) sub v)
  else if 0x3200 ≤ ix ∧ ix ≤ 0x3207 then ruleFaultClear (ix - 0x3200) v
  else if 0x3300 ≤ ix ∧ ix ≤ 0x331F then ruleProgramConfig (ix - 0x3300) sub v
  else ruleOutputConfig (ix - 0x3500) sub v

/-- The rule of any object's write. -/
def ruleFor (who : Requester) (node ix sub v : Nat) : Rule :=
  let n := node % 0x10000
  let g := node / 0x100 % 0x20
  match node / 2 ^ 24 with
  | 0 => ruleP who ix sub v
  | 1 => ruleV who ix sub v
  | 2 => ruleS who ix sub v
  | 3 => ruleH ix sub v
  | 4 => ruleLaneOffset v
  | 5 => ruleLane n sub v
  | 6 => ruleCtx n sub v
  | 7 => ruleRing n sub v
  | 9 =>
    if sub = 1 then ruleQueueEnable n v else if sub = 0x0D then ruleQueueReset n else ruleQueueConfig n sub v
  | 0xA => if sub = 1 then ruleSourceEnable n v else ruleSourceConfig n sub v
  | 0xC =>
    if ix = 0x6120 then ruleLock who g v
    else if ix = 0x6102 then ruleLegacyMask g sub v
    else if ix = 0x6100 ∧ sub = 6 then ruleClearDisabled g
    else ruleWayMethod g v
  | _ => plainWrite node ix sub v

end Sys2Proof.Machine
end

