-- ==== Sys2Proof/Machine/Catalogue.lean ====
section
/-! DEFINITION. Serving the Catalogue (R396-R416): READ, WRITE and TAKE, mailboxes, field ports and sessions, CAN FD, and
the device pages as stores and loads of a hart reach them. -/

namespace Sys2Proof.Machine

/-! A request against its object (R396-R402). -/

/-- The node a request acts on: a CAN FD client names it by 1F80h.01h, but for 1000h-1FFFh (R413). -/
def requestNode (s : State) (who : Requester) (r : CatReq) : Option Nat :=
  match who with
  | .can _ => if r.index / 0x1000 = 1 then some nV else resolveNode (s.req who).selected r.index
  | _ => resolveNode r.node r.index

/-- A subindex that the node carries now: those of 0001h and 0003h end at their count (R391). -/
def subCarried (node ix sub : Nat) : Bool :=
  (rowOf (node / 2 ^ 24) ix sub).isSome &&
    (if ix = 1 then decide (sub ≤ (familiesOf node).length)
     else if ix = 3 then decide (sub ≤ (runsOf (node / 2 ^ 24)).length) else true)

/-- Sessions on a port close. -/
def closePort (port : Nat) (s : State) : State :=
  forAll ((s.cat.sessions.filter fun e => e.2.port == port).map (·.1)) closeSession s

/-- A write of port settings that was accepted (R412). -/
def closesPort (ix sub : Nat) : Bool :=
  (ix == 0x1100 || ix == 0x1101) && (sub == 1 || sub == 3 || sub == 4 || sub == 5 || sub == 6)

/-- What follows the answer to a write: the reset of R78, the end of every session (R439), or of a port's (R412). -/
def afterWrite (who : Requester) (node ix sub : Nat) (s t : State) : State :=
  if !accepted who s t then t
  else if node == nP && ix == 0x2030 && sub == 1 && t.power.resetting then enterOff 3 0 false (emit (.acknowledged who) t)
  else if node == nS && ix == 0x7100 && (sub == 9 || sub == 0x0A) then closeSessions t
  else if node == nV && closesPort ix sub then closePort (ix % 2) t
  else t

/-- The WRITE under service, with its object's own rule. -/
def serveObjectWrite (who : Requester) (node ix sub v : Nat) (s : State) : State :=
  afterWrite who node ix sub s (serveWrite who node ix sub v (ruleFor who node ix sub v) s)

/-- A write of any object by a requester. -/
def writeObject (who : Requester) (node ix sub v : Nat) (s : State) : State :=
  if received s who then admitRequest (writeOf who node ix sub v false s) (serveObjectWrite who node ix sub v) (appear who s) else s

/-- What a TAKE returns, and the state with it consumed (R396, R404, R438, R446). -/
def takeItem (who : Requester) (ix : Nat) (s : State) : Option (List Byte × State) :=
  let q := s.req who
  if ix = 0x1F82 then
    match q.untaken with
    | [] => none
    | r :: rest => some (r.bytes, setReq who { q with untaken := rest } s)
  else if ix = 0x7410 then
    match q.reports with
    | [] => none
    | b :: rest => some (b, setReq who { q with reports := rest } s)
  else
    let c := q.cursor.getD (oldestHeld s)
    let at_ := max c (oldestHeld s)
    match logAt s at_ with
    | none => none
    | some r =>
      let r' := if c < at_ then { r with lost := true } else r
      some (r'.bytes, setReq who { q with cursor := some (at_ + 1) } s)

/-- TAKE. -/
def serveTake (who : Requester) (node ix sub : Nat) (row : ObjRow) (s : State) : State :=
  if row.acc ≠ .tk then respondRefused who 0x06010000 1 s
  else
    match roleRefusal s who node ix sub 0 with
    | some d => respondRefused who 0x06010000 d s
    | none =>
      match takeItem who ix s with
      | none => respondRefused who 0x08000024 0 s
      | some (b, s1) => respondValue who b s1

/-- The requester speaks USDO. -/
def overCan : Requester → Bool
  | .can _ => true
  | _ => false

/-- READ of an object that the node carries. An upload of a TK object over USDO is a TAKE (R413). -/
def serveRead (who : Requester) (node ix sub : Nat) (row : ObjRow) (s : State) : State :=
  if row.acc = .wo then respondRefused who 0x06010001 0 s
  else if row.acc = .tk then
    if overCan who then serveTake who node ix sub row s else respondRefused who 0x06010000 1 s
  else if roleOf s who = 0 then respondRefused who 0x06010000 2 s
  else respondValue who (leBytes row.ty.size (readValue who node ix sub s)) s

/-- A request whose node, index and subindex exist. -/
def serveObject (who : Requester) (op : CatOp) (node ix sub : Nat) (value : List Byte) (row : ObjRow) (s : State) : State :=
  match op with
  | .read => serveRead who node ix sub row s
  | .take => serveTake who node ix sub row s
  | .write =>
    if row.acc = .ro ∨ row.acc = .tk then respondRefused who 0x06010002 0 s
    else if value.length ≠ row.ty.size then respondRefused who 0x06070010 0 s
    else serveObjectWrite who node ix sub (fromLe value) s

/-- A request that was received, whole against its object (R397). -/
def serveRequest (who : Requester) (op : CatOp) (r : CatReq) (s : State) : State :=
  match requestNode s who r with
  | none => respondRefused who 0x06020000 1 s
  | some node =>
    if s.modes.mode == .keep && !keepServes node r.index then respondRefused who 0x08000022 0 s
    else if !carriesIndex (node / 2 ^ 24) r.index then respondRefused who 0x06020000 2 s
    else if !subCarried node r.index r.sub then respondRefused who 0x06090011 0 s
    else match rowOf (node / 2 ^ 24) r.index r.sub with
      | none => respondRefused who 0x06090011 0 s
      | some row => serveObject who op node r.index r.sub r.value row s

/-- The request is the requester's previous one, over a transport that repeats (R398). -/
def repeats (s : State) (who : Requester) (op : CatOp) (r : CatReq) : Bool :=
  mayRepeat who && (s.req who).lastReq == some (op, r)

/-- A request arrives (R397, R398, R409); `unit`: as a mailbox copied it. A repetition is answered by the kept response: nothing is
performed. -/
def requestUnit (who : Requester) (op : CatOp) (r : CatReq) (unit : List Byte) (s : State) : State :=
  if !received s who then s
  else if repeats s who op r then appear who s
  else admitRequest { who := who, op := op, req := r, since := now s, unit := unit, keeps := true } (serveRequest who op r) (appear who s)

/-- A request that no mailbox carries. -/
def request (who : Requester) (op : CatOp) (r : CatReq) (s : State) : State := requestUnit who op r [] s

def execCatalogueRead (who : Requester) (req : CatReq) (s : State) : Out := .next (request who .read req s)
def execCatalogueWrite (who : Requester) (req : CatReq) (s : State) : Out := .next (request who .write req s)
def execCatalogueTake (who : Requester) (req : CatReq) (s : State) : Out := .next (request who .take req s)

/-- RESTORE_DEFAULTS. -/
def execRestoreDefaults (who : Requester) (value : Nat) (s : State) : Out :=
  .next (served who nP 0x2040 1 value ruleRestore s)

/-! Mailboxes (R405-R408). -/

def State.mbox (s : State) (p : Nat) : Mailbox := tblGet {} s.cat.mbox p
def setMbox (p : Nat) (m : Mailbox) (s : State) : State :=
  { s with cat := { s.cat with mbox := tblSet {} s.cat.mbox p m } }

/-- The bytes of REQUEST, 1,088 from offset 0x100. -/
def Mailbox.unit (m : Mailbox) : List Byte := (List.range 1088).map (tblGet 0 m.request)

/-- The operation and request that a unit spells; none where it is malformed (R405, R406). -/
def parseUnit (b : List Byte) : Option (CatOp × CatReq) :=
  let len := leAt b 12 4
  let req : CatReq := { tag := leAt b 2 2, node := leAt b 4 4, index := leAt b 8 2, sub := leAt b 10 1,
                        value := (b.drop 16).take len }
  if leAt b 0 1 ≠ 1 ∨ leAt b 11 1 ≠ 0 ∨ 1072 < len then none
  else match leAt b 1 1 with
    | 1 => if len = 0 then some (.read, req) else none
    | 2 => some (.write, req)
    | 3 => if len = 0 then some (.take, req) else none
    | _ => none

/-- The response unit that answers a request unit (R406). -/
def responseUnit (b : List Byte) (q : ReqState) : List Byte :=
  let action := if q.resultTag = 0 then 0 else 1
  leBytes 1 1 ++ leBytes 1 (leAt b 1 1 % 128 + 128) ++ leBytes 2 (leAt b 2 2) ++ leBytes 4 (leAt b 4 4) ++
    leBytes 2 (leAt b 8 2) ++ leBytes 1 (leAt b 10 1) ++ leBytes 1 0 ++ leBytes 4 q.abort ++ leBytes 1 q.detail ++
    leBytes 1 action ++ leBytes 2 0 ++ leBytes 4 q.resultTag ++ leBytes 4 q.value.length ++ q.value

/-- A requester has a request outstanding (R397). -/
def outstanding (s : State) (who : Requester) : Bool := s.cat.queue.any (·.who == who)

/-- The response is in RESPONSE (R407), once there is one; it is lost where the request reset the page (R416). -/
def respondMailbox (p : Nat) (b : List Byte) (s : State) : State :=
  let m := s.mbox p
  if !m.busy || outstanding s (.mailbox p) then s
  else
    let m' := { m with response := responseUnit b (s.req (.mailbox p)), busy := false, ready := true,
                       count := (m.count + 1) % 2 ^ 32, rtag := leAt b 2 2 }
    fireSource (1296 + p) (setMbox p m' s)

/-- A store of 1 to SUBMIT: the unit is copied, served, and answered; 1400h counts the requests that are served (R398, R406, R415). -/
def submit (p : Nat) (s : State) : State :=
  let m := s.mbox p
  if m.busy then setMbox p { m with overrun := true } s
  else
    let b := m.unit
    let s1 := setMbox p { m with busy := true, ready := false, overrun := false } s
    let who := Requester.mailbox p
    respondMailbox p b (match parseUnit b with
      | none => if received s1 who then respondRefused who 0x06090030 0 (appear who s1) else s1
      | some (op, r) => requestUnit who op r b (onlyIf (received s1 who && !repeats s1 who op r) (addO nV 0x1400 (p + 1) 1) s1))

/-- The first request outstanding is served again, now that what its answer waits for may have ended (R397, R399). One whose requester is
received no more has no answer. -/
def serveWaiting (s : State) : State :=
  match s.cat.queue with
  | [] => s
  | w :: rest =>
    let s1 := { s with cat := { s.cat with queue := rest } }
    if !received s1 w.who then s1
    else
      let t := serveNow w (serveRequest w.who w.op w.req) s1
      match w.who with
      | .mailbox p => respondMailbox p w.unit t
      | _ => t

/-- What a step does when no command waits: the clock ticks, and the Curator goes on with the requests and the audit (R66, R397, R458). -/
def idle (s : State) : State := continueAudit (serveWaiting (tick s))

/-- A store to a mailbox page. -/
def mailboxStore (p off size v : Nat) (s : State) : State :=
  if off = 0 then (if size = 4 ∧ v = 1 then submit p s else s)
  else if 0x100 ≤ off ∧ off + size ≤ 0x540 then
    let m := s.mbox p
    let bytes := leBytes size v
    let request := (List.range size).foldl (fun l i => tblSet 0 l (off - 0x100 + i) (bytes.getD i 0)) m.request
    setMbox p { m with request := request } s
  else s

/-- STATUS of a mailbox. -/
def mailboxWord (m : Mailbox) : Nat :=
  (if m.busy then 1 else 0) + (if m.ready then 2 else 0) + (if m.overrun then 4 else 0) + m.rtag * 2 ^ 16 + m.count * 2 ^ 32

/-- A load from a mailbox page. -/
def mailboxLoad (s : State) (p off size : Nat) : Nat :=
  let m := s.mbox p
  if off = 8 ∨ off = 0xC then mailboxWord m / 2 ^ (8 * (off - 8)) % 2 ^ (8 * size)
  else if 0x100 ≤ off ∧ off + size ≤ 0x540 then fromLe ((List.range size).map fun i => tblGet 0 m.request (off - 0x100 + i))
  else if 0x600 ≤ off ∧ off + size ≤ 0xA40 then
    (if m.ready then fromLe ((List.range size).map fun i => m.response.getD (off - 0x600 + i) 0) else 0)
  else 0

/-- A register of a Concourse control page, 8 bytes at a multiple of 8 (R328). -/
def concourseWord (s : State) (k off : Nat) : Nat :=
  let p := k - 1
  if k = 0 then
    (if off = 0 then 0x10400020
     else if off = 8 then ((List.range 16).filter fun p => getO s nC 0x6810 (p + 1) == 0).foldl setBit 0 else 0)
  else
    match off with
    | 0x00 => getO s nC 0x6810 (p + 1) + getO s nC 0x6811 (p + 1) * 2 ^ 32
    | 0x08 => getO s nC 0x6812 (p + 1) + tblGet 0 s.conc.causeGallery p * 256
    | 0x10 => slotsHeld s (· == p)
    | 0x18 => tblGet 0 s.conc.binv p
    | 0x20 => tblGet 0 s.conc.stale p
    | _ => 0

/-- A load from a Concourse control page. -/
def concourseLoad (s : State) (k off size : Nat) : Nat :=
  concourseWord s k (off / 8 * 8) / 2 ^ (8 * (off % 8)) % 2 ^ (8 * size)

/-- A store that check 6 let through to a device page; none where it is an access fault (R328, R337, R356, R407). -/
def deviceStore (a size v : Nat) (s : State) : Option State :=
  match devPage a with
  | .fileM h off => some (fileStore h true off size v s)
  | .fileS h off => some (fileStore h false off size v s)
  | .doorbell q off => some (doorbellStore q off size v s)
  | .mailbox p off => some (mailboxStore p off size v s)
  | .concourse _ _ => none
  | .nothing => none

/-- A load from a device page; an interrupt-file page reads zero (R356). -/
def deviceLoad (s : State) (a size : Nat) : Nat :=
  match devPage a with
  | .doorbell q off => doorbellLoad s q off size
  | .mailbox p off => mailboxLoad s p off size
  | .concourse k off => concourseLoad s k off size
  | _ => 0

/-- The address of a mailbox page. -/
def mailboxAddr (p : Nat) : Nat := 0x0F0020000000 + p * 0x1000

/-- MAILBOX_SUBMIT: a hart's store to SUBMIT. -/
def execMailboxSubmit (hart : Nat) (va : Word) (page value : Nat) (s : State) : Out :=
  within (decide (hart < 264) && decide (page < 16) && decide (value < 2 ^ 32)) <|
    hartDeviceStore hart va (mailboxAddr page) 4 (mailboxStore page 0 4 value) s

/-! Registers with no row of their own (R14, R196). -/

/-- A CSR instruction of a hart that writes a whole CSR: illegal where the number, the mode or the access code forbids it. -/
def csrStore (hart num : Nat) (v : Word) (s : State) : State :=
  let h := s.hart hart
  if !(s.modes.mode.active && h.run == .running) then s
  else if h.csrLegal num true then csrWrite hart num v (complete hart (h.pc + 4) s)
  else illegal hart s

/-- A store of a hart to any device register; a page that takes no store raises an access fault (R328). -/
def deviceWordStore (hart : Nat) (va : Word) (addr : Nat) (v : Word) (size : Nat) (s : State) : State :=
  hartDeviceStore hart va addr size
    (fun t => match deviceStore addr size (v.toNat % 2 ^ (8 * size)) t with
      | some u => u
      | none => takeExc hart (.trap 7 va) t) s

/-- A write of the object that its node, index and subindex name; one that names none, or an object that takes no writes or a
value of its size, is answered as a request of R397 is. -/
def writeNamed (who : Requester) (node ix sub value : Nat) (s : State) : State :=
  let refuse := fun (code detail : Nat) => if received s who then respondRefused who code detail (appear who s) else s
  match resolveNode node ix with
  | none => refuse 0x06020000 1
  | some n => match rowOf (n / 2 ^ 24) ix sub with
    | none => if carriesIndex (n / 2 ^ 24) ix then refuse 0x06090011 0 else refuse 0x06020000 2
    | some r =>
      if r.acc = .ro ∨ r.acc = .tk then refuse 0x06010002 0
      else if 2 ^ (8 * r.ty.size) ≤ value then refuse 0x06070010 0
      else writeObject who n ix sub value s

/-- REGISTER_WRITE. -/
def execRegisterWrite (target : RegTarget) (s : State) : Out :=
  match target with
  | .object who node ix sub value => .next (writeNamed who node ix sub value s)
  | .csr hart num value => within (decide (hart < 264) && decide (num < 4096)) (csrStore hart num value s)
  | .mailboxWord hart va page offset value =>
    within (decide (hart < 264) && decide (page < 16) && decide (offset % 4 = 0) && decide (offset < 0x1000)) <|
      hartDeviceStore hart va (mailboxAddr page + offset) 4 (mailboxStore page offset 4 value.toNat) s
  | .deviceWord hart va addr value size =>
    within (decide (hart < 264) && (size == 4 || size == 8) && inDevice addr) (deviceWordStore hart va addr value size s)

/-! Field ports and sessions (R410-R412, R436). -/

def portIx (k : Nat) : Nat := 0x1100 + k

/-- A field port is enabled and its link is up. -/
def portUp (s : State) (k : Nat) : Bool :=
  s.modes.mode.on && getO s nV (portIx k) 1 == 1 && getO s nV (portIx k) 7 == 2

/-- The lowest session slot that is free. -/
def freeSession (s : State) : Option Nat := (List.range 8).find? fun n => (tblFind s.cat.sessions n).isNone

/-- The role of a client chain: that of the enabled anchor whose key signed the last certificate; none where authentication
fails (R436). -/
def chainRole (s : State) (c : CertChain) : Option Nat :=
  match c.anchor with
  | some a =>
    if 1 ≤ c.length ∧ c.length ≤ 3 ∧ c.signaturesGood = true ∧ a < 8 ∧ getO s nS (0x7300 + a) 1 = 1 ∧
        s.strong.decommissioned = false then some (getO s nS (0x7300 + a) 2)
    else none
  | none => none

/-- DTLS_HANDSHAKE. -/
def execDtlsHandshake (port : Nat) (chain : CertChain) (s : State) : Out :=
  within (decide (port < 2)) <|
    if !portUp s port then s
    else match chainRole s chain, freeSession s with
      | some role, some n =>
        let cat := { s.cat with sessions := tblInsert s.cat.sessions n { port := port, role := role, lastUse := now s } }
        emit (.handshake n Config.identityKey) (appear (.session n) { s with cat := cat })
      | _, _ => addO nV 0x1300 4 1 s

/-- SESSION_IDLE_CLOSE. -/
def execSessionIdleClose (session : Nat) (s : State) : Out :=
  within (decide (session < 8)) <|
    match tblFind s.cat.sessions session with
    | some x =>
      if x.lastUse + getO s nV 0x1300 2 * 1000000000 ≤ now s then closeSession session s else s
    | none => s

/-- FIELD_PORT_CONFIG_WRITE: 1100h + k. -/
def execFieldPortConfigWrite (who : Requester) (port sub value : Nat) (s : State) : Out :=
  within (decide (port < 2)) (writeNamed who nV (portIx port) sub value s)

/-- FIELD_PORT_LINK_LOSS. -/
def execFieldPortLinkLoss (port : Nat) (s : State) : Out :=
  within (decide (port < 2)) (if portUp s port then setO nV (portIx port) 7 1 s else s)

/-- FIELD_PORT_LINK_RETURN. -/
def execFieldPortLinkReturn (port : Nat) (s : State) : Out :=
  within (decide (port < 2)) <|
    if s.modes.mode.on && getO s nV (portIx port) 1 == 1 then setO nV (portIx port) 7 2 s else s

/-- One access unit that a session's record carries (R405, R406): one too short for a tag is discarded, a malformed one is answered with
0609_0030h, and any other is the session's request. -/
def sessionUnit (n : Nat) (b : List Byte) (s : State) : State :=
  let who := Requester.session n
  if !received s who || decide (b.length < 4) then s
  else match parseUnit b with
    | some (op, r) => if b.length = 16 + r.value.length ∧ r.value.length = leAt b 12 4 then request who op r s
                      else respondRefused who 0x06090030 0 (appear who s)
    | none => respondRefused who 0x06090030 0 (appear who s)

/-- FIELD_PORT_FRAME_RECEIVED: ARP and ICMP echo for the port's address are answered, Catalogue and selected time frames are taken, a
record's access unit is served (R406), a record that holds anything but one access unit closes its session (R411), every other frame is
dropped and counted (R410). -/
def execFieldPortFrameReceived (port : Nat) (frame : FieldFrame) (s : State) : Out :=
  within (decide (port < 2)) <|
    if !portUp s port then s
    else
      let s1 := addO nV (portIx port) 8 1 s
      let drop := addO nV (portIx port) 9 1 s1
      let ip := getO s nV (portIx port) 3
      let src := getO s nP 0x2010 2
      match frame with
      | .arpRequest t => if t = ip then emit (.fieldArp port ip) s1 else drop
      | .icmpEcho t => if t = ip then emit (.fieldEcho port ip) s1 else drop
      | .catalogue => s1
      | .accessUnit n b => match tblFind s.cat.sessions n with
        | some x => if x.port = port then sessionUnit n b s1 else drop
        | none => drop
      | .badRecord n => match tblFind s.cat.sessions n with
        | some x => if x.port = port then closeSession n s1 else drop
        | none => drop
      | .time => if src = 1 + port ∨ src = 3 + port then s1 else drop
      | .other => drop

/-! CAN FD (R413, R414). -/

def setNmt (x : Nmt) (s : State) : State := { s with cat := { s.cat with nmt := x } }

/-- A frame on the CAN FD port: nothing while the port takes none; one that is classical or addresses another node is dropped and counted
(R413, R414). -/
def canFrame (f : CanFrame) (act : State → State) (s : State) : State :=
  if !canOn s then s
  else if f.classical || (f.node != 0 && f.node != s.cat.canNodeId) then addO nV 0x1200 8 1 s
  else act s

def execNmtStart (f : CanFrame) (s : State) : Out := .next (canFrame f (setNmt .operational) s)
def execNmtStop (f : CanFrame) (s : State) : Out := .next (canFrame f (setNmt .stopped) s)
def execNmtEnterPreoperational (f : CanFrame) (s : State) : Out := .next (canFrame f (setNmt .preOperational) s)

/-- Boot-up is sent and the device is pre-operational. -/
def bootUp (s : State) : State := setNmt .preOperational (emit (.bootUp s.cat.canNodeId) s)

/-- CAN FD communication resets: new settings apply, clients' results and cursors are lost (R404, R414, R446). -/
def resetCommunication (s : State) : State :=
  let reqs := tblDrop (fun k => decide (8 ≤ k) && decide (k < 1000)) s.cat.reqs
  bootUp { s with cat := { s.cat with reqs := reqs, canNodeId := getO s nV 0x1200 1,
                                      canRates := (getO s nV 0x1200 2, getO s nV 0x1200 3) } }

/-- NMT_RESET_COMMUNICATION. -/
def execNmtResetCommunication (f : CanFrame) (s : State) : Out := .next (canFrame f resetCommunication s)

/-- USDO_ABORT: a client aborts a segmented transfer, and nothing is written or consumed. -/
def execUsdoAbort (client : Nat) (s : State) : Out := within (decide (1 ≤ client) && decide (client ≤ 127)) s

/-- USDO_TRANSFER_TIMEOUT: the transfer is aborted with 0504_0000h (R401). -/
def execUsdoTransferTimeout (client : Nat) (s : State) : Out :=
  within (decide (1 ≤ client) && decide (client ≤ 127)) <|
    if received s (.can client) then
      emit (.usdoAbort client 0x05040000) (respondRefused (.can client) 0x05040000 0 s)
    else s

/-- HEARTBEAT_TIMER. -/
def execHeartbeatTimer (s : State) : Out :=
  .next <|
    let period := getO s nV 0x1017 0
    if canOn s && period != 0 && decide (s.cat.lastBeat + period * 1000000 ≤ now s) then
      emit (.heartbeat s.cat.canNodeId s.cat.nmt) { s with cat := { s.cat with lastBeat := now s } }
    else s

/-- CAN_BUS_OFF: the steps of the port's error state (R414, ISO 11898-1). A bus-off is counted, and until the port has recovered it takes
and sends nothing; it is then error active again and sends boot-up. -/
def execCanBusOff (change : CanChange) (s : State) : Out :=
  .next <|
    if !canRuns s then s
    else match change, getO s nV 0x1200 5 with
      | .passive, 1 => setO nV 0x1200 5 2 s
      | .active, 2 => setO nV 0x1200 5 1 s
      | .busOff, 1 => setO nV 0x1200 5 3 (addO nV 0x1200 6 1 s)
      | .busOff, 2 => setO nV 0x1200 5 3 (addO nV 0x1200 6 1 s)
      | .recovered, 3 => bootUp (setO nV 0x1200 5 1 s)
      | _, _ => s

end Sys2Proof.Machine
end

