-- ==== Sys2Proof/Machine/Float.lean ====
section
/-! DEFINITION. Scalar floating point of the F and D extensions (R195): IEEE 754 binary32 and binary64, exact arithmetic on
integers followed by one rounding, with the accrued flags NV 16, DZ 8, OF 4, UF 2, NX 1. -/

namespace Sys2Proof.Machine

/-! Formats. `dbl` selects binary64. -/

/-- Precision with the hidden bit, exponent bias, and width. -/
def fpPrec (dbl : Bool) : Nat := if dbl then 53 else 24
def fpBias (dbl : Bool) : Nat := if dbl then 1023 else 127
def fpBits (dbl : Bool) : Nat := if dbl then 64 else 32
/-- The greatest biased exponent: infinities and NaNs. -/
def fpTop (dbl : Bool) : Nat := 2 * fpBias dbl + 1
/-- The exponent of the least significant bit of a subnormal number. -/
def fpMin (dbl : Bool) : Int := 1 - (fpBias dbl : Int) - (fpPrec dbl - 1)
/-- The canonical NaN. -/
def fpNan (dbl : Bool) : Nat := if dbl then 0x7FF8000000000000 else 0x7FC00000
/-- Infinity and zero of a sign. -/
def fpInf (dbl neg : Bool) : Nat := (if neg then 2 ^ (fpBits dbl - 1) else 0) + fpTop dbl * 2 ^ (fpPrec dbl - 1)
def fpZero (dbl neg : Bool) : Nat := if neg then 2 ^ (fpBits dbl - 1) else 0

/-- A floating-point datum. A finite one is ± m × 2^e. -/
inductive FpVal where
  | nan (signaling : Bool)
  | inf (neg : Bool)
  | fin (neg : Bool) (m : Nat) (e : Int)
deriving DecidableEq, Repr

/-- The datum that bits encode. -/
def fpDecode (dbl : Bool) (x : Nat) : FpVal :=
  let p := fpPrec dbl - 1
  let neg := x.testBit (fpBits dbl - 1)
  let ex := x / 2 ^ p % (fpTop dbl + 1)
  let fr := x % 2 ^ p
  if ex = fpTop dbl then (if fr = 0 then .inf neg else .nan (!fr.testBit (p - 1)))
  else if ex = 0 then .fin neg fr (fpMin dbl)
  else .fin neg (2 ^ p + fr) ((ex : Int) - fpBias dbl - p)

def FpVal.isNan : FpVal → Bool
  | .nan _ => true
  | _ => false
def FpVal.isSnan : FpVal → Bool
  | .nan s => s
  | _ => false

/-! Rounding. -/

/-- m × 2^e rounded to a multiple of 2^q under a rounding mode, `sticky` for a discarded part below it: the multiple, and
whether it is inexact. -/
def roundAt (rm : Nat) (neg : Bool) (m : Nat) (e q : Int) (sticky : Bool) : Nat × Bool :=
  let d := (q - e).toNat
  let kept := m * 2 ^ (e - q).toNat / 2 ^ d
  let rem := m * 2 ^ (e - q).toNat % 2 ^ d
  let inexact := rem != 0 || sticky
  let half := 2 ^ d / 2
  let up := match rm with
    | 0 => decide (1 ≤ d) && (decide (half < rem) || (rem == half && (sticky || kept % 2 == 1)))
    | 1 => false
    | 2 => neg && inexact
    | 3 => !neg && inexact
    | _ => decide (1 ≤ d) && decide (half ≤ rem)
  (if up then kept + 1 else kept, inexact)

/-- The value ± m × 2^e in a format: bits and flags. -/
def fpRound (dbl : Bool) (rm : Nat) (neg : Bool) (m : Nat) (e : Int) (sticky : Bool) : Nat × Nat :=
  if m = 0 then (fpZero dbl neg, 0)
  else
    let p := fpPrec dbl
    let len : Int := m.log2 + 1
    let (n, inexact) := roundAt rm neg m e (max (e + len - p) (fpMin dbl)) sticky
    let q := if n = 2 ^ p then max (e + len - p) (fpMin dbl) + 1 else max (e + len - p) (fpMin dbl)
    let n := if n = 2 ^ p then 2 ^ (p - 1) else n
    let free := (roundAt rm neg m e (e + len - p) sticky).1
    let top := if free = 2 ^ p then e + len else e + len - 1
    let tiny := decide (top < 1 - (fpBias dbl : Int))
    let nx := if inexact then 1 else 0
    let sign := fpZero dbl neg
    if 2 ^ (p - 1) ≤ n then
      let ex := q + (p - 1) + fpBias dbl
      if (fpTop dbl : Int) ≤ ex then
        let toInf := rm == 0 || rm == 4 || (rm == 2 && neg) || (rm == 3 && !neg)
        (if toInf then fpInf dbl neg else fpInf dbl neg - 1, 5)
      else (sign + ex.toNat * 2 ^ (p - 1) + (n - 2 ^ (p - 1)), nx + (if tiny && inexact then 2 else 0))
    else (sign + n, nx + (if inexact then 2 else 0))

/-! Operations. Each answers bits and flags. -/

/-- The NaN that an operation with a NaN operand answers: canonical, invalid where one signals. -/
def fpQuiet (dbl : Bool) (l : List FpVal) : Nat × Nat := (fpNan dbl, if l.any (·.isSnan) then 16 else 0)
/-- An invalid operation. -/
def fpInvalid (dbl : Bool) : Nat × Nat := (fpNan dbl, 16)

/-- A signed mantissa. -/
def signedM (neg : Bool) (m : Nat) : Int := if neg then -(m : Int) else m

/-- The exact sum of two finite values, rounded. -/
def fpSum (dbl : Bool) (rm : Nat) (n1 : Bool) (m1 : Nat) (e1 : Int) (n2 : Bool) (m2 : Nat) (e2 : Int) : Nat × Nat :=
  let e := min e1 e2
  let v := signedM n1 m1 * 2 ^ (e1 - e).toNat + signedM n2 m2 * 2 ^ (e2 - e).toNat
  if v = 0 then (fpZero dbl (if m1 = 0 ∧ m2 = 0 ∧ n1 = n2 then n1 else rm == 2), 0)
  else fpRound dbl rm (decide (v < 0)) v.natAbs e false

def fpAdd (dbl : Bool) (rm : Nat) (a b : FpVal) : Nat × Nat :=
  match a, b with
  | .inf x, .inf y => if x = y then (fpInf dbl x, 0) else fpInvalid dbl
  | .inf x, .fin _ _ _ => (fpInf dbl x, 0)
  | .fin _ _ _, .inf y => (fpInf dbl y, 0)
  | .fin n1 m1 e1, .fin n2 m2 e2 => fpSum dbl rm n1 m1 e1 n2 m2 e2
  | _, _ => fpQuiet dbl [a, b]

/-- A value with its sign turned. -/
def FpVal.neg : FpVal → FpVal
  | .nan s => .nan s
  | .inf n => .inf (!n)
  | .fin n m e => .fin (!n) m e

def fpMul (dbl : Bool) (rm : Nat) (a b : FpVal) : Nat × Nat :=
  match a, b with
  | .inf x, .inf y => (fpInf dbl (x != y), 0)
  | .inf x, .fin y m _ => if m = 0 then fpInvalid dbl else (fpInf dbl (x != y), 0)
  | .fin x m _, .inf y => if m = 0 then fpInvalid dbl else (fpInf dbl (x != y), 0)
  | .fin n1 m1 e1, .fin n2 m2 e2 => fpRound dbl rm (n1 != n2) (m1 * m2) (e1 + e2) false
  | _, _ => fpQuiet dbl [a, b]

/-- a × b + c with one rounding. -/
def fpFma (dbl : Bool) (rm : Nat) (a b c : FpVal) : Nat × Nat :=
  let product : Option FpVal := match a, b with
    | .inf x, .inf y => some (.inf (x != y))
    | .inf x, .fin y m _ => if m = 0 then none else some (.inf (x != y))
    | .fin x m _, .inf y => if m = 0 then none else some (.inf (x != y))
    | .fin n1 m1 e1, .fin n2 m2 e2 => some (.fin (n1 != n2) (m1 * m2) (e1 + e2))
    | _, _ => some (.nan (a.isSnan || b.isSnan))
  match product with
  | none => fpInvalid dbl
  | some p => fpAdd dbl rm p c

def fpDiv (dbl : Bool) (rm : Nat) (a b : FpVal) : Nat × Nat :=
  match a, b with
  | .inf _, .inf _ => fpInvalid dbl
  | .inf x, .fin y _ _ => (fpInf dbl (x != y), 0)
  | .fin x _ _, .inf y => (fpZero dbl (x != y), 0)
  | .fin n1 m1 e1, .fin n2 m2 e2 =>
    if m2 = 0 then (if m1 = 0 then fpInvalid dbl else (fpInf dbl (n1 != n2), 8))
    else
      let k := 2 * fpPrec dbl + 5
      fpRound dbl rm (n1 != n2) (m1 * 2 ^ k / m2) (e1 - e2 - k) (m1 * 2 ^ k % m2 != 0)
  | _, _ => fpQuiet dbl [a, b]

def fpSqrt (dbl : Bool) (rm : Nat) (a : FpVal) : Nat × Nat :=
  match a with
  | .nan _ => fpQuiet dbl [a]
  | .inf n => if n then fpInvalid dbl else (fpInf dbl false, 0)
  | .fin n m e =>
    if m = 0 then (fpZero dbl n, 0)
    else if n then fpInvalid dbl
    else
      let k := 2 * (fpPrec dbl + 3) + (e % 2).toNat
      let r := Nat.sqrt (m * 2 ^ k)
      fpRound dbl rm false r ((e - k) / 2) (r * r != m * 2 ^ k)

/-- The order of two data that are not NaN, -0 equal to +0. -/
def fpLt (a b : FpVal) : Bool :=
  match a, b with
  | .inf x, .inf y => x && !y
  | .inf x, .fin _ _ _ => x
  | .fin _ _ _, .inf y => !y
  | .fin n1 m1 e1, .fin n2 m2 e2 =>
    let e := min e1 e2
    decide (signedM n1 m1 * 2 ^ (e1 - e).toNat < signedM n2 m2 * 2 ^ (e2 - e).toNat)
  | _, _ => false

/-- The sign bit of an encoding. -/
def fpNeg (dbl : Bool) (x : Nat) : Bool := x.testBit (fpBits dbl - 1)

/-- fmin and fmax: a number before a NaN, -0 below +0. -/
def fpMinMax (dbl isMax : Bool) (x y : Nat) : Nat × Nat :=
  let a := fpDecode dbl x
  let b := fpDecode dbl y
  let flags := if a.isSnan || b.isSnan then 16 else 0
  if a.isNan && b.isNan then (fpNan dbl, flags)
  else if a.isNan then (y, flags)
  else if b.isNan then (x, flags)
  else
    let xLow := fpLt a b || (!fpLt b a && fpNeg dbl x)
    (if xLow != isMax then x else y, flags)

/-- A sign bit put on an encoding. -/
def fpWithSign (dbl : Bool) (x : Nat) (neg : Bool) : Nat := x % 2 ^ (fpBits dbl - 1) + fpZero dbl neg

/-- A datum in the format `dbl`. -/
def fpConvert (dbl : Bool) (rm : Nat) (a : FpVal) : Nat × Nat :=
  match a with
  | .nan _ => fpQuiet dbl [a]
  | .inf n => (fpInf dbl n, 0)
  | .fin n m e => fpRound dbl rm n m e false

/-- An operation on the encodings of its operands. -/
def fpOp (op : FpOp) (dbl : Bool) (rm x y z : Nat) : Nat × Nat :=
  let a := fpDecode dbl x
  let b := fpDecode dbl y
  let c := fpDecode dbl z
  match op with
  | .add => fpAdd dbl rm a b
  | .sub => fpAdd dbl rm a b.neg
  | .mul => fpMul dbl rm a b
  | .div => fpDiv dbl rm a b
  | .sqrt => fpSqrt dbl rm a
  | .min => fpMinMax dbl false x y
  | .max => fpMinMax dbl true x y
  | .madd => fpFma dbl rm a b c
  | .msub => fpFma dbl rm a b c.neg
  | .nmsub => fpFma dbl rm a.neg b c
  | .nmadd => fpFma dbl rm a.neg b c.neg
  | .sgnj => (fpWithSign dbl x (fpNeg dbl y), 0)
  | .sgnjn => (fpWithSign dbl x (!fpNeg dbl y), 0)
  | .sgnjx => (fpWithSign dbl x (fpNeg dbl x != fpNeg dbl y), 0)
  | .cvt => fpConvert dbl rm (fpDecode (!dbl) x)

/-- A conversion to an integer of `n` bytes: the value, saturated and invalid out of range, and the flags. -/
def fpToInteger (n : Nat) (isSigned : Bool) (rm : Nat) (a : FpVal) : Int × Nat :=
  let hi : Int := if isSigned then 2 ^ (8 * n - 1) - 1 else 2 ^ (8 * n) - 1
  let lo : Int := if isSigned then -2 ^ (8 * n - 1) else 0
  match a with
  | .nan _ => (hi, 16)
  | .inf neg => (if neg then lo else hi, 16)
  | .fin neg m e =>
    let (k, inexact) := roundAt rm neg m e (max 0 e) false
    let v := signedM neg (k * 2 ^ (max 0 e).toNat)
    if hi < v then (hi, 16) else if v < lo then (lo, 16) else (v, if inexact then 1 else 0)

/-- fclass. -/
def fpClass (dbl : Bool) (x : Nat) : Nat :=
  let neg := fpNeg dbl x
  let normal := x / 2 ^ (fpPrec dbl - 1) % (fpTop dbl + 1) != 0
  match fpDecode dbl x with
  | .nan s => if s then 2 ^ 8 else 2 ^ 9
  | .inf n => if n then 1 else 2 ^ 7
  | .fin _ m _ =>
    if m = 0 then (if neg then 2 ^ 3 else 2 ^ 4)
    else if normal then (if neg then 2 else 2 ^ 6)
    else (if neg then 2 ^ 2 else 2 ^ 5)

/-- An operation with an integer result, as an integer whose low 64 bits go into rd. -/
def fpIntOp (op : FpToInt) (dbl : Bool) (rm x y : Nat) : Int × Nat :=
  let a := fpDecode dbl x
  let b := fpDecode dbl y
  let anyNan := a.isNan || b.isNan
  let signals := if a.isSnan || b.isSnan then 16 else 0
  match op with
  | .cvtW => fpToInteger 4 true rm a
  | .cvtWu => let (v, f) := fpToInteger 4 false rm a; (if v < 2 ^ 31 then v else v - 2 ^ 32, f)
  | .cvtL => fpToInteger 8 true rm a
  | .cvtLu => fpToInteger 8 false rm a
  | .mv => (if fpNeg dbl x then (x : Int) - 2 ^ fpBits dbl else x, 0)
  | .eq => (if !anyNan && !fpLt a b && !fpLt b a then 1 else 0, signals)
  | .lt => (if !anyNan && fpLt a b then 1 else 0, if anyNan then 16 else 0)
  | .le => (if !anyNan && !fpLt b a then 1 else 0, if anyNan then 16 else 0)
  | .cls => (fpClass dbl x, 0)

/-- An integer in a format. -/
def fpOfInt (dbl : Bool) (rm : Nat) (v : Int) : Nat × Nat :=
  if v = 0 then (0, 0) else fpRound dbl rm (decide (v < 0)) v.natAbs 0 false

end Sys2Proof.Machine
end

