-- ==== Sys2Proof/Machine/HartMem.lean ====
section
/-! DEFINITION. Memory instructions of a hart (R211-R223, R254-R262, R295-R298): loads, stores and the store buffer, AMO, LR and
SC, fences, cache-block operations and hints, vector loads and stores. An instruction that has to wait leaves the state as it
is. -/

namespace Sys2Proof.Machine

/-- The hart executes instructions. -/
def hartRuns (s : State) (hart : Nat) : Bool := s.modes.mode.active && (s.hart hart).run == .running

/-! The checks on an access, before any byte is read or written (R218-R220). -/

/-- The action of the trigger that matches an access; debug mode only where the debugger may have the hart (R469, R470). -/
def trigAction (s : State) (hart : Nat) (k : AccKind) (va : Word) : Option Nat :=
  let h := s.hart hart
  let kindBit := match k with
    | .load => 0 | .store => 1 | .fetch => 2
  let modeBit := match h.priv with
    | .u => 3 | .s => 4 | .m => 6
  ((List.range 4).find? fun i =>
    let t := h.trigAt i
    t.2 == va && t.1.getLsbD kindBit && t.1.getLsbD modeBit && (!t.1.getLsbD 12 || debugOpen s hart)).map
    fun i => field (h.trigAt i).1 12 1

/-- A part of an access that lies in one line of a tier: its physical address, its offset in the access, its length, and the
memory type of its page. -/
structure Part where
  pa : Nat
  off : Nat
  len : Nat
  pbmt : Nat
deriving DecidableEq, Repr

/-- What the checks say: the parts to perform, a device access, an exception, debug mode, or a wait. -/
inductive Plan where
  | parts (l : List Part)
  | device (pa : Nat)
  | exc (e : Exc)
  | debug
  | wait
deriving DecidableEq, Repr

/-- One half: triggers, then translation and checks. -/
def planPart (hart : Nat) (acc : Access) (va : Word) (off len : Nat) (aligned : Bool) (s : State) : State × Plan :=
  match trigAction s hart acc.kind va with
  | some 1 => (s, .debug)
  | some _ => (s, .exc (.trap 3 va))
  | none => match reach hart acc va len aligned s with
    | (t, .tier pa pbmt) => (t, .parts [{ pa := pa, off := off, len := len, pbmt := pbmt }])
    | (t, .device pa) => (t, .device pa)
    | (t, .exc e) => (t, .exc e)
    | (t, .wait) => (t, .wait)

/-- A whole access of `size` bytes: split at a line boundary, the lower half first (R219, R220). -/
def plan (hart : Nat) (acc : Access) (va : Word) (size : Nat) (s : State) : State × Plan :=
  let room := 64 - va.toNat % 64
  if size ≤ room then planPart hart acc va 0 size (va.toNat % size == 0) s
  else match planPart hart acc va 0 room false s with
    | (t, .parts a) =>
      match planPart hart acc (va + BitVec.ofNat 64 room) room (size - room) false t with
      | (u, .parts b) => (u, .parts (a ++ b))
      | r => r
    | r => r

/-! The store buffer (R212-R215). Oldest entry first. -/

/-- The bytes of a part within its line. -/
def partMask (pa len : Nat) : BitVec 64 := BitVec.ofNat 64 (2 ^ len - 1) <<< (pa % 64)

/-- An entry holds a byte of a part. -/
def SbEntry.overlaps (e : SbEntry) (p : Part) : Bool := e.line == p.pa / 64 && e.mask &&& partMask p.pa p.len != 0

/-- An entry holds every byte of a part, and the flag of every word it reads is set. -/
def SbEntry.serves (e : SbEntry) (p : Part) : Bool :=
  e.mask &&& partMask p.pa p.len == partMask p.pa p.len &&
    (List.range 8).all fun w => (partMask p.pa p.len).extractLsb' (8 * w) 8 == 0#8 || e.whole.getLsbD w

/-- A load's search (R215). -/
inductive SbHit where
  | miss
  | forward (data : Line) (bad : BitVec 8)
  | wait
deriving DecidableEq, Repr

def sbSearch (sb : List SbEntry) (p : Part) : SbHit :=
  match sb.filter (·.overlaps p) with
  | [] => .miss
  | [e] => if e.serves p then .forward e.data e.bad else .wait
  | _ => .wait

/-- Words of a line that a byte mask covers whole. -/
def wholeWords (mask : BitVec 64) : BitVec 8 :=
  (List.range 8).foldl (fun acc w => if mask.extractLsb' (8 * w) 8 = 0xFF#8 then acc ||| (1#8 <<< w) else acc) 0

/-- The entry of one part of a store. -/
def sbEntry (p : Part) (bytes : List Byte) : SbEntry :=
  let (d, m) := linePart p.pa ((bytes.drop p.off).take p.len) (p.pa / 64)
  { line := p.pa / 64, data := d, mask := m, whole := wholeWords m, alone := p.pbmt != 0, size := p.len }

/-- The entry of a store to the device-attribute region. -/
def sbDevice (pa : Nat) (bytes : List Byte) : SbEntry :=
  { sbEntry { pa := pa, off := 0, len := bytes.length, pbmt := 2 } bytes with alone := true }

/-- An entry with a younger store of the same line merged in (R213). -/
def SbEntry.merge (old new : SbEntry) : SbEntry :=
  { old with
    data := lineOf fun i => if new.mask.getLsbD i then lineByte new.data i else lineByte old.data i
    mask := old.mask ||| new.mask
    whole := old.whole ||| new.whole
    bad := old.bad &&& ~~~new.whole }

/-- A store joins the buffer: merged into the youngest entry where R213 permits, otherwise as an entry of its own. -/
def sbPut (smg : Bool) (sb : List SbEntry) (e : SbEntry) : List SbEntry :=
  match sb.getLast? with
  | some y => if smg && y.line == e.line && !y.alone && !e.alone then sb.dropLast ++ [y.merge e] else sb ++ [e]
  | none => [e]

/-- mncfg.SMG. -/
def Hart.smg (h : Hart) : Bool := field (h.csrOf 0x7C0) 3 1 == 1

/-- Entries of one store; none where the eight entries do not suffice. -/
def sbPutAll (h : Hart) (es : List SbEntry) : Option (List SbEntry) :=
  let sb := es.foldl (sbPut h.smg) h.sb
  if sb.length ≤ 8 then some sb else none

/-- The first byte of a mask. -/
def lowByte (mask : BitVec 64) : Nat := ((List.range 64).find? fun i => mask.getLsbD i).getD 0

/-- The bytes of an entry but for those of the words that its array lost (R176). -/
def SbEntry.goodMask (e : SbEntry) : BitVec 64 :=
  (List.range 8).foldl (fun m w => if e.bad.getLsbD w then m &&& ~~~(0xFF#64 <<< (8 * w)) else m) e.mask

/-- The words of a drained entry that the array lost are poison of form 02h: at the L2 that holds the line in state M, or in memory
(R176). -/
def lostWords (hart : Nat) (e : SbEntry) (s : State) : State :=
  if e.bad = 0 then s
  else if !e.alone && (s.l2 (hart / 12) e.line).st == .m then poisonL2 (hart / 12) e.line e.bad s
  else ctlPoison .demand (.l2 (hart / 12)) e.line e.bad 2 s

/-- One entry is performed: a device access, a write of a non-cacheable page to memory, or a merge at the L2 (R213, R214);
false: it waits. A store to a device whose word the array lost is dropped. -/
def drainEntry (hart : Nat) (e : SbEntry) (s : State) : State × Bool :=
  if e.alone && fenced s (hart / 12) then (s, false)
  else if e.alone then
    let i := lowByte e.mask
    let v := e.data.toNat / 2 ^ (8 * i) % 2 ^ (8 * e.size)
    if inDevice (64 * e.line) then (if e.bad = 0 then (deviceStore (64 * e.line + i) e.size v s).getD s else s, true)
    else (lostWords hart e (sliceWrite (hart / 12) e.line e.data e.goodMask e.whole s), true)
  else match l2Store hart e.line e.data e.goodMask e.whole s with
    | (t, true) => (lostWords hart e t, true)
    | (t, false) => (t, false)

/-- The oldest entry drains; false: there is none, or it waits. -/
def drainOldest (hart : Nat) (s : State) : State × Bool :=
  let h := s.hart hart
  match h.sb with
  | [] => (s, false)
  | e :: rest =>
    match drainEntry hart e (setHart hart { h with sb := rest } s) with
    | (t, true) => (t, true)
    | (t, false) => (carryWaits t s, false)

/-- STORE_BUFFER_DRAIN: harts in wfi and halted harts drain too (R225, R471). -/
def execStoreBufferDrain (hart : Nat) (s : State) : Out :=
  within (decide (hart < 264)) <|
    if s.modes.mode.active && (s.hart hart).run != .inReset then (drainOldest hart s).1 else s

/-! Reads (R215, R256). -/

/-- An access of the hart may leave a line in its private caches: the L2 holds it (R253), and the partition is not in no-allocate
operation on the gallery (R267). -/
def mayFill (hart line : Nat) (s : State) : Bool :=
  (s.l2 (hart / 12) line).st != .i && !noAllocate s (hart / 12) ((partOfHart s hart).getD 0)

/-- A line joins the L1 data cache; one line a set (R252). -/
def fillL1d (hart line : Nat) (s : State) : State :=
  let h := s.hart hart
  if !mayFill hart line s then s
  else setHart hart { h with l1d := h.l1d.filter (fun l => l % 512 != line % 512) ++ [line] } s

/-- One part of a read; a page of type IO is read only with the store buffer empty (R208). From the store buffer, from memory for a
non-cacheable page, from the L1 data cache or from the L2; none: it waits. -/
def readPart (hart : Nat) (p : Part) (f : Finding) (s : State) : State × Option LineData :=
  let line := p.pa / 64
  if (p.pbmt = 2 ∧ !(s.hart hart).sb.isEmpty) ∨ (p.pbmt ≠ 0 ∧ fenced s (hart / 12)) then (s, none)
  else match sbSearch (s.hart hart).sb p with
  | .wait => (s, none)
  | .forward d bad => (s, some { mkLine (lineByte d) (fun w => if bad.getLsbD w then 2 else 0) with data := d })
  | .miss =>
    if p.pbmt ≠ 0 then
      let (t, d) := sliceRead line f s
      (t, some d)
    else if (s.hart hart).l1d.contains line then (s, some (s.l2 (hart / 12) line).copy)
    else match l2Read hart line true f (hartEvent hart 0x102 1 s) with
      | (t, none) => (t, none)
      | (t, some d) => (fillL1d hart line t, some d)

/-- The parts of a read in order, the first with what the memory finds. -/
def readParts (hart : Nat) : List Part → Finding → State → State × Option (List (Part × LineData))
  | [], _, s => (s, some [])
  | p :: rest, f, s =>
    match readPart hart p f s with
    | (t, none) => (t, none)
    | (t, some d) =>
      match readParts hart rest .clean t with
      | (u, some l) => (u, some ((p, d) :: l))
      | (u, none) => (u, none)

/-- The first poisoned word of a part: its form, its address, and the offset in the access of its lowest byte there. -/
def poisonIn (p : Part) (d : LineData) : Option (Nat × Nat × Nat) :=
  let i := p.pa % 64
  ((List.range 8).find? fun w => decide (i < 8 * w + 8) && decide (8 * w < i + p.len) && d.form w != 0).map fun w =>
    ((d.form w).toNat, p.pa / 64 * 64 + 8 * w, p.off + (max i (8 * w) - i))

/-- The number that the parts' bytes spell. -/
def partsValue (l : List (Part × LineData)) : Nat :=
  (l.map fun x => fromLe ((List.range x.1.len).map fun i => lineByte x.2.data (x.1.pa % 64 + i)) * 2 ^ (8 * x.1.off)).sum

/-- The part is forwarded from the store buffer. -/
def Hart.forwards (h : Hart) (p : Part) : Bool :=
  match sbSearch h.sb p with
  | .forward _ _ => true
  | _ => false

/-- How an access ends. `poison`: the form, the address of the word, and the offset of its lowest byte in the access; `failing`: the
same of a word forwarded from the store buffer that its array lost (R217). -/
inductive MemEnd where
  | ok (v : Word)
  | failing (addr off : Nat)
  | poison (form addr off : Nat)
  | exc (e : Exc)
  | debug
  | wait
deriving DecidableEq, Repr

/-- A read of `size` bytes at a virtual address. -/
def readAccess (hart : Nat) (acc : Access) (va : Word) (size : Nat) (f : Finding) (s : State) : State × MemEnd :=
  match plan hart acc va size s with
  | (t, .exc e) => (t, .exc e)
  | (t, .debug) => (t, .debug)
  | (t, .wait) => (t, .wait)
  | (t, .device pa) =>
    if (t.hart hart).sb.isEmpty && !fenced t (hart / 12) then (t, .ok (BitVec.ofNat 64 (deviceLoad t pa size))) else (t, .wait)
  | (t, .parts l) =>
    match readParts hart l f t with
    | (u, none) => (u, .wait)
    | (u, some got) =>
      match got.findSome? fun x => (poisonIn x.1 x.2).map (x.1, ·) with
      | some (p, form, a, off) => (u, if (t.hart hart).forwards p then .failing a off else .poison form a off)
      | none => (u, .ok (BitVec.ofNat 64 (partsValue got)))

/-- What an access leaves: its value used, an exception taken, debug mode, or the state before it where it waits, with the set-full waits
that it met. -/
def settleAccess (hart src : Nat) (va : Word) (use : Word → State → State) (s : State) : State × MemEnd → State
  | (t, .ok v) => use v t
  | (t, .poison form a off) => takeExc hart (.machine src form a (va + BitVec.ofNat 64 off)) t
  | (t, .failing a off) => takeExc hart (.machine 5 2 a (va + BitVec.ofNat 64 off)) t
  | (t, .exc e) => takeExc hart e t
  | (t, .debug) => haltHart hart 2 t
  | (t, .wait) => carryWaits t s

/-! Scalar loads and stores. -/

/-- An instruction of `len` bytes completes. -/
def retire (hart len : Nat) (s : State) : State := complete hart ((s.hart hart).pc + BitVec.ofNat 64 len) s

/-- The access crosses a line boundary. -/
def isSplit (va : Word) (size : Nat) : Bool := decide (64 < va.toNat % 64 + size)

/-- One prefetch of the stride prefetcher `k` lines from the line of a load that missed: into the L1 data cache, only under a
translation that the DTLB holds, within the page of 4 KiB, and dropped where it would fault or wait (R257). -/
def stridePrefetch (hart pa : Nat) (k : Int) (s : State) : State :=
  let line := (pa / 64 : Int) + k
  if k = 0 ∨ 4 < k.natAbs ∨ line < 0 ∨ line / 64 ≠ (pa / 4096 : Int) then s
  else
    let n := line.toNat
    if (s.hart hart).l1d.contains n || !tierChecks s hart (s.hart hart).effPriv (64 * n) 64 .r then s
    else match l2Read hart n false .clean (hartEvent hart 0x103 1 s) with
      | (t, some _) => fillL1d hart n t
      | (_, none) => s

/-- The page of a miss is that of a stream tracked from now on; the prefetcher tracks four, the oldest goes (R257; DESIGN CHOICE: which of
them it gives up, and that it tracks a stream from its first miss). -/
def trackStream (hart page : Nat) (s : State) : State :=
  let h := s.hart hart
  setHart hart { h with streams := (page :: dropFrom h.streams page).take 4 } s

/-- The physical address of a load on an ordinary page whose translation the DTLB holds, from which alone the prefetcher works (R295). -/
def dtlbAddr (hart : Nat) (va : Word) (s : State) : Option Nat :=
  let h := s.hart hart
  let mode := field (h.csrOf 0x180) 60 4
  if h.effPriv = .m ∨ mode = 0 then none
  else (h.dtlb.find? fun e => e.hits mode (field (h.csrOf 0x180) 44 16) va && ptePbmt e.pte == 0).map (·.pa va)

/-- What a load which missed the L1 data cache on an ordinary page gives the prefetcher: a stream, and the prefetches ahead of it. -/
def stridePrefetches (hart : Nat) (va : Word) (ks : List Int) (before after : State) : State :=
  match dtlbAddr hart va after with
  | some pa =>
    if inDevice pa then after
    else if field ((after.hart hart).csrOf 0x7C0) 1 1 = 1 ∧ !(before.hart hart).l1d.contains (pa / 64) then
      forAll (ks.take 4) (stridePrefetch hart pa) (trackStream hart (pa / 4096) after)
    else after
  | none => after

/-- Floating-point state is off: an instruction that uses it is illegal. -/
def Hart.fpOff (h : Hart) : Bool := field h.mstatus 13 2 == 0

/-- LOAD (R215, R218-R223). `walk`: what memory finds at the first line that a walk reads there. -/
def execLoad (hart rd rs1 : Nat) (offset : Word) (size : Nat) (isSigned fp : Bool) (len : Nat) (f walk : Finding)
    (prefetch : List Int) (s : State) : Out :=
  within (decide (hart < 264) && (size == 4 || size == 8 || ((size == 1 || size == 2) && !fp)) && (len == 2 || len == 4) &&
      findingOk false f && findingOk false walk) <|
    if !hartRuns s hart then s
    else if fp && (s.hart hart).fpOff then illegal hart s
    else
      let va := (s.hart hart).getX rs1 + offset
      let use := fun (v : Word) (t : State) =>
        let h := t.hart hart
        let h1 := if fp then h.withF rd (nanBox size v) else h.withX rd (extend size isSigned v)
        stridePrefetches hart va prefetch s
          (retire hart len (onlyIf (isSplit va size) (hartEvent hart 0x00A 1) (hartEvent hart 0x006 1 (setHart hart h1 t))))
      settleAccess hart 1 va use s (readAccess hart { loadAccess with walk := walk } va size f s)

/-- The entries of a store: none waits; a store to a Concourse control page is an access fault (R328). -/
def storeEntries (va : Word) (bytes : List Byte) (s : State) : State × Plan → State × (List SbEntry ⊕ MemEnd)
  | (t, .parts l) => (t, .inl (l.map fun p => sbEntry p bytes))
  | (t, .device pa) =>
    if (deviceStore pa bytes.length (fromLe bytes) s).isSome then (t, .inl [sbDevice pa bytes])
    else (t, .inr (.exc (.trap 7 va)))
  | (t, .exc e) => (t, .inr (.exc e))
  | (t, .debug) => (t, .inr .debug)
  | (t, .wait) => (t, .inr .wait)

/-- A store of `size` bytes enters the store buffer (R212, R213, R220). -/
def writeAccess (hart : Nat) (va : Word) (size : Nat) (v : Word) (walk : Finding) (s : State) : State × MemEnd :=
  match storeEntries va (leBytes size v.toNat) s (plan hart { storeAccess with walk := walk } va size s) with
  | (t, .inr e) => (t, e)
  | (t, .inl es) =>
    let h := t.hart hart
    match sbPutAll h es with
    | none => (t, .wait)
    | some sb => (setHart hart { h with sb := sb } t, .ok 0)

/-- STORE. -/
def execStore (hart rs1 rs2 : Nat) (offset : Word) (size : Nat) (fp : Bool) (len : Nat) (walk : Finding) (s : State) : Out :=
  within (decide (hart < 264) && (size == 4 || size == 8 || ((size == 1 || size == 2) && !fp)) && (len == 2 || len == 4) &&
      findingOk false walk) <|
    if !hartRuns s hart then s
    else if fp && (s.hart hart).fpOff then illegal hart s
    else
      let h := s.hart hart
      let va := h.getX rs1 + offset
      let v := if fp then h.getF rs2 else h.getX rs2
      settleAccess hart 1 va (fun _ t =>
          retire hart len (onlyIf (isSplit va size) (hartEvent hart 0x00A 1) (hartEvent hart 0x007 1 t)))
        s (writeAccess hart va size v walk s)

/-! AMO, LR and SC (R216). -/

/-- The new value of an AMO. -/
def amoResult (op : AmoOp) (size : Nat) (old new : Nat) : Nat :=
  let so := signed size old
  let sn := signed size new
  match op with
  | .swap => new
  | .add => (old + new) % 2 ^ (8 * size)
  | .xor => old ^^^ new
  | .and => old &&& new
  | .or => old ||| new
  | .min => if so ≤ sn then old else new
  | .max => if sn ≤ so then old else new
  | .minu => min old new
  | .maxu => max old new

/-- An aligned value of 4 or 8 bytes as a line write at its address. -/
def cellWrite (pa size v : Nat) : Line × BitVec 64 × BitVec 8 :=
  (BitVec.ofNat 512 v <<< (8 * (pa % 64)), partMask pa size, wholeWords (partMask pa size))

/-- The `size` bytes of a line at an address. -/
def cellRead (d : LineData) (pa size : Nat) : Nat := d.data.toNat / 2 ^ (8 * (pa % 64)) % 2 ^ (8 * size)

/-- A read-modify-write at the L2: checks, an empty store buffer, then the operation with the line in state M. `upd` gives what
is written from the value read, none writes nothing. The value read is answered, and the line where it lies. -/
def atomicAccess (hart : Nat) (acc : Access) (va : Word) (size : Nat) (consumes : Bool) (upd : Nat → Option Nat) (s : State) :
    State × MemEnd × Nat :=
  if va.toNat % size ≠ 0 then (s, .exc (.trap acc.kind.misaligned va), 0)
  else match plan hart acc va size s with
    | (t, .exc e) => (t, .exc e, 0)
    | (t, .debug) => (t, .debug, 0)
    | (t, .wait) => (t, .wait, 0)
    | (t, .device _) => (t, .exc (.trap acc.kind.accessFault va), 0)
    | (t, .parts l) =>
      match l with
      | [] => (t, .wait, 0)
      | p :: _ =>
        if !(t.hart hart).sb.isEmpty then (t, .wait, 0)
        else
          let poisoned := fun (d : LineData) => consumes && (poisonIn p d).isSome
          match l2Atomic hart (p.pa / 64) .clean (fun d =>
              if poisoned d then none else (upd (cellRead d p.pa size)).map (cellWrite p.pa size)) t with
          | (u, none) => (u, .wait, 0)
          | (u, some d) =>
            match if consumes then poisonIn p d else none with
            | some (form, a, off) => (u, .poison form a off, 0)
            | none => (u, .ok (BitVec.ofNat 64 (cellRead d p.pa size)), p.pa / 64)

/-- AMO. -/
def execAmo (hart : Nat) (op : AmoOp) (size rd rs1 rs2 : Nat) (s : State) : Out :=
  within (decide (hart < 264) && (size == 4 || size == 8)) <|
    if !hartRuns s hart then s
    else
      let h := s.hart hart
      let va := h.getX rs1
      let src := (h.getX rs2).toNat % 2 ^ (8 * size)
      match atomicAccess hart amoAccess va size true (fun old => some (amoResult op size old src)) s with
      | (t, e, _) =>
        settleAccess hart 1 va (fun v t => retire hart 4 (setHart hart ((t.hart hart).withX rd (extend size true v)) t)) s (t, e)

/-- LR: the line is reserved, and where it entered M its snoops are held for 128 core cycles, 50 ns (R216, R311). -/
def execLr (hart size rd rs1 : Nat) (s : State) : Out :=
  within (decide (hart < 264) && (size == 4 || size == 8)) <|
    if !hartRuns s hart then s
    else
      let va := (s.hart hart).getX rs1
      match atomicAccess hart lrAccess va size true (fun _ => none) s with
      | (t, e, line) =>
        settleAccess hart 1 va (fun v t =>
            let h := (t.hart hart).withX rd (extend size true v)
            let entered := (t.l2 (hart / 12) line).st == .m && (s.l2 (hart / 12) line).st != .m
            let hold := tblSet 0 t.caches.lrHold (l2Key (hart / 12) line) (now t + 50)
            let t1 := onlyIf entered (fun u => { u with caches := { u.caches with lrHold := hold } }) t
            retire hart 4 (setHart hart { h with reserved := some line } t1))
          s (t, e)

/-- SC: it stores while the reservation of the line is held; rd is 0, or 1 where it fails; the reservation ends. -/
def execSc (hart size rd rs1 rs2 : Nat) (s : State) : Out :=
  within (decide (hart < 264) && (size == 4 || size == 8)) <|
    if !hartRuns s hart then s
    else
      let h := s.hart hart
      let va := h.getX rs1
      let src := (h.getX rs2).toNat % 2 ^ (8 * size)
      let done := fun (code : Word) (t : State) =>
        retire hart 4 (setHart hart { (t.hart hart).withX rd code with reserved := none } t)
      if va.toNat % size ≠ 0 then takeExc hart (.trap 6 va) s
      else match plan hart storeAccess va size s with
        | (t, .parts (p :: _)) =>
          if !(t.hart hart).sb.isEmpty then s
          else if (t.hart hart).reserved ≠ some (p.pa / 64) then done 1 t
          else match atomicAccess hart amoAccess va size false (fun _ => some src) s with
            | (u, e, _) => settleAccess hart 1 va (fun _ u => done 0 u) s (u, e)
        | (_, .parts []) => s
        | (t, .device _) => takeExc hart (.trap 7 va) t
        | (t, .exc e) => takeExc hart e t
        | (t, .debug) => haltHart hart 2 t
        | (t, .wait) => carryWaits t s

/-! Fences (R216, R298). -/

/-- The instruction completes once the store buffer is empty. -/
def afterDrain (hart : Nat) (f : State → State) (s : State) : State :=
  if (s.hart hart).sb.isEmpty then retire hart 4 (f s) else s

/-- FIOM makes device input count as a memory read and device output as a memory write: menvcfg's below M-mode, senvcfg's in U-mode too. -/
def Hart.fiom (h : Hart) : Bool :=
  h.priv != .m && ((h.csrOf 0x30A).getLsbD 0 || (h.priv == .u && (h.csrOf 0x10A).getLsbD 0))

/-- A set of a fence as the hart takes it. -/
def Hart.fenceSet (h : Hart) (x : FenceSet) : FenceSet :=
  if h.fiom then { x with r := x.r || x.i, w := x.w || x.o } else x

/-- A fence waits for every older store (R216): w before r or w, and fence.tso; likewise a device output, which is an entry of the store
buffer too (R213), before anything, as the RISC-V memory model orders it. -/
def fenceWaits (h : Hart) (pred succ : FenceSet) (tso : Bool) : Bool :=
  let p := h.fenceSet pred
  let q := h.fenceSet succ
  (p.w && (q.r || q.w)) || tso ||
    (p.o && (q.i || q.o || q.r || q.w) && h.sb.any fun e => inDevice (64 * e.line))

/-- FENCE (R216); loads complete in order. -/
def execFence (hart : Nat) (pred succ : FenceSet) (tso : Bool) (s : State) : Out :=
  within (decide (hart < 264)) <|
    if !hartRuns s hart then s
    else if fenceWaits (s.hart hart) pred succ tso then afterDrain hart id s
    else retire hart 4 s

/-- FENCE_I: the L1 instruction cache and the line buffer are emptied. -/
def execFenceI (hart : Nat) (s : State) : Out :=
  within (decide (hart < 264)) <|
    if !hartRuns s hart then s
    else afterDrain hart (fun t => setHart hart { t.hart hart with l1i := [], lineBuf := [] } t) s

/-- SFENCE_VMA: operands x0 match everything. -/
def execSfenceVma (hart rs1 rs2 : Nat) (s : State) : Out :=
  within (decide (hart < 264)) <|
    if !hartRuns s hart then s
    else
      let h := s.hart hart
      if h.priv = .u ∨ (h.priv = .s ∧ h.tvm = true) then illegal hart s
      else
        let va := if rs1 % 32 = 0 then none else some (h.getX rs1)
        let asid := if rs2 % 32 = 0 then none else some ((h.getX rs2).toNat % 65536)
        afterDrain hart (fun t => setHart hart ((t.hart hart).sfence va asid) t) s

/-! Cache-block operations and hints (R261, R295). -/

/-- An enable bit of menvcfg, and of senvcfg in U-mode. -/
def Hart.envOk (h : Hart) (bit : Nat) : Bool :=
  h.priv == .m || ((h.csrOf 0x30A).getLsbD bit && (h.priv == .s || (h.csrOf 0x10A).getLsbD bit))

/-- What cbo.inval does: flush, invalidate, or raise an illegal instruction. -/
def Hart.invalKind (h : Hart) : Option ReqKind :=
  let m := field (h.csrOf 0x30A) 4 2
  let u := field (h.csrOf 0x10A) 4 2
  match h.priv with
  | .m => some .cmoInval
  | .s => if m = 0 then none else if m = 1 then some .cmoFlush else some .cmoInval
  | .u => if m = 0 ∨ u = 0 then none else if m = 1 ∨ u = 1 then some .cmoFlush else some .cmoInval

/-- A cache-block operation on the line at rs1: checks, its line's entries drained, then the operation. -/
def blockOp (hart : Nat) (acc : Access) (rs1 : Nat) (op : Nat → Nat → State → State × Bool) (s : State) : State :=
  let va := (s.hart hart).getX rs1
  match planPart hart acc va 0 1 true s with
  | (t, .parts (p :: _)) =>
    let line := p.pa / 64
    if (t.hart hart).sb.any fun e => e.line == line then s
    else match op line p.pbmt t with
      | (u, true) => retire hart 4 (hartEvent hart 0x202 1 u)
      | (u, false) => carryWaits u s
  | (_, .parts []) => s
  | (t, .device _) => takeExc hart (.trap 7 va) t
  | (t, .exc e) => takeExc hart e t
  | (t, .debug) => haltHart hart 2 t
  | (t, .wait) => carryWaits t s

/-- cbo.clean, cbo.flush or cbo.inval in the domain of the hart's partition; none: the operation is disabled. -/
def maintain (hart rs1 : Nat) (kind : Option ReqKind) (s : State) : State :=
  if !hartRuns s hart then s
  else match kind with
    | none => illegal hart s
    | some k => blockOp hart (cboAccess (k == .cmoInval)) rs1
        (fun line _ t => cohMaintain k (hart / 12) ((partOfHart t hart).getD 0) line t) s

/-- CBO_CLEAN. -/
def execCboClean (hart rs1 : Nat) (s : State) : Out :=
  within (decide (hart < 264)) (maintain hart rs1 (if (s.hart hart).envOk 6 then some .cmoClean else none) s)

/-- CBO_FLUSH. -/
def execCboFlush (hart rs1 : Nat) (s : State) : Out :=
  within (decide (hart < 264)) (maintain hart rs1 (if (s.hart hart).envOk 6 then some .cmoFlush else none) s)

/-- CBO_INVAL. -/
def execCboInval (hart rs1 : Nat) (s : State) : Out :=
  within (decide (hart < 264)) (maintain hart rs1 (s.hart hart).invalKind s)

/-- CBO_ZERO: at the L2, or as a full-line write to memory on a page of type NC or IO; of type IO, with the store buffer empty (R208). -/
def execCboZero (hart rs1 : Nat) (s : State) : Out :=
  within (decide (hart < 264)) <|
    if !hartRuns s hart then s
    else if !(s.hart hart).envOk 7 then illegal hart s
    else blockOp hart cboZeroAccess rs1 (fun line pbmt t =>
      if pbmt = 0 then l2Zero hart line t
      else if pbmt = 2 ∧ !(t.hart hart).sb.isEmpty then (t, false)
      else cohWrite (hart / 12) ((partOfHart t hart).getD 0) line true 0 (BitVec.allOnes 64) 0xFF#8 t) s

/-- A line joins the L1 instruction cache, four ways a set, most recent first (R252). -/
def fillL1i (hart line : Nat) (d : LineData) (s : State) : State :=
  let h := s.hart hart
  if !mayFill hart line s then s
  else
    let (inSet, others) := h.l1i.partition fun e => e.1 % 256 == line % 256
    setHart hart { h with l1i := (((line, d) :: inSet.filter (·.1 != line)).take 4) ++ others } s

/-- What a hint does with its line; none: dropped. -/
def hintFill (hart line : Nat) (kind : HintKind) (s : State) : Option State :=
  match kind with
  | .w => match l2Own hart line .clean s with
    | (t, true) => some t
    | (_, false) => none
  | .r => match l2Read hart line true .clean s with
    | (t, some _) => some (fillL1d hart line t)
    | (_, none) => none
  | .i => match l2Read hart line true .clean s with
    | (t, some d) => some (fillL1i hart line d t)
    | (_, none) => none

/-- PREFETCH_HINT: it translates like a load, without updates, and is dropped where it would fault, where its page is NC or a
side-effect page, and where it would wait. -/
def execPrefetchHint (hart : Nat) (kind : HintKind) (rs1 : Nat) (offset : Word) (s : State) : Out :=
  within (decide (hart < 264)) <|
    if !hartRuns s hart then s
    else
      let h := s.hart hart
      let env := h.csrOf 0x30A
      let s1 := setHart hart (h.withCsr 0x30A (env &&& 0xDFFFFFFFFFFFFFFF)) s
      let restore := fun (t : State) => setHart hart ((t.hart hart).withCsr 0x30A env) t
      retire hart 4 <|
        match reach hart lrAccess (h.getX rs1 + offset) 1 true s1 with
        | (t, .tier pa 0) =>
          if noAllocate t (hart / 12) ((partOfHart t hart).getD 0) then s
          else ((hintFill hart (pa / 64) kind t).map restore).getD s
        | _ => s

/-! Vector loads and stores (R211). -/

def Hart.vstart (h : Hart) : Nat := (h.csrOf 0x008).toNat
def Hart.vl (h : Hart) : Nat := (h.csrOf 0xC20).toNat
/-- SEW in bytes. -/
def Hart.sew (h : Hart) : Nat := 2 ^ (field (h.csrOf 0xC21) 3 3)
/-- LMUL in eighths of a register. -/
def Hart.lmul8 (h : Hart) : Nat :=
  match field (h.csrOf 0xC21) 0 3 with
  | 0 => 8 | 1 => 16 | 2 => 32 | 3 => 64 | 5 => 1 | 6 => 2 | 7 => 4 | _ => 0
/-- Vector instructions are illegal: the state is off, or vill is set. -/
def Hart.vecOff (h : Hart) : Bool := field h.mstatus 9 2 == 0
def Hart.vill (h : Hart) : Bool := field (h.csrOf 0xC21) 63 1 == 1

/-- A register group of elements of `eew` bytes is legal: EMUL between 1/8 and 8, the register a multiple of it. -/
def Hart.groupOk (h : Hart) (reg eew : Nat) : Bool :=
  let e := h.lmul8 * eew
  [1, 2, 4, 8].contains eew && e % h.sew == 0 && decide (1 ≤ e / h.sew) && decide (e / h.sew ≤ 64) &&
    reg % max 1 (e / h.sew / 8) == 0

/-- The registers that a group of elements of `w` bytes takes. -/
def Hart.groupRegs (h : Hart) (w : Nat) : Nat := max 1 (h.lmul8 * w / h.sew / 8)

/-- A destination group of `n` registers may overlap a source group of `m`: elements of one width; a narrower destination in the
lowest registers of the source; a wider one with the source in its highest registers, where the source fills whole registers. -/
def overlapOk (d n wd r m wr : Nat) (whole : Bool) : Bool :=
  decide (d % 32 + n ≤ r % 32) || decide (r % 32 + m ≤ d % 32) || wd == wr || (decide (wd < wr) && d % 32 == r % 32) ||
    (decide (wr < wd) && whole && d % 32 + n == r % 32 + m)

/-- A source group of width `wr` beside a destination group of width `wd`; `wd` 0 is a mask register. -/
def Hart.besides (h : Hart) (d wd r wr : Nat) : Bool :=
  overlapOk d (if wd = 0 then 1 else h.groupRegs wd) wd r (h.groupRegs wr) wr (decide (8 * h.sew ≤ h.lmul8 * wr))

/-- Groups that may not overlap at all. -/
def disjoint (d n r m : Nat) : Bool := decide (d % 32 + n ≤ r % 32) || decide (r % 32 + m ≤ d % 32)

/-- No register gives sources of more than one width (V): each source is its first register, how many registers it takes, and its width in
bytes, 0 for mask bits. -/
def eewOk : List (Nat × Nat × Nat) → Bool
  | [] => true
  | (r, n, w) :: rest => rest.all (fun x => w == x.2.2 || disjoint r n x.1 x.2.1) && eewOk rest

/-- A source group of elements of `w` bytes; the mask of a masked instruction. -/
def Hart.source (h : Hart) (r w : Nat) : Nat × Nat × Nat := (r, h.groupRegs w, w)
def maskSource (masked : Bool) : List (Nat × Nat × Nat) := if masked then [(0, 1, 0)] else []

/-- Segments of `fields` groups from a register on are legal: no more than eight registers' worth, none beyond register 31. -/
def Hart.fieldsOk (h : Hart) (reg w fields : Nat) : Bool :=
  decide (1 ≤ fields) && decide (fields ≤ 8) && decide (h.lmul8 * w / h.sew * fields ≤ 64) &&
    decide (reg + h.groupRegs w * fields ≤ 32)

/-- A vector memory instruction is legal. An indexed one has data of SEW and its own width of index; whole registers need no legal
vtype; the segments of an indexed load may not overlap the indices. -/
def Hart.vecMemOk (h : Hart) (reg eew fields : Nat) (a : VecAddr) (masked dest : Bool) : Bool :=
  !h.vecOff && (match a with
    | .whole n => [1, 2, 4, 8].contains n && reg % n == 0 && fields == 1 && !masked &&
        (if dest then [1, 2, 4, 8].contains eew else eew == 1)
    | .maskBits => !h.vill && eew == 1 && fields == 1 && !masked
    | .indexed vs2 w => !h.vill && eew == h.sew && h.groupOk reg eew && h.fieldsOk reg eew fields && !(dest && masked && reg == 0) &&
        h.groupOk vs2 w &&
        eewOk (maskSource masked ++ [h.source vs2 w] ++ if dest then [] else [(reg, h.groupRegs eew * fields, eew)]) &&
        (!dest || (if fields = 1 then h.besides reg eew vs2 w else disjoint reg (h.groupRegs eew * fields) vs2 (h.groupRegs w)))
    | _ => !h.vill && h.groupOk reg eew && h.fieldsOk reg eew fields && !(dest && masked && reg == 0) &&
        (dest || eewOk (maskSource masked ++ [(reg, h.groupRegs eew * fields, eew)])))

/-- How many elements, or segments, it has: vl, all of whole registers, or a byte for every eight mask bits. -/
def Hart.memCount (h : Hart) (w : Nat) : VecAddr → Nat
  | .whole n => n * 64 / w
  | .maskBits => (h.vl + 7) / 8
  | _ => h.vl

/-- Element `i` is active. -/
def Hart.active (h : Hart) (masked : Bool) (i : Nat) : Bool := !masked || h.maskBit i

/-- A vector instruction completes: vstart 0, the vector state dirty. -/
def vecDone (hart : Nat) (dirty : Bool) (s : State) : State :=
  let h := (s.hart hart).withCsr 0x008 0
  retire hart 4 (setHart hart (if dirty then h.dirtyV else h) s)

/-- An exception at element `i`: vstart names it. -/
def vecFault (hart i : Nat) (va : Word) (s : State) : MemEnd → State
  | .exc e => takeExc hart e (setHart hart ((s.hart hart).withCsr 0x008 (BitVec.ofNat 64 i)).dirtyV s)
  | .poison form a _ => takeExc hart (.machine 3 form a va) (setHart hart ((s.hart hart).withCsr 0x008 (BitVec.ofNat 64 i)).dirtyV s)
  | .failing a _ => takeExc hart (.machine 5 2 a va) (setHart hart ((s.hart hart).withCsr 0x008 (BitVec.ofNat 64 i)).dirtyV s)
  | _ => haltHart hart 2 (setHart hart ((s.hart hart).withCsr 0x008 (BitVec.ofNat 64 i)).dirtyV s)

/-- The exception at an element names the element's address (R211). -/
def MemEnd.atElement (va : Word) : MemEnd → MemEnd
  | .exc (.trap c _) => .exc (.trap c va)
  | e => e

/-- A vector memory instruction as its loop over the elements sees it. -/
structure VecMem where
  reg : Nat
  width : Nat
  rs1 : Nat
  fields : Nat
  addrs : VecAddr
  masked : Bool

/-- The address of a field of element `i`. -/
def VecMem.addr (m : VecMem) (h : Hart) (i field : Nat) : Word := h.elemAddr m.rs1 m.width m.fields m.addrs i field

/-- The first register of a field. -/
def VecMem.group (m : VecMem) (h : Hart) (field : Nat) : Nat := m.reg + field * h.groupRegs m.width

/-- The fields of element `i` from `k` on, read in order; a miss may lead to prefetches. -/
def vecFields (hart : Nat) (h0 : Hart) (m : VecMem) (prefetch : List (Nat × Int)) (i : Nat) :
    Nat → Nat → State → State × (List Word ⊕ Word × MemEnd)
  | 0, _, s => (s, .inl [])
  | n + 1, k, s =>
    let va := m.addr h0 i k
    match readAccess hart vecLoadAccess va m.width .clean s with
    | (t, .ok v) =>
      let ks := (prefetch.filter (·.1 == i * m.fields + k)).map (·.2)
      match vecFields hart h0 m prefetch i n (k + 1) (stridePrefetches hart va ks s t) with
      | (u, .inl l) => (u, .inl (v :: l))
      | r => r
    | (t, e) => (t, .inr (va, e.atElement va))

/-- `n` elements of a load from element `i` on: all, or up to the element that ends it, of which nothing is written (R211). -/
def vecLoadFrom (hart : Nat) (h0 : Hart) (m : VecMem) (prefetch : List (Nat × Int)) :
    Nat → Nat → State → State × Option (Nat × Word × MemEnd)
  | 0, _, s => (s, none)
  | n + 1, i, s =>
    if !h0.active m.masked i then vecLoadFrom hart h0 m prefetch n (i + 1) s
    else match vecFields hart h0 m prefetch i m.fields 0 s with
      | (t, .inl vs) =>
        let put := (List.range m.fields).foldl (fun h k => h.withElem (m.group h0 k) m.width i (vs.getD k 0)) (t.hart hart)
        vecLoadFrom hart h0 m prefetch n (i + 1) (setHart hart put t)
      | (t, .inr (va, e)) => (t, some (i, va, e))

/-- VECTOR_LOAD: also segments, whole registers and mask registers. `prefetch`: the stride prefetcher's prefetches by the element, or
field of an element, whose miss leads to them (R257). -/
def execVectorLoad (hart vd eew rs1 fields : Nat) (addrs : VecAddr) (masked faultFirst : Bool) (prefetch : List (Nat × Int))
    (s : State) : Out :=
  within (decide (hart < 264) && decide (vd < 32) && (!faultFirst || addrs == .unit)) <|
    if !hartRuns s hart then s
    else
      let h := s.hart hart
      let m : VecMem := { reg := vd, width := eew, rs1 := rs1, fields := fields, addrs := addrs, masked := masked }
      if !h.vecMemOk vd eew fields addrs masked true then illegal hart s
      else match vecLoadFrom hart h m prefetch (h.memCount eew addrs - h.vstart) h.vstart s with
        | (t, none) => vecDone hart true t
        | (t, some (_, _, .wait)) => carryWaits t s
        | (t, some (i, va, e)) =>
          if faultFirst ∧ 0 < i then
            vecDone hart true (setHart hart ((t.hart hart).withCsr 0xC20 (BitVec.ofNat 64 i)) t)
          else vecFault hart i va t e

/-- One element's part of a vector store joins what the instruction writes: one entry a line, in the order of the first
element that touches it, on pages of one kind; a device takes no vector store. -/
def vecGather (es : List SbEntry) (e : SbEntry) : List SbEntry :=
  if es.any (fun x => x.line == e.line && x.alone == e.alone) then
    es.map fun x => if x.line = e.line ∧ x.alone = e.alone then
      let y := x.merge e
      { y with whole := wholeWords y.mask } else x
  else es ++ [e]

/-- The fields of element `i` from `k` on join the entries. -/
def vecPutFields (hart : Nat) (h0 : Hart) (m : VecMem) (i : Nat) :
    Nat → Nat → List SbEntry → State → State × (List SbEntry ⊕ Word × MemEnd)
  | 0, _, es, s => (s, .inl es)
  | n + 1, k, es, s =>
    let va := m.addr h0 i k
    match storeEntries va (leBytes m.width (h0.elem (m.group h0 k) m.width i).toNat) s (plan hart vecStoreAccess va m.width s) with
    | (t, .inl l) => vecPutFields hart h0 m i n (k + 1) (l.foldl vecGather es) t
    | (t, .inr e) => (t, .inr (va, e.atElement va))

/-- `n` elements of a store from element `i` on: the entries, and the element that ends it. -/
def vecStoreFrom (hart : Nat) (h0 : Hart) (m : VecMem) :
    Nat → Nat → List SbEntry → State → State × List SbEntry × Option (Nat × Word × MemEnd)
  | 0, _, es, s => (s, es, none)
  | n + 1, i, es, s =>
    if !h0.active m.masked i then vecStoreFrom hart h0 m n (i + 1) es s
    else match vecPutFields hart h0 m i m.fields 0 es s with
      | (t, .inl l) => vecStoreFrom hart h0 m n (i + 1) l t
      | (t, .inr (va, e)) => (t, es, some (i, va, e))

/-- Entries put into the store buffer one by one; the oldest drains where none is free; false: that waits. -/
def vecBuffer (hart : Nat) : List SbEntry → State → State × Bool
  | [], s => (s, true)
  | e :: rest, s =>
    let put := fun (t : State) => setHart hart { t.hart hart with sb := sbPut (t.hart hart).smg (t.hart hart).sb e } t
    if (sbPut (s.hart hart).smg (s.hart hart).sb e).length ≤ 8 then vecBuffer hart rest (put s)
    else match drainOldest hart s with
      | (t, true) => vecBuffer hart rest (put t)
      | (t, false) => (t, false)

/-- VECTOR_STORE. -/
def execVectorStore (hart vs eew rs1 fields : Nat) (addrs : VecAddr) (masked : Bool) (s : State) : Out :=
  within (decide (hart < 264) && decide (vs < 32)) <|
    if !hartRuns s hart then s
    else
      let h := s.hart hart
      let m : VecMem := { reg := vs, width := eew, rs1 := rs1, fields := fields, addrs := addrs, masked := masked }
      if !h.vecMemOk vs eew fields addrs masked false then illegal hart s
      else match vecStoreFrom hart h m (h.memCount eew addrs - h.vstart) h.vstart [] s with
        | (t, _, some (_, _, .wait)) => carryWaits t s
        | (t, es, stop) =>
          match vecBuffer hart es t with
          | (u, false) => carryWaits u s
          | (u, true) =>
            match stop with
            | none => vecDone hart false u
            | some (i, va, e) => vecFault hart i va u e

end Sys2Proof.Machine
end

