-- ==== Sys2Proof/Machine/Vitrine.lean ====
section
/-! DEFINITION. Vitrines (R228-R251): the Xnoadevit instructions, seal notices, steps and job rows. A command that has to wait
leaves the state as it is. -/

namespace Sys2Proof.Machine

/-! A Vitrine's surroundings. -/

def Vit.slotAt (x : Vit) (i : Nat) : VitSlot := tblGet {} x.slot i
def Vit.withSlot (x : Vit) (i : Nat) (y : VitSlot) : Vit := { x with slot := tblSet {} x.slot i y }

/-- The Vitrine runs: its domain is on, its gallery is not fenced, its partition has started it (R249). -/
def vitRuns (s : State) (v : Nat) : Bool := s.modes.mode.active && (s.vit v).running && !fenced s (v / 3)

/-- The partition of a Vitrine. -/
def vitPart (s : State) (v : Nat) : Nat := (partOfCluster s v).getD 0xFF

/-- A range lies in the partition's memory and in the tiers, and outside every enabled ring (R239, R245; DEDUCED: code 05h of R245 names
the overlap for every address that an instruction gives, read or written). -/
def vitRange (s : State) (v a len : Nat) : Bool :=
  mappedRange s a len && ownsMem s (vitPart s v) a len && !((enabledRings s).any fun r =>
    overlaps a len (ringSlots s r).1 (ringSlots s r).2 || overlaps a len (ringSeals s r).1 (ringSeals s r).2)

/-- A waiting record is of a step: a type 10h, or a fault's, whose NOOUT bit a job's has clear. -/
def ofStep (r : List Byte) : Bool := leAt r 0 1 == 0x10 || (leAt r 0 1 == 0x12 && (leAt r 1 1).testBit 3)

/-- Records of a Vitrine that wait for room in a queue. -/
def vitWaiting (s : State) (v : Nat) : List (List Byte) :=
  s.queues.flatMap fun q => (q.2.waiting.filter fun e => e.1 == vitProducer v).map (·.2)

/-! Memory access (R229). -/

/-- Bytes of a coherent read, line by line, with the poisoned words met; none: it waits. -/
def cohBytes (g dom a n : Nat) (s : State) : State × Option (List Byte × List (Nat × Nat)) :=
  let read := fun (acc : State × Option (List (Nat × LineData))) (line : Nat) =>
    match acc with
    | (t, none) => (t, none)
    | (t, some l) =>
      match cohRead g dom line .clean t with
      | (u, none) => (u, none)
      | (u, some d) => (u, some (l ++ [(line, d)]))
  match (linesOf a n).foldl read (s, some []) with
  | (t, none) => (t, none)
  | (t, some l) =>
    let at_ := fun (line : Nat) => (l.lookup line).getD {}
    let words := (List.range (if n = 0 then 0 else (a + n - 1) / 8 - a / 8 + 1)).map (a / 8 + ·)
    (t, some ((List.range n).map fun i => lineByte (at_ ((a + i) / 64)).data ((a + i) % 64),
      (words.map fun w => (w, ((at_ (w / 8)).form (w % 8)).toNat)).filter (·.2 != 0)))

/-- Whole lines of a coherent output write; false: it waits. -/
def cohLines (g dom a : Nat) (bytes : List Byte) (s : State) : State × Bool :=
  (linesOf a bytes.length).foldl (fun (acc : State × Bool) line =>
    if acc.2 then cohWrite g dom line true (linePart a bytes line).1 (BitVec.allOnes 64) 0xFF#8 acc.1 else acc) (s, true)

/-- Every line of a range takes writes (R168, R248). -/
def canWrite (s : State) (a n : Nat) : Bool := (linesOf a n).all (lineWritable s)

/-! Faults and records (R242, R248). -/

/-- A Vitrine fault: one record, the counters, the slot's last code. That of a line-buffer error (02h) is the record of the
uncorrectable error and counts against the cluster (R176, R450). -/
def vitFault (v slot code : Nat) (s : State) : State :=
  let x := s.vit v
  let (s1, cl, n) := if code = 2 then clusterHit v true s else (s, 0, 0)
  record { cls := if code = 2 then 2 else 4, action := 4, kind := 3, unit := v, sub := slot, part := vitPart s v, code := code,
           classify := cl, count := n }
    (setO (nVitrine v) 0x6400 9 code (addO (nVitrine v) 0x6400 8 1
      (setVit v (x.withSlot slot { x.slotAt slot with faultCode := code }) s1)))

/-- A corrected line-buffer error (R248): written back, counted and recorded. -/
def lineCorrected (v slot : Nat) (s : State) : State :=
  let (s1, cl, n) := clusterHit v false s
  record { cls := 1, action := 1, kind := 3, unit := v, sub := slot, part := vitPart s v, classify := cl, count := n }
    (addO (nVitrine v) 0x6400 0x0C 1 s1)

/-- What reading the rows of a slot or job finds: where there is none, there is nothing to find. -/
def foundIn (rows : List VitRow) (found : ArrayFinding) : ArrayFinding := if rows.isEmpty then .clean else found

/-- The gallery retires where the error that was met reached its cluster's threshold (R450, R453). -/
def thenRetire (v : Nat) (found : ArrayFinding) (before after : State) : State :=
  onlyIf (found != .clean && clusterWorn before v (found == .uncorrectable)) (retireWorn (v / 3)) after

/-- Poison consumed by a Vitrine: the record of R185 and the fault. -/
def vitPoison (v slot : Nat) (bad : Nat × Nat) (s : State) : State :=
  vitFault v slot 1 (consumeRecord (8 * bad.1) bad.2 0xFFFF 2 (vitPart s v) s)

/-- TIME64 of the last output write; an open value where there was none. -/
def performedTime (t : Option Nat) (s : State) : State × Nat :=
  match t with
  | some n => (s, n)
  | none => let (s1, v) := takeFree s; (s1, v.toNat)

/-- A record in the slot's completion queue; a job without a queue posts nothing. -/
def vitPost (v slot type flags code line out : Nat) (performed : Option Nat) (s : State) : State :=
  let q := blkQueue ((s.vit v).slotAt slot).block
  if q = 0xFFFFFFFF then s
  else
    let (s1, time) := performedTime performed s
    post q (vitProducer v) (leBytes 1 type ++ leBytes 1 flags ++ leBytes 1 v ++ leBytes 1 slot ++ leBytes 1 code ++ leBytes 3 0 ++
      leBytes 8 line ++ leBytes 8 out ++ leBytes 8 time) s1

/-! What instructions answer (R244, R245). -/

/-- rd of a failure. -/
def vitFail (code : Nat) : Word := BitVec.ofNat 64 (2 ^ 63 + code)

/-- An Xnoadevit instruction completes. -/
def vitDone (hart rd : Nat) (v : Word) (s : State) : State :=
  retire hart 4 (hartEvent hart 0x402 1 (setHart hart ((s.hart hart).withX rd v) s))

/-- An Xnoadevit instruction: illegal where the privilege is too low; it waits for the store buffer, and for the Vitrine. -/
def vitInsn (hart : Nat) (ok : Bool) (f : Nat → State → State) (s : State) : Out :=
  within (decide (hart < 264)) <|
    if !hartRuns s hart then s
    else if !ok then illegal hart s
    else if !(s.hart hart).sb.isEmpty || !vitRuns s (hart / 4) then s
    else f (hart / 4) s

/-! vit.load (R235, R245). -/

/-- The checks on a block that was read, in the order of R235. -/
def loadCode (s : State) (v slot : Nat) (b : List Byte) : Nat :=
  if !blkValid b then 2
  else if 131072 < (s.vit v).reservedBut slot + blkDemand b then 4
  else if blkHist b && !(getO s nP 0x2103 1).testBit 1 then 7
  else 0

/-- A slot may be loaded. -/
def loadable (x : Vit) (slot : Nat) : Bool := (x.slotAt slot).state != 2 && !(x.jobs.any fun j => j.slot == slot)

/-- VIT_LOAD. -/
def execVitLoad (hart rd rs1 rs2 : Nat) (s : State) : Out :=
  vitInsn hart (s.hart hart).vitSuper (fun v s =>
    let a := ((s.hart hart).getX rs1).toNat
    let slot := ((s.hart hart).getX rs2).toNat
    if 3 < slot then vitDone hart rd (vitFail 1) s
    else if !loadable (s.vit v) slot then vitDone hart rd (vitFail 6) s
    else if !(a % 64 == 0 && vitRange s v a 640) then vitDone hart rd (vitFail 5) s
    else match cohBytes (v / 3) (vitPart s v) a 640 s with
      | (_, none) => s
      | (t, some (_, bad :: _)) => vitDone hart rd (vitFail 8) (vitPoison v slot bad t)
      | (t, some (b, [])) =>
        let code := loadCode t v slot b
        if code ≠ 0 then vitDone hart rd (vitFail code) t
        else
          let x := t.vit v
          let y := x.slotAt slot
          vitDone hart rd 0 (setVit v (x.withSlot slot
            { state := 1, block := b, stepped := y.stepped, faultCode := y.faultCode }) t)) s

/-! vit.arm and vit.disarm (R239, R245). -/

/-- The bytes that a standing program writes, from its output base. -/
def armSpan (b : List Byte) : Nat :=
  max (blkOutLines b * blkOutPitch b) ((blkOutLines b - 1) * blkOutPitch b + blkOutOffset b + blkOutBytes b)

/-- The output and histogram ranges of a standing program are permitted. -/
def armRanges (s : State) (v : Nat) (b : List Byte) : Bool :=
  decide (1 ≤ blkOutLines b) && blkOutBase b % 64 == 0 && blkOutPitch b % 64 == 0 && blkOutOffset b % 64 == 0 &&
    blkInOffset b % blkInSize b == 0 && vitRange s v (blkOutBase b) (armSpan b) &&
    (!blkHistOn b || (blkHistBase b % 64 == 0 && vitRange s v (blkHistBase b) 16384))

/-- The ring check of R239. -/
def armRing (s : State) (v : Nat) (b : List Byte) : Bool :=
  let r := blkRing b
  decide (r < 256) && ringO s r 0x4200 1 == 1 && ringO s r 0x4200 2 == vitPart s v && (ringO s r 0x4200 0x0E).testBit v &&
    decide (blkInOffset b + blkWidth b * blkInSize b ≤ ringO s r 0x4200 4)

/-- The completion queue is owned by the partition. -/
def ownQueue (s : State) (v q : Nat) : Bool := decide (q < 65536) && queueOwner s q == vitPart s v

/-- The code of vit.arm. -/
def armCode (s : State) (v slot : Nat) : Nat :=
  let y := (s.vit v).slotAt slot
  if y.state = 0 ∨ y.state = 2 then 6
  else if !armRing s v y.block then 0x0A
  else if !ownQueue s v (blkQueue y.block) then 9
  else if !armRanges s v y.block then 5
  else 0

/-- VIT_ARM. -/
def execVitArm (hart rd rs1 : Nat) (s : State) : Out :=
  vitInsn hart (s.hart hart).vitSuper (fun v s =>
    let slot := ((s.hart hart).getX rs1).toNat
    if 3 < slot then vitDone hart rd (vitFail 1) s
    else if armCode s v slot ≠ 0 then vitDone hart rd (vitFail (armCode s v slot)) s
    else
      let x := s.vit v
      let y := x.slotAt slot
      vitDone hart rd 0 (setVit v (x.withSlot slot { state := 2, block := y.block, stepped := y.stepped, faultCode := y.faultCode }) s)) s

/-- A notice without a slot; one that no slot is left to take goes. -/
def dropSlot (slot : Nat) (l : List Notice) : List Notice :=
  (l.map fun n => { n with slots := n.slots.filter (· != slot) }).filter fun n => !n.slots.isEmpty

/-- VIT_DISARM: it waits for the record of the slot's step in progress, from when on the slot takes no notice. -/
def execVitDisarm (hart rd rs1 : Nat) (s : State) : Out :=
  vitInsn hart (s.hart hart).vitSuper (fun v s =>
    let slot := ((s.hart hart).getX rs1).toNat
    let x := s.vit v
    let y := x.slotAt slot
    if 3 < slot then vitDone hart rd (vitFail 1) s
    else if y.state < 2 then vitDone hart rd (vitFail 6) s
    else
      let clear := fun (y : VitSlot) => setVit v { x.withSlot slot y with notices := dropSlot slot x.notices } s
      if (vitWaiting s v).any fun r => leAt r 3 1 == slot && ofStep r then clear { y with disarming := true }
      else vitDone hart rd 0 (clear { y with state := 1, rows := [], disarming := false })) s

/-! vit.run, vit.wait and vit.stat (R236, R245-R247). -/

/-- A descriptor's addresses are aligned, its rows suffice, and its ranges are permitted. -/
def jobRanges (s : State) (v : Nat) (b d : List Byte) : Bool :=
  let rows := leAt d 12 4
  let lost := blkRowsLost b
  decide (lost + 1 ≤ rows) && leAt d 0 8 % blkInSize b == 0 && leAt d 16 8 % 64 == 0 && leAt d 24 4 % 64 == 0 &&
    vitRange s v (leAt d 0 8) ((rows - 1) * leAt d 8 4 + blkWidth b * blkInSize b) &&
    vitRange s v (leAt d 16 8) ((rows - lost - 1) * leAt d 24 4 + blkOutBytes b) &&
    (!blkHistOn b || (blkHistBase b % 64 == 0 && vitRange s v (blkHistBase b) 16384))

/-- VIT_RUN. -/
def execVitRun (hart rd rs1 rs2 : Nat) (s : State) : Out :=
  vitInsn hart (s.hart hart).vitUser (fun v s =>
    let a := ((s.hart hart).getX rs1).toNat
    let slot := ((s.hart hart).getX rs2).toNat
    let y := (s.vit v).slotAt slot
    if 3 < slot then vitDone hart rd (vitFail 1) s
    else if y.state = 0 ∨ y.state = 2 then vitDone hart rd (vitFail 6) s
    else if 16 ≤ (s.vit v).jobs.length then vitDone hart rd (vitFail 3) s
    else if blkQueue y.block ≠ 0xFFFFFFFF ∧ ownQueue s v (blkQueue y.block) = false then vitDone hart rd (vitFail 9) s
    else if !(a % 64 == 0 && vitRange s v a 64) then vitDone hart rd (vitFail 5) s
    else match cohBytes (v / 3) (vitPart s v) a 64 s with
      | (_, none) => s
      | (t, some (_, bad :: _)) => vitDone hart rd (vitFail 8) (vitPoison v slot bad t)
      | (t, some (d, [])) =>
        if !jobRanges t v y.block d then vitDone hart rd (vitFail 5) t
        else
          let x := t.vit v
          vitDone hart rd (BitVec.ofNat 64 (x.tickets + 1))
            (setVit v { x with tickets := x.tickets + 1, jobs := x.jobs ++ [{ slot := slot, ticket := x.tickets + 1, desc := d }] } t)) s

/-- A job's record waits for room in its queue. -/
def jobWaiting (s : State) (v ticket : Nat) : Bool :=
  (vitWaiting s v).any fun r => !ofStep r && leAt r 8 8 == ticket

/-- VIT_WAIT: the job's end, or an interrupt pending in mip and enabled in mie. -/
def execVitWait (hart rd rs1 : Nat) (s : State) : Out :=
  vitInsn hart (s.hart hart).vitUser (fun v s =>
    let k := ((s.hart hart).getX rs1).toNat
    let x := s.vit v
    let interrupted := if wakes (heard s hart) (now s) then vitDone hart rd (BitVec.ofNat 64 (2 ^ 62)) s else s
    if k = 0 ∨ x.tickets < k then vitDone hart rd (vitFail 0x0B) s
    else match x.ended.lookup k with
      | some code => if jobWaiting s v k then interrupted else vitDone hart rd (BitVec.ofNat 64 code) s
      | none =>
        if x.jobs.any fun j => j.ticket == k then interrupted else vitDone hart rd (vitFail 0x0C) s) s

/-- VIT_STAT. -/
def execVitStat (hart rd rs1 : Nat) (s : State) : Out :=
  vitInsn hart (s.hart hart).vitUser (fun v s =>
    let slot := ((s.hart hart).getX rs1).toNat
    let y := (s.vit v).slotAt slot
    if 3 < slot then vitDone hart rd (vitFail 1) s
    else vitDone hart rd (BitVec.ofNat 64 (y.stepped % 2 ^ 32 * 2 ^ 32 + y.faultCode * 256 + y.state)) s) s

/-- The command that a word of the custom-0 opcode spells for a hart (R243): R-type with funct7 0000000; rs2 is ignored where the table
names none (DESIGN CHOICE). None: it is illegal. -/
def vitCommand (hart : Nat) (word : BitVec 32) : Option Instr :=
  let n := word.toNat
  let rd := n / 2 ^ 7 % 32
  let rs1 := n / 2 ^ 15 % 32
  let rs2 := n / 2 ^ 20 % 32
  if n % 128 ≠ 0x0B ∨ n / 2 ^ 25 ≠ 0 then none
  else match n / 2 ^ 12 % 8 with
    | 0 => some (.vitLoad hart rd rs1 rs2)
    | 1 => some (.vitArm hart rd rs1)
    | 2 => some (.vitDisarm hart rd rs1)
    | 3 => some (.vitRun hart rd rs1 rs2)
    | 4 => some (.vitWait hart rd rs1)
    | 5 => some (.vitStat hart rd rs1)
    | _ => none

/-- A word of the custom-0 opcode executed: its command, or an illegal instruction (R243). -/
def runCustom0 (hart : Nat) (word : BitVec 32) (s : State) : State :=
  let done := fun (o : Out) => match o with
    | .next t => t
    | _ => s
  match vitCommand hart word with
  | some (.vitLoad h rd rs1 rs2) => done (execVitLoad h rd rs1 rs2 s)
  | some (.vitArm h rd rs1) => done (execVitArm h rd rs1 s)
  | some (.vitDisarm h rd rs1) => done (execVitDisarm h rd rs1 s)
  | some (.vitRun h rd rs1 rs2) => done (execVitRun h rd rs1 rs2 s)
  | some (.vitWait h rd rs1) => done (execVitWait h rd rs1 s)
  | some (.vitStat h rd rs1) => done (execVitStat h rd rs1 s)
  | _ => illegalBits hart (word.setWidth 64) s

/-! Seal notices (R240). -/

/-- The slots armed on a ring, in slot order; one whose vit.disarm waits takes no notice (R250). -/
def armedOn (x : Vit) (ring : Nat) : List Nat :=
  (List.range 4).filter fun i => (x.slotAt i).state == 2 && !(x.slotAt i).disarming && blkRing (x.slotAt i).block == ring

/-- SEAL_NOTICE: a notice under way reaches its Vitrine, once no fence holds its gallery's traffic (R42). -/
def execSealNotice (vitrine ring line cover : Nat) (s : State) : Out :=
  within (decide (vitrine < 66) && decide (ring < 256)) <|
    if !(s.modes.mode.active && !fenced s (vitrine / 3) && s.acc.notices.contains (vitrine, ring, line, cover)) then s
    else
      let s1 := addO (nVitrine vitrine) 0x6400 6 1
        { s with acc := { s.acc with notices := s.acc.notices.erase (vitrine, ring, line, cover) } }
      let x := s1.vit vitrine
      let slots := armedOn x ring
      if slots.isEmpty then s1
      else if 64 ≤ x.notices.length then addO (nVitrine vitrine) 0x6400 7 1 s1
      else setVit vitrine { x with notices := x.notices ++ [{ ring := ring, line := line, cover := cover, slots := slots }] } s1

/-! Rows and output, shared by steps and jobs (R233, R241). -/

/-- The input rows kept with a new one: those that one output row needs. -/
def pushRow (b : List Byte) (row : VitRow) (rows : List VitRow) : List VitRow :=
  (rows ++ [row]).drop ((rows.length + 1) - (blkRowsLost b + 1))

/-- One output row written at an address, with the histogram that it completes. The histogram's number is the count of
output rows before it over the rows of one. -/
structure RowOut where
  addr : Nat
  bytes : List Byte
  hist : Option (Nat × List Byte)
  bins : List (Nat × Nat)
  histCount : Nat
deriving DecidableEq, Repr

/-- The output of a full set of rows; `count` rows were counted into `bins` since the last histogram, and `n` histograms
were written. -/
def rowOut (b : List Byte) (addr : Nat) (rows : List VitRow) (bins : List (Nat × Nat)) (count n : Nat) : RowOut :=
  let row := outputRow b (rows.map (·.pixels))
  let bins1 := if blkHistOn b then countRow b row bins else bins
  let full := blkHistOn b && decide (blkHistRows b ≤ count + 1)
  { addr := addr, bytes := outputBytes b row
    hist := if full then some (blkHistBase b + n % 16 * 1024, binBytes bins1) else none
    bins := if full then [] else bins1
    histCount := if full then n + 1 else n }

/-- Every byte of the output and its histogram can be written. -/
def outWritable (s : State) (o : RowOut) : Bool :=
  canWrite s o.addr o.bytes.length && (match o.hist with
    | some (a, l) => canWrite s a l.length
    | none => true)

/-- The output and its histogram written; false: it waits. -/
def writeOut (g dom : Nat) (o : RowOut) (s : State) : State × Bool :=
  match cohLines g dom o.addr o.bytes s with
  | (t, false) => (t, false)
  | (t, true) =>
    match o.hist with
    | some (a, l) => cohLines g dom a l t
    | none => (t, true)

/-! Steps (R238). -/

/-- Record flags. -/
def stepFlags (gap incomplete lapped noout hist : Bool) : Nat :=
  (if gap then 1 else 0) + (if incomplete then 2 else 0) + (if lapped then 4 else 0) + (if noout then 8 else 0) +
    (if hist then 16 else 0)

/-- The slot after action 1 for line `k`. -/
def alignSlot (k : Nat) (y : VitSlot) : VitSlot :=
  if y.lastLine.map (· + 1) = some k then { y with lastLine := some k, stepped := k }
  else { y with rows := [], gap := true, lastLine := some k, stepped := k }

/-- The notice of this step taken from the front of the queue: the slot's share of it is done. -/
def noticeDone (slot : Nat) (x : Vit) : Vit :=
  match x.notices with
  | [] => x
  | n :: rest =>
    let left := n.slots.filter (· != slot)
    { x with notices := if left.isEmpty then rest else { n with slots := left } :: rest }

/-- A slot changed by its step. -/
def putSlot (v slot : Nat) (y : VitSlot) (s : State) : State := setVit v ((s.vit v).withSlot slot y) s

/-- A fault ends a step: no output row; a record of type 12h but under code 04h; with SKIP the slot goes on without its rows,
otherwise it stops and discards its notices (R248). -/
def stepFault (v slot k code : Nat) (bad : Option (Nat × Nat)) (y : VitSlot) (s : State) : State :=
  let s1 := putSlot v slot { y with rows := [] } s
  let s2 := match bad with
    | some w => vitPoison v slot w s1
    | none => vitFault v slot code s1
  let s3 := if code = 4 then s2 else vitPost v slot 0x12 (stepFlags y.gap false false true false) code k (2 ^ 64 - 1) none s2
  let x := s3.vit v
  if blkSkip y.block then putSlot v slot { x.slotAt slot with gap := true } s3
  else setVit v { x.withSlot slot { x.slotAt slot with state := 3, gap := false } with notices := dropSlot slot x.notices } s3

/-- Action 6: the record of type 10h. -/
abbrev stepRecord (v slot k flags out : Nat) (performed : Option Nat) (s : State) : State :=
  vitPost v slot 0x10 flags 0 k out performed s

/-- Actions 4 to 6 with the rows held after a new one; none: it waits. -/
def stepOutput (v slot k : Nat) (y : VitSlot) (s : State) : Option State :=
  let b := y.block
  let y1 := { y with gap := false }
  if y.rows.length < blkRowsLost b + 1 then
    some (stepRecord v slot k (stepFlags y.gap false false true false) (2 ^ 64 - 1) none (putSlot v slot y1 s))
  else
    let j := k - blkRowsLost b / 2
    let i := ((j : Int) - (blkOrigin b : Int)).emod (blkOutLines b) |>.toNat
    let o := rowOut b (blkOutBase b + i * blkOutPitch b + blkOutOffset b) y.rows y.bins y.outRows y.histCount
    let incomplete := y.rows.any (·.substituted)
    if !outWritable s o then some (stepFault v slot k 3 none y s)
    else match writeOut (v / 3) (vitPart s v) o s with
      | (_, false) => none
      | (t, true) =>
        let y2 := { y1 with bins := o.bins, histCount := o.histCount, outRows := if o.hist.isSome then 0 else y.outRows + 1 }
        some (onlyIf incomplete (addO (nVitrine v) 0x6400 0x0B 1)
          (stepRecord v slot k (stepFlags y.gap incomplete false false o.hist.isSome) j (some (now t)) (putSlot v slot y2 t)))

/-- Action 3: LINE and STATE of the seal record. -/
def sealLapped (b : List Byte) (k : Nat) : Bool := leAt b 0 8 != k || leAt b 48 4 % 4 != 2

/-- Actions 3 to 6 with the row that action 2 gave; none: it waits. -/
def stepRow (v slot : Nat) (n : Notice) (y : VitSlot) (row : VitRow) (s : State) : Option State :=
  match ioRead (sealAddr s n.ring n.line) 64 s with
  | (t, _, bad :: _) => some (stepFault v slot n.line 1 (some bad) y t)
  | (t, record, []) =>
    if sealLapped record n.line then
      some (addO (nVitrine v) 0x6400 0x0A 1
        (stepRecord v slot n.line (stepFlags y.gap false true true false) (2 ^ 64 - 1) none
          (putSlot v slot { y with rows := [], gap := true } t)))
    else stepOutput v slot n.line { y with rows := pushRow y.block row y.rows } t

/-- One step of a slot on a notice; none: it waits. -/
def stepSlot (v slot : Nat) (n : Notice) (s : State) : Option State :=
  let y := alignSlot n.line ((s.vit v).slotAt slot)
  let b := y.block
  if !validTarget s (blkQueue b) (vitPart s v) then some (stepFault v slot n.line 4 none y s)
  else if blkMembers b &&& n.cover ≠ blkMembers b then
    stepRow v slot n y { pixels := List.replicate (blkWidth b) (blkFill b : Int), substituted := true } s
  else
    match ioRead (lineBase s n.ring n.line + blkInOffset b) (blkWidth b * blkInSize b) s with
    | (t, _, bad :: _) => some (stepFault v slot n.line 1 (some bad) y t)
    | (t, bytes, []) => stepRow v slot n y { pixels := pixelsOf (blkInSize b) bytes, substituted := false } t

/-- Records of a Vitrine that wait at a queue which is not a valid target any more. -/
def vitLost (s : State) (v : Nat) : List (List Byte) :=
  s.queues.flatMap fun q =>
    if validTarget s q.1 (vitPart s v) then [] else (q.2.waiting.filter fun e => e.1 == vitProducer v).map (·.2)

/-- A Vitrine whose record waits: it goes on waiting, or takes the fault of code 04h, which is then the end status of the job whose
record it was (R246, R248, R341). -/
def recordFault (v : Nat) (s : State) : State :=
  match vitLost s v with
  | [] => s
  | r :: _ =>
    let slot := leAt r 3 1
    let s1 := dropWaiting (vitProducer v) s
    let x := s1.vit v
    let recode := fun (e : Nat × Nat) => if e.1 = leAt r 8 8 then (e.1, 4) else e
    if !ofStep r then vitFault v slot 4 (setVit v { x with ended := x.ended.map recode } s1)
    else stepFault v slot (leAt r 8 8) 4 none ((s1.vit v).slotAt slot) s1

/-- One step that meets what the line buffer's rows of the slot hold (R176, R248); none: it waits. A step whose completion queue is not a
valid target takes the fault of code 04h before it reads anything (R341). -/
def stepFound (v slot : Nat) (n : Notice) (found : ArrayFinding) (s : State) : Option State :=
  let y := alignSlot n.line ((s.vit v).slotAt slot)
  match (if validTarget s (blkQueue y.block) (vitPart s v) then foundIn y.rows found else .clean) with
  | .clean => stepSlot v slot n s
  | .corrected => (stepSlot v slot n (lineCorrected v slot s)).map (thenRetire v .corrected s)
  | .uncorrectable => some (thenRetire v .uncorrectable s (stepFault v slot n.line 2 none y s))

/-- VITRINE_STEP: the oldest notice's next slot; a record that waits for room holds the Vitrine. -/
def execVitrineStep (vitrine : Nat) (lineBuffer : ArrayFinding) (s : State) : Out :=
  within (decide (vitrine < 66)) <|
    if !vitRuns s vitrine then s
    else if !(vitWaiting s vitrine).isEmpty then recordFault vitrine s
    else match (s.vit vitrine).notices with
      | [] => s
      | n :: _ =>
        match n.slots with
        | [] => s
        | slot :: _ => (stepFound vitrine slot n lineBuffer (setVit vitrine (noticeDone slot (s.vit vitrine)) s)).getD s

/-! Jobs (R236, R237). -/

/-- A job ends: its status is kept with the last 16, and its record posted, with HIST where it wrote a histogram (R241). -/
def endJob (v : Nat) (j : Job) (code type : Nat) (performed : Option Nat) (s : State) : State :=
  let x := s.vit v
  let ended := x.ended ++ [(j.ticket, code)]
  let s1 := setVit v { x with jobs := x.jobs.drop 1, ended := ended.drop (ended.length - 16) } s
  if code = 4 then s1
  else onlyIf (blkQueue ((s.vit v).slotAt j.slot).block == 0xFFFFFFFF) (addO (nVitrine v) 0x6400 5 1)
    (vitPost v j.slot type (stepFlags false false false false (decide (j.histCount ≠ 0))) code j.ticket
      (leAt j.desc 28 4 + j.outRows * 2 ^ 32) performed s1)

/-- A fault ends a job without further writes. -/
def jobFault (v : Nat) (j : Job) (code : Nat) (bad : Option (Nat × Nat)) (s : State) : State :=
  endJob v j code 0x12 j.performed (match bad with
    | some w => vitPoison v j.slot w s
    | none => vitFault v j.slot code s)

/-- The input rows that the next output row still needs, read; the first poisoned word ends them. None: it waits. -/
def jobRows (g dom : Nat) (b : List Byte) : Nat → Job → State → State × Option (Job × Option (Nat × Nat))
  | 0, j, s => (s, some (j, none))
  | n + 1, j, s =>
    match cohBytes g dom (leAt j.desc 0 8 + j.nextRow * leAt j.desc 8 4) (blkWidth b * blkInSize b) s with
    | (t, none) => (t, none)
    | (t, some (_, bad :: _)) => (t, some (j, some bad))
    | (t, some (bytes, [])) =>
      jobRows g dom b n { j with
        rows := pushRow b { pixels := pixelsOf (blkInSize b) bytes, substituted := false } j.rows
        nextRow := j.nextRow + 1 } t

/-- The job posts to a queue that is not a valid target (R341). -/
def jobStranded (s : State) (v : Nat) (b : List Byte) : Bool := blkQueue b != 0xFFFFFFFF && !validTarget s (blkQueue b) (vitPart s v)

/-- The next output row of the oldest job; none: it waits. -/
def jobRow (v : Nat) (j : Job) (s : State) : Option State :=
  let b := ((s.vit v).slotAt j.slot).block
  let dom := vitPart s v
  let lost := blkRowsLost b
  if jobStranded s v b then some (jobFault v j 4 none s)
  else match jobRows (v / 3) dom b (if j.rows.isEmpty then lost + 1 else 1) j s with
    | (_, none) => none
    | (t, some (j1, some bad)) => some (jobFault v j1 1 (some bad) t)
    | (t, some (j1, none)) =>
      let r := j1.nextRow - (lost + 1)
      let o := rowOut b (leAt j.desc 16 8 + r * leAt j.desc 24 4) j1.rows j1.bins (r % blkHistRows b) j1.histCount
      if !outWritable t o then some (jobFault v j1 3 none t)
      else match writeOut (v / 3) dom o t with
        | (_, false) => none
        | (u, true) =>
          let j2 := { j1 with bins := o.bins, histCount := o.histCount, outRows := r + 1, performed := some (now u) }
          let x := u.vit v
          let s2 := setVit v { x with jobs := j2 :: x.jobs.drop 1 } u
          some (if leAt j.desc 12 4 ≤ j1.nextRow then endJob v j2 0 0x11 j2.performed s2 else s2)

/-- One output row of a job that meets what its rows in the line buffer hold; none: it waits. One without a valid target reads none. -/
def jobFound (v : Nat) (j : Job) (found : ArrayFinding) (s : State) : Option State :=
  match (if jobStranded s v ((s.vit v).slotAt j.slot).block then .clean else foundIn j.rows found) with
  | .clean => jobRow v j s
  | .corrected => (jobRow v j (lineCorrected v j.slot s)).map (thenRetire v .corrected s)
  | .uncorrectable => some (thenRetire v .uncorrectable s (jobFault v j 2 none s))

/-- VITRINE_JOB_ROW: only while no notice has a step to run (R240). -/
def execVitrineJobRow (vitrine : Nat) (lineBuffer : ArrayFinding) (s : State) : Out :=
  within (decide (vitrine < 66)) <|
    if !vitRuns s vitrine then s
    else if !(vitWaiting s vitrine).isEmpty then recordFault vitrine s
    else if !(s.vit vitrine).notices.isEmpty then s
    else match (s.vit vitrine).jobs with
      | [] => s
      | j :: _ => (jobFound vitrine j lineBuffer s).getD s

end Sys2Proof.Machine
end

