-- ==== Sys2Proof/Machine/Hart.lean ====
section
/-! DEFINITION. Scalar instructions, fetch, traps by interrupt, wfi and the CSR writes with rows of their own (R195-R207,
R224-R226, R255, R282-R284, R295). -/

namespace Sys2Proof.Machine

/-! Integer instructions of RV64I, M, Zba, Zbb and Zbs (R195). -/

/-- The low 32 bits, sign-extended. -/
def sext32 (v : Word) : Word := (v.setWidth 32).signExtend 64
/-- The low 32 bits, zero-extended. -/
def zext32 (v : Word) : Word := (v.setWidth 32).setWidth 64

/-- Division and remainder of RISC-V: by zero, and of the most negative number by -1, as M lays down. -/
def divS (n : Nat) (a b : Int) : Int := if b = 0 then -1 else if a = -2 ^ (n - 1) ∧ b = -1 then a else a.tdiv b
def remS (n : Nat) (a b : Int) : Int := if b = 0 then a else if a = -2 ^ (n - 1) ∧ b = -1 then 0 else a.tmod b
def divU (n a b : Nat) : Nat := if b = 0 then 2 ^ n - 1 else a / b
def remU (a b : Nat) : Nat := if b = 0 then a else a % b

/-- Leading zeros of an `n`-bit number, and trailing ones of its zeros. -/
def leadZeros (n v : Nat) : Nat := if v % 2 ^ n = 0 then n else n - 1 - (v % 2 ^ n).log2
def trailZeros (n v : Nat) : Nat := ((List.range n).find? (v.testBit ·)).getD n

/-- A word made byte by byte. -/
def mapBytes (f : Nat → Nat) : Word := BitVec.ofNat 64 (((List.range 8).map fun i => f i % 256 * 2 ^ (8 * i)).sum)
/-- Byte `i` of a word. -/
def wordByte (v : Word) (i : Nat) : Nat := v.toNat / 2 ^ (8 * i) % 256

/-- The result of an integer operation. -/
def aluResult (op : AluOp) (a b : Word) : Word :=
  let sh := b.toNat % 64
  let sh5 := b.toNat % 32
  let a32 := a.setWidth 32
  let b32 := b.setWidth 32
  match op with
  | .add => a + b
  | .sub => a - b
  | .sll => a <<< sh
  | .slt => if a.slt b then 1 else 0
  | .sltu => if a.ult b then 1 else 0
  | .xor => a ^^^ b
  | .srl => a >>> sh
  | .sra => a.sshiftRight sh
  | .or => a ||| b
  | .and => a &&& b
  | .addw => sext32 (a + b)
  | .subw => sext32 (a - b)
  | .sllw => sext32 (a <<< sh5)
  | .srlw => (a32 >>> sh5).signExtend 64
  | .sraw => (a32.sshiftRight sh5).signExtend 64
  | .mul => a * b
  | .mulh => BitVec.ofInt 64 (a.toInt * b.toInt / 2 ^ 64)
  | .mulhsu => BitVec.ofInt 64 (a.toInt * b.toNat / 2 ^ 64)
  | .mulhu => BitVec.ofNat 64 (a.toNat * b.toNat / 2 ^ 64)
  | .div => BitVec.ofInt 64 (divS 64 a.toInt b.toInt)
  | .divu => BitVec.ofNat 64 (divU 64 a.toNat b.toNat)
  | .rem => BitVec.ofInt 64 (remS 64 a.toInt b.toInt)
  | .remu => BitVec.ofNat 64 (remU a.toNat b.toNat)
  | .mulw => sext32 (a * b)
  | .divw => BitVec.ofInt 64 (divS 32 a32.toInt b32.toInt)
  | .divuw => sext32 (BitVec.ofNat 64 (divU 32 a32.toNat b32.toNat))
  | .remw => BitVec.ofInt 64 (remS 32 a32.toInt b32.toInt)
  | .remuw => sext32 (BitVec.ofNat 64 (remU a32.toNat b32.toNat))
  | .adduw => zext32 a + b
  | .sh1add => (a <<< 1) + b
  | .sh2add => (a <<< 2) + b
  | .sh3add => (a <<< 3) + b
  | .sh1adduw => (zext32 a <<< 1) + b
  | .sh2adduw => (zext32 a <<< 2) + b
  | .sh3adduw => (zext32 a <<< 3) + b
  | .slliuw => zext32 a <<< sh
  | .andn => a &&& ~~~b
  | .orn => a ||| ~~~b
  | .xnor => ~~~(a ^^^ b)
  | .clz => BitVec.ofNat 64 (leadZeros 64 a.toNat)
  | .ctz => BitVec.ofNat 64 (trailZeros 64 a.toNat)
  | .cpop => BitVec.ofNat 64 (countBits 64 a.toNat)
  | .clzw => BitVec.ofNat 64 (leadZeros 32 a32.toNat)
  | .ctzw => BitVec.ofNat 64 (trailZeros 32 a32.toNat)
  | .cpopw => BitVec.ofNat 64 (countBits 32 a32.toNat)
  | .max => if a.slt b then b else a
  | .maxu => if a.ult b then b else a
  | .min => if b.slt a then b else a
  | .minu => if b.ult a then b else a
  | .sextb => (a.setWidth 8).signExtend 64
  | .sexth => (a.setWidth 16).signExtend 64
  | .zexth => (a.setWidth 16).setWidth 64
  | .rol => a.rotateLeft sh
  | .ror => a.rotateRight sh
  | .rolw => (a32.rotateLeft sh5).signExtend 64
  | .rorw => (a32.rotateRight sh5).signExtend 64
  | .orcb => mapBytes fun i => if wordByte a i = 0 then 0 else 255
  | .rev8 => mapBytes fun i => wordByte a (7 - i)
  | .bclr => a &&& ~~~(1#64 <<< sh)
  | .bext => (a >>> sh) &&& 1
  | .binv => a ^^^ (1#64 <<< sh)
  | .bset => a ||| (1#64 <<< sh)

/-- A branch is taken. -/
def branchTaken (op : BranchOp) (a b : Word) : Bool :=
  match op with
  | .eq => a == b
  | .ne => a != b
  | .lt => a.slt b
  | .ge => !a.slt b
  | .ltu => a.ult b
  | .geu => !a.ult b

/-- Register rd written, and the pc at `next`. -/
def writeX (hart rd : Nat) (v next : Word) (s : State) : State :=
  complete hart next (setHart hart ((s.hart hart).withX rd v) s)

/-! Floating point (R195, R206: flags accrue and nothing traps). -/

/-- The rounding mode in force: the instruction's, or frm; 5 and above is reserved. -/
def Hart.rounding (h : Hart) (rm : Nat) : Nat := if rm = 7 then field (h.csrOf 0x003) 5 3 else rm

/-- The encoding in a floating-point register; a 32-bit value that is not NaN-boxed reads as the canonical NaN. -/
def Hart.fpReg (h : Hart) (dbl : Bool) (n : Nat) : Nat :=
  let v := (h.getF n).toNat
  if dbl then v else if v / 2 ^ 32 = 2 ^ 32 - 1 then v % 2 ^ 32 else fpNan false

/-- Flags accrued in fcsr; the state becomes dirty where one is set. -/
def Hart.accrue (h : Hart) (flags : Nat) : Hart :=
  if flags = 0 then h
  else (h.withCsr 0x003 (h.csrOf 0x003 ||| BitVec.ofNat 64 flags)).withCsr 0x300 (setField h.mstatus 13 2 3)

/-- A floating-point register takes an encoding. -/
def Hart.putFp (h : Hart) (dbl : Bool) (rd bits : Nat) : Hart := h.withF rd (nanBox (if dbl then 8 else 4) (BitVec.ofNat 64 bits))

/-- The operation rounds. -/
def fpRounds : FpOp → Bool
  | .min | .max | .sgnj | .sgnjn | .sgnjx => false
  | _ => true
def toIntRounds : FpToInt → Bool
  | .cvtW | .cvtWu | .cvtL | .cvtLu => true
  | _ => false

/-- A floating-point instruction: illegal while the state is off or under a reserved rounding mode. -/
def fpInsn (hart len rm : Nat) (rounds : Bool) (f : Nat → Hart → Hart) (s : State) : State :=
  let h := s.hart hart
  if h.fpOff || (rounds && decide (4 < h.rounding rm)) then illegal hart s
  else retire hart len (setHart hart (f (h.rounding rm) h) s)

def doFp (hart len : Nat) (op : FpOp) (dbl : Bool) (rd rs1 rs2 rs3 rm : Nat) (s : State) : State :=
  fpInsn hart len rm (fpRounds op) (fun r h =>
    let src := if op = .cvt then h.fpReg (!dbl) rs1 else h.fpReg dbl rs1
    let (bits, flags) := fpOp op dbl r src (h.fpReg dbl rs2) (h.fpReg dbl rs3)
    (h.putFp dbl rd bits).accrue flags) s

def doFpToInt (hart len : Nat) (op : FpToInt) (dbl : Bool) (rd rs1 rs2 rm : Nat) (s : State) : State :=
  fpInsn hart len rm (toIntRounds op) (fun r h =>
    let src := if op = .mv then (h.getF rs1).toNat % 2 ^ fpBits dbl else h.fpReg dbl rs1
    let (v, flags) := fpIntOp op dbl r src (if toIntRounds op || op == .mv || op == .cls then 0 else h.fpReg dbl rs2)
    (h.withX rd (BitVec.ofInt 64 v)).accrue flags) s

/-- The integer that an IntToFp conversion reads. -/
def intSource (op : IntToFp) (v : Word) : Int :=
  match op with
  | .cvtW => (v.setWidth 32).toInt
  | .cvtWu => ((v.setWidth 32).toNat : Int)
  | .cvtL => v.toInt
  | _ => (v.toNat : Int)

def doIntToFp (hart len : Nat) (op : IntToFp) (dbl : Bool) (rd rs1 rm : Nat) (s : State) : State :=
  fpInsn hart len rm (op != .mv) (fun r h =>
    if op = .mv then h.putFp dbl rd (h.getX rs1).toNat
    else
      let (bits, flags) := fpOfInt dbl r (intSource op (h.getX rs1))
      (h.putFp dbl rd bits).accrue flags) s

/-! System instructions. -/

/-- A CSR instruction (R196, R204): csrrs and csrrc with x0 or 0 write nothing, csrrw with rd x0 reads nothing. The write comes after
what the instruction itself counts, so that a value written to a counter stands (R464). -/
def doCsr (hart len : Nat) (op : CsrOp) (rd num : Nat) (src : Src2) (s : State) : State :=
  let h := s.hart hart
  let nothing := match src with
    | .reg n => n % 32 == 0
    | .imm v => v &&& 31 == 0
  let write := op == .rw || !nothing
  if !h.csrLegal num write then illegal hart s
  else
    let operand := match src with
      | .reg n => h.getX n
      | .imm v => v &&& 31
    let (s1, old) := if op = .rw ∧ rd % 32 = 0 then (s, 0) else csrRead hart num s
    let new := match op with
      | .rw => operand
      | .rs => old ||| operand
      | .rc => old &&& ~~~operand
    onlyIf write (csrWrite hart num new) (retire hart len (setHart hart ((s1.hart hart).withX rd old) s1))

/-- ebreak enters debug mode where dcsr asks for it and the debugger may have the hart; otherwise it is a breakpoint
exception, whose tval RISC-V lets be the pc or 0. -/
def doEbreak (hart : Nat) (s : State) : State :=
  let h := s.hart hart
  let bit := match h.priv with
    | .m => 15 | .s => 13 | .u => 12
  if (h.csrOf 0x7B0).getLsbD bit && debugOpen s hart then haltHart hart 1 s
  else
    let (s1, v) := takeFree s
    takeExc hart (.trap 3 (if v.getLsbD 0 then h.pc else 0)) s1

/-- ecall: causes 8, 9 and 11 by mode. -/
def doEcall (hart : Nat) (s : State) : State := takeExc hart (.trap (8 + (s.hart hart).priv.level) 0) s

/-- mret and sret. -/
def doMret (hart : Nat) (s : State) : State :=
  let h := s.hart hart
  if h.priv ≠ .m then illegal hart s else complete hart h.mret.pc (setHart hart h.mret s)
def doSret (hart : Nat) (s : State) : State :=
  let h := s.hart hart
  if h.priv = .u ∨ (h.priv = .s ∧ h.tsr = true) then illegal hart s else complete hart h.sret.pc (setHart hart h.sret s)

/-! Fetch (R203, R220, R255, R295). -/

/-- mncfg.LBE. -/
def Hart.lbe (h : Hart) : Bool := field (h.csrOf 0x7C0) 2 1 == 1

/-- A line read by a fetch replaces the older of the line buffer's two (R253, R267). -/
def fillLineBuf (hart line : Nat) (d : LineData) (s : State) : State :=
  let h := s.hart hart
  if h.lbe && mayFill hart line s then
    setHart hart { h with lineBuf := ((line, d) :: h.lineBuf.filter (·.1 != line)).take 2 } s
  else s

/-- One part of a fetch: the line buffer, the L1 instruction cache, or a fill from the L2; a page of type NC bypasses them.
None: it waits. -/
def fetchPart (hart : Nat) (p : Part) (f : Finding) (s : State) : State × Option LineData :=
  let h := s.hart hart
  let line := p.pa / 64
  if p.pbmt ≠ 0 then
    if fenced s (hart / 12) then (s, none)
    else let (t, d) := sliceRead line f s; (t, some d)
  else match if h.lbe then h.lineBuf.lookup line else none with
    | some d => (hartEvent hart 0x101 1 s, some d)
    | none =>
      match h.l1i.lookup line with
      | some d => (fillLineBuf hart line d (fillL1i hart line d s), some d)
      | none =>
        match l2Read hart line true f (hartEvent hart 0x100 1 s) with
        | (t, none) => (t, none)
        | (t, some d) => (fillLineBuf hart line d (fillL1i hart line d t), some d)

/-- The parts of a fetch in order: poison met in one, or none; the outer none: it waits. -/
def fetchParts (hart : Nat) : List Part → Finding → State → State × Option (Option (Nat × Nat × Nat))
  | [], _, s => (s, some none)
  | p :: rest, f, s =>
    match fetchPart hart p f s with
    | (t, none) => (t, none)
    | (t, some d) =>
      match fetchParts hart rest .clean t with
      | (u, none) => (u, none)
      | (u, some e) => (u, some ((poisonIn p d).or e))

/-- The fetch of the bytes at the pc: an exception, debug mode, or the caches as it leaves them. -/
def doFetch (hart len : Nat) (f walk : Finding) (s : State) : State :=
  let pc := (s.hart hart).pc
  match plan hart { fetchAccess with walk := walk } pc len s with
  | (t, .exc e) => takeExc hart e t
  | (t, .debug) => haltHart hart 2 t
  | (t, .wait) => carryWaits t s
  | (t, .device _) => takeExc hart (.trap 1 pc) t
  | (t, .parts l) =>
    match fetchParts hart l f t with
    | (u, none) => carryWaits u s
    | (u, some none) => u
    | (u, some (some (form, a, _))) => takeExc hart (.machine 2 form a pc) u

/-- One scalar instruction of a running hart (R203-R207). -/
def runScalar (hart : Nat) (insn : RvInsn) (len : Nat) (s : State) : State :=
  let h := s.hart hart
  let next := h.pc + BitVec.ofNat 64 len
  match insn with
  | .alu op rd rs1 src2 => writeX hart rd (aluResult op (h.getX rs1) (h.src2 src2)) next s
  | .lui rd imm => writeX hart rd imm next s
  | .auipc rd imm => writeX hart rd (h.pc + imm) next s
  | .jal rd offset => writeX hart rd next (h.pc + offset) s
  | .jalr rd rs1 offset => writeX hart rd next ((h.getX rs1 + offset) &&& ~~~(1 : Word)) s
  | .branch op rs1 rs2 offset =>
    complete hart (if branchTaken op (h.getX rs1) (h.getX rs2) then h.pc + offset else next) s
  | .fp op dbl rd rs1 rs2 rs3 rm => doFp hart len op dbl rd rs1 rs2 rs3 rm s
  | .fpToInt op dbl rd rs1 rs2 rm => doFpToInt hart len op dbl rd rs1 rs2 rm s
  | .intToFp op dbl rd rs1 rm => doIntToFp hart len op dbl rd rs1 rm s
  | .csr op rd num src => doCsr hart len op rd num src s
  | .ecall => doEcall hart s
  | .ebreak => doEbreak hart s
  | .mret => doMret hart s
  | .sret => doSret hart s
  | .fetch f walk => doFetch hart len f walk s
  | .custom0 word => runCustom0 hart word s
  | .illegal bits => illegalBits hart bits s
  | .arrayError e => meetArrayError hart e s
  | .walkError f => setHart hart { s.hart hart with walkFinds := f } s

/-- Operands of a scalar instruction that exist. -/
def scalarOk (insn : RvInsn) (len : Nat) : Bool :=
  (len == 2 || len == 4) && (match insn with
    | .fetch f walk => findingOk false f && findingOk false walk
    | .arrayError e => arrayErrorOk e
    | .walkError f => findingOk false f
    | .csr _ _ num _ => decide (num < 4096)
    | .custom0 word => word.toNat % 128 == 0x0B && len == 4
    | _ => true)

/-- SCALAR_INSTRUCTION. -/
def execScalarInstruction (hart : Nat) (insn : RvInsn) (len : Nat) (s : State) : Out :=
  within (decide (hart < 264) && scalarOk insn len) (if hartRuns s hart then runScalar hart insn len s else s)

/-! Interrupts and wfi (R224-R226). -/

/-- wfi completes. -/
def leaveWfi (hart : Nat) (s : State) : State :=
  let run : HartRun := .running
  retire hart 4 (setHart hart { s.hart hart with run := run } s)

/-- A hart in wfi with an interrupt pending and enabled completes it. -/
def wakeHart (hart : Nat) (s : State) : State :=
  if (s.hart hart).run = .wfi ∧ wakes (heard s hart) (now s) = true then leaveWfi hart s else s

/-- WFI: illegal in U-mode and, with TW, in S-mode; it completes when an interrupt is pending in mip and enabled in mie. -/
def execWfi (hart : Nat) (s : State) : Out :=
  within (decide (hart < 264)) <|
    let h := s.hart hart
    let run : HartRun := .wfi
    if !s.modes.mode.active then s
    else match h.run with
      | .wfi => wakeHart hart s
      | .running =>
        if h.priv = .u ∨ (h.priv = .s ∧ h.tw = true) then illegal hart s
        else if wakes (heard s hart) (now s) then leaveWfi hart s
        else setHart hart { h with run := run } s
      | _ => s

/-- The interrupt that the hart takes now, if there is one: the trap at the interrupt point. -/
def takeInterrupt (hart : Nat) (s : State) : State :=
  match takeable (heard s hart) (now s) with
  | some (cause, dest) => hartEvent hart 0x00C 1 (setHart hart ((s.hart hart).trapped dest true cause 0) s)
  | none => s

/-- INTERRUPT_TAKE: a wfi under way completes first. -/
def execInterruptTake (hart : Nat) (s : State) : Out :=
  within (decide (hart < 264)) <|
    if !s.modes.mode.active then s
    else
      let t := wakeHart hart s
      if (t.hart hart).run = .running then takeInterrupt hart t else t

/-- TIMER_COMPARE_REACHED: MTIP, or STIP under Sstc, reads 1 from now on and wakes a hart in wfi (R202). -/
def execTimerCompareReached (hart : Nat) (supervisor : Bool) (s : State) : Out :=
  within (decide (hart < 264)) <|
    let h := s.hart hart
    let due := if supervisor then h.stce && decide ((h.csrOf 0x14D).toNat ≤ now s) else decide ((h.csrOf 0x7C3).toNat ≤ now s)
    if s.modes.mode.active && due then wakeHart hart s else s

/-! CSR writes with rows of their own. -/

/-- SATP_WRITE (R284). -/
def execSatpWrite (hart : Nat) (value : Word) (s : State) : Out :=
  within (decide (hart < 264)) (csrStore hart 0x180 value s)
/-- MNTIMECMP_WRITE (R202). -/
def execMntimecmpWrite (hart : Nat) (value : Word) (s : State) : Out :=
  within (decide (hart < 264)) (csrStore hart 0x7C3 value s)
/-- MNERR_WRITE: mnerr, or mnerraddr (R201). -/
def execMnerrWrite (hart : Nat) (addrReg : Bool) (value : Word) (s : State) : Out :=
  within (decide (hart < 264)) (csrStore hart (if addrReg then 0x7C2 else 0x7C1) value s)
/-- MNCFG_WRITE (R199). -/
def execMncfgWrite (hart : Nat) (value : Word) (s : State) : Out :=
  within (decide (hart < 264)) (csrStore hart 0x7C0 value s)

end Sys2Proof.Machine
end

