-- ==== Sys2Proof/Machine/Vector.lean ====
section
/-! DEFINITION. Vector integer and fixed-point arithmetic, mask operations, permutations and the configuration instructions of V
(R195, R209, R210). Tail and inactive elements keep their values. An encoding that V reserves, such as a destination group that
overlaps a source where V forbids it, is outside the set of R195 and illegal (R196). -/

namespace Sys2Proof.Machine

/-- A first source's element `i` of `w` bytes. -/
def Hart.vecSrc (h : Hart) (src : VecSrc) (w i : Nat) : Nat :=
  match src with
  | .vec n => (h.elem n w i).toNat
  | .scalar n => (h.getX n).toNat % 2 ^ (8 * w)
  | .fpr n => (h.getF n).toNat % 2 ^ (8 * w)
  | .imm v => v.toNat % 2 ^ (8 * w)

/-- A first source of width `w` beside a destination of width `wd` is legal. -/
def Hart.srcOk (h : Hart) (src : VecSrc) (w d wd : Nat) : Bool :=
  match src with
  | .vec n => h.groupOk n w && h.besides d wd n w
  | .fpr _ => false
  | _ => true

/-- A vector source of width `w` beside a destination of width `wd` is legal. -/
def Hart.vsOk (h : Hart) (n w d wd : Nat) : Bool := h.groupOk n w && h.besides d wd n w

/-- The groups that a first source of width `w` reads. -/
def Hart.sourceOf (h : Hart) (src : VecSrc) (w : Nat) : List (Nat × Nat × Nat) :=
  match src with
  | .vec n => [h.source n w]
  | _ => []

/-- The first source is a vector register, an immediate. -/
def fromVec : VecSrc → Bool
  | .vec _ => true
  | _ => false
def fromImm : VecSrc → Bool
  | .imm _ => true
  | _ => false

/-- The forms that V gives an operation: which lack one with a vector first source, and which have one with an immediate. -/
def vecForm (op : VAlu) (src : VecSrc) : Bool :=
  match op with
  | .rsub | .msgtu | .msgt => !fromVec src
  | .add | .and | .or | .xor | .sll | .srl | .sra | .merge | .mseq | .msne | .msleu | .msle | .saddu | .sadd | .ssrl | .ssra => true
  | _ => !fromImm src

/-! Results. -/

/-- The comparisons, whose results are mask bits. -/
def vecCompare : VAlu → Bool
  | .mseq | .msne | .msltu | .mslt | .msleu | .msle | .msgtu | .msgt => true
  | _ => false

/-- A value without its lowest `d` bits, rounded as vxrm says: to nearest up, to nearest even, down, to odd. -/
def roundoff (mode d : Nat) (v : Int) : Int :=
  let q := v / 2 ^ d
  let r := (v % 2 ^ d).toNat
  let half := 2 ^ d / 2
  if d = 0 then v
  else match mode with
    | 0 => if half ≤ r then q + 1 else q
    | 1 => if half < r ∨ (half = r ∧ q % 2 = 1) then q + 1 else q
    | 2 => q
    | _ => if r ≠ 0 ∧ q % 2 = 0 then q + 1 else q

/-- A value held in a range, and whether it saturated. -/
def satRange (lo hi v : Int) : Int × Bool := if hi < v then (hi, true) else if v < lo then (lo, true) else (v, false)

/-- A value held in the `w`-byte signed or unsigned range: its encoding, and whether it saturated. -/
def clipTo (sg : Bool) (w : Nat) (v : Int) : Nat × Bool :=
  let (x, b) := if sg then satRange (-2 ^ (8 * w - 1)) (2 ^ (8 * w - 1) - 1) v else satRange 0 (2 ^ (8 * w) - 1) v
  (unsigned w x, b)

/-- A fixed-point element: `a` from vs2, `b` from the first source, with vxrm; none where the operation is no fixed-point one. -/
def fixedResult (op : VAlu) (rm w a b : Nat) : Option (Nat × Bool) :=
  let sa := signed w a
  let sb := signed w b
  let plain := fun (v : Int) => some (unsigned w v, false)
  match op with
  | .saddu => some (clipTo false w (a + b))
  | .sadd => some (clipTo true w (sa + sb))
  | .ssubu => some (clipTo false w ((a : Int) - b))
  | .ssub => some (clipTo true w (sa - sb))
  | .aaddu => plain (roundoff rm 1 (a + b))
  | .aadd => plain (roundoff rm 1 (sa + sb))
  | .asubu => plain (roundoff rm 1 ((a : Int) - b))
  | .asub => plain (roundoff rm 1 (sa - sb))
  | .smul => some (clipTo true w (roundoff rm (8 * w - 1) (sa * sb)))
  | .ssrl => plain (roundoff rm (b % (8 * w)) a)
  | .ssra => plain (roundoff rm (b % (8 * w)) sa)
  | _ => none

/-- An element of the result: `a` from vs2, `b` from the first source, `d` the old destination, `w` the bytes of an element.
A comparison answers 1 or 0. -/
def vecResult (op : VAlu) (w a b d : Nat) : Nat :=
  let m := 2 ^ (8 * w)
  let sa := signed w a
  let sb := signed w b
  let wrap := fun (v : Int) => unsigned w v
  let sh := b % (8 * w)
  let bit := fun (c : Bool) => if c then 1 else 0
  match op with
  | .add => (a + b) % m
  | .sub => wrap (sa - sb)
  | .rsub => wrap (sb - sa)
  | .and => a &&& b
  | .or => a ||| b
  | .xor => a ^^^ b
  | .sll => a * 2 ^ sh % m
  | .srl => a / 2 ^ sh
  | .sra => wrap (sa / 2 ^ sh)
  | .minu => min a b
  | .min => if sa ≤ sb then a else b
  | .maxu => max a b
  | .max => if sa ≤ sb then b else a
  | .mul => a * b % m
  | .mulh => wrap (sa * sb / m)
  | .mulhu => a * b / m
  | .mulhsu => wrap (sa * b / m)
  | .divu => if b = 0 then m - 1 else a / b
  | .div => if b = 0 then m - 1 else wrap (sa.tdiv sb)
  | .remu => if b = 0 then a else a % b
  | .rem => if b = 0 then a else wrap (sa.tmod sb)
  | .macc => (a * b + d) % m
  | .nmsac => wrap ((d : Int) - a * b)
  | .madd => (d * b + a) % m
  | .nmsub => wrap ((a : Int) - d * b)
  | .merge => b
  | .mseq => bit (a == b)
  | .msne => bit (a != b)
  | .msltu => bit (decide (a < b))
  | .mslt => bit (decide (sa < sb))
  | .msleu => bit (decide (a ≤ b))
  | .msle => bit (decide (sa ≤ sb))
  | .msgtu => bit (decide (b < a))
  | .msgt => bit (decide (sb < sa))
  | _ => d

/-- Bit `i` of a vector register written. -/
def Hart.withMaskBit (h : Hart) (vd i : Nat) (b : Bool) : Hart :=
  h.putV vd (if b then h.getV vd ||| (1#512 <<< i) else h.getV vd &&& ~~~(1#512 <<< i))

/-- The elements of the body, from vstart to vl. -/
def Hart.body (h : Hart) : List Nat := (List.range (h.vl - h.vstart)).map (h.vstart + ·)

/-- The active elements of the body. -/
def Hart.activeBody (h : Hart) (masked : Bool) : List Nat := h.body.filter (h.active masked)

/-- The state is on and vtype is legal. -/
def Hart.vecReady (h : Hart) : Bool := !h.vecOff && !h.vill

/-- A vector instruction of the hart: illegal unless its operands are; otherwise it writes and completes. -/
def vecInsn (hart : Nat) (ok : Bool) (f : Hart → Hart) (s : State) : State :=
  if ok then vecDone hart true (setHart hart (f (s.hart hart)) s) else illegal hart s

/-- vxsat is set where an element saturated. -/
def Hart.saturated (h : Hart) (b : Bool) : Hart := if b then h.withCsr 0x009 1 else h

/-- Elements of `w` bytes of vd written one by one from the hart as it was; `f` gives a value and whether it saturated. -/
def Hart.eachElem (h0 : Hart) (l : List Nat) (vd w : Nat) (f : Nat → Nat × Bool) : Hart :=
  l.foldl (fun h i => (h.withElem vd w i (BitVec.ofNat 64 (f i).1)).saturated (f i).2) h0

/-- Bits of vd written one by one. -/
def Hart.eachBit (h0 : Hart) (l : List Nat) (vd : Nat) (f : Nat → Bool) : Hart := l.foldl (fun h i => h.withMaskBit vd i (f i)) h0

/-- A destination group of width `w` is legal: v0 is no destination of a masked instruction. -/
def Hart.destOk (h : Hart) (vd w : Nat) (masked : Bool) : Bool := h.groupOk vd w && (!masked || vd % 32 != 0)

/-- vxrm. -/
def Hart.vxrm (h : Hart) : Nat := field (h.csrOf 0x00A) 0 2

/-- An integer or fixed-point operation. A masked merge takes vs2 where the mask is clear. -/
def doArith (hart : Nat) (op : VAlu) (vd : Nat) (src : VecSrc) (vs2 : Nat) (masked : Bool) (s : State) : State :=
  let h := s.hart hart
  let w := h.sew
  let wd := if vecCompare op then 0 else w
  let merge := op == .merge && masked
  let accumulates := [VAlu.macc, .nmsac, .madd, .nmsub].contains op
  let legal := h.vecReady && vecForm op src && (op != .merge || masked || vs2 % 32 == 0) &&
    (vecCompare op || h.destOk vd w masked) && h.vsOk vs2 w vd wd && h.srcOk src w vd wd &&
    eewOk (maskSource masked ++ (if op == .merge && !masked then [] else [h.source vs2 w]) ++ h.sourceOf src w ++
      if accumulates then [h.source vd w] else [])
  let elems := if merge then h.body else h.activeBody masked
  vecInsn hart legal (fun h0 =>
    let a := fun i => (h0.elem vs2 w i).toNat
    let b := fun i => if merge && !h0.maskBit i then a i else h0.vecSrc src w i
    let d := fun i => (h0.elem vd w i).toNat
    if vecCompare op then h0.eachBit elems vd (fun i => vecResult op w (a i) (b i) (d i) == 1)
    else h0.eachElem elems vd w fun i => (fixedResult op h0.vxrm w (a i) (b i)).getD (vecResult op w (a i) (b i) (d i), false)) s

/-- vadc, vsbc, vmadc and vmsbc: v0 holds the carries or borrows. -/
def doCarry (hart : Nat) (subtract toMask carryIn : Bool) (vd : Nat) (src : VecSrc) (vs2 : Nat) (s : State) : State :=
  let h := s.hart hart
  let w := h.sew
  let wd := if toMask then 0 else w
  let legal := h.vecReady && (toMask || (carryIn && h.destOk vd w true)) && !(subtract && fromImm src) &&
    h.vsOk vs2 w vd wd && h.srcOk src w vd wd && eewOk (maskSource carryIn ++ [h.source vs2 w] ++ h.sourceOf src w)
  vecInsn hart legal (fun h0 =>
    let v := fun i =>
      let c : Int := if carryIn && h0.maskBit i then 1 else 0
      let a : Int := (h0.elem vs2 w i).toNat
      let b : Int := h0.vecSrc src w i
      if subtract then a - b - c else a + b + c
    if toMask then h0.eachBit h0.body vd fun i => decide (v i < 0) || decide ((2 ^ (8 * w) : Int) ≤ v i)
    else h0.eachElem h0.body vd w fun i => (unsigned w (v i), false)) s

/-- A number of `w` bytes as an integer. -/
def asInt (sg : Bool) (w v : Nat) : Int := if sg then signed w v else (v : Int)

/-- The exact result of a widening operation. -/
def widenResult (op : VWiden) (wa w a b : Nat) : Int :=
  match op with
  | .addu => a + b
  | .add => signed wa a + signed w b
  | .subu => (a : Int) - b
  | .sub => signed wa a - signed w b
  | .mulu => a * b
  | .mul => signed wa a * signed w b
  | .mulsu => signed wa a * b

/-- vwadd, vwsub and vwmul, and the forms whose vs2 is wide already. -/
def doWiden (hart : Nat) (op : VWiden) (wide : Bool) (vd : Nat) (src : VecSrc) (vs2 : Nat) (masked : Bool) (s : State) : State :=
  let h := s.hart hart
  let w := h.sew
  let wa := if wide then 2 * w else w
  let legal := h.vecReady && decide (w ≤ 4) && !fromImm src && h.destOk vd (2 * w) masked && h.vsOk vs2 wa vd (2 * w) &&
    h.srcOk src w vd (2 * w) && eewOk (maskSource masked ++ [h.source vs2 wa] ++ h.sourceOf src w)
  vecInsn hart legal (fun h0 => h0.eachElem (h.activeBody masked) vd (2 * w) fun i =>
    (unsigned (2 * w) (widenResult op wa w (h0.elem vs2 wa i).toNat (h0.vecSrc src w i)), false)) s

/-- vwmacc, vwmaccu, vwmaccsu and vwmaccus (R210): a product of SEW elements added into 2 × SEW; vwmaccus has no form with two vectors. -/
def doWmacc (hart : Nat) (signed1 signed2 : Bool) (vd : Nat) (src : VecSrc) (vs2 : Nat) (masked : Bool) (s : State) : State :=
  let h := s.hart hart
  let w := h.sew
  let legal := h.vecReady && decide (w ≤ 4) && !fromImm src && !(fromVec src && !signed1 && signed2) &&
    h.destOk vd (2 * w) masked && h.vsOk vs2 w vd (2 * w) && h.srcOk src w vd (2 * w) &&
    eewOk (maskSource masked ++ [h.source vs2 w, h.source vd (2 * w)] ++ h.sourceOf src w)
  vecInsn hart legal (fun h0 => h0.eachElem (h.activeBody masked) vd (2 * w) fun i =>
    (unsigned (2 * w) (asInt signed1 w (h0.vecSrc src w i) * asInt signed2 w (h0.elem vs2 w i).toNat +
      ((h0.elem vd (2 * w) i).toNat : Int)), false)) s

/-- vnsrl, vnsra, vnclipu and vnclip. -/
def doNarrow (hart : Nat) (op : VNarrow) (vd : Nat) (src : VecSrc) (vs2 : Nat) (masked : Bool) (s : State) : State :=
  let h := s.hart hart
  let w := h.sew
  let legal := h.vecReady && decide (w ≤ 4) && h.destOk vd w masked && h.vsOk vs2 (2 * w) vd w && h.srcOk src w vd w &&
    eewOk (maskSource masked ++ [h.source vs2 (2 * w)] ++ h.sourceOf src w)
  vecInsn hart legal (fun h0 => h0.eachElem (h.activeBody masked) vd w fun i =>
    let a := (h0.elem vs2 (2 * w) i).toNat
    let d := h0.vecSrc src w i % (16 * w)
    match op with
    | .srl => (a / 2 ^ d % 2 ^ (8 * w), false)
    | .sra => (unsigned w (signed (2 * w) a / 2 ^ d), false)
    | .clipu => clipTo false w (roundoff h0.vxrm d a)
    | .clip => clipTo true w (roundoff h0.vxrm d (signed (2 * w) a))) s

/-- vzext and vsext: elements of SEW ÷ factor extended to SEW. -/
def doExtend (hart : Nat) (sg : Bool) (factor vd vs2 : Nat) (masked : Bool) (s : State) : State :=
  let h := s.hart hart
  let w := h.sew
  let legal := h.vecReady && [2, 4, 8].contains factor && w % factor == 0 && h.destOk vd w masked && h.vsOk vs2 (w / factor) vd w &&
    eewOk (maskSource masked ++ [h.source vs2 (w / factor)])
  vecInsn hart legal (fun h0 => h0.eachElem (h.activeBody masked) vd w fun i =>
    (unsigned w (asInt sg (w / factor) (h0.elem vs2 (w / factor) i).toNat), false)) s

/-- The operation of a reduction. -/
def redOp : VRed → VAlu
  | .sum => .add | .and => .and | .or => .or | .xor => .xor | .minu => .minu | .min => .min | .maxu => .maxu | .max => .max

/-- A reduction: element 0 of vs1 and the active elements of vs2, into element 0 of vd. vstart other than 0 is illegal. -/
def doReduce (hart : Nat) (op : VRed) (vd vs1 vs2 : Nat) (masked : Bool) (s : State) : State :=
  let h := s.hart hart
  let w := h.sew
  let legal := h.vecReady && h.vstart == 0 && h.groupOk vs2 w && eewOk (maskSource masked ++ [h.source vs2 w, (vs1, 1, w)])
  vecInsn hart legal (fun h0 =>
    if h0.vl = 0 then h0
    else
      let v := (h0.activeBody masked).foldl (fun acc i => vecResult (redOp op) w acc (h0.elem vs2 w i).toNat 0) (h0.elem vs1 w 0).toNat
      h0.withElem vd w 0 (BitVec.ofNat 64 v)) s

/-- vwredsum and vwredsumu: the sum in 2 × SEW. -/
def doWreduce (hart : Nat) (sg : Bool) (vd vs1 vs2 : Nat) (masked : Bool) (s : State) : State :=
  let h := s.hart hart
  let w := h.sew
  let legal := h.vecReady && h.vstart == 0 && decide (w ≤ 4) && h.groupOk vs2 w &&
    eewOk (maskSource masked ++ [h.source vs2 w, (vs1, 1, 2 * w)])
  vecInsn hart legal (fun h0 =>
    if h0.vl = 0 then h0
    else
      let v := (h0.activeBody masked).foldl (fun (acc : Int) i => acc + asInt sg w (h0.elem vs2 w i).toNat) (h0.elem vs1 (2 * w) 0).toNat
      h0.withElem vd (2 * w) 0 (BitVec.ofNat 64 (unsigned (2 * w) v))) s

/-! Mask registers. -/

/-- A mask operation on the bits of the body. -/
def maskResult (op : VMask) (a b : Bool) : Bool :=
  match op with
  | .and => a && b
  | .nand => !(a && b)
  | .andn => a && !b
  | .xor => a != b
  | .or => a || b
  | .nor => !(a || b)
  | .orn => a || !b
  | .xnor => a == b

def doMask (hart : Nat) (op : VMask) (vd vs1 vs2 : Nat) (s : State) : State :=
  vecInsn hart (s.hart hart).vecReady (fun h0 => h0.eachBit h0.body vd fun i =>
    maskResult op ((h0.getV vs2).getLsbD i) ((h0.getV vs1).getLsbD i)) s

/-- vmsbf, vmsif and vmsof: the bits before, up to, or at the first active bit set of vs2. -/
def doSetFirst (hart : Nat) (op : VFirstMask) (vd vs2 : Nat) (masked : Bool) (s : State) : State :=
  let h := s.hart hart
  vecInsn hart (h.vecReady && h.vstart == 0 && vd % 32 != vs2 % 32 && (!masked || vd % 32 != 0)) (fun h0 =>
    let l := h0.activeBody masked
    let n := (l.find? fun i => (h0.getV vs2).getLsbD i).getD h0.vl
    h0.eachBit l vd fun i => match op with
      | .before => decide (i < n)
      | .including => decide (i ≤ n)
      | .only => decide (i = n)) s

/-- viota: how many active bits of vs2 are set below each element. -/
def doIota (hart vd vs2 : Nat) (masked : Bool) (s : State) : State :=
  let h := s.hart hart
  let w := h.sew
  vecInsn hart (h.vecReady && h.vstart == 0 && h.destOk vd w masked && disjoint vd (h.groupRegs w) vs2 1) (fun h0 =>
    let l := h0.activeBody masked
    h0.eachElem l vd w fun i => ((l.filter fun j => decide (j < i) && (h0.getV vs2).getLsbD j).length % 2 ^ (8 * w), false)) s

/-- vid: the number of each element. -/
def doVid (hart vd : Nat) (masked : Bool) (s : State) : State :=
  let h := s.hart hart
  let w := h.sew
  vecInsn hart (h.vecReady && h.destOk vd w masked) (fun h0 => h0.eachElem (h.activeBody masked) vd w fun i => (i % 2 ^ (8 * w), false)) s

/-! Permutations. -/

/-- VLMAX of the vtype in force. -/
def Hart.vlmax (h : Hart) : Nat := 8 * h.lmul8 / h.sew

/-- An offset or index from an x register or an immediate, whole. -/
def Hart.offset (h : Hart) : VecSrc → Nat
  | .scalar n => (h.getX n).toNat
  | .imm v => v.toNat % 32
  | _ => 0

/-- The source is an x register or an immediate. -/
def isOffset : VecSrc → Bool
  | .scalar _ => true
  | .imm _ => true
  | _ => false

/-- vslideup and vslidedown. -/
def doSlide (hart : Nat) (up : Bool) (vd : Nat) (src : VecSrc) (vs2 : Nat) (masked : Bool) (s : State) : State :=
  let h := s.hart hart
  let w := h.sew
  let n := h.groupRegs w
  let legal := h.vecReady && h.destOk vd w masked && h.groupOk vs2 w && isOffset src && (!up || disjoint vd n vs2 n) &&
    eewOk (maskSource masked ++ [h.source vs2 w])
  vecInsn hart legal (fun h0 =>
    let o := h0.offset src
    let at_ := fun i => if i < h0.vlmax then (h0.elem vs2 w i).toNat else 0
    if up then h0.eachElem ((h.activeBody masked).filter (decide <| o ≤ ·)) vd w fun i => (at_ (i - o), false)
    else h0.eachElem (h.activeBody masked) vd w fun i => (at_ (i + o), false)) s

/-- An x or f register as an element. -/
def Hart.slideIn (h : Hart) (src : VecSrc) (w : Nat) : Nat :=
  match src with
  | .fpr n => if w = 4 ∧ (h.getF n).toNat / 2 ^ 32 ≠ 2 ^ 32 - 1 then 0x7FC00000 else (h.getF n).toNat % 2 ^ (8 * w)
  | .scalar n => unsigned w (h.getX n).toInt
  | _ => 0

/-- vslide1up, vslide1down, and their forms with an f register. -/
def doSlide1 (hart : Nat) (up : Bool) (vd : Nat) (src : VecSrc) (vs2 : Nat) (masked : Bool) (s : State) : State :=
  let h := s.hart hart
  let w := h.sew
  let n := h.groupRegs w
  let kind := match src with
    | .scalar _ => true
    | .fpr _ => (w == 4 || w == 8) && field h.mstatus 13 2 != 0 && decide (field (h.csrOf 0x003) 5 3 < 5)
    | _ => false
  let legal := h.vecReady && h.destOk vd w masked && h.groupOk vs2 w && kind && (!up || disjoint vd n vs2 n) &&
    eewOk (maskSource masked ++ [h.source vs2 w])
  vecInsn hart legal (fun h0 => h0.eachElem (h.activeBody masked) vd w fun i =>
    (if up then (if i = 0 then h0.slideIn src w else (h0.elem vs2 w (i - 1)).toNat)
     else if i + 1 = h0.vl then h0.slideIn src w else (h0.elem vs2 w (i + 1)).toNat, false)) s

/-- vrgather and vrgatherei16: an index at or above VLMAX gives 0. -/
def doGather (hart : Nat) (index16 : Bool) (vd : Nat) (src : VecSrc) (vs2 : Nat) (masked : Bool) (s : State) : State :=
  let h := s.hart hart
  let w := h.sew
  let wi := if index16 then 2 else w
  let n := h.groupRegs w
  let srcLegal := match src with
    | .vec v => h.groupOk v wi && disjoint vd n v (h.groupRegs wi)
    | .fpr _ => false
    | _ => !index16
  let legal := h.vecReady && h.destOk vd w masked && h.groupOk vs2 w && disjoint vd n vs2 n && srcLegal &&
    eewOk (maskSource masked ++ [h.source vs2 w] ++ h.sourceOf src wi)
  vecInsn hart legal (fun h0 => h0.eachElem (h.activeBody masked) vd w fun i =>
    let k := match src with
      | .vec v => (h0.elem v wi i).toNat
      | o => h0.offset o
    (if k < h0.vlmax then (h0.elem vs2 w k).toNat else 0, false)) s

/-- vcompress: the elements of vs2 whose bit of vs1 is set, packed. -/
def doCompress (hart vd vs1 vs2 : Nat) (s : State) : State :=
  let h := s.hart hart
  let w := h.sew
  let n := h.groupRegs w
  let legal := h.vecReady && h.vstart == 0 && h.groupOk vd w && h.groupOk vs2 w && disjoint vd n vs2 n && disjoint vd n vs1 1 &&
    eewOk [(vs1, 1, 0), h.source vs2 w]
  vecInsn hart legal (fun h0 =>
    let l := h0.body.filter fun i => (h0.getV vs1).getLsbD i
    h0.eachElem (List.range l.length) vd w fun i => ((h0.elem vs2 w (l.getD i 0)).toNat, false)) s

/-- vmv1r to vmv8r: whole registers, from element vstart on, whatever vl; vtype must be legal. -/
def doMoveRegs (hart regs vd vs2 : Nat) (s : State) : State :=
  let h := s.hart hart
  let w := h.sew
  let legal := h.vecReady && [1, 2, 4, 8].contains regs && vd % regs == 0 && vs2 % regs == 0
  vecInsn hart legal (fun h0 =>
    h0.eachElem ((List.range (64 / w * regs - h0.vstart)).map (h0.vstart + ·)) vd w fun i => ((h0.elem vs2 w i).toNat, false)) s

/-! Configuration. -/

/-- A vtype is supported: SEW 8 to 64, an LMUL that exists, at least SEW ÷ ELEN, and no other bit but ta and ma. -/
def vtypeOk (t : Word) : Bool :=
  let lmul8 := ({} : Hart).withCsr 0xC21 t |>.lmul8
  let sew := 8 * 2 ^ field t 3 3
  t.toNat / 256 == 0 && decide (field t 3 3 ≤ 3) && lmul8 != 0 && decide (sew * 8 ≤ 64 * lmul8)

/-- VLMAX: VLEN × LMUL ÷ SEW. -/
def vlmax (t : Word) : Nat := 8 * (({} : Hart).withCsr 0xC21 t).lmul8 / 2 ^ field t 3 3

/-- vl for an AVL: all of it up to VLMAX, an open value within RISC-V's bounds below twice VLMAX, VLMAX from there on. -/
def vlFor (avl vmax : Nat) : Nat :=
  if avl ≤ vmax then avl
  else if avl < 2 * vmax then max ((avl + 1) / 2) (min vmax (Config.vlChoice avl vmax))
  else vmax

/-- The AVL of vsetvl and its forms: an immediate of five bits, x[rs1], all ones where rs1 is x0 and rd is not; none where both are x0:
vl is kept. -/
def Hart.avl (h : Hart) (rd : Nat) : Src2 → Option Nat
  | .imm v => some (v.toNat % 32)
  | .reg n => if n % 32 ≠ 0 then some (h.getX n).toNat else if rd % 32 ≠ 0 then some (2 ^ 64 - 1) else none

/-- vsetvl and its forms: an unsupported vtype sets vill and vl 0. So does a form that keeps vl where VLMAX would change or vill was set:
V reserves it and lets an implementation set vill (DESIGN CHOICE: the N24 does). -/
def doSetvl (hart rd : Nat) (avl vtype : Src2) (s : State) : State :=
  let h := s.hart hart
  vecInsn hart (!h.vecOff) (fun h0 =>
    let t := match vtype with
      | .imm v => v &&& 0x7FF
      | .reg n => h0.getX n
    let keeps := !h0.vill && vlmax t == h0.vlmax
    let legal := vtypeOk t && ((h0.avl rd avl).isSome || keeps)
    let vl := if !legal then 0 else match h0.avl rd avl with
      | some n => vlFor n (vlmax t)
      | none => h0.vl
    let t := if legal then t else 0x8000000000000000
    ((h0.withCsr 0xC20 (BitVec.ofNat 64 vl)).withCsr 0xC21 t).withX rd (BitVec.ofNat 64 vl)) s

end Sys2Proof.Machine
end

