-- ==== Sys2Proof/Machine/VecFp.lean ====
section
/-! DEFINITION. Vector floating point at SEW 32 and 64 (R195, R196), and the vector arithmetic instruction as a whole (R209). -/

namespace Sys2Proof.Machine

/-- A width in bytes that has a floating-point format: 4 or 8. -/
def fpWidth (w : Nat) : Bool := w == 4 || w == 8

/-- The state is on, vtype legal, floating point on and frm no reserved mode. -/
def Hart.vecFpReady (h : Hart) : Bool := h.vecReady && !h.fpOff && decide (field (h.csrOf 0x003) 5 3 < 5)

/-- frm. -/
def Hart.frm (h : Hart) : Nat := field (h.csrOf 0x003) 5 3

/-- Elements of `w` bytes written one by one, each with the flags that it accrues. -/
def Hart.eachFp (h0 : Hart) (l : List Nat) (vd w : Nat) (f : Nat → Nat × Nat) : Hart :=
  l.foldl (fun h i => (h.withElem vd w i (BitVec.ofNat 64 (f i).1)).accrue (f i).2) h0

/-- A first source's element in a format: an f register that is not NaN-boxed reads as the canonical NaN. -/
def Hart.fpSrc (h : Hart) (src : VecSrc) (w i : Nat) : Nat :=
  match src with
  | .fpr n => h.fpReg (w == 8) n
  | .vec n => (h.elem n w i).toNat
  | _ => 0

/-- A first source of a floating-point instruction is legal. -/
def Hart.fpSrcOk (h : Hart) (src : VecSrc) (w d wd : Nat) : Bool :=
  match src with
  | .vec n => h.groupOk n w && h.besides d wd n w
  | .fpr _ => true
  | _ => false

/-- A datum of `w` bytes. -/
def fpElem (w x : Nat) : FpVal := fpDecode (w == 8) x

/-- A two- or three-operand result in format `dbl`: `a` of vs2, `b` of the first source, `d` of vd; sign operations take the
encodings. -/
def vfpResult (op : VFp) (dbl : Bool) (rm : Nat) (a b d : FpVal) (xa xb : Nat) : Nat × Nat :=
  match op with
  | .add => fpAdd dbl rm a b
  | .sub => fpAdd dbl rm a b.neg
  | .rsub => fpAdd dbl rm b a.neg
  | .mul => fpMul dbl rm a b
  | .div => fpDiv dbl rm a b
  | .rdiv => fpDiv dbl rm b a
  | .min => fpMinMax dbl false xa xb
  | .max => fpMinMax dbl true xa xb
  | .sgnj => (fpWithSign dbl xa (fpNeg dbl xb), 0)
  | .sgnjn => (fpWithSign dbl xa (!fpNeg dbl xb), 0)
  | .sgnjx => (fpWithSign dbl xa (fpNeg dbl xa != fpNeg dbl xb), 0)
  | .macc => fpFma dbl rm b a d
  | .nmacc => fpFma dbl rm b.neg a d.neg
  | .msac => fpFma dbl rm b a d.neg
  | .nmsac => fpFma dbl rm b.neg a d
  | .madd => fpFma dbl rm b d a
  | .nmadd => fpFma dbl rm b.neg d a.neg
  | .msub => fpFma dbl rm b d a.neg
  | .nmsub => fpFma dbl rm b.neg d a

/-- The operations that have a widening form, and those whose vs2 may be wide already. -/
def vfpWidens : VFp → Bool
  | .add | .sub | .mul | .macc | .nmacc | .msac | .nmsac => true
  | _ => false
def vfpWide2 : VFp → Bool
  | .add | .sub => true
  | _ => false

/-- Operations that read vd. -/
def vfpAccumulates : VFp → Bool
  | .macc | .nmacc | .msac | .nmsac | .madd | .nmadd | .msub | .nmsub => true
  | _ => false

/-- Operations that have no form with a vector first source. -/
def vfpScalarOnly : VFp → Bool
  | .rsub | .rdiv => true
  | _ => false

/-- A floating-point operation. `wideD`: the result is of 2 × SEW; `wide2`: vs2 is too. -/
def doVfp (hart : Nat) (op : VFp) (wideD wide2 : Bool) (vd : Nat) (src : VecSrc) (vs2 : Nat) (masked : Bool) (s : State) : State :=
  let h := s.hart hart
  let w := h.sew
  let wd := if wideD then 2 * w else w
  let wa := if wide2 then 2 * w else w
  let form := (!wideD || vfpWidens op) && (!wide2 || (wideD && vfpWide2 op)) && (!vfpScalarOnly op || match src with
    | .vec _ => false
    | _ => true)
  let legal := h.vecFpReady && form && fpWidth w && fpWidth wd && h.destOk vd wd masked && h.vsOk vs2 wa vd wd &&
    h.fpSrcOk src w vd wd &&
    eewOk (maskSource masked ++ [h.source vs2 wa] ++ h.sourceOf src w ++ if vfpAccumulates op then [h.source vd wd] else [])
  vecInsn hart legal (fun h0 => h0.eachFp (h.activeBody masked) vd wd fun i =>
    let xa := (h0.elem vs2 wa i).toNat
    let xb := h0.fpSrc src w i
    vfpResult op (wd == 8) h0.frm (fpElem wa xa) (fpElem w xb) (fpElem wd (h0.elem vd wd i).toNat) xa xb) s

/-! vfrec7 and vfrsqrt7: seven bits of the reciprocal and of the reciprocal square root. -/

/-- A finite non-zero datum with its leading bit at place p - 1: its significand and its biased exponent, below 1 for a subnormal. -/
def fpNormal (dbl : Bool) (m : Nat) (e : Int) : Nat × Int :=
  let up := fpPrec dbl - 1 - m.log2
  (m * 2 ^ up, e - up + fpBias dbl + (fpPrec dbl - 1))

/-- The table of vfrec7: 2^15 over the middle of the interval, rounded, without its leading bit. -/
def rec7Table (i : Nat) : Nat := (2 ^ 17 + 2 * i + 257) / (2 * (2 * i + 257)) - 128

/-- The table of vfrsqrt7: by the lowest bit of the exponent and six bits of the significand. -/
def rsqrt7Table (odd : Bool) (i : Nat) : Nat :=
  (Nat.sqrt (4 * 65536 * (if odd then 128 else 64) / (129 + 2 * i)) + 1) / 2 - 128

/-- A result of seven significant bits with a biased exponent: subnormal where that is 0 or -1. -/
def fpSeven (dbl neg : Bool) (ex : Int) (seven : Nat) : Nat :=
  let p := fpPrec dbl - 1
  let sig := seven * 2 ^ (p - 7)
  fpZero dbl neg + (if 0 < ex then ex.toNat * 2 ^ p + sig else (2 ^ p + sig) / 2 ^ (1 - ex).toNat)

/-- vfrsqrt7. -/
def fpRsqrt7 (dbl : Bool) (a : FpVal) : Nat × Nat :=
  match a with
  | .nan _ => fpQuiet dbl [a]
  | .inf neg => if neg then fpInvalid dbl else (fpZero dbl false, 0)
  | .fin neg m e =>
    if m = 0 then (fpInf dbl neg, 8)
    else if neg then fpInvalid dbl
    else
      let (sig, ex) := fpNormal dbl m e
      let p := fpPrec dbl - 1
      (fpSeven dbl false ((3 * (fpBias dbl : Int) - 1 - ex) / 2) (rsqrt7Table (ex % 2 == 1) (sig % 2 ^ p / 2 ^ (p - 6))), 0)

/-- vfrec7: too small a subnormal overflows as the rounding mode says. -/
def fpRec7 (dbl : Bool) (rm : Nat) (a : FpVal) : Nat × Nat :=
  match a with
  | .nan _ => fpQuiet dbl [a]
  | .inf neg => (fpZero dbl neg, 0)
  | .fin neg m e =>
    if m = 0 then (fpInf dbl neg, 8)
    else
      let (sig, ex) := fpNormal dbl m e
      let p := fpPrec dbl - 1
      if ex < -1 then
        let big := rm == 1 || (rm == 2 && !neg) || (rm == 3 && neg)
        (if big then fpInf dbl neg - 1 else fpInf dbl neg, 5)
      else (fpSeven dbl neg (2 * (fpBias dbl : Int) - 1 - ex) (rec7Table (sig % 2 ^ p / 2 ^ (p - 7))), 0)

/-- A one-operand operation. -/
def doVfp1 (hart : Nat) (op : VFp1) (vd vs2 : Nat) (masked : Bool) (s : State) : State :=
  let h := s.hart hart
  let w := h.sew
  let legal := h.vecFpReady && fpWidth w && h.destOk vd w masked && h.vsOk vs2 w vd w &&
    eewOk (maskSource masked ++ [h.source vs2 w])
  vecInsn hart legal (fun h0 => h0.eachFp (h.activeBody masked) vd w fun i =>
    let x := (h0.elem vs2 w i).toNat
    match op with
    | .sqrt => fpSqrt (w == 8) h0.frm (fpElem w x)
    | .rec7 => fpRec7 (w == 8) h0.frm (fpElem w x)
    | .rsqrt7 => fpRsqrt7 (w == 8) (fpElem w x)
    | .cls => (fpClass (w == 8) x, 0)) s

/-- A comparison and its flags: eq and ne are quiet. -/
def vfpCompare (op : VFpCmp) (dbl : Bool) (xa xb : Nat) : Bool × Nat :=
  let r := fun (o : FpToInt) x y => ((fpIntOp o dbl 0 x y).1 == 1, (fpIntOp o dbl 0 x y).2)
  match op with
  | .eq => r .eq xa xb
  | .ne => (!(r .eq xa xb).1, (r .eq xa xb).2)
  | .lt => r .lt xa xb
  | .le => r .le xa xb
  | .gt => r .lt xb xa
  | .ge => r .le xb xa

/-- A comparison into mask bits. -/
def doVfpCompare (hart : Nat) (op : VFpCmp) (vd : Nat) (src : VecSrc) (vs2 : Nat) (masked : Bool) (s : State) : State :=
  let h := s.hart hart
  let w := h.sew
  let form := match op, src with
    | .gt, .vec _ => false
    | .ge, .vec _ => false
    | _, _ => true
  let legal := h.vecFpReady && form && fpWidth w && h.vsOk vs2 w vd 0 && h.fpSrcOk src w vd 0 &&
    eewOk (maskSource masked ++ [h.source vs2 w] ++ h.sourceOf src w)
  vecInsn hart legal (fun h0 => (h.activeBody masked).foldl (fun g i =>
    let (b, flags) := vfpCompare op (w == 8) (h0.elem vs2 w i).toNat (h0.fpSrc src w i)
    (g.withMaskBit vd i b).accrue flags) h0) s

/-- vfmerge and vfmv.v.f. -/
def doVfpMerge (hart vd fs1 vs2 : Nat) (masked : Bool) (s : State) : State :=
  let h := s.hart hart
  let w := h.sew
  let legal := h.vecFpReady && fpWidth w && h.destOk vd w masked && h.groupOk vs2 w &&
    (if masked then eewOk (maskSource true ++ [h.source vs2 w]) else vs2 % 32 == 0)
  vecInsn hart legal (fun h0 => h0.eachFp h.body vd w fun i =>
    (if masked && !h0.maskBit i then (h0.elem vs2 w i).toNat else h0.fpReg (w == 8) fs1, 0)) s

/-- A datum in a format under rounding to odd. -/
def fpToOdd (dbl : Bool) (a : FpVal) : Nat × Nat :=
  let (x, flags) := fpConvert dbl 1 a
  (if flags % 2 = 1 ∧ x % 2 = 0 then x + 1 else x, flags)

/-- The result of a conversion from an element of `w` bytes to one of `wd`. -/
def cvtResult (op : VCvt) (w wd rm x : Nat) : Nat × Nat :=
  match op with
  | .toInt sg rtz =>
    let (v, flags) := fpToInteger wd sg (if rtz then 1 else rm) (fpElem w x)
    (unsigned wd v, flags)
  | .fromInt sg => fpOfInt (wd == 8) rm (asInt sg w x)
  | .format odd => if odd then fpToOdd (wd == 8) (fpElem w x) else fpConvert (wd == 8) rm (fpElem w x)

/-- A conversion. -/
def doVfpConvert (hart : Nat) (op : VCvt) (width : VWidth) (vd vs2 : Nat) (masked : Bool) (s : State) : State :=
  let h := s.hart hart
  let w := if width = .narrow then 2 * h.sew else h.sew
  let wd := if width = .widen then 2 * h.sew else h.sew
  let formats := match op with
    | .toInt _ _ => fpWidth w && decide (wd ≤ 8)
    | .fromInt _ => fpWidth wd && decide (w ≤ 8)
    | .format odd => fpWidth w && fpWidth wd && w != wd && (!odd || width == .narrow)
  let legal := h.vecFpReady && formats && h.destOk vd wd masked && h.vsOk vs2 w vd wd &&
    eewOk (maskSource masked ++ [h.source vs2 w])
  vecInsn hart legal (fun h0 => h0.eachFp (h.activeBody masked) vd wd fun i => cvtResult op w wd h0.frm (h0.elem vs2 w i).toNat) s

/-- A sum of data in an open order of pairs, as vfredusum permits: step `k` takes two members of the list. -/
def openSum (dbl : Bool) (rm : Nat) : Nat → List Nat → Nat × Nat
  | 0, l => (l.headD 0, 0)
  | k + 1, l =>
    if l.length < 2 then (l.headD 0, 0)
    else
      let i := Config.sumPick (2 * k) % l.length
      let rest := l.eraseIdx i
      let j := Config.sumPick (2 * k + 1) % rest.length
      let (x, f1) := fpAdd dbl rm (fpDecode dbl (l.getD i 0)) (fpDecode dbl (rest.getD j 0))
      let (y, f2) := openSum dbl rm k (x :: rest.eraseIdx j)
      (y, f1 ||| f2)

/-- A reduction of elements held in format `dbl`, first that of vs1. -/
def fpReduce (op : VFpRed) (dbl : Bool) (rm : Nat) (first : Nat) (l : List Nat) : Nat × Nat :=
  let fold := fun (f : Nat → Nat → Nat × Nat) => l.foldl (fun (acc : Nat × Nat) x =>
    let (y, flags) := f acc.1 x
    (y, acc.2 ||| flags)) (first, 0)
  match op with
  | .osum => fold fun a x => fpAdd dbl rm (fpDecode dbl a) (fpDecode dbl x)
  | .usum => openSum dbl rm l.length (first :: l)
  | .min => fold (fpMinMax dbl false)
  | .max => fold (fpMinMax dbl true)

/-- vfredosum, vfredusum, vfredmin, vfredmax, vfwredosum and vfwredusum. -/
def doVfpReduce (hart : Nat) (op : VFpRed) (widen : Bool) (vd vs1 vs2 : Nat) (masked : Bool) (s : State) : State :=
  let h := s.hart hart
  let w := h.sew
  let wd := if widen then 2 * w else w
  let form := !widen || op == .osum || op == .usum
  let legal := h.vecFpReady && form && h.vstart == 0 && fpWidth w && fpWidth wd && h.groupOk vs2 w &&
    eewOk (maskSource masked ++ [h.source vs2 w, (vs1, 1, wd)])
  vecInsn hart legal (fun h0 =>
    if h0.vl = 0 then h0
    else
      let x := fun i => if widen then (fpConvert true h0.frm (fpElem w (h0.elem vs2 w i).toNat)) else ((h0.elem vs2 w i).toNat, 0)
      let l := h0.activeBody masked
      let (y, flags) := fpReduce op (wd == 8) h0.frm (h0.elem vs1 wd 0).toNat (l.map fun i => (x i).1)
      (h0.withElem vd wd 0 (BitVec.ofNat 64 y)).accrue (l.foldl (fun acc i => acc ||| (x i).2) flags)) s

/-! The whole instruction. -/

/-- One vector arithmetic instruction of a running hart. -/
def runVector (hart : Nat) (op : VecOp) (s : State) : State :=
  let h := s.hart hart
  match op with
  | .arith o vd src vs2 masked => doArith hart o vd src vs2 masked s
  | .carry sub toMask cin vd src vs2 => doCarry hart sub toMask cin vd src vs2 s
  | .widen o wide vd src vs2 masked => doWiden hart o wide vd src vs2 masked s
  | .wmacc s1 s2 vd src vs2 masked => doWmacc hart s1 s2 vd src vs2 masked s
  | .narrow o vd src vs2 masked => doNarrow hart o vd src vs2 masked s
  | .extend sg factor vd vs2 masked => doExtend hart sg factor vd vs2 masked s
  | .reduce o vd vs1 vs2 masked => doReduce hart o vd vs1 vs2 masked s
  | .wreduce sg vd vs1 vs2 masked => doWreduce hart sg vd vs1 vs2 masked s
  | .mask o vd vs1 vs2 => doMask hart o vd vs1 vs2 s
  | .setFirst o vd vs2 masked => doSetFirst hart o vd vs2 masked s
  | .iota vd vs2 masked => doIota hart vd vs2 masked s
  | .vid vd masked => doVid hart vd masked s
  | .slide up vd src vs2 masked => doSlide hart up vd src vs2 masked s
  | .slide1 up vd src vs2 masked => doSlide1 hart up vd src vs2 masked s
  | .gather i16 vd src vs2 masked => doGather hart i16 vd src vs2 masked s
  | .compress vd vs1 vs2 => doCompress hart vd vs1 vs2 s
  | .moveRegs regs vd vs2 => doMoveRegs hart regs vd vs2 s
  | .fp o wideD wide2 vd src vs2 masked => doVfp hart o wideD wide2 vd src vs2 masked s
  | .fp1 o vd vs2 masked => doVfp1 hart o vd vs2 masked s
  | .fpCompare o vd src vs2 masked => doVfpCompare hart o vd src vs2 masked s
  | .fpMerge vd fs1 vs2 masked => doVfpMerge hart vd fs1 vs2 masked s
  | .fpConvert o width vd vs2 masked => doVfpConvert hart o width vd vs2 masked s
  | .fpReduce o widen vd vs1 vs2 masked => doVfpReduce hart o widen vd vs1 vs2 masked s
  | .setvl rd avl vtype => doSetvl hart rd avl vtype s
  | .mvXS rd vs2 => vecInsn hart h.vecReady (fun h0 => h0.withX rd (extend h0.sew true (h0.elem vs2 h0.sew 0))) s
  | .mvSX vd rs1 =>
    vecInsn hart h.vecReady (fun h0 => if h0.vstart < h0.vl then h0.withElem vd h0.sew 0 (h0.getX rs1) else h0) s
  | .mvFS rd vs2 => vecInsn hart (h.vecFpReady && fpWidth h.sew) (fun h0 => h0.putFp (h0.sew == 8) rd (h0.elem vs2 h0.sew 0).toNat) s
  | .mvSF vd rs1 =>
    vecInsn hart (h.vecFpReady && fpWidth h.sew) (fun h0 =>
      if h0.vstart < h0.vl then h0.withElem vd h0.sew 0 (BitVec.ofNat 64 (h0.fpReg (h0.sew == 8) rs1)) else h0) s
  | .cpop rd vs2 masked =>
    vecInsn hart (h.vecReady && h.vstart == 0) (fun h0 =>
      h0.withX rd (BitVec.ofNat 64 ((h0.activeBody masked).filter fun i => (h0.getV vs2).getLsbD i).length)) s
  | .first rd vs2 masked =>
    vecInsn hart (h.vecReady && h.vstart == 0) (fun h0 =>
      h0.withX rd (match (h0.activeBody masked).find? fun i => (h0.getV vs2).getLsbD i with
        | some i => BitVec.ofNat 64 i
        | none => BitVec.allOnes 64)) s

/-- VECTOR_ARITHMETIC. -/
def execVectorArithmetic (hart : Nat) (op : VecOp) (s : State) : Out :=
  within (decide (hart < 264)) (if hartRuns s hart then runVector hart op s else s)

end Sys2Proof.Machine
end

