-- ==== Sys2Proof/Machine/Debug.lean ====
section
/-! DEFINITION. The debug module and the test access port (R468-R471). -/

namespace Sys2Proof.Machine

/-- The debugger may act on the hart (R469, R470): it exists, debug is enabled, its partition's bit is set, and it is out of reset. -/
def debuggable (s : State) (hart : Nat) : Bool :=
  decide (hart < 264) && s.modes.mode.active && debugOpen s hart && (s.hart hart).run != .inReset

/-- A number that hartsel can hold, which has 20 bits (RISC-V debug). Numbers above 263 are nonexistent (R469), and a request to one
has no effect. -/
def hartselOk (hart : Nat) : Bool := decide (hart < 2 ^ 20)

/-- The hart of hartsel and those of the hart array mask. -/
def hartsOk (hart : Nat) (others : List Nat) : Bool := hartselOk hart && others.all hartselOk

/-- The debug module takes writes: 7500h.01h reads 01h (R470). -/
def authenticated (s : State) : Bool := s.modes.mode.on && getO s nS 0x7500 1 == 1

/-- A halt request to one hart: a wfi completes first. -/
def haltRequest (hart : Nat) (s : State) : State :=
  if !debuggable s hart then s
  else match (s.hart hart).run with
    | .wfi => haltHart hart 3 (leaveWfi hart s)
    | .running => haltHart hart 3 s
    | _ => s

/-- The debugger sees havereset of the hart: a reset that it has not acknowledged (R471). -/
def haveReset (s : State) (hart : Nat) : Bool := debugOpen s hart && !(s.hart hart).resetAcked

/-- ackhavereset, written with a request to the hart (RISC-V debug). -/
def ackReset (ack : Bool) (hart : Nat) (s : State) : State :=
  if ack && decide (hart < 264) && s.modes.mode.active && debugOpen s hart then setHart hart { s.hart hart with resetAcked := true } s else s

/-- DEBUG_HALT, of the hart of hartsel and of those that the hart array mask adds. `ack`: the request acknowledges their resets. -/
def execDebugHalt (hart : Nat) (others : List Nat) (ack : Bool) (s : State) : Out :=
  within (hartsOk hart others) (forAll (hart :: others) (fun h s => haltRequest h (ackReset ack h s)) s)

/-- dcsr.step. -/
def Hart.stepping (h : Hart) : Bool := (h.csrOf 0x7B0).getLsbD 2

/-- A resume request to one hart. With dcsr.step set the resumption is DEBUG_STEP, which carries the instruction. -/
def resumeRequest (hart : Nat) (s : State) : State :=
  if debuggable s hart && !(s.hart hart).stepping then resumeHart hart s else s

/-- DEBUG_RESUME. -/
def execDebugResume (hart : Nat) (others : List Nat) (ack : Bool) (s : State) : Out :=
  within (hartsOk hart others) (forAll (hart :: others) (fun h s => resumeRequest h (ackReset ack h s)) s)

/-! The program buffer (R469). -/

/-- Bytes of an instruction in the program buffer. -/
def progLen : ProgInsn → Nat
  | .scalar _ n => n
  | .load _ _ _ _ _ _ n => n
  | .store _ _ _ _ _ n => n
  | _ => 4

/-- An instruction that the program buffer can hold. -/
def progOk : ProgInsn → Bool
  | .scalar insn n => scalarOk insn n && (match insn with
    | .fetch _ _ => false
    | .arrayError _ => false
    | .walkError _ => false
    | _ => true)
  | .load _ _ _ size _ fp n => (size == 4 || size == 8 || ((size == 1 || size == 2) && !fp)) && (n == 2 || n == 4)
  | .store _ _ _ size fp n => (size == 4 || size == 8 || ((size == 1 || size == 2) && !fp)) && (n == 2 || n == 4)
  | _ => true

/-- A program fits the 8 words. -/
def programOk (l : List ProgInsn) : Bool := l.all progOk && decide ((l.map progLen).sum ≤ 32)

/-- DEBUG_STEP: one instruction of a halted hart, then debug mode with cause 4 unless the instruction entered it. With stepie a
pending interrupt is taken in its place. -/
def execDebugStep (hart : Nat) (insn : RvInsn) (len : Nat) (s : State) : Out :=
  within (hartselOk hart && progOk (.scalar insn len)) <|
    if !(debuggable s hart && (s.hart hart).run == .debug) then s
    else
      let t := resumeHart hart s
      let stepie := (((s.hart hart).csrOf 0x7B0).getLsbD 11)
      let u := if stepie && (takeable (heard t hart) (now t)).isSome then takeInterrupt hart t else runScalar hart insn len t
      if (u.hart hart).run = .running then haltHart hart 4 u else u

/-- The hart reset of R77: its architectural state, and its interrupt files (R356); its caches' contents stay. It starts again where a
start of its partition releases it (R424). -/
def hartReset (hart : Nat) (s : State) : State :=
  let h := s.hart hart
  let p := (partOfHart s hart).getD 0
  let pc := imageAddr s p + (match slotOf s p with
    | some t => entryOffset s t
    | none => 0)
  let s1 := releaseHart p pc (imageAddr s p) hart s
  setHart hart { s1.hart hart with l1d := h.l1d, l1i := h.l1i, lineBuf := h.lineBuf } s1

/-- A hartreset request to one hart. -/
def resetRequest (hart : Nat) (s : State) : State := if debuggable s hart then hartReset hart s else s

/-- DEBUG_HARTRESET. -/
def execDebugHartreset (hart : Nat) (others : List Nat) (s : State) : Out :=
  within (hartsOk hart others) (forAll others resetRequest (resetRequest hart s))

/-- The command's result in cmderr. -/
def setCmderr (e : Nat) (s : State) : State := { s with dbg := { s.dbg with cmderr := e } }

/-- A value read goes to data 0. -/
def setData0 (v : Word) (s : State) : State := { s with dbg := { s.dbg with data0 := v, cmderr := 0 } }

/-- A register as the abstract command reads it; none: the CSR does not exist or may not be read. -/
def debugRead (hart : Nat) (r : DbgReg) (s : State) : State × Option Word :=
  let h := s.hart hart
  match r with
  | .gpr n => (s, some (h.getX n))
  | .fpr n => (s, some (h.getF n))
  | .csr n => if h.csrLegal n false then let (t, v) := csrRead hart n s; (t, some v) else (s, none)

/-- A register written; a read-only CSR raises the error. -/
def debugWrite (hart : Nat) (r : DbgReg) (v : Word) (s : State) : State :=
  let h := s.hart hart
  match r with
  | .gpr n => setCmderr 0 (setHart hart (h.withX n v) s)
  | .fpr n => setCmderr 0 (setHart hart (h.withF n v) s)
  | .csr n => if h.csrLegal n true then setCmderr 0 (csrWrite hart n v s) else setCmderr 3 s

/-! The program buffer at work. -/

/-- The pc while the program buffer runs: odd, so no handler's address. -/
abbrev progPc : Word := 1

/-- The hart as its memory and vector instructions run from the program buffer: no trigger matches, nothing counts (dcsr.stopcount
reads 1). -/
def Hart.lent (h : Hart) : Hart :=
  let run : HartRun := .running
  { (h.withCsr 0x320 (BitVec.allOnes 64)) with run := run, trig := [] }

/-- The hart back in debug mode. -/
def Hart.returned (h before : Hart) : Hart :=
  let run : HartRun := .debug
  { (h.withCsr 0x320 (before.csrOf 0x320)) with run := run, trig := before.trig }

/-- An instruction of another family run from the program buffer. -/
def runLent (hart : Nat) (f : State → Out) (s : State) : State :=
  let h := s.hart hart
  match f (setHart hart h.lent s) with
  | .next t => setHart hart ((t.hart hart).returned h) t
  | _ => s

/-- One instruction of the program buffer, at `progPc`. -/
def runProgInsn (hart : Nat) (i : ProgInsn) (s : State) : State :=
  match i with
  | .scalar insn len => runScalar hart insn len s
  | .load rd rs1 offset size isSigned fp len => runLent hart (execLoad hart rd rs1 offset size isSigned fp len .clean .clean []) s
  | .store rs1 rs2 offset size fp len => runLent hart (execStore hart rs1 rs2 offset size fp len .clean) s
  | .vector op => runLent hart (execVectorArithmetic hart op) s
  | .vectorLoad vd eew rs1 fields addrs masked faultFirst =>
    runLent hart (execVectorLoad hart vd eew rs1 fields addrs masked faultFirst []) s
  | .vectorStore vs eew rs1 fields addrs masked => runLent hart (execVectorStore hart vs eew rs1 fields addrs masked) s

/-- An ebreak ends the program. -/
def endsProgram : ProgInsn → Bool
  | .scalar insn _ => insn == .ebreak
  | _ => false

/-- The program buffer run to an ebreak or its end (impebreak); cmderr 3 where an instruction ends in an exception, with the hart as
it was before that instruction; none: an instruction waits. A jump may act as an illegal instruction, and does. -/
def runProgram (hart : Nat) : List ProgInsn → State → Option (State × Nat)
  | [], s => some (s, 0)
  | i :: rest, s =>
    let h := s.hart hart
    let t := runProgInsn hart i (setHart hart { h with pc := progPc } s)
    if endsProgram i then some (s, 0)
    else if (t.hart hart).pc = progPc + BitVec.ofNat 64 (progLen i) then
      runProgram hart rest (setHart hart { t.hart hart with pc := h.pc } t)
    else if (t.hart hart).pc = progPc then none
    else some (setHart hart h t, 3)

/-- The transfer of the abstract command. -/
def transfer (hart : Nat) (reg : DbgReg) (write : Option Word) (size : Nat) (s : State) : State :=
  match debugRead hart reg s with
  | (_, none) => setCmderr 3 s
  | (t, some old) =>
    match write with
    | none => setData0 (if size = 4 then old &&& 0xFFFFFFFF else old) t
    | some v => debugWrite hart reg (if size = 4 then (old &&& 0xFFFFFFFF00000000) ||| (v &&& 0xFFFFFFFF) else v) s

/-- The program buffer after a transfer that met no error (postexec). -/
def postExec (hart : Nat) (program : List ProgInsn) (before s : State) : State :=
  if s.dbg.cmderr ≠ 0 ∨ program = [] then s
  else match runProgram hart program s with
    | none => before
    | some (t, e) => setCmderr e t

/-- ACCESS_REGISTER: widths 4 and 8 bytes; cmderr 2 for another width, 4 for a hart that is not halted or reads as unavailable or
nonexistent, 3 for a CSR that does not exist. A write of 4 bytes keeps the upper half. `program`: what the program buffer holds where postexec is set, empty
where it is not. -/
def execAccessRegister (hart : Nat) (reg : DbgReg) (write : Option Word) (size : Nat) (program : List ProgInsn) (s : State) : Out :=
  within (hartselOk hart && programOk program) <|
    if !authenticated s then s
    else if size ≠ 4 ∧ size ≠ 8 then setCmderr 2 s
    else if !debuggable s hart || (s.hart hart).run != .debug then setCmderr 4 s
    else postExec hart program s (transfer hart reg write size s)

/-- The partitions whose memory is open to the debugger. -/
def openPartition (s : State) (a n : Nat) : Bool :=
  (List.range 16).any fun p => (getO s nS 0x7500 2).testBit p && defined s p && ownsMem s p a n

/-- sberror of a system bus access (R470): 4 for a width that is not supported, 3 for an unaligned address, 2 where checks 3 and 5
of R286 fail or the address is not open, and where the fabric and the memories are stopped (R64). -/
def sbError (s : State) (addr size : Nat) : Nat :=
  if !([1, 2, 4, 8].contains size) then 4
  else if addr % size ≠ 0 then 3
  else if !(s.modes.mode.active && decide (addr < 2 ^ 52) && mappedRange s addr size && openPartition s addr size) then 2
  else 0

/-- SYSTEM_BUS_ACCESS: an access of an I/O agent (R27). -/
def execSystemBusAccess (addr size : Nat) (write : Option Word) (s : State) : Out :=
  .next <|
    if !authenticated s then s
    else
      let e := sbError s addr size
      let s1 := { s with dbg := { s.dbg with sberror := e } }
      if e ≠ 0 then s1
      else match write with
        | some v => ioWrite .io .package addr (leBytes size v.toNat) s1
        | none =>
          let (t, bytes, _) := ioRead addr size s1
          { t with dbg := { t.dbg with sbdata := BitVec.ofNat 64 (fromLe bytes) } }

/-- DEBUG_ENABLE_WRITE: 7500h.01h or .02h. -/
def execDebugEnableWrite (who : Requester) (sub value : Nat) (s : State) : Out :=
  within (sub == 1 || sub == 2) (writeObject who nS 0x7500 sub value s)

/-- The data register that an instruction value selects (R468): its width, and what it captures where that is fixed. -/
def jtagRegister (ir : Nat) : Nat × Option Nat :=
  match ir with
  | 0x01 => (32, some 0x1024BB4F)
  | 0x10 => (32, some 0x2071)
  | 0x11 => (41, none)
  | _ => (1, some 0)

/-- JTAG_IR_SELECT. -/
def execJtagIrSelect (ir : Nat) (s : State) : Out :=
  within (decide (ir < 32)) (if s.modes.mode.on then { s with dbg := { s.dbg with ir := ir } } else s)

end Sys2Proof.Machine
end

