-- ==== Sys2Proof/Machine/Dispatch.lean ====
section
/-! DEFINITION. The meaning of every command: one arm per constructor. -/

namespace Sys2Proof.Machine

/-- The effect of a command on everything but the queue. -/
def exec (i : Instr) (s : State) : Host.Outcome State Fault Refusal :=
  match i with
  | .powerOnReset boot env => Sys2Proof.Machine.execPowerOnReset boot env s
  | .powerUpModeRequest => Sys2Proof.Machine.execPowerUpModeRequest s
  | .imageVerification => Sys2Proof.Machine.execImageVerification s
  | .packageReset who value => Sys2Proof.Machine.execPackageReset who value s
  | .modeRequest who value => Sys2Proof.Machine.execModeRequest who value s
  | .modeTransitionComplete env => Sys2Proof.Machine.execModeTransitionComplete env s
  | .acknowledgeLoss who value flashErrors => Sys2Proof.Machine.execAcknowledgeLoss who value flashErrors s
  | .powerFail rises found cut => Sys2Proof.Machine.execPowerFail rises found cut s
  | .railOutOfLimits rail => Sys2Proof.Machine.execRailOutOfLimits rail s
  | .thermalTrip sensor => Sys2Proof.Machine.execThermalTrip sensor s
  | .thermalThrottleEntry site => Sys2Proof.Machine.execThermalThrottleEntry site s
  | .thermalThrottleExit site => Sys2Proof.Machine.execThermalThrottleExit site s
  | .refclkLoss => Sys2Proof.Machine.execRefclkLoss s
  | .referenceLossStop found cut => Sys2Proof.Machine.execReferenceLossStop found cut s
  | .dieReferenceLoss die optical engine => Sys2Proof.Machine.execDieReferenceLoss die optical engine s
  | .referenceHoldoverExpiry die => Sys2Proof.Machine.execReferenceHoldoverExpiry die s
  | .revertToOptical who value => Sys2Proof.Machine.execRevertToOptical who value s
  | .syncMessageReceived port ieee1588 offset => Sys2Proof.Machine.execSyncMessageReceived port ieee1588 offset s
  | .holdoverEntry => Sys2Proof.Machine.execHoldoverEntry s
  | .flitCrcError die module again => Sys2Proof.Machine.execFlitCrcError die module again s
  | .recoveryRetraining die module => Sys2Proof.Machine.execRecoveryRetraining die module s
  | .trainingComplete die result => Sys2Proof.Machine.execTrainingComplete die result s
  | .trainingTimeout die => Sys2Proof.Machine.execTrainingTimeout die s
  | .couplingEndReset die rotundaEnd => Sys2Proof.Machine.execCouplingEndReset die rotundaEnd s
  | .retireGallery who value => Sys2Proof.Machine.execRetireGallery who value s
  | .galleryRetirement gallery reason => Sys2Proof.Machine.execGalleryRetirement gallery reason s
  | .retestSite who value => Sys2Proof.Machine.execRetestSite who value s
  | .encoderLevelAccepted encoder change edge => Sys2Proof.Machine.execEncoderLevelAccepted encoder change edge s
  | .encoderLineFault encoder line => Sys2Proof.Machine.execEncoderLineFault encoder line s
  | .speedTimeout encoder => Sys2Proof.Machine.execSpeedTimeout encoder s
  | .loadPresetNow who encoder => Sys2Proof.Machine.execLoadPresetNow who encoder s
  | .loadPresetAtIndex who encoder => Sys2Proof.Machine.execLoadPresetAtIndex who encoder s
  | .faultWordClear who encoder value => Sys2Proof.Machine.execFaultWordClear who encoder value s
  | .interpolatedTrigger program => Sys2Proof.Machine.execInterpolatedTrigger program s
  | .timeTrigger program => Sys2Proof.Machine.execTimeTrigger program s
  | .extrapolatedTrigger program => Sys2Proof.Machine.execExtrapolatedTrigger program s
  | .extrapolationLimitExpiry program => Sys2Proof.Machine.execExtrapolationLimitExpiry program s
  | .faultClearIntervalEnd encoder => Sys2Proof.Machine.execFaultClearIntervalEnd encoder s
  | .outputPulseEnd output => Sys2Proof.Machine.execOutputPulseEnd output s
  | .testFire who value => Sys2Proof.Machine.execTestFire who value s
  | .programConfigWrite who program sub value => Sys2Proof.Machine.execProgramConfigWrite who program sub value s
  | .arpRequest lane senderMac senderIp targetIp => Sys2Proof.Machine.execArpRequest lane senderMac senderIp targetIp s
  | .delayReq lane srcIp sequenceId portIdentity arrival => Sys2Proof.Machine.execDelayReq lane srcIp sequenceId portIdentity arrival s
  | .ptpSyncTimer lane => Sys2Proof.Machine.execPtpSyncTimer lane s
  | .ptpAnnounceTimer lane => Sys2Proof.Machine.execPtpAnnounceTimer lane s
  | .controlPacketReceived lane srcIp srcPort dstPort payload => Sys2Proof.Machine.execControlPacketReceived lane srcIp srcPort dstPort payload s
  | .controlTransmitEntry lane => Sys2Proof.Machine.execControlTransmitEntry lane s
  | .streamPacket lane pkt context => Sys2Proof.Machine.execStreamPacket lane pkt context s
  | .sealTimeout ring line => Sys2Proof.Machine.execSealTimeout ring line s
  | .lineSeal ring => Sys2Proof.Machine.execLineSeal ring s
  | .completionPost ring => Sys2Proof.Machine.execCompletionPost ring s
  | .disarmSealTimeout => Sys2Proof.Machine.execDisarmSealTimeout s
  | .laneLinkLoss lane => Sys2Proof.Machine.execLaneLinkLoss lane s
  | .laneLinkReturn lane => Sys2Proof.Machine.execLaneLinkReturn lane s
  | .laneEnable who lane value => Sys2Proof.Machine.execLaneEnable who lane value s
  | .streamContextEnable who context value => Sys2Proof.Machine.execStreamContextEnable who context value s
  | .ringEnable who ring value => Sys2Proof.Machine.execRingEnable who ring value s
  | .memoryRequest cls source addr op finding => Sys2Proof.Machine.execMemoryRequest cls source addr op finding s
  | .hbmRefreshDue pc bank readsPending => Sys2Proof.Machine.execHbmRefreshDue pc bank readsPending s
  | .ddr5RefreshDue channel => Sys2Proof.Machine.execDdr5RefreshDue channel s
  | .idleSelfRefreshEntry channel => Sys2Proof.Machine.execIdleSelfRefreshEntry channel s
  | .ddr5InitComplete => Sys2Proof.Machine.execDdr5InitComplete s
  | .clearRetirements who value => Sys2Proof.Machine.execClearRetirements who value s
  | .scrubReadDue ch finding => Sys2Proof.Machine.execScrubReadDue ch finding s
  | .scrubWake channel findings => Sys2Proof.Machine.execScrubWake channel findings s
  | .testWriteData who => Sys2Proof.Machine.execTestWriteData who s
  | .testWriteCheck who => Sys2Proof.Machine.execTestWriteCheck who s
  | .testReadRaw who => Sys2Proof.Machine.execTestReadRaw who s
  | .testPoison who => Sys2Proof.Machine.execTestPoison who s
  | .load hart rd rs1 offset size signed fp len finding walk prefetch => Sys2Proof.Machine.execLoad hart rd rs1 offset size signed fp len finding walk prefetch s
  | .store hart rs1 rs2 offset size fp len walk => Sys2Proof.Machine.execStore hart rs1 rs2 offset size fp len walk s
  | .storeBufferDrain hart => Sys2Proof.Machine.execStoreBufferDrain hart s
  | .amo hart op size rd rs1 rs2 => Sys2Proof.Machine.execAmo hart op size rd rs1 rs2 s
  | .lr hart size rd rs1 => Sys2Proof.Machine.execLr hart size rd rs1 s
  | .sc hart size rd rs1 rs2 => Sys2Proof.Machine.execSc hart size rd rs1 rs2 s
  | .lrSnoopHoldEnd gallery line => Sys2Proof.Machine.execLrSnoopHoldEnd gallery line s
  | .fence hart pred succ tso => Sys2Proof.Machine.execFence hart pred succ tso s
  | .fenceI hart => Sys2Proof.Machine.execFenceI hart s
  | .sfenceVma hart rs1 rs2 => Sys2Proof.Machine.execSfenceVma hart rs1 rs2 s
  | .satpWrite hart value => Sys2Proof.Machine.execSatpWrite hart value s
  | .vectorLoad hart vd eew rs1 fields addrs masked faultFirst prefetch => Sys2Proof.Machine.execVectorLoad hart vd eew rs1 fields addrs masked faultFirst prefetch s
  | .vectorStore hart vs eew rs1 fields addrs masked => Sys2Proof.Machine.execVectorStore hart vs eew rs1 fields addrs masked s
  | .vectorArithmetic hart op => Sys2Proof.Machine.execVectorArithmetic hart op s
  | .interruptTake hart => Sys2Proof.Machine.execInterruptTake hart s
  | .wfi hart => Sys2Proof.Machine.execWfi hart s
  | .mntimecmpWrite hart value => Sys2Proof.Machine.execMntimecmpWrite hart value s
  | .mnerrWrite hart addrReg value => Sys2Proof.Machine.execMnerrWrite hart addrReg value s
  | .mncfgWrite hart value => Sys2Proof.Machine.execMncfgWrite hart value s
  | .cboClean hart rs1 => Sys2Proof.Machine.execCboClean hart rs1 s
  | .cboFlush hart rs1 => Sys2Proof.Machine.execCboFlush hart rs1 s
  | .cboInval hart rs1 => Sys2Proof.Machine.execCboInval hart rs1 s
  | .cboZero hart rs1 => Sys2Proof.Machine.execCboZero hart rs1 s
  | .prefetchHint hart kind rs1 offset => Sys2Proof.Machine.execPrefetchHint hart kind rs1 offset s
  | .lockOpen who gallery value => Sys2Proof.Machine.execLockOpen who gallery value s
  | .lockLock who gallery value => Sys2Proof.Machine.execLockLock who gallery value s
  | .lockUnlock who gallery value => Sys2Proof.Machine.execLockUnlock who gallery value s
  | .lockCancel who gallery value => Sys2Proof.Machine.execLockCancel who gallery value s
  | .wayMethodWrite who gallery value => Sys2Proof.Machine.execWayMethodWrite who gallery value s
  | .clearDisabledWays who gallery value => Sys2Proof.Machine.execClearDisabledWays who gallery value s
  | .vitLoad hart rd rs1 rs2 => Sys2Proof.Machine.execVitLoad hart rd rs1 rs2 s
  | .vitArm hart rd rs1 => Sys2Proof.Machine.execVitArm hart rd rs1 s
  | .vitDisarm hart rd rs1 => Sys2Proof.Machine.execVitDisarm hart rd rs1 s
  | .vitRun hart rd rs1 rs2 => Sys2Proof.Machine.execVitRun hart rd rs1 rs2 s
  | .vitWait hart rd rs1 => Sys2Proof.Machine.execVitWait hart rd rs1 s
  | .vitStat hart rd rs1 => Sys2Proof.Machine.execVitStat hart rd rs1 s
  | .sealNotice vitrine ring line cover => Sys2Proof.Machine.execSealNotice vitrine ring line cover s
  | .vitrineStep vitrine lineBuffer => Sys2Proof.Machine.execVitrineStep vitrine lineBuffer s
  | .vitrineJobRow vitrine lineBuffer => Sys2Proof.Machine.execVitrineJobRow vitrine lineBuffer s
  | .rds gallery domain line core victim => Sys2Proof.Machine.execRds gallery domain line core victim s
  | .rdx gallery domain line core victim => Sys2Proof.Machine.execRdx gallery domain line core victim s
  | .upg gallery domain line victim => Sys2Proof.Machine.execUpg gallery domain line victim s
  | .claimz gallery domain line core victim => Sys2Proof.Machine.execClaimz gallery domain line core victim s
  | .crd agent domain line => Sys2Proof.Machine.execCrd agent domain line s
  | .cwr agent domain line data mask whole => Sys2Proof.Machine.execCwr agent domain line data mask whole s
  | .cmoClean gallery domain line => Sys2Proof.Machine.execCmoClean gallery domain line s
  | .cmoFlush gallery domain line => Sys2Proof.Machine.execCmoFlush gallery domain line s
  | .cmoInval gallery domain line => Sys2Proof.Machine.execCmoInval gallery domain line s
  | .snps gallery line => Sys2Proof.Machine.execSnps gallery line s
  | .snpx gallery line => Sys2Proof.Machine.execSnpx gallery line s
  | .snpinv gallery line => Sys2Proof.Machine.execSnpinv gallery line s
  | .snpcln gallery line => Sys2Proof.Machine.execSnpcln gallery line s
  | .wbd gallery line => Sys2Proof.Machine.execWbd gallery line s
  | .snoopResponse gallery line => Sys2Proof.Machine.execSnoopResponse gallery line s
  | .snpdata gallery line => Sys2Proof.Machine.execSnpdata gallery line s
  | .data agent line => Sys2Proof.Machine.execData agent line s
  | .cmp agent line => Sys2Proof.Machine.execCmp agent line s
  | .wback gallery line => Sys2Proof.Machine.execWback gallery line s
  | .ack gallery line => Sys2Proof.Machine.execAck gallery line s
  | .transactionWatchdog line => Sys2Proof.Machine.execTransactionWatchdog line s
  | .domainClear domain => Sys2Proof.Machine.execDomainClear domain s
  | .directoryEntryError slice set way err => Sys2Proof.Machine.execDirectoryEntryError slice set way err s
  | .pidxWrite hart va queue value => Sys2Proof.Machine.execPidxWrite hart va queue value s
  | .cidxWrite hart va queue value => Sys2Proof.Machine.execCidxWrite hart va queue value s
  | .armWrite hart va queue value => Sys2Proof.Machine.execArmWrite hart va queue value s
  | .queuePost queue producer entry => Sys2Proof.Machine.execQueuePost queue producer entry s
  | .queueEventDelay queue context source => Sys2Proof.Machine.execQueueEventDelay queue context source s
  | .seteipnumWrite hart va target machine value => Sys2Proof.Machine.execSeteipnumWrite hart va target machine value s
  | .queueEnable who queue value => Sys2Proof.Machine.execQueueEnable who queue value s
  | .queueReset who queue value => Sys2Proof.Machine.execQueueReset who queue value s
  | .sourceEnable who source value => Sys2Proof.Machine.execSourceEnable who source value s
  | .copy queue => Sys2Proof.Machine.execCopy queue s
  | .fill queue => Sys2Proof.Machine.execFill queue s
  | .copy2d queue => Sys2Proof.Machine.execCopy2d queue s
  | .archiveWrite channel => Sys2Proof.Machine.execArchiveWrite channel s
  | .archiveRead channel light bad => Sys2Proof.Machine.execArchiveRead channel light bad s
  | .archiveFlush channel => Sys2Proof.Machine.execArchiveFlush channel s
  | .archiveZero channel => Sys2Proof.Machine.execArchiveZero channel s
  | .archiveData channel => Sys2Proof.Machine.execArchiveData channel s
  | .archiveQuery channel => Sys2Proof.Machine.execArchiveQuery channel s
  | .transferReady channel => Sys2Proof.Machine.execTransferReady channel s
  | .grantTimeout channel seq => Sys2Proof.Machine.execGrantTimeout channel seq s
  | .drainAgeExpiry die unit => Sys2Proof.Machine.execDrainAgeExpiry die unit s
  | .unitProgramComplete die unit corrected uncorrectable => Sys2Proof.Machine.execUnitProgramComplete die unit corrected uncorrectable s
  | .durableSequenceCommit channel => Sys2Proof.Machine.execDurableSequenceCommit channel s
  | .mediumScan die light heavy uncorrectable => Sys2Proof.Machine.execMediumScan die light heavy uncorrectable s
  | .archiveDieUnavailable die => Sys2Proof.Machine.execArchiveDieUnavailable die s
  | .archiveDieRetrain die failed => Sys2Proof.Machine.execArchiveDieRetrain die failed s
  | .archiveDieLossTimeout die => Sys2Proof.Machine.execArchiveDieLossTimeout die s
  | .archiveChannelReset who channel value => Sys2Proof.Machine.execArchiveChannelReset who channel value s
  | .archiveChannelEnable who channel value => Sys2Proof.Machine.execArchiveChannelEnable who channel value s
  | .namespaceEnable who ns value => Sys2Proof.Machine.execNamespaceEnable who ns value s
  | .clearArchiveRetirements who value => Sys2Proof.Machine.execClearArchiveRetirements who value s
  | .catalogueRead who req => Sys2Proof.Machine.execCatalogueRead who req s
  | .catalogueWrite who req => Sys2Proof.Machine.execCatalogueWrite who req s
  | .catalogueTake who req => Sys2Proof.Machine.execCatalogueTake who req s
  | .registerWrite target => Sys2Proof.Machine.execRegisterWrite target s
  | .mailboxSubmit hart va page value => Sys2Proof.Machine.execMailboxSubmit hart va page value s
  | .dtlsHandshake port chain => Sys2Proof.Machine.execDtlsHandshake port chain s
  | .sessionIdleClose session => Sys2Proof.Machine.execSessionIdleClose session s
  | .fieldPortConfigWrite who port sub value => Sys2Proof.Machine.execFieldPortConfigWrite who port sub value s
  | .nmtStart frame => Sys2Proof.Machine.execNmtStart frame s
  | .nmtStop frame => Sys2Proof.Machine.execNmtStop frame s
  | .nmtEnterPreoperational frame => Sys2Proof.Machine.execNmtEnterPreoperational frame s
  | .nmtResetCommunication frame => Sys2Proof.Machine.execNmtResetCommunication frame s
  | .usdoAbort client => Sys2Proof.Machine.execUsdoAbort client s
  | .heartbeatTimer => Sys2Proof.Machine.execHeartbeatTimer s
  | .canBusOff change => Sys2Proof.Machine.execCanBusOff change s
  | .restoreDefaults who value => Sys2Proof.Machine.execRestoreDefaults who value s
  | .partitionConfigWrite who index sub value => Sys2Proof.Machine.execPartitionConfigWrite who index sub value s
  | .partitionStart who value flashError => Sys2Proof.Machine.execPartitionStart who value flashError s
  | .partitionStop who value => Sys2Proof.Machine.execPartitionStop who value s
  | .partitionRestart who value flashError => Sys2Proof.Machine.execPartitionRestart who value flashError s
  | .automaticStart partition flashError => Sys2Proof.Machine.execAutomaticStart partition flashError s
  | .installTarget who value => Sys2Proof.Machine.execInstallTarget who value s
  | .installData who value => Sys2Proof.Machine.execInstallData who value s
  | .install who value => Sys2Proof.Machine.execInstall who value s
  | .attestation who nonce => Sys2Proof.Machine.execAttestation who nonce s
  | .zeroise who value => Sys2Proof.Machine.execZeroise who value s
  | .decommission who value => Sys2Proof.Machine.execDecommission who value s
  | .raiseMinimum who value => Sys2Proof.Machine.execRaiseMinimum who value s
  | .auditTimer => Sys2Proof.Machine.execAuditTimer s
  | .auditNow who value => Sys2Proof.Machine.execAuditNow who value s
  | .countersClearAll who value => Sys2Proof.Machine.execCountersClearAll who value s
  | .packageCounterEventWrite who counter value => Sys2Proof.Machine.execPackageCounterEventWrite who counter value s
  | .hartCounterWrap hart counter => Sys2Proof.Machine.execHartCounterWrap hart counter s
  | .debugHalt hart others ack => Sys2Proof.Machine.execDebugHalt hart others ack s
  | .debugResume hart others ack => Sys2Proof.Machine.execDebugResume hart others ack s
  | .debugStep hart insn len => Sys2Proof.Machine.execDebugStep hart insn len s
  | .debugHartreset hart others => Sys2Proof.Machine.execDebugHartreset hart others s
  | .accessRegister hart reg write size program => Sys2Proof.Machine.execAccessRegister hart reg write size program s
  | .systemBusAccess addr size write => Sys2Proof.Machine.execSystemBusAccess addr size write s
  | .debugEnableWrite who sub value => Sys2Proof.Machine.execDebugEnableWrite who sub value s
  | .jtagIrSelect ir => Sys2Proof.Machine.execJtagIrSelect ir s
  | .scalarInstruction hart insn len => Sys2Proof.Machine.execScalarInstruction hart insn len s
  | .timerCompareReached hart supervisor => Sys2Proof.Machine.execTimerCompareReached hart supervisor s
  | .poresetNAsserted => Sys2Proof.Machine.execPoresetNAsserted s
  | .refclkReturn => Sys2Proof.Machine.execRefclkReturn s
  | .dieReferenceReturn die optical => Sys2Proof.Machine.execDieReferenceReturn die optical s
  | .encoderLineRestored encoder line => Sys2Proof.Machine.execEncoderLineRestored encoder line s
  | .fieldPortLinkLoss port => Sys2Proof.Machine.execFieldPortLinkLoss port s
  | .fieldPortLinkReturn port => Sys2Proof.Machine.execFieldPortLinkReturn port s
  | .fieldPortFrameReceived port frame => Sys2Proof.Machine.execFieldPortFrameReceived port frame s
  | .laneFrameDropped lane frame => Sys2Proof.Machine.execLaneFrameDropped lane frame s
  | .refreshRateChange ch hot => Sys2Proof.Machine.execRefreshRateChange ch hot s
  | .usdoTransferTimeout client => Sys2Proof.Machine.execUsdoTransferTimeout client s
  | .siteSelfTestComplete site pass training ways => Sys2Proof.Machine.execSiteSelfTestComplete site pass training ways s

end Sys2Proof.Machine
end

