-- ==== Sys2Proof/Safety.lean ====
section
/-! DEFINITION. What counts as a good state and a safe run, in the terms the statements use. -/

namespace Sys2Proof.Machine

/-- The canonical form of the memory: addresses strictly rising, no entry equal to what an unlisted one reads as. -/
def Memory.wf (m : Memory) : Bool := tblWf 0 m.bytes && tblWf 1 m.marks && tblWf 0 m.check

/-- Keys strictly rising from `lo`. -/
def rising {α : Type} (lo : Nat) : List (Nat × α) → Bool
  | [] => true
  | (k, _) :: t => decide (lo ≤ k) && rising (k + 1) t

/-- A memory in canonical form in which a word that is poisoned or was never written lists no byte of its own: what it
reads as comes from its mark alone (R166, R180). -/
structure Memory.Good (m : Memory) : Prop where
  wf : m.wf = true
  poison : ∀ a, storedForm m (a / 8) ≠ 0 → storedByte m a = 0

/-- The invariant of the package's stores: the object store lists every object at most once, in rising order of its key, and
the memory is good. -/
structure Canon (s : State) : Prop where
  obj : rising 0 s.obj = true
  mem : s.mem.Good

/-- A safe step: the machine answers a next state. -/
def SafeStep (s : State) : Prop := ∃ t, step s = .next t

/-- The state that the rule of a written object is given: the write's arrival noted, and the write under service (R397). `flash`: a
start that it leads to meets a read error of the boot flash. -/
def arrivedWith (flash : Bool) (who : Requester) (node ix sub value : Nat) (s : State) : State :=
  let t := appear who s
  { t with cat := { t.cat with serving := some (writeOf who node ix sub value flash s) } }

/-- The same without such an error. -/
def arrived (who : Requester) (node ix sub value : Nat) (s : State) : State := arrivedWith false who node ix sub value s

/-- A write by `who` of the object, whose row has access code `acc`, reaches the object's own rule: the requester is received
(R409), no request is outstanding (R397), KEEP serves the object, its role and ownership allow the write (R408, R429), the value is in
range (R10), and an RWP value finds a die of the system area (R361). -/
def reaches (acc : Acc) (who : Requester) (node ix sub value : Nat) (s : State) : Bool :=
  let a := arrived who node ix sub value s
  match rowOf (node / 2 ^ 24) ix sub with
  | none => false
  | some row =>
    row.acc == acc && received s who && s.cat.queue.isEmpty && s.modes.mode != .keep &&
      !(ix == 0x2000 && sub == 2 && roleOf a who < 3) && (roleRefusal a who node ix sub value).isNone && row.chk.ok value &&
      (row.acc != .rwp || systemArea a)

/-- No request is under service any more. -/
def closed (t : State) : State := { t with cat := { t.cat with serving := none } }

/-- The write of an action object ends as an action completed in its response (R399, R403). -/
def ended (who : Requester) (node ix sub : Nat) (t : State) : State := closed (respondAction who node ix sub 0 0 t)

/-- The write of an action object leaves the action pending (R399, R403). -/
def pending (who : Requester) (node ix sub : Nat) (t : State) : State := closed (respondAction who node ix sub 1 0 t)

/-- The write of a value ends with an empty value, committed first where the object is RWP (R395, R399). -/
def written (acc : Acc) (who : Requester) (t : State) : State :=
  closed (respondValue who [] (if acc = .rwp then rwpCommitted t else t))

/-- A write that its rule refuses is answered with an abort code and a detail (R399, R401). -/
def turnedAway (who : Requester) (abort detail : Nat) (t : State) : State := closed (respondRefused who abort detail t)

/-- The hart executes: its gallery runs, its partition runs and it is not held, halted or in wfi. -/
abbrev goes (s : State) (hart : Nat) : Prop := hart < 264 ∧ hartRuns s hart = true

/-- Nothing but this hart differs between two states: no object, no byte of memory, no other hart. -/
def onlyHart (hart : Nat) (s t : State) : Prop :=
  t = { s with harts := t.harts } ∧ ∀ g, g ≠ hart → t.hart g = s.hart g

/-- CSRs that an event of the hart may change: the counters and their event registers, whose top bit is the overflow. -/
def counterCsr (n : Nat) : Bool := (decide (0xB00 ≤ n) && decide (n ≤ 0xB1F)) || (decide (0x323 ≤ n) && decide (n ≤ 0x33F))

/-- A hart is as before beyond its pc, its integer registers and its counters. -/
def sameBeyond (h g : Hart) : Prop :=
  g = { h with pc := g.pc, x := g.x, csr := g.csr } ∧ ∀ n, counterCsr n = false → g.csrOf n = h.csrOf n

/-- Integer registers after one was written: x0 discards the write and reads zero. -/
def wroteX (rd : Nat) (v : Word) (h g : Hart) : Prop :=
  ∀ r, r < 32 → g.getX r = if r ≠ 0 ∧ r = rd % 32 then v else h.getX r

end Sys2Proof.Machine
end

