-- ==== Sys2Proof/WellFormed.lean ====
section
/-! DEFINITION. Well-formed commands: every operand names an instance that the package has (R22, R30) and every size and code
is one that the command's rule gives. A command that is not well formed is the fault `noSuchResource`. -/

namespace Sys2Proof

open Sys2Proof.Machine

/-- The size of a scalar access: 1, 2, 4 or 8 bytes, for a floating-point register 4 or 8. -/
def sizeOk (size : Nat) (fp : Bool) : Bool := size == 4 || size == 8 || ((size == 1 || size == 2) && !fp)
/-- The length of an instruction. -/
def lenOk (len : Nat) : Bool := len == 2 || len == 4

/-- The target of REGISTER_WRITE names a hart, page and register that exist; a Catalogue write is always answered. -/
def targetOk : RegTarget → Bool
  | .object _ _ _ _ _ => true
  | .csr hart num _ => decide (hart < 264) && decide (num < 4096)
  | .mailboxWord hart _ page offset _ =>
    decide (hart < 264) && decide (page < 16) && decide (offset % 4 = 0) && decide (offset < 0x1000)
  | .deviceWord hart _ addr _ size => decide (hart < 264) && (size == 4 || size == 8) && inDevice addr

/-- The command is well formed. -/
def Instr.wf : Instr → Bool
  | .powerOnReset _ env => env.factory.all fun e => flashTargetOk e.1 && decide (e.2.length ≤ flashRoom e.1)
  | .powerUpModeRequest => true
  | .imageVerification => true
  | .packageReset _ _ => true
  | .modeRequest _ _ => true
  | .modeTransitionComplete env => TransEnv.ok env
  | .acknowledgeLoss _ _ flash => flash.all (decide <| · < 16)
  | .powerFail _ found _ => foundOk found
  | .railOutOfLimits rail => decide (rail < 15)
  | .thermalTrip sensor => sensorOk sensor
  | .thermalThrottleEntry site => decide (site < 24)
  | .thermalThrottleExit site => decide (site < 24)
  | .refclkLoss => true
  | .referenceLossStop found _ => foundOk found
  | .dieReferenceLoss die _ _ => decide (die < 28)
  | .referenceHoldoverExpiry die => decide (die < 28)
  | .revertToOptical _ _ => true
  | .syncMessageReceived port _ offset => decide (port < 2) && decide (-2 ^ 63 ≤ offset) && decide (offset < 2 ^ 63)
  | .holdoverEntry => true
  | .flitCrcError die module _ => decide (die < 28) && (modulesOf die).contains module
  | .recoveryRetraining die module => decide (die < 28) && (modulesOf die).contains module
  | .trainingComplete die _ => decide (die < 28)
  | .trainingTimeout die => decide (die < 28)
  | .couplingEndReset die _ => decide (die < 28)
  | .retireGallery _ _ => true
  | .galleryRetirement gallery reason => decide (gallery < 22) && decide (1 ≤ reason) && decide (reason ≤ 6)
  | .retestSite _ _ => true
  | .encoderLevelAccepted encoder _ _ => decide (encoder < 8)
  | .encoderLineFault encoder _ => decide (encoder < 8)
  | .speedTimeout encoder => decide (encoder < 8)
  | .loadPresetNow _ encoder => decide (encoder < 8)
  | .loadPresetAtIndex _ encoder => decide (encoder < 8)
  | .faultWordClear _ encoder _ => decide (encoder < 8)
  | .interpolatedTrigger program => decide (program < 32)
  | .timeTrigger program => decide (program < 32)
  | .extrapolatedTrigger program => decide (program < 32)
  | .extrapolationLimitExpiry program => decide (program < 32)
  | .faultClearIntervalEnd encoder => decide (encoder < 8)
  | .outputPulseEnd output => decide (output < 16)
  | .testFire _ _ => true
  | .programConfigWrite _ program _ _ => decide (program < 32)
  | .arpRequest lane _ _ _ => decide (lane < 64)
  | .delayReq lane _ _ _ _ => decide (lane < 64)
  | .ptpSyncTimer lane => decide (lane < 64)
  | .ptpAnnounceTimer lane => decide (lane < 64)
  | .controlPacketReceived lane srcIp srcPort dstPort _ =>
    decide (lane < 64) && decide (srcIp < 2 ^ 32) && decide (srcPort < 65536) && decide (dstPort < 65536)
  | .controlTransmitEntry lane => decide (lane < 64)
  | .streamPacket lane pkt _ => decide (lane < 64) && decide (pkt.blockId < 2 ^ 64) && decide (pkt.dstPort < 65536)
  | .sealTimeout ring _ => decide (ring < 256)
  | .lineSeal ring => decide (ring < 256)
  | .completionPost ring => decide (ring < 256)
  | .disarmSealTimeout => true
  | .laneLinkLoss lane => decide (lane < 64)
  | .laneLinkReturn lane => decide (lane < 64)
  | .laneEnable _ lane _ => decide (lane < 64)
  | .streamContextEnable _ context _ => decide (context < 16384)
  | .ringEnable _ ring _ => decide (ring < 256)
  | .memoryRequest _ source addr _ f => sourceOk source && findingOk (inHbm addr) f
  | .hbmRefreshDue pc bank _ => decide (pc < 128) && decide (bank < 1024)
  | .ddr5RefreshDue channel => decide (channel < 8)
  | .idleSelfRefreshEntry channel => decide (channel < 8)
  | .ddr5InitComplete => true
  | .clearRetirements _ _ => true
  | .scrubReadDue ch f => chExists ch && scrubFindingOk ch f
  | .scrubWake channel findings => decide (channel < 8) && findings.all (findingOk false)
  | .testWriteData _ => true
  | .testWriteCheck _ => true
  | .testReadRaw _ => true
  | .testPoison _ => true
  | .load hart _ _ _ size _ fp len f walk _ =>
    decide (hart < 264) && sizeOk size fp && lenOk len && findingOk false f && findingOk false walk
  | .store hart _ _ _ size fp len walk => decide (hart < 264) && sizeOk size fp && lenOk len && findingOk false walk
  | .storeBufferDrain hart => decide (hart < 264)
  | .amo hart _ size _ _ _ => decide (hart < 264) && (size == 4 || size == 8)
  | .lr hart size _ _ => decide (hart < 264) && (size == 4 || size == 8)
  | .sc hart size _ _ _ => decide (hart < 264) && (size == 4 || size == 8)
  | .lrSnoopHoldEnd gallery line => reqOk gallery 0 line
  | .fence hart _ _ _ => decide (hart < 264)
  | .fenceI hart => decide (hart < 264)
  | .sfenceVma hart _ _ => decide (hart < 264)
  | .satpWrite hart _ => decide (hart < 264)
  | .vectorLoad hart vd _ _ _ addrs _ faultFirst _ =>
    decide (hart < 264) && decide (vd < 32) && (!faultFirst || addrs == .unit)
  | .vectorStore hart vs _ _ _ _ _ => decide (hart < 264) && decide (vs < 32)
  | .vectorArithmetic hart _ => decide (hart < 264)
  | .interruptTake hart => decide (hart < 264)
  | .wfi hart => decide (hart < 264)
  | .mntimecmpWrite hart _ => decide (hart < 264)
  | .mnerrWrite hart _ _ => decide (hart < 264)
  | .mncfgWrite hart _ => decide (hart < 264)
  | .cboClean hart _ => decide (hart < 264)
  | .cboFlush hart _ => decide (hart < 264)
  | .cboInval hart _ => decide (hart < 264)
  | .cboZero hart _ => decide (hart < 264)
  | .prefetchHint hart _ _ _ => decide (hart < 264)
  | .lockOpen _ gallery _ => decide (gallery < 22)
  | .lockLock _ gallery _ => decide (gallery < 22)
  | .lockUnlock _ gallery _ => decide (gallery < 22)
  | .lockCancel _ gallery _ => decide (gallery < 22)
  | .wayMethodWrite _ gallery _ => decide (gallery < 22)
  | .clearDisabledWays _ gallery _ => decide (gallery < 22)
  | .vitLoad hart _ _ _ => decide (hart < 264)
  | .vitArm hart _ _ => decide (hart < 264)
  | .vitDisarm hart _ _ => decide (hart < 264)
  | .vitRun hart _ _ _ => decide (hart < 264)
  | .vitWait hart _ _ => decide (hart < 264)
  | .vitStat hart _ _ => decide (hart < 264)
  | .sealNotice vitrine ring _ _ => decide (vitrine < 66) && decide (ring < 256)
  | .vitrineStep vitrine _ => decide (vitrine < 66)
  | .vitrineJobRow vitrine _ => decide (vitrine < 66)
  | .rds gallery domain line _ _ => reqOk gallery domain line
  | .rdx gallery domain line _ _ => reqOk gallery domain line
  | .upg gallery domain line _ => reqOk gallery domain line
  | .claimz gallery domain line _ _ => reqOk gallery domain line
  | .crd agent domain line => agentOk agent && decide (domain < 16) && decide (line < 2 ^ 46)
  | .cwr agent domain line _ _ _ => agentOk agent && decide (domain < 16) && decide (line < 2 ^ 46)
  | .cmoClean gallery domain line => reqOk gallery domain line
  | .cmoFlush gallery domain line => reqOk gallery domain line
  | .cmoInval gallery domain line => reqOk gallery domain line
  | .snps gallery line => reqOk gallery 0 line
  | .snpx gallery line => reqOk gallery 0 line
  | .snpinv gallery line => reqOk gallery 0 line
  | .snpcln gallery line => reqOk gallery 0 line
  | .wbd gallery line => reqOk gallery 0 line
  | .snoopResponse gallery line => reqOk gallery 0 line
  | .snpdata gallery line => reqOk gallery 0 line
  | .data agent line => match agent with
    | .l2 g => reqOk g 0 line
    | a => agentOk a && decide (line < 2 ^ 46)
  | .cmp agent line => match agent with
    | .l2 g => reqOk g 0 line
    | a => agentOk a && decide (line < 2 ^ 46)
  | .wback gallery line => reqOk gallery 0 line
  | .ack gallery line => reqOk gallery 0 line
  | .transactionWatchdog line => decide (line < 2 ^ 46)
  | .domainClear domain => decide (domain < 16)
  | .directoryEntryError slice set way err =>
    decide (slice < 32) && decide (set < 16384) && decide (way < 16) && (match err with
      | .partA a b c => decide (a < 16) && decide (b < 16) && decide (c < 16)
      | _ => true)
  | .pidxWrite hart _ queue value => decide (hart < 264) && decide (queue < 65536) && decide (value < 2 ^ 32)
  | .cidxWrite hart _ queue value => decide (hart < 264) && decide (queue < 65536) && decide (value < 2 ^ 32)
  | .armWrite hart _ queue value => decide (hart < 264) && decide (queue < 65536) && decide (value < 2 ^ 32)
  | .queuePost queue producer _ => decide (queue < 65536) && decide (producer < 16)
  | .queueEventDelay queue _ _ => decide (queue < 65536)
  | .seteipnumWrite hart _ target _ value => decide (hart < 264) && decide (target < 264) && decide (value < 2 ^ 32)
  | .queueEnable _ queue _ => decide (queue < 65536)
  | .queueReset _ queue _ => decide (queue < 65536)
  | .sourceEnable _ source _ => decide (source < 1536)
  | .copy queue => decide (queue < 65536)
  | .fill queue => decide (queue < 65536)
  | .copy2d queue => decide (queue < 65536)
  | .archiveWrite channel => decide (channel < 64)
  | .archiveRead channel _ _ => decide (channel < 64)
  | .archiveFlush channel => decide (channel < 64)
  | .archiveZero channel => decide (channel < 64)
  | .archiveData channel => decide (channel < 64)
  | .archiveQuery channel => decide (channel < 64)
  | .transferReady channel => decide (channel < 64)
  | .grantTimeout channel seq => decide (channel < 64) && decide (seq < 2 ^ 32)
  | .drainAgeExpiry die unit => decide (die < 4) && decide (unit < 16384)
  | .unitProgramComplete die unit _ _ => decide (die < 4) && decide (unit < 16384)
  | .durableSequenceCommit channel => decide (channel < 64)
  | .mediumScan die _ _ _ => decide (die < 4)
  | .archiveDieUnavailable die => decide (die < 4)
  | .archiveDieRetrain die _ => decide (die < 4)
  | .archiveDieLossTimeout die => decide (die < 4)
  | .archiveChannelReset _ channel _ => decide (channel < 64)
  | .archiveChannelEnable _ channel _ => decide (channel < 64)
  | .namespaceEnable _ ns _ => decide (ns < 32)
  | .clearArchiveRetirements _ _ => true
  | .catalogueRead _ _ => true
  | .catalogueWrite _ _ => true
  | .catalogueTake _ _ => true
  | .registerWrite target => targetOk target
  | .mailboxSubmit hart _ page value => decide (hart < 264) && decide (page < 16) && decide (value < 2 ^ 32)
  | .dtlsHandshake port _ => decide (port < 2)
  | .sessionIdleClose session => decide (session < 8)
  | .fieldPortConfigWrite _ port _ _ => decide (port < 2)
  | .nmtStart _ => true
  | .nmtStop _ => true
  | .nmtEnterPreoperational _ => true
  | .nmtResetCommunication _ => true
  | .usdoAbort client => decide (1 ≤ client) && decide (client ≤ 127)
  | .heartbeatTimer => true
  | .canBusOff _ => true
  | .restoreDefaults _ _ => true
  | .partitionConfigWrite _ index _ _ => decide (0x7000 ≤ index) && decide (index ≤ 0x703F)
  | .partitionStart _ _ _ => true
  | .partitionStop _ _ => true
  | .partitionRestart _ _ _ => true
  | .automaticStart partition _ => decide (partition < 16)
  | .installTarget _ _ => true
  | .installData _ _ => true
  | .install _ _ => true
  | .attestation _ _ => true
  | .zeroise _ _ => true
  | .decommission _ _ => true
  | .raiseMinimum _ _ => true
  | .auditTimer => true
  | .auditNow _ _ => true
  | .countersClearAll _ _ => true
  | .packageCounterEventWrite _ counter _ => decide (counter < 32)
  | .hartCounterWrap hart counter => decide (hart < 264) && decide (3 ≤ counter) && decide (counter ≤ 31)
  | .debugHalt hart others _ => hartsOk hart others
  | .debugResume hart others _ => hartsOk hart others
  | .debugStep hart insn len => hartselOk hart && progOk (.scalar insn len)
  | .debugHartreset hart others => hartsOk hart others
  | .accessRegister hart _ _ _ program => hartselOk hart && programOk program
  | .systemBusAccess _ _ _ => true
  | .debugEnableWrite _ sub _ => sub == 1 || sub == 2
  | .jtagIrSelect ir => decide (ir < 32)
  | .scalarInstruction hart insn len => decide (hart < 264) && scalarOk insn len
  | .timerCompareReached hart _ => decide (hart < 264)
  | .poresetNAsserted => true
  | .refclkReturn => true
  | .dieReferenceReturn die _ => decide (die < 28)
  | .encoderLineRestored encoder _ => decide (encoder < 8)
  | .fieldPortLinkLoss port => decide (port < 2)
  | .fieldPortLinkReturn port => decide (port < 2)
  | .fieldPortFrameReceived port _ => decide (port < 2)
  | .laneFrameDropped lane _ => decide (lane < 64)
  | .refreshRateChange ch _ => chExists ch
  | .usdoTransferTimeout client => decide (1 ≤ client) && decide (client ≤ 127)
  | .siteSelfTestComplete site _ _ _ => decide (site < 24)

end Sys2Proof
end

