-- ==== Sys2Proof/Certificates/Slice0/Obligations.lean ====
section
/-! DEFINITION. The statements about the model, each citing the rules of spec/ that it says. -/

open Sys2Proof Sys2Proof.Machine



/-! The machine as a whole. -/

/-- One step runs the command at the front of the queue with the rest behind it; on an empty queue the timebase runs on, and a Catalogue
request that is outstanding is served again (the model's choice, log entry 2). -/
def Obligations.StepRunsFrontCommand : Prop :=
  (∀ (s : State) (c : Instr) (rest : List Instr), s.pending = c :: rest → step s = exec c { s with pending := rest }) ∧
  ∀ s : State, s.pending = [] → step s = .next (serveWaiting (tick s)) ∧ (s.cat.queue = [] → step s = .next (tick s))

/-- Every step keeps the stores in canonical form: each object listed at most once in rising order of its key, the memory
canonical, and no byte listed in a word that is poisoned or was never written. -/
def Obligations.StepKeepsCanon : Prop := ∀ s t : State, Canon s → step s = .next t → Canon t

/-- The state after reset has canonical stores. -/
def Obligations.ResetIsCanon : Prop := Canon State.reset

/-- A command answers a next state exactly where it is well formed, whatever the state: no data ends a run. One that is not well
formed is the fault that names a missing instance; no command is refused. -/
def Obligations.CommandsComplete : Prop :=
  (∀ (i : Instr) (s : State), (∃ t, exec i s = .next t) ↔ i.wf = true) ∧
  (∀ (i : Instr) (s : State), i.wf = false → exec i s = .fault .noSuchResource)

/-- A command acts on everything but the queue of waiting commands, and what was sent out stays recorded. -/
def Obligations.ExecLeavesQueueAndRecord : Prop :=
  ∀ (i : Instr) (s t : State), exec i s = .next t → t.pending = s.pending ∧ s.emitted <:+ t.emitted

/-- A decommissioned package stays decommissioned through every step (R440): no command, mode change or loss of power undoes it. -/
def Obligations.DecommissionIsFinal : Prop :=
  ∀ s t : State, s.strong.decommissioned = true → step s = .next t → t.strong.decommissioned = true

/-- Between taken open values the counter never goes back, so no open value is taken twice (the model's own counter). -/
def Obligations.OpenValuesAreFresh : Prop :=
  ∀ s t : State, step s = .next t → s.free ≤ t.free ∧ (takeFree t).1.free = t.free + 1 ∧ (takeFree t).2 = Config.freeWord t.free

/-! Power, resets, modes. -/

/-- OFF with a cause in the latch: what loses power is at its reset state, and the Archive medium, the boot flash and the
committed error records stay (R77). -/
def Obligations.PowerLossClears : Prop :=
  ∀ (cause : Nat) (stat : BitVec 3) (held : Bool) (s : State), ∃ t, enterOff cause stat held s = t ∧
    t.modes = {} ∧ t.clock = {} ∧ t.harts = [] ∧ t.caches = {} ∧ t.conc = {} ∧ t.vits = [] ∧ t.queues = [] ∧ t.acc = {} ∧
    t.hodo = {} ∧ t.cat = {} ∧ t.dbg = {} ∧ t.mem.bytes = [] ∧ t.power.causeLatch = cause ∧ t.power.stat = stat ∧
    t.arch.medium = s.arch.medium ∧ t.strong.flash = s.strong.flash ∧ t.pending = s.pending

/-- POWER_FAIL, RAIL_OUT_OF_LIMITS, PORESET_N_ASSERTED, REFERENCE_LOSS_STOP and an accepted PACKAGE_RESET end in OFF with their cause in
the latch (R74, R77, R78, R79, R91, R480, R482); a rise of PWRFAIL_N, or a fall while it is low, moves the pin alone, and its fall in OFF
before a power-up holds the package there; a rail lost while PORESET_N is low clears at most the latch, one that is not watched does
nothing, and none does once VDD_AON has failed. A drain that is broken off ends in a power-on reset, and what the buffer held is lost
(R381); a rail that is not watched breaks none off (R480). How a drain is broken off is an operand (log entry 56). -/
def Obligations.LossesOfPower : Prop :=
  (∀ (found : List (Nat × Bool)) (s : State), foundOk found = true → running s = true → s.power.pwrfailN = true →
    (∃ t, exec (.powerFail false found none) s = .next t ∧ t.modes.mode = .off ∧ t.power.causeLatch = 5 ∧ t.power.stat = 7 ∧
      t.power.offHeld = true ∧ t.power.archCause = 5) ∧
    ∀ c : DrainCut, ((c.rail.all fun r => decide (r < 5)) = true →
      ∃ t, exec (.powerFail false found (some c)) s = .next t ∧ t.modes.mode = .off ∧ t.power.causeLatch = resetCause c.rail ∧
        t.power.stat = 0 ∧ t.power.offHeld = false ∧ t.power.poresetN = c.rail.isSome ∧ t.power.lostBuffer = true ∧
        t.power.aonOut = decide (c.rail = some 0)) ∧
      ∀ r, c.rail = some r → 5 ≤ r →
        exec (.powerFail false found (some c)) s = exec (.powerFail false found none) s) ∧
  (∀ (rises : Bool) (found : List (Nat × Bool)) (cut : Option DrainCut) (s : State), foundOk found = true →
    rises = true ∨ s.power.pwrfailN = false →
    exec (.powerFail rises found cut) s = .next { s with power := { s.power with pwrfailN := rises } }) ∧
  (∀ (found : List (Nat × Bool)) (cut : Option DrainCut) (s : State), foundOk found = true → running s = false →
    s.power.pwrfailN = true → s.power.poresetN = true → s.power.offHeld = false → exec (.powerFail false found cut) s =
      .next { s with power := { s.power with pwrfailN := false, offHeld := true, stat := 7 } }) ∧
  (∀ (s : State) (rail : Nat), rail < 15 → s.power.aonOut = false → s.power.poresetN = true ∨ running s = true →
    (s.power.pwrfailN = true ∨ rail < 5 →
      ∃ t, exec (.railOutOfLimits rail) s = .next t ∧ t.modes.mode = .off ∧ t.power.causeLatch = (if rail = 0 then 0 else 2) ∧
        t.power.stat = 0 ∧ t.arch.medium = s.arch.medium ∧ t.power.lostBuffer = (s.power.lostBuffer || bufferInUse s) ∧
        t.power.aonOut = decide (rail = 0)) ∧
    (s.power.pwrfailN = false → 5 ≤ rail → exec (.railOutOfLimits rail) s = .next s)) ∧
  (∀ (s : State) (rail : Nat), rail < 15 → s.power.aonOut = true → exec (.railOutOfLimits rail) s = .next s) ∧
  (∀ (s : State) (rail : Nat), rail < 15 → s.power.aonOut = false → s.power.poresetN = false → running s = false →
    exec (.railOutOfLimits rail) s =
      .next (if rail = 0 then { s with power := { s.power with causeLatch := 0, aonOut := true } } else s)) ∧
  (∀ s : State, ∃ t, exec .poresetNAsserted s = .next t ∧ t.modes.mode = .off ∧ t.power.poresetN = false ∧ t.power.stat = 0 ∧
    t.power.offHeld = false ∧ t.power.causeLatch = (if running s then 1 else s.power.causeLatch) ∧
    t.arch.medium = s.arch.medium ∧ t.strong.flash = s.strong.flash) ∧
  (∀ (found : List (Nat × Bool)) (s : State) (since : Nat), foundOk found = true → s.power.refclkLost = some since →
    running s = true → since + 10000000 ≤ now s →
    (∃ t, exec (.referenceLossStop found none) s = .next t ∧ t.modes.mode = .off ∧ t.power.causeLatch = 4 ∧ t.power.stat = 3 ∧
      t.power.offHeld = true ∧ t.power.archCause = 4) ∧
    ∀ c : DrainCut, c.rail.all (railWatched s) = true →
      ∃ t, exec (.referenceLossStop found (some c)) s = .next t ∧ t.modes.mode = .off ∧
        t.power.causeLatch = resetCause c.rail ∧ t.power.poresetN = c.rail.isSome ∧ t.power.lostBuffer = true) ∧
  ∀ (who : Requester) (s : State), reaches .wo who nP 0x2030 1 1 s = true → s.modes.mode = .service ∨ s.modes.mode = .run ∨
    s.modes.mode = .limp → s.modes.trans = none → promoting (arrived who nP 0x2030 1 1 s) = false →
    exec (.packageReset who 1) s = .next (enterOff 3 0 false (emit (.acknowledged who)
      (ended who nP 0x2030 1 { arrived who nP 0x2030 1 1 s with power := { (arrived who nP 0x2030 1 1 s).power with resetting := true } })))

/-- POWER_ON_RESET from OFF: the power-up of R80 with the bank that boots, the one that 7100h.07h names where it may boot and else the
other, or OFF with the code of a failed self-test or of no bank that verifies; the power-up mode request is due when no promotion of step
5 is left, and for RUN it begins its transition. REFCLK as R74 has it, and every named image slot is verified in SERVICE (R434). What the
banks and the flash hold is an operand (log entry 9). -/
def Obligations.PowerUp : Prop :=
  (∀ (good0 good1 : Bool) (env : BootEnv) (s : State), running s = false → s.power.offHeld = false → s.power.refclk = true →
    (env.factory.all fun e => flashTargetOk e.1 && decide (e.2.length ≤ flashRoom e.1)) = true →
    let u := factoryFlash env s
    let a := getO u nS 0x7100 7 % 2
    let good := fun b => if b = 0 then good0 else good1
    let failed := fun (stat : BitVec 3) =>
      { u with power := { u.power with poresetN := true, stat := stat, offHeld := true, aonOut := false } }
    (canBoot u a (good a) = true → exec (.powerOnReset (.banks good0 good1) env) s = .next (powerUp a env u)) ∧
    (canBoot u a (good a) = false → canBoot u (1 - a) (good (1 - a)) = true →
      exec (.powerOnReset (.banks good0 good1) env) s = .next (powerUp (1 - a) env u)) ∧
    (canBoot u a (good a) = false → canBoot u (1 - a) (good (1 - a)) = false →
      exec (.powerOnReset (.banks good0 good1) env) s = .next (failed 2)) ∧
    exec (.powerOnReset .selfTestFailed env) s = .next (failed 1)) ∧
  (∀ s : State, s.modes.booting = true → s.panel.promo = none → s.panel.promoQueue = [] →
    ∃ t, bootOn s = t ∧ getO t nP 0x2000 6 = 1) ∧
  (∀ s : State, s.power.refclk = true → running s = true → exec .refclkLoss s = .next
    (record { cls := 4, action := 7, kind := 5, unit := 0xFFFFFFFF, sub := 3 }
      (setO nP 0x2020 1 0 { s with power := { s.power with refclk := false, refclkLost := some (now s) } }))) ∧
  (∀ s : State, s.power.refclk = false → running s = true → exec .refclkReturn s = .next
    (setO nP 0x2020 1 1 { s with power := { s.power with refclk := true, refclkLost := none } })) ∧
  (∀ s : State, running s = false → exec .refclkLoss s = .next { s with power := { s.power with refclk := false } }) ∧
  (∀ s : State, s.modes.mode = .service → s.modes.waitImages = true → getO s nP 0x2000 3 ≠ 2 →
    namedSlots s = [] ∨ getO s nS 0x7100 3 ≠ 0 →
    modeRefusal (setO nP 0x2000 6 0 { s with modes := { s.modes with waitImages := false } }) .run = 0 →
    exec .powerUpModeRequest s = .next
      (beginTransition .run 1 none (setO nP 0x2000 6 0 { s with modes := { s.modes with waitImages := false } }))) ∧
  (∀ s : State, s.modes.mode = .service → getO s nS 0x7100 3 = 0 → ∃ t, exec .imageVerification s = .next t ∧
    getO t nS 0x7100 3 = 1)

/-- The thermal sensors (R493): the trip latches THERMTRIP_N with STAT 100 and counts in 8403h; throttling a site counts in
8402h and ends with nothing else changed. -/
def Obligations.ThermalProtection : Prop :=
  (∀ (s : State) (x : Sensor), sensorOk x = true → s.modes.mode.on = true → s.power.thermtrip = false →
    ∃ t, exec (.thermalTrip x) s = .next t ∧ t.power.thermtrip = true ∧ t.power.stat = 4 ∧
      getO t nP 0x8403 1 = (getO s nP 0x8403 1 + 1) % 2 ^ 32 ∧ t.mem = s.mem ∧ t.harts = s.harts ∧ t.modes = s.modes) ∧
  (∀ (s : State) (n : Nat), n < 24 → s.panel.powered.contains n = true → s.power.throttled.contains n = false →
    ∃ t, exec (.thermalThrottleEntry n) s = .next t ∧ t.power.throttled = s.power.throttled ++ [n] ∧
      getO t nP 0x8402 (n + 1) = (getO s nP 0x8402 (n + 1) + 1) % 2 ^ 32 ∧ t.mem = s.mem ∧ t.harts = s.harts ∧
      t.panel = s.panel) ∧
  ∀ (s : State) (n : Nat), n < 24 → exec (.thermalThrottleExit n) s = .next
    { s with power := { s.power with throttled := s.power.throttled.filter (· != n) } }

/-- Mode requests and transitions (R81-R90): an accepted request begins the transition, which R85 then completes, and answers a pending
action; the acknowledgement in LIMP completes; a refused request answers its code and shows it at 2000h.05h. The end of a transition does
its work, puts its mode in force and sets 2000h.06h to 00h; where what RUN needs is missing it stops with outcome 02h. The order in which
the refusal codes are tried is log entry 14, LIMP at the end of a transition log entry 18. -/
def Obligations.ModeTransitions : Prop :=
  (∀ (who : Requester) (v : Nat) (dst : Mode) (s : State), reaches .wo who nP 0x2000 2 v s = true → modeOf v = some dst →
    s.modes.waitImages = false →
    exec (.modeRequest who v) s = .next (if modeRefusal (arrived who nP 0x2000 2 v s) dst = 0
      then pending who nP 0x2000 2 (beginTransition dst 0 (some (who, s.cat.nextTag)) (arrived who nP 0x2000 2 v s))
      else turnedAway who 0x08000020 (modeRefusal (arrived who nP 0x2000 2 v s) dst)
        (setO nP 0x2000 5 (modeRefusal (arrived who nP 0x2000 2 v s) dst) (arrived who nP 0x2000 2 v s)))) ∧
  (∀ (who : Requester) (flash : List Nat) (s : State), (∀ p ∈ flash, p < 16) → reaches .wo who nP 0x2000 8 1 s = true →
    s.modes.mode = .limp → s.modes.trans = none →
    exec (.acknowledgeLoss who 1 flash) s = .next (ended who nP 0x2000 8 (leaveLimp flash (arrived who nP 0x2000 8 1 s)))) ∧
  (∀ (env : TransEnv) (x : Transition) (s : State), TransEnv.ok env = true → s.modes.trans = some x → s.power.refclk = true →
    x.src ≠ .service → x.src ≠ .keep → (x.src = .lockstep → allSealed s = true) →
    exec (.modeTransitionComplete env) s = .next
      (let t := endTransition x (transitionWork env x.src x.dst (tryArchive env x s))
       let u := if x.src = .lockstep then relaunched env t else onlyIf t.modes.limpDue enterLimp t
       { u with modes := { u.modes with limpDue := false } })) ∧
  (∀ (env : TransEnv) (x : Transition) (s : State), TransEnv.ok env = true → s.modes.trans = some x → s.power.refclk = true →
    x.dst = .run → x.src = .service ∨ x.src = .keep → exec (.modeTransitionComplete env) s = .next
      (if env.available = false ∨ someArchiveDie (tryArchive env x s) = false then
        stopTransition 2 x.cause (archiveStays x (tryArchive env x s))
       else if someStack (retireMemories env s) = false then
        stopTransition 2 x.cause (archiveStays x (retireMemories env (tryArchive env x s)))
       else
        let t := endTransition x (transitionWork env x.src .run (tryArchive env x s))
        let u := enterRun env (onlyIf (x.src == .service) (forAll (List.range 8) (fun e u => onsets e s u)) t)
        { u with modes := { u.modes with limpDue := false } })) ∧
  ∀ (x : Transition) (s : State), x.owner = none → (endTransition x s).modes.mode = x.dst ∧ getO (endTransition x s) nP 0x2000 6 = 0

/-! Clocks. -/

/-- The package timebase (R66, R68): while it runs, an idle step with no request outstanding and no audit in progress adds one nanosecond, modulo 2^64, or two
or none where the servo's rate has added up to a whole one; nothing else changes. While it does not run an idle step changes nothing.
-/
def Obligations.TimebaseTicks : Prop :=
  ∀ s : State, s.pending = [] → s.cat.queue = [] → s.errs.audit = none →
    (s.clock.running = false → step s = .next s) ∧
    (s.clock.running = true → ∃ t n, step s = .next t ∧
      t = { s with clock := { s.clock with timebase := t.clock.timebase, rateAcc := t.clock.rateAcc } } ∧
      t.clock.timebase = s.clock.timebase + BitVec.ofNat 64 n ∧ n ≤ 2 ∧
      t.clock.rateAcc + 1000000000 * ((n : Int) - 1) = s.clock.rateAcc + getI s nP 0x2010 5)

/-- References and the servo (R68-R76): what each event does where it applies. A loss at the photonic engine is noted beside. -/
def Obligations.ClockEvents : Prop :=
  (∀ (die : Nat) (opt : Bool) (s : State), die < 28 → running s = true → (refBits s die).testBit (presBit opt) = true →
    exec (.dieReferenceLoss die opt false) s = .next (loseReference die opt s) ∧
    exec (.dieReferenceLoss die opt true) s = .next (loseReference die opt
      (if opt then { s with clock := { s.clock with engineFailed := true } } else s))) ∧
  (∀ (die : Nat) (opt : Bool) (s : State), die < 28 → running s = true →
    (refBits s die).testBit (presBit opt) = false → (refBits s die).testBit 3 = false →
    exec (.dieReferenceReturn die opt) s = .next (setRef die (setBit (refBits s die) (presBit opt))
      (if opt then { s with clock := { s.clock with engineFailed := false } } else s))) ∧
  (∀ (die : Nat) (s : State), die < 24 → (refBits s die).testBit 3 = true → 0 < tblGet 0 s.clock.holdSince die →
    tblGet 0 s.clock.holdSince die - 1 + 100000 ≤ now s → siteStateOf s die = 0 → mayRetire s = true →
    exec (.referenceHoldoverExpiry die) s = .next (beginRetirement (siteLogicalOf s die) 1 s)) ∧
  (∀ (die : Nat) (s : State), 24 ≤ die → die < 28 → (refBits s die).testBit 3 = true →
    0 < tblGet 0 s.clock.holdSince die → tblGet 0 s.clock.holdSince die - 1 + 100000 ≤ now s →
    exec (.referenceHoldoverExpiry die) s = .next (settle (dieUnavailable (die - 24) s))) ∧
  (∀ (who : Requester) (s : State), reaches .wo who nP 0x2020 3 1 s = true → s.hodo.armed = false →
    promoting (arrived who nP 0x2020 3 1 s) = false → ∃ t, exec (.revertToOptical who 1) s = .next (ended who nP 0x2020 3 t) ∧
      ruleRevertOptical (arrived who nP 0x2020 3 1 s) = actionDone t) ∧
  (∀ (port : Nat) (ptp : Bool) (offset : Int) (s : State), port < 2 → -2 ^ 63 ≤ offset → offset < 2 ^ 63 →
    s.clock.running = true → getO s nP 0x2010 2 = sourceOf port ptp → exec (.syncMessageReceived port ptp offset) s = .next
      (lockAfter offset (forwardStep offset (newRate (setI nP 0x2010 4 offset s))))) ∧
  ∀ s : State, s.clock.running = true → getO s nP 0x2010 2 ≠ 0 → getO s nP 0x2010 3 = 1 ∨ getO s nP 0x2010 3 = 2 →
    ∃ t, exec .holdoverEntry s = .next t ∧ getO t nP 0x2010 3 = 3 ∧
      getO t nP 0x2010 8 = (getO s nP 0x2010 8 + 1) % 2 ^ 32 ∧ t.clock.goodIntervals = 0 ∧ t.clock.timebase = s.clock.timebase

/-! Couplings and galleries. -/

/-- Coupling events (R41-R49): a CRC error counts on its module and its replay, a recovery begins after four failed replays of one
flit, a training that ends settles the modules or fails them, ends with different histories run a full retraining, and a reset of an
end trains every module of the die again. -/
def Obligations.CouplingEvents : Prop :=
  (∀ (die m : Nat) (again : Bool) (s : State), die < 28 → (modulesOf die).contains m = true → dieServes s die = true →
    tblGet 0 s.panel.training (die * 4 + m) = 0 → getMod s die m 1 ≠ 0 →
    exec (.flitCrcError die m again) s = .next (addMod die m 5 (addMod die m 4 { s with panel := { s.panel with
      replays := tblSet 0 s.panel.replays (die * 4 + m)
        (if again then tblGet 0 s.panel.replays (die * 4 + m) + 1 else 0) } }))) ∧
  (∀ (die m : Nat) (s : State), die < 28 → (modulesOf die).contains m = true → dieServes s die = true →
    4 ≤ tblGet 0 s.panel.replays (die * 4 + m) → tblGet 0 s.panel.training (die * 4 + m) = 0 →
    s.panel.full.contains die = false →
    exec (.recoveryRetraining die m) s = .next (beginTraining die [m]
      { s with panel := { s.panel with replays := tblSet 0 s.panel.replays (die * 4 + m) 0 } })) ∧
  (∀ (die : Nat) (a b c d : BitVec 16) (u : BitVec 4) (s : State), die < 28 → trainingMods s die ≠ [] →
    let r := Training.done a b c d u
    exec (.trainingComplete die .timeout) s = .next (couplingsFail die 2 s) ∧
    exec (.trainingComplete die r) s = .next
      (if s.panel.full.contains die = true then fullDone die (badLanes r) (mapSeen r) s
       else if (trainingMods s die).all (neverTrained s die) = true then
         settleTraining die (initialTraining die true (badLanes r) s)
       else if (trainingMods s die).all (sameHistory s die) = true then recoveryDone die (badLanes r) (mapSeen r) s
       else mismatch die s)) ∧
  (∀ (die : Nat) (s : State), die < 28 → trainingMods s die ≠ [] → fenceTime s die + 2000000 ≤ now s →
    exec (.trainingTimeout die) s = .next (couplingsFail die 2 s)) ∧
  ∀ (die : Nat) (s : State), die < 28 → dieServes s die = true →
    exec (.couplingEndReset die true) s = .next
      (beginTraining die (modulesOf die) (forAll (modulesOf die) (fun m s => setMod die m 3 0 s) s)) ∧
    exec (.couplingEndReset die false) s = .next (beginTraining die (modulesOf die) (forAll (modulesOf die) (fun m s =>
      { s with panel := { s.panel with galEnd := tblSet {} s.panel.galEnd (die * 4 + m) {} } }) s))

/-- Retirement, promotion and retest of galleries and sites (R56-R61): a gallery retires on request and for each reason; a site in
STATE 3 is powered for a retest, which ends with its result; a reserve that passes takes the gallery, one that fails is retired. -/
def Obligations.GalleriesRetire : Prop :=
  (∀ (who : Requester) (g : Nat) (s : State), reaches .wo who nP 0x2102 1 g s = true → siteOf s g ≠ 0xFF →
    promoting (arrived who nP 0x2102 1 g s) = false →
    exec (.retireGallery who g) s = .next (ended who nP 0x2102 1 (retireWhenRun g 5 (arrived who nP 0x2102 1 g s)))) ∧
  (∀ (g reason : Nat) (s : State), g < 22 → 1 ≤ reason → reason ≤ 6 → mayRetire s = true →
    exec (.galleryRetirement g reason) s = .next (beginRetirement g reason s)) ∧
  (∀ (who : Requester) (n : Nat) (s : State), reaches .wo who nP 0x2102 7 n s = true → s.modes.mode = .service →
    siteStateOf s n = 3 → siteReasonOf s n ∈ [1, 2, 4, 6] →
    exec (.retestSite who n) s = .next (pending who nP 0x2102 7 (powerSite n { arrived who nP 0x2102 7 n s with
      panel := { s.panel with retest := s.panel.retest ++ [(n, who, s.cat.nextTag)] } }))) ∧
  (∀ (site : Nat) (pass : Bool) (tr : Training) (ways : BitVec 16) (x : Promotion) (s : State), site < 24 →
    s.panel.promo = some x → x.trying = some site →
    exec (.siteSelfTestComplete site pass tr ways) s = .next (bootOn (if siteVerdict s site pass tr = 0
      then promote x site (badLanes tr) (addBadWays site ways (showIdent site s))
      else reserveFails x site (siteVerdict s site pass tr) s))) ∧
  ∀ (site : Nat) (pass : Bool) (tr : Training) (ways : BitVec 16) (s : State), site < 24 →
    (∀ x, s.panel.promo = some x → x.trying ≠ some site) → (s.panel.retest.any fun e => e.1 == site) = true →
    exec (.siteSelfTestComplete site pass tr ways) s = .next (retestDone site (siteVerdict s site pass tr) ways s)

/-! The Hodometer. -/

/-- Encoder events (R92-R98): a level that the filter accepts moves the quadrature or the index, a receiver fault and its end reach
the encoder, and the speed is shown again at a timeout. -/
def Obligations.EncoderEvents : Prop :=
  (∀ (e edge : Nat) (l : Bool) (s : State), e < 8 → counting s e = true → filtered s e edge = true →
    exec (.encoderLevelAccepted e (.a l) edge) s = .next (acceptAB e (some l) none edge s) ∧
    exec (.encoderLevelAccepted e (.b l) edge) s = .next (acceptAB e none (some l) edge s) ∧
    exec (.encoderLevelAccepted e (.z l) edge) s = .next (acceptZ e l edge s)) ∧
  (∀ (e edge : Nat) (la lb : Bool) (s : State), e < 8 → counting s e = true → filtered s e edge = true →
    exec (.encoderLevelAccepted e (.ab la lb) edge) s = .next (acceptAB e (some la) (some lb) edge s)) ∧
  (∀ (e : Nat) (l : EncLine) (s : State), e < 8 → s.modes.mode.on = true →
    exec (.encoderLineFault e l) s = .next (withOnsets e (setReceiver e l true) s) ∧
    exec (.encoderLineRestored e l) s = .next (setReceiver e l false s)) ∧
  ∀ (e : Nat) (s : State), e < 8 → s.modes.mode = .keep ∨ s.modes.mode.active = true →
    exec (.speedTimeout e) s = .next (showSpeed e s)

/-- Writes of the Hodometer's objects (R95, R98, R100, R112): a preset loaded now or armed for the index, a fault word
cleared, a program reconfigured, an output fired as a test. -/
def Obligations.HodometerWrites : Prop :=
  (∀ (who : Requester) (e : Nat) (s : State), e < 8 → reaches .wo who nH (0x3100 + e) 8 1 s = true →
    encoderInUse (arrived who nH (0x3100 + e) 8 1 s) e = false →
    exec (.loadPresetNow who e) s = .next (ended who nH (0x3100 + e) 8 (loadPosition e (arrived who nH (0x3100 + e) 8 1 s)))) ∧
  (∀ (who : Requester) (e : Nat) (s : State), e < 8 → reaches .wo who nH (0x3100 + e) 8 2 s = true →
    encoderInUse (arrived who nH (0x3100 + e) 8 2 s) e = false →
    exec (.loadPresetAtIndex who e) s = .next (ended who nH (0x3100 + e) 8
      (setEnc e { (arrived who nH (0x3100 + e) 8 2 s).enc e with homing := true } (arrived who nH (0x3100 + e) 8 2 s)))) ∧
  (∀ (who : Requester) (e v : Nat) (s : State), e < 8 → reaches .w1c who nH (0x3200 + e) 6 v s = true →
    ∃ t, ruleFaultClear e v (arrived who nH (0x3200 + e) 6 v s) = answered t ∧ exec (.faultWordClear who e v) s = .next (written .w1c who t)) ∧
  (∀ (who : Requester) (n sub v : Nat) (acc : Acc) (s : State), n < 32 → acc ≠ .wo →
    reaches acc who nH (0x3300 + n) sub v s = true → s.hodo.armed = false → progWriteBad (arrived who nH (0x3300 + n) sub v s) n sub v = false →
    exec (.programConfigWrite who n sub v) s = .next
      (written acc who (resetProgram n (setO nH (0x3300 + n) sub v (arrived who nH (0x3300 + n) sub v s))))) ∧
  ∀ (who : Requester) (n : Nat) (s : State), reaches .wo who nH 0x3000 8 n s = true → s.modes.mode = .run →
    exec (.testFire who n) s = .next (ended who nH 0x3000 8 (deliver n (testTrig (arrived who nH 0x3000 8 n s) n) (arrived who nH 0x3000 8 n s)))

/-- Triggers (R103-R111, R117): an interpolated, a time and an extrapolated trigger fire at their moments, extrapolation ends at its
limit, programs resume after a clear interval, and an output pulse ends. -/
def Obligations.TriggersFire : Prop :=
  (∀ (n t : Nat) (s : State), n < 32 → (s.prog n).pendingAt = some t → live s n t = true → t ≤ now s →
    exec (.interpolatedTrigger n) s = .next (firePoint n t false (setProg n { s.prog n with pendingAt := none } s))) ∧
  (∀ (n : Nat) (s : State), n < 32 → s.hodo.armed = true → progCfg s n 1 = 2 → progO s n 8 = 1 →
    timeOf s n (progO s n 1) ≤ now s →
    exec (.timeTrigger n) s = .next (fire n (timeOf s n (progO s n 1)) (sampledPos s n) false s)) ∧
  (∀ (n t : Nat) (x : Extrap) (s : State), n < 32 → (s.prog n).extra = some x → extrapInstant s n x = some t →
    s.hodo.armed = true → progO s n 8 = 2 → t ≤ now s → t ≤ x.start + progCfg s n 8 * 1000 →
    exec (.extrapolatedTrigger n) s = .next (firePoint n t true s)) ∧
  (∀ (n : Nat) (x : Extrap) (s : State), n < 32 → (s.prog n).extra = some x → s.hodo.armed = true → progO s n 8 = 2 →
    x.start + progCfg s n 8 * 1000 ≤ now s →
    exec (.extrapolationLimitExpiry n) s = .next (setProgState n 3 (setProg n { s.prog n with extra := none } s))) ∧
  (∀ (e t : Nat) (s : State), e < 8 → (s.enc e).clearSince = some t → s.hodo.armed = true → encFault s e = false →
    t + 1000000 ≤ now s → exec (.faultClearIntervalEnd e) s = .next (forAll ((List.range 32).filter fun n =>
      usesEncoder s n e && (progO s n 8 == 2 || progO s n 8 == 3)) (fun n s => resume n e s) s)) ∧
  ∀ (o : Nat) (s : State), o < 16 → tblGet 0 s.hodo.pulse o ≤ now s * 10 →
    exec (.outputPulseEnd o) s = .next { s with hodo := { s.hodo with pulse := tblErase s.hodo.pulse o } }

/-! Accession and Mosaic. -/

/-- Frames of a lane (R121-R131): while the lane is up it answers a frame by itself once, and sends Sync and Announce when their
interval has passed, with the time that R124 gives; nothing but the record of what was sent and the lane's count and timers changes;
a control packet from the right source is posted with its 16-byte header, a control transmission goes out from its queue's oldest
entry. -/
def Obligations.LaneFrames : Prop :=
  (∀ (l mac ip : Nat) (s : State), l < 64 → laneUp s l = true →
    exec (.arpRequest l mac ip (laneO s l 4)) s = .next (emit (.arpReply l ip mac) (frameIn l s))) ∧
  (∀ (l ip seq ident arrival : Nat) (s : State), l < 64 → laneUp s l = true → arrival ≤ now s → wrongSource s l ip = false →
    exec (.delayReq l ip seq ident arrival) s = .next (emit (.delayResp l seq ident (laneTime s arrival)) (frameIn l s))) ∧
  (∀ (l : Nat) (s : State), l < 64 → laneUp s l = true →
    (elapsed s.acc.syncAt l (1000000000 / 2 ^ laneO s l 0x0B) s = true → exec (.ptpSyncTimer l) s = .next
      (emit (.ptpSync l (laneTime s (now s)))
        { s with acc := { s.acc with syncAt := tblSet 0 s.acc.syncAt l (now s + 1) } })) ∧
    (elapsed s.acc.announceAt l 1000000000 s = true → exec (.ptpAnnounceTimer l) s = .next
      (emit (.ptpAnnounce l (if getO s nP 0x2010 3 = 2 then 6 else 248))
        { s with acc := { s.acc with announceAt := tblSet 0 s.acc.announceAt l (now s + 1) } }))) ∧
  (∀ (l ip sp dp : Nat) (bytes : List Byte) (s : State), l < 64 → ip < 2 ^ 32 → sp < 65536 → dp < 65536 →
    laneUp s l = true → dp = laneO s l 7 ∨ dp = laneO s l 8 → dp ≠ 319 → dp ≠ 320 → bytes.length ≤ 8972 →
    wrongSource s l ip = false → controlRoom s l (16 + bytes.length) = true → isActionAck bytes = false →
    exec (.controlPacketReceived l ip sp dp bytes) s = .next (postNow (.lane l) (laneO s l 0x0A)
      (leBytes 4 ip ++ leBytes 2 sp ++ leBytes 2 dp ++ leBytes 8 (now s) ++ bytes) (frameIn l s))) ∧
  (∀ (l : Nat) (b : List Byte) (s t : State) (slot : List Byte), l < 64 → laneUp s l = true →
    laneO s l 9 < 65536 → qRunning s (laneO s l 9) = true → qKind s (laneO s l 9) = 3 →
    queueOwner s (laneO s l 9) = laneO s l 2 → qHeld s (laneO s l 9) ≠ 0 →
    mappedRange s (slotAddr s (laneO s l 9) (qC s (laneO s l 9))) 8 = true →
    mappedRange s (slotAddr s (laneO s l 9) (qC s (laneO s l 9))) (transmitSpan s (laneO s l 9)) = true →
    ioRead (slotAddr s (laneO s l 9) (qC s (laneO s l 9))) (transmitSpan s (laneO s l 9)) s = (t, slot, []) →
    transmitEntry (qElem s (laneO s l 9)) slot = some b → leAt b 0 4 ≠ 0 → leAt b 0 4 ≠ 0xFFFFFFFF →
    exec (.controlTransmitEntry l) s = .next (emit (.gvcp l (headMac s l) (leAt b 0 4) (laneO s l 7) (leAt b 4 2) (b.drop 8))
      (advanceC (laneO s l 9) 1 t)))

/-- Lines of a Mosaic ring (R136-R146): a line meets its seal at the timeout, the next line is sealed and posted in order, and
the deposit's end seals what is still open. -/
def Obligations.LinesSealAndPost : Prop :=
  (∀ (r k : Nat) (h : HeldLine) (s : State), r < 256 → (s.ring r).held.find? (·.k == k) = some h →
    s.modes.mode.active = true → h.trigger + ringO s r 0x4200 9 ≤ now s →
    exec (.sealTimeout r k) s = .next (meetSeal r k 1 s)) ∧
  (∀ (r : Nat) (s : State), r < 256 → s.modes.mode.active = true → exec (.lineSeal r) s = .next (sealNext r s) ∧
    exec (.completionPost r) s = .next (postNext r s)) ∧
  ∀ (t : Nat) (s : State), s.acc.disarmAt = some t → t ≤ now s →
    exec .disarmSealTimeout s = .next (disarmSeals { s with acc := { s.acc with disarmAt := none } })

/-- Enables of lanes, stream contexts and rings (R122, R128, R133): accepted outside a deposit where the configuration is valid, and
committed; a lane's link that is lost is recorded and counted, one that returns is up again; a stream packet reaches the context of its
port, and a frame that R121 or R133 drops counts under the reason that the first row which applies gives (R121, R147): no room in the
lane's buffer, the frame's checks or length, its destination, then the rows of its packet. A frame that none applies to is not dropped.
What waits in the lane's buffer is an operand (log entry 81). -/
def Obligations.StreamEnables : Prop :=
  (∀ (who : Requester) (l : Nat) (s : State), l < 64 → reaches .rwp who (nLane l) 0x4010 1 1 s = true → laneO s l 1 ≠ 1 →
    laneO (setO (nLane l) 0x4010 1 1 (arrived who (nLane l) 0x4010 1 1 s)) l 1 = 1 →
    laneOk (setO (nLane l) 0x4010 1 1 (arrived who (nLane l) 0x4010 1 1 s)) l = true →
    exec (.laneEnable who l 1) s = .next (written .rwp who (onlyIf s.modes.mode.active (setLink l 1)
      (setO (nLane l) 0x4010 1 1 (arrived who (nLane l) 0x4010 1 1 s))))) ∧
  (∀ (who : Requester) (c : Nat) (s : State), c < 16384 → reaches .rwp who (nCtx c) 0x4100 1 1 s = true → ctxO s c 1 ≠ 1 →
    ctxOk (setO (nCtx c) 0x4100 1 1 (arrived who (nCtx c) 0x4100 1 1 s)) c = true →
    exec (.streamContextEnable who c 1) s = .next (written .rwp who
      (let t := setO (nCtx c) 0x4100 1 1 (arrived who (nCtx c) 0x4100 1 1 s)
       barMember (ctxO t c 4) (ctxO t c 5) (setCtx c {} t)))) ∧
  (∀ (who : Requester) (r : Nat) (s : State), r < 256 → reaches .rwp who (nRing r) 0x4200 1 1 s = true →
    ringO s r 0x4200 1 ≠ 1 → ringOk (setO (nRing r) 0x4200 1 1 (arrived who (nRing r) 0x4200 1 1 s)) r = true →
    exec (.ringEnable who r 1) s = .next (written .rwp who (setO (nRing r) 0x4200 1 1 (arrived who (nRing r) 0x4200 1 1 s)))) ∧
  (∀ (l : Nat) (s : State), l < 64 → laneUp s l = true → exec (.laneLinkLoss l) s = .next
    (setLink l 1 (addO (nLane l) 0x4010 0x0D 1
      (record { cls := 4, action := 0, kind := 0x0A, unit := l, part := laneO s l 2 } s)))) ∧
  (∀ (l : Nat) (s : State), l < 64 → s.modes.mode.active = true → laneO s l 1 = 1 → laneO s l 0x0C = 1 →
    exec (.laneLinkReturn l) s = .next (setLink l 2 (onlyIf (openOnLane s l)
      (record { cls := 4, action := 0, kind := 0x0A, unit := l, part := laneO s l 2 }) s))) ∧
  (∀ (l c : Nat) (p : StreamPkt) (f : ArrayFinding) (s : State), l < 64 → p.blockId < 2 ^ 64 → p.dstPort < 65536 → laneUp s l = true →
    p.dstPort ∉ [319, 320, laneO s l 7, laneO s l 8] → tooLong (66 + ((gvspImage p.form).getD []).length) = false →
    wrongSource s l p.srcIp = false → contextOf s l p.dstPort = some c →
    exec (.streamPacket l p f) s = .next (streamCtx l c p (contextRecord 0 c 0 f (frameIn l s)))) ∧
  ∀ (l : Nat) (f : LaneFrame) (s : State), l < 64 → laneUp s l = true →
    let drop := fun r => exec (.laneFrameDropped l f) s = .next (dropLaneFrame l r s)
    (getO s nX 0x4000 6 < f.waiting + f.length → drop 1) ∧
    (f.waiting + f.length ≤ getO s nX 0x4000 6 →
      (f.checksGood = false ∨ tooLong f.length = true → drop 2) ∧
      (f.checksGood = true → tooLong f.length = false →
        (f.dstMac ∉ [laneO s l 3, broadcastMac, ptpMac] ∨ f.packet = .other → drop 3) ∧
        (f.dstMac ∈ [laneO s l 3, broadcastMac, ptpMac] →
          (∀ (request : Bool) (ip : Nat), f.packet = .arp request ip → request = false ∨ ip ≠ laneO s l 4 → drop 3) ∧
          ∀ (src dst port n : Nat) (time ack : Bool), f.packet = .udp src dst port n time ack →
            (dst ∉ [laneO s l 4, ptpIp] → drop 3) ∧
            (dst ∈ [laneO s l 4, ptpIp] → wrongSource s l src = true → drop 4) ∧
            (dst ∈ [laneO s l 4, ptpIp] → wrongSource s l src = false → port = 319 ∨ port = 320 → time = false → drop 8) ∧
            (dst = laneO s l 4 → dst ≠ ptpIp → wrongSource s l src = false → port ∉ [319, 320] →
              (port ∈ [laneO s l 7, laneO s l 8] →
                (controlRoom s l (16 + n) = false → drop 6) ∧ (controlRoom s l (16 + n) = true → ack = true → drop 7) ∧
                (controlRoom s l (16 + n) = true → ack = false → exec (.laneFrameDropped l f) s = .next s)) ∧
              (port ∉ [laneO s l 7, laneO s l 8] → contextOf s l port = none → drop 5)) ∧
            (dst = ptpIp → wrongSource s l src = false → port ∉ [319, 320] → drop 5))))

/-! Memory. -/

/-- A memory request to a mapped address goes to its resource's controller (R158-R163, R178): a read is handled with what the array shows;
a full-line write to a resource in service leaves its bytes there, good, and every other line as it was; any other write is merged by the
controller. A store-buffer entry that reaches the L2 leaves its buffer (R214), and a prefetch hint fills its line or does nothing (R295).
How many decisions a write queue takes is open (log entry 94). -/
def Obligations.MemoryRequests : Prop :=
  (∀ (cls : SvcClass) (src : MemSource) (a : Nat) (f : Finding) (s : State), sourceOk src = true → findingOk (inHbm a) f = true →
    mapped s a = true → exec (.memoryRequest cls src a .read f) s = .next (ctlRead (a / 64) f s).1) ∧
  (∀ (cls : SvcClass) (src : MemSource) (a : Nat) (d : Line) (k : BitVec 64) (f : Finding) (s : State), sourceOk src = true →
    findingOk (inHbm a) f = true → mapped s a = true →
    exec (.memoryRequest cls src a (.write d k) f) s = .next (ctlWrite cls src (a / 64) d k 0xFF#8 f s)) ∧
  (∀ (cls : SvcClass) (src : MemSource) (a : Nat) (d : Line) (f : Finding) (s : State), sourceOk src = true →
    findingOk (inHbm a) f = true → mapped s a = true →
    resourceRetired s (resourceOf s (64 * (a / 64))) = false →
    ∃ t, exec (.memoryRequest cls src a (.write d (BitVec.allOnes 64)) f) s = .next t ∧
      (∀ i, i < 64 → storedByte t.mem (64 * (a / 64) + i) = lineByte d i ∧ storedForm t.mem (8 * (a / 64) + i / 8) = 0) ∧
      ∀ b, b / 64 ≠ a / 64 → storedByte t.mem b = storedByte s.mem b ∧ storedForm t.mem (b / 8) = storedForm s.mem (b / 8)) ∧
  (∀ (hart : Nat) (e : SbEntry) (rest : List SbEntry) (s t : State), hart < 264 → s.modes.mode.active = true →
    (s.hart hart).run ≠ .inReset → (s.hart hart).sb = e :: rest →
    drainEntry hart e (setHart hart { s.hart hart with sb := rest } s) = (t, true) →
    exec (.storeBufferDrain hart) s = .next t) ∧
  ∀ (hart rs1 : Nat) (kind : HintKind) (off : Word) (s : State), goes s hart →
    let s1 := setHart hart ((s.hart hart).withCsr 0x30A ((s.hart hart).csrOf 0x30A &&& 0xDFFFFFFFFFFFFFFF)) s
    ((∀ t pa, reach hart lrAccess ((s.hart hart).getX rs1 + off) 1 true s1 ≠ (t, .tier pa 0)) →
      exec (.prefetchHint hart kind rs1 off) s = .next (retire hart 4 s)) ∧
    ∀ t pa u, reach hart lrAccess ((s.hart hart).getX rs1 + off) 1 true s1 = (t, .tier pa 0) →
      noAllocate t (hart / 12) ((partOfHart t hart).getD 0) = false → hintFill hart (pa / 64) kind t = some u →
      exec (.prefetchHint hart kind rs1 off) s =
        .next (retire hart 4 (setHart hart ((u.hart hart).withCsr 0x30A ((s.hart hart).csrOf 0x30A)) u))

/-- Memory reads what was written: a line written whole to a resource in service reads back byte for byte and good, and every
byte of another line reads as before (R163, R178, R183). -/
def Obligations.MemoryReadsWhatWasWritten : Prop :=
  ∀ (l : Nat) (d : Line) (m : Memory),
    (∀ i, i < 64 → storedByte (writeLine l d (BitVec.allOnes 64) 0xFF#8 m) (64 * l + i) = lineByte d i ∧
      storedForm (writeLine l d (BitVec.allOnes 64) 0xFF#8 m) (8 * l + i / 8) = 0) ∧
    ∀ a, a / 64 ≠ l → storedByte (writeLine l d (BitVec.allOnes 64) 0xFF#8 m) a = storedByte m a ∧
      storedForm (writeLine l d (BitVec.allOnes 64) 0xFF#8 m) (a / 8) = storedForm m (a / 8)

/-- A masked write changes no byte that its mask leaves out, and no byte of a poisoned word unless it covers that word whole in
one write (R178, R183); the same of a line merged by its controller, in a memory in canonical form. -/
def Obligations.MaskedWriteFrame : Prop :=
  ∀ (l : Nat) (d : Line) (k : BitVec 64) (w : BitVec 8) (m : Memory) (a : Nat),
    (a / 64 ≠ l ∨ k.getLsbD (a % 64) = false ∨
      (storedForm m (a / 8) ≠ 0 ∧ (k.extractLsb' (8 * (a % 64 / 8)) 8 ≠ 0xFF#8 ∨ w.getLsbD (a % 64 / 8) = false))) →
    storedByte (writeLine l d k w m) a = storedByte m a ∧
    (m.Good → (∀ i, storedForm m i < 256) → storedByte (writeLineData l (mergeLine (storedLine m l) d k w) m) a = storedByte m a)

/-- Refresh, self-refresh and initialisation (R157, R158, R164-R166): what each of these events does. A bank at its limit is refreshed
before the writes that wait. How many decisions the write queue takes is open (log entry 94). -/
def Obligations.RefreshEvents : Prop :=
  (∀ (pc bank : Nat) (s : State), pc < 128 → bank < 1024 → s.modes.mode.active = true →
    s.mem.retiredPcs.contains pc = false →
    exec (.hbmRefreshDue pc bank false) s = .next
      (let first := decide (postponeLimit s ≤ tblGet 0 s.mem.postponed (pc * 1024 + bank)) && !(wqNow s (.hbm pc)).1.entries.isEmpty
       let n := if first then postponeLimit s else 0
       let t := if first then setWq (.hbm pc) (wqNow s (.hbm pc)) s else queueEmptied (.hbm pc) s
       maxO nP (0x5020 + pc / 32) 4 n
         { t with mem := { t.mem with postponed := tblSet 0 t.mem.postponed (pc * 1024 + bank) n } })) ∧
  (∀ (pc bank : Nat) (s : State), pc < 128 → bank < 1024 → s.modes.mode.active = true →
    s.mem.retiredPcs.contains pc = false → tblGet 0 s.mem.postponed (pc * 1024 + bank) < postponeLimit s →
    exec (.hbmRefreshDue pc bank true) s = .next (pkgEvent 0x806 none pc 1
      (let n := tblGet 0 s.mem.postponed (pc * 1024 + bank) + 1
       maxO nP (0x5020 + pc / 32) 4 n
         { s with mem := { s.mem with postponed := tblSet 0 s.mem.postponed (pc * 1024 + bank) n } }))) ∧
  (∀ (c : Nat) (s : State), c < 8 → exec (.ddr5RefreshDue c) s = .next s) ∧
  (∀ (c : Nat) (s : State), c < 8 → idleMayEnter s c = true → exec (.idleSelfRefreshEntry c) s = .next
    (addO nP (0x5030 + c) 4 1 (setO nP (0x5030 + c) 1 2
      (queueEmptied (.ddr c) { s with mem := { s.mem with selfRefresh := addTo s.mem.selfRefresh c } })))) ∧
  (∀ s : State, s.modes.mode.active = true → s.mem.trained = true → getO s nP 0x5000 9 = 0 →
    ∃ t, exec .ddr5InitComplete s = .next t ∧ getO t nP 0x5000 9 = 1 ∧ getO t nP 0x5000 0x0A = 100 ∧
      (∀ w, w < ddrBase / 8 → storedForm t.mem w = storedForm s.mem w) ∧ ∀ w, ddrBase / 8 ≤ w → storedForm t.mem w = 1) ∧
  (∀ (pc : Nat) (hot : Bool) (s : State), pc < 128 → ∃ t, exec (.refreshRateChange (.hbm pc) hot) s = .next t ∧
    getO t nP (0x5020 + pc / 32) 3 = (if hot then 2 else 1) ∧ t.mem = s.mem) ∧
  ∀ (c : Nat) (s : State), c < 8 →
    exec (.refreshRateChange (.ddr c) true) s = .next
      { s with mem := { s.mem with hotChannels := addTo s.mem.hotChannels c } } ∧
    exec (.refreshRateChange (.ddr c) false) s = .next
      { s with mem := { s.mem with hotChannels := dropFrom s.mem.hotChannels c } }

/-- Scrubbing (R186-R192): a scrub read that may be made is handled and advances the scrubber unless it retires the resource, a wake-up
wakes the channel and scrubs the lines that fell due as long as the channel is in service, and retirements are cleared in SERVICE only.
That its reads are no requests for the idle time is log entry 61. -/
def Obligations.ScrubbingAdvances : Prop :=
  (∀ (pc : Nat) (f : Finding) (s : State), pc < 128 → findingOk true f = true → scrubMay s (.hbm pc) = true →
    exec (.scrubReadDue (.hbm pc) f) s = .next (scrubLine (.hbm pc) f (queueEmptied (.hbm pc) s))) ∧
  (∀ (c : Nat) (f : Finding) (s : State), c < 8 → findingOk false f = true → scrubMay s (.ddr c) = true →
    exec (.scrubReadDue (.ddr c) f) s = .next (scrubLine (.ddr c) f (queueEmptied (.ddr c) s))) ∧
  (∀ (ch : MemCh) (f : Finding) (s : State),
    let u := (readHandled (resourceLine s ch (tblGet 0 s.mem.scrubPos (chKey ch))) f s).1
    (resourceRetired u ch = true → scrubLine ch f s = u) ∧
    (resourceRetired u ch = false → tblGet 0 (scrubLine ch f s).mem.scrubPos (chKey ch) =
      if resourceLines s ch ≤ tblGet 0 s.mem.scrubPos (chKey ch) + 1 then 0
      else tblGet 0 s.mem.scrubPos (chKey ch) + 1)) ∧
  (∀ (c : Nat) (l : List Finding) (s : State), c < 8 → l.all (findingOk false) = true → resourceUp s (.ddr c) = true →
    s.mem.selfRefresh.contains c = true → getO s nP 0x5041 1 = 1 →
    tblGet 0 s.mem.lastScrub (chKey (.ddr c)) + getO s nP 0x5041 3 * 1000000 ≤ now s →
    exec (.scrubWake c l) s = .next
      (let t := forAll (List.range (dueLines s (.ddr c))) (fun i s =>
         if resourceRetired s (.ddr c) then s else scrubLine (.ddr c) (l.getD i .clean) s)
         (setO nP (0x5030 + c) 1 1 { s with mem := { s.mem with selfRefresh := dropFrom s.mem.selfRefresh c } })
       { t with mem := { t.mem with lastScrub := tblSet 0 t.mem.lastScrub (chKey (.ddr c)) (now s) } })) ∧
  ∀ (who : Requester) (s : State), reaches .wo who nP 0x5000 0x0B 1 s = true → s.modes.mode = .service →
    ∃ t, ruleClearRetirements (arrived who nP 0x5000 0x0B 1 s) = actionDone t ∧
      exec (.clearRetirements who 1) s = .next (ended who nP 0x5000 0x0B t) ∧
      t.mem.committedPcs = [] ∧ t.mem.committedChannels = []

/-- The checker test mode (R191-R193): where it is enabled in RUN on a mapped line, each of its four actions is one request at the
line's controller, is performed, and 5050h.08h reads 01h. -/
def Obligations.CheckerTestActions : Prop :=
  ∀ (who : Requester) (s : State),
    let at_ := fun (n : Nat) => arrived who nP 0x5050 5 n s
    let performed := fun (t : State) => Host.Outcome.next (ended who nP 0x5050 5 (setO nP 0x5050 8 1 t))
    let line := testLine s
    (reaches .wo who nP 0x5050 5 1 s = true → testRefused who (at_ 1) = false →
      let u := testRequest true (at_ 1)
      exec (.testWriteData who) s = performed (setCheck line (storedCheck u line)
        { u with mem := writeLine line (BitVec.ofNat 512 (getO u nP 0x5050 3)) (BitVec.allOnes 64) 0xFF#8 u.mem })) ∧
    (reaches .wo who nP 0x5050 5 2 s = true → testRefused who (at_ 2) = false →
      exec (.testWriteCheck who) s = performed (setCheck (testLine (testRequest true (at_ 2)))
        (if inHbm (64 * testLine (testRequest true (at_ 2)))
          then ((BitVec.ofNat 128 (getO s nP 0x5050 4)).setWidth 64).setWidth 128
          else BitVec.ofNat 128 (getO s nP 0x5050 4)) (testRequest true (at_ 2)))) ∧
    (reaches .wo who nP 0x5050 5 3 s = true → testRefused who (at_ 3) = false →
      let u := testRequest false (at_ 3)
      exec (.testReadRaw who) s = performed (setO nP 0x5050 6 (storedLine u.mem (testLine u)).data.toNat
        (setO nP 0x5050 7 (storedCheck u (testLine u)).toNat u))) ∧
    (reaches .wo who nP 0x5050 5 4 s = true → testRefused who (at_ 4) = false →
      exec (.testPoison who) s = performed (storeLine line (mkLine (fun _ => 0) fun _ => 6) (testRequest true (at_ 4))))

/-! The Archive. -/

/-- Archive packets, grants and objects (R364-R376): a packet command takes the oldest packet of its served channel where its
operation code is that command's own; a grant that fits is recorded and sent, and one without data in time fails its command;
a namespace is disabled where no command is open on it, and retirements are cleared in SERVICE. -/
def Obligations.ArchiveCommands : Prop :=
  (∀ (c : Nat) (l k : List Nat) (s t : State) (b : List Byte), c < 64 → channelServed s c = true →
    let q := getO s nP (0xA200 + c) 2
    let a := slotAddr s q (qC s q + (s.chan c).taken.length)
    (s.chan c).taken.length < qHeld s q → mappedRange s a 64 = true → ioRead a 64 s = (t, b, []) → packetOk b = true →
    (leAt b 0 1 = 1 → exec (.archiveWrite c) s = .next (settle (takeCommand c b [] [] t))) ∧
    (leAt b 0 1 = 2 → exec (.archiveRead c l k) s = .next (settle (takeCommand c b l k t))) ∧
    (leAt b 0 1 = 3 → exec (.archiveFlush c) s = .next (settle (takeCommand c b [] [] t))) ∧
    (leAt b 0 1 = 4 → exec (.archiveZero c) s = .next (settle (takeCommand c b [] [] t))) ∧
    (leAt b 0 1 = 5 → exec (.archiveData c) s = .next (settle (takeData c b t))) ∧
    (leAt b 0 1 = 6 → exec (.archiveQuery c) s = .next (settle (takeQuery c b t)))) ∧
  (∀ (c : Nat) (h m : Cmd) (s : State), c < 64 → (s.chan c).head = some h → nextGrant s (nsDie s h.ns) = some (c, m) →
    s.modes.mode.active = true → m.op = 1 → grantFits s (nsDie s h.ns) m = true →
    exec (.transferReady c) s = .next (settle (pushRecord c 0 (grantRecord c m (now s)) (giveGrant c m s)))) ∧
  (∀ (c q k t : Nat) (rest : List (Nat × Nat)) (m : Cmd) (s : State), c < 64 → q < 2 ^ 32 → (s.chan c).find q = some m →
    m.op = 1 → m.grants = (k, t) :: rest → s.modes.mode.active = true → t + getO s nP (0xA200 + c) 0x0A * 1000 ≤ now s →
    exec (.grantTimeout c q) s = .next (settle (endCmd c { m with grants := [] } 8 (m.lba + m.entered) s))) ∧
  ∀ (who : Requester) (s : State),
    (∀ n : Nat, n < 32 → reaches .rwp who nP (0xA100 + n) 1 0 s = true → nsOpen (arrived who nP (0xA100 + n) 1 0 s) n = false →
      exec (.namespaceEnable who n 0) s = .next (written .rwp who (fittedWrite (setO nP (0xA100 + n) 1 0 (arrived who nP (0xA100 + n) 1 0 s))))) ∧
    (reaches .wo who nP 0x8205 7 1 s = true → s.modes.mode = .service → exec (.clearArchiveRetirements who 1) s = .next
      (ended who nP 0x8205 7 { arrived who nP 0x8205 7 1 s with arch := { s.arch with retiredDies := [], retiredFrames := [] } }))

/-- The medium side of the Archive (R361-R387): a drain starts at the age limit, programming ends with the commit of D, a durable
commit, the scan of a unit without error, the loss of a die, the attempts to train it again, and the end of its frames. -/
def Obligations.ArchiveMediumAndObjects : Prop :=
  (∀ (d u t : Nat) (s : State), d < 4 → u < 16384 → (s.frame (unitKey d u)).oldest = some t → s.modes.mode.active = true →
    t + getO s nP 0xA000 7 * 1000 ≤ now s → exec (.drainAgeExpiry d u) s = .next (startDrain (unitKey d u) s)) ∧
  (∀ (d u : Nat) (a b : BitVec 32) (s : State), d < 4 → u < 16384 → (s.frame (unitKey d u)).programming = true → dieUp s d = true →
    s.modes.mode.on = true → s.modes.mode ≠ .keep →
    exec (.unitProgramComplete d u a b) s =
      .next (commitAll (settle (programUnit (unitKey d u) (readFrame (unitKey d u) a b s))))) ∧
  (∀ (c : Nat) (s : State), c < 64 → s.modes.mode.on = true → s.modes.mode ≠ .keep →
    exec (.durableSequenceCommit c) s = .next (commitD c s)) ∧
  (∀ (d : Nat) (s : State), d < 4 → s.modes.mode.active = true → dieUp s d = true →
    (s.arch.frame.any fun e => e.1 / 2 ^ 14 == d && e.2.programming) = false →
    (∀ i, i < 32 → (tblGet {} s.arch.medium (unitKey d (tblGet 0 s.arch.scanPos d) * 32 + i)).bad = false) →
    exec (.mediumScan d 0 0 0) s = .next (settle (scanAdvance d s))) ∧
  (∀ (d : Nat) (s : State), d < 4 → s.modes.mode.on = true → s.modes.mode ≠ .keep →
    exec (.archiveDieUnavailable d) s = .next (settle (dieUnavailable d s))) ∧
  (∀ (d : Nat) (l : BitVec 16) (s : State), d < 4 → s.modes.mode.on = true → s.modes.mode ≠ .keep →
    getO s nP (0xA010 + d) 1 = 2 → tblGet 0 s.arch.lostAt (10 + d) + 100000000 ≤ now s →
    let t := { s with arch := { s.arch with lostAt := tblSet 0 s.arch.lostAt (10 + d) (now s) } }
    exec (.archiveDieRetrain d none) s = .next t ∧
    exec (.archiveDieRetrain d (some l)) s = .next
      (if neverTrained t (24 + d) 0 = true then
        settleTraining (24 + d) (initialTraining (24 + d) true (fun _ => l.toNat) t)
      else if sameHistory t (24 + d) 0 = true then settleTraining (24 + d)
        (setEpoch (24 + d) 0 (nextEpoch (getMod t (24 + d) 0 3)) true (trainModule (24 + d) true 0 l.toNat t))
      else mismatch (24 + d) t)) ∧
  ∀ (d : Nat) (s : State), d < 4 → getO s nP (0xA010 + d) 1 = 2 → tblGet 0 s.arch.lostAt d + 1000000000 ≤ now s →
    exec (.archiveDieLossTimeout d) s = .next (settle (discardFrames d s))

/-! Queues, interrupts and Dray. -/

/-- Doorbell stores (R286, R335-R337, R358): a running hart whose store passes the checks, whose store buffer is empty and whose
gallery is not fenced has its queue's effect; a store that meets an exception takes it, as one in M-mode to the doorbell of a queue
of another partition does: a store access fault at its address, with no queue changed. -/
def Obligations.DoorbellStores : Prop :=
  ∀ (h q v : Nat) (va : Word) (s t : State), h < 264 → q < 65536 → v < 2 ^ 32 → s.modes.mode.active = true →
    (s.hart h).run = .running →
    ((t.hart h).sb = [] → fenced t (h / 12) = false →
      (reach h storeAccess va 4 (va.toNat % 4 == 0) s = (t, .device (doorbellAddr q)) →
        exec (.pidxWrite h va q v) s = .next (storePidx q v t)) ∧
      (reach h storeAccess va 4 (va.toNat % 4 == 0) s = (t, .device (doorbellAddr q + 4)) →
        exec (.cidxWrite h va q v) s = .next (storeCidx q v t)) ∧
      (reach h storeAccess va 4 (va.toNat % 4 == 0) s = (t, .device (doorbellAddr q + 8)) →
        exec (.armWrite h va q v) s = .next (storeArm q v t))) ∧
    (∀ e : Exc, reach h storeAccess va 4 (va.toNat % 4 == 0) s = (t, .exc e) →
      exec (.pidxWrite h va q v) s = .next (takeExc h e t) ∧ exec (.cidxWrite h va q v) s = .next (takeExc h e t) ∧
      exec (.armWrite h va q v) s = .next (takeExc h e t)) ∧
    ((s.hart h).accPriv storeAccess = .m → partOfHart s h ≠ some (queueOwner s q) → va = BitVec.ofNat 64 (doorbellAddr q) →
      exec (.pidxWrite h va q v) s = .next (takeExc h (.trap 7 va) s))

/-- Interrupt-file stores, posts and Dray (R340, R343, R345, R350, R356): an identity set pending by a store that passes the checks, an
entry posted to a valid target that has room for it, an event condition evaluated after the access to its queue; a load command whose
queue has a load to take, or one in progress, makes one turn of it when the turn is the queue's, of at most 4 KiB. The order of the round
is the model's choice (log entry 104). -/
def Obligations.PostsAndLoads : Prop :=
  ((∀ (h g v : Nat) (m : Bool) (va : Word) (s t : State), h < 264 → g < 264 → v < 2 ^ 32 → s.modes.mode.active = true →
    (s.hart h).run = .running → reach h storeAccess va 4 (va.toNat % 4 == 0) s = (t, .device (fileAddr g m)) →
    (t.hart h).sb = [] → fenced t (h / 12) = false →
    exec (.seteipnumWrite h va g m v) s = .next (fileStore g m 0 4 v t)) ∧
  (∀ (q p : Nat) (e : List Byte) (s : State), q < 65536 → p < 16 → s.modes.mode.active = true → validTarget s q p = true →
    e.length ≤ qRoom s q → exec (.queuePost q p e) s = .next (post q p e s)) ∧
  (∀ (q : Nat) (f g : ArrayFinding) (s : State), q < 65536 → s.modes.mode.active = true → qEnabled s q = true →
    exec (.queueEventDelay q f g) s = .next (queueEval q (queueAccess q f g s)))) ∧
  (∀ (q : Nat) (s : State), q < 65536 → s.modes.mode.active = true → hasLoad s q = true → isTurn s q = true →
    (∀ (b : List Byte) (l : Load) (t : State), (s.queue q).load = none →
      ioRead (slotAddr s q (qC s q)) 64 s = (t, b, []) → parseLoad b = some l →
      ((l.reads ++ l.writes).all fun r => ioRangeOk t (queueOwner s q) r.1 r.2) = true →
      let u := startLoad q (leAt b 0 1) l (leAt b 4 4) (leAt b 1 1 % 2 == 1) (nowServed q t)
      (leAt b 0 1 = 1 → exec (.copy q) s = .next u) ∧ (leAt b 0 1 = 2 → exec (.fill q) s = .next u) ∧
      (leAt b 0 1 = 3 → exec (.copy2d q) s = .next u)) ∧
    ∀ g : Going, (s.queue q).load = some g →
      (g.op = 1 → exec (.copy q) s = .next (goOnLoad q g (nowServed q s))) ∧
      (g.op = 2 → exec (.fill q) s = .next (goOnLoad q g (nowServed q s))) ∧
      (g.op = 3 → exec (.copy2d q) s = .next (goOnLoad q g (nowServed q s)))) ∧
  (∀ (l : Load) (r off : Nat), turnLen l r off ≤ 4096 ∧ (off < l.row → 0 < turnLen l r off ∧ off + turnLen l r off ≤ l.row)) ∧
  ∀ (q : Nat) (g : Going) (s t : State) (h : Going), turn q g s = (t, h) →
    (g.off + turnLen g.load g.r g.off = g.load.row → h.r = g.r + 1 ∧ h.off = 0) ∧
    (g.off + turnLen g.load g.r g.off ≠ g.load.row → h.r = g.r ∧ h.off = g.off + turnLen g.load g.r g.off) ∧
    goOnLoad q g s = if h.r = g.load.rows then endLoad q (if h.lost then 4 else if h.poisoned then 1 else 0) g.tag
        (g.load.rows * g.load.row) g.cmpl t
      else setQueue q { t.queue q with load := some h } t

/-- Writes of the queues', sources' and channels' objects (R333, R338, R353, R364, R367): a queue enabled starts from its reset, disabled
stops and with it the rings that name it, reset where it is enabled; a source is enabled onto a hart of its owner with an identity
from 1 to 1023; an Archive channel is reset, and enabled with nothing open. -/
def Obligations.QueueWrites : Prop :=
  (∀ (who : Requester) (q : Nat) (s : State), q < 65536 → reaches .rwp who (nQueue q) 0xB100 1 1 s = true →
    getO s (nQueue q) 0xB100 1 ≠ 1 → queueMayEnable (arrived who (nQueue q) 0xB100 1 1 s) q = true →
    exec (.queueEnable who q 1) s = .next (written .rwp who (queueReset q (setO (nQueue q) 0xB100 1 1 (arrived who (nQueue q) 0xB100 1 1 s))))) ∧
  (∀ (who : Requester) (q : Nat) (s : State), q < 65536 → reaches .rwp who (nQueue q) 0xB100 1 0 s = true →
    exec (.queueEnable who q 0) s = .next (written .rwp who
      (ringsLoseQueue (arrived who (nQueue q) 0xB100 1 0 s) (disableQueue q (setO (nQueue q) 0xB100 1 0 (arrived who (nQueue q) 0xB100 1 0 s)))))) ∧
  (∀ (who : Requester) (q : Nat) (s : State), q < 65536 → reaches .wo who (nQueue q) 0xB100 0x0D 1 s = true →
    qEnabled (arrived who (nQueue q) 0xB100 0x0D 1 s) q = true →
    exec (.queueReset who q 1) s = .next (ended who (nQueue q) 0xB100 0x0D (queueReset q (arrived who (nQueue q) 0xB100 0x0D 1 s)))) ∧
  (∀ (who : Requester) (e p : Nat) (s : State), e < 1536 → reaches .rwp who (nSource e) 0xB200 1 1 s = true →
    sourceOwner (arrived who (nSource e) 0xB200 1 1 s) e = p → p ≠ 0xFF → getO s (nSource e) 0xB200 3 < 264 →
    partOfHart (arrived who (nSource e) 0xB200 1 1 s) (getO s (nSource e) 0xB200 3) = some p → 1 ≤ getO s (nSource e) 0xB200 5 →
    getO s (nSource e) 0xB200 5 ≤ 1023 →
    exec (.sourceEnable who e 1) s = .next (written .rwp who (setO (nSource e) 0xB200 1 1 (arrived who (nSource e) 0xB200 1 1 s)))) ∧
  ∀ (who : Requester) (c : Nat) (s : State), c < 64 →
    (reaches .wo who nP (0xA200 + c) 0x0C 1 s = true → getO s nP (0xA200 + c) 1 = 1 →
      exec (.archiveChannelReset who c 1) s = .next (ended who nP (0xA200 + c) 0x0C (settle (chanReset c (arrived who nP (0xA200 + c) 0x0C 1 s))))) ∧
    (reaches .rwp who nP (0xA200 + c) 1 1 s = true → getO s nP (0xA200 + c) 1 ≠ 1 →
      channelMayEnable (arrived who nP (0xA200 + c) 1 1 s) c = true → ∃ t, exec (.archiveChannelEnable who c 1) s = .next (written .rwp who t) ∧
      (t.chan c).opened = [] ∧ (t.chan c).taken = [] ∧ (t.chan c).trueD = (s.chan c).trueD)

/-! The Concourse. -/

/-- Requests of an L2 and of an I/O agent (R304-R314): the REQs that wait are tried first; then, where the fabric runs, the domain is
UP and owns the line and a cluster of the gallery, none of the sender's is open on the line and it may send, an L2 misses a line in I or
asks for one in S, and sends its CMO for a line with nothing pending; an agent sends its read or write. -/
def Obligations.FabricRequests : Prop :=
  (∀ (g d l : Nat) (c v : Option Nat) (s t : State), reqOk g d l = true → admitWaiting s = t → t.modes.mode.active = true →
    domState t d = 0 → ownsOnGallery t d g = true → lineOwned t d l = true → agentOpen t (.l2 g) d l = false →
    ((t.l2 g l).st = .i → maySend t g l = true → tblFind t.caches.misses (l2Key g l) = none →
      exec (.rds g d l c v) s = .next (missLine g l c { kind := .rdS, agent := .l2 g, dom := d, victim := v } t) ∧
      exec (.rdx g d l c v) s = .next (missLine g l c { kind := .rdX, agent := .l2 g, dom := d, victim := v } t) ∧
      exec (.claimz g d l c v) s = .next (missLine g l c { kind := .claimZ, agent := .l2 g, dom := d, victim := v } t)) ∧
    (∀ m : Miss, (t.l2 g l).st = .i → maySend t g l = true → tblFind t.caches.misses (l2Key g l) = some m →
      ((t.l2 g m.victim).st = .wp → exec (.rds g d l c v) s = .next t) ∧
      ((t.l2 g m.victim).st ≠ .wp → wayState t g m.way = 0 → slotLine t g m.way (l % 16384) = none →
        exec (.rds g d l c v) s = .next (startFill g l m.way { kind := .rdS, agent := .l2 g, dom := d, victim := v } t))) ∧
    ((t.l2 g l).st = .s → (t.l2 g l).dom = d → maySend t g l = true →
      exec (.upg g d l v) s = .next (l2Upgrade g l { kind := .upg, agent := .l2 g, dom := d, victim := v } t) ∧
      exec (.claimz g d l c v) s = .next (l2Upgrade g l { kind := .claimZ, agent := .l2 g, dom := d, victim := v } t)) ∧
    ((t.l2 g l).pendingSt = false → mayAsk t g l = true →
      exec (.cmoClean g d l) s = .next (sendReq l { kind := .cmoClean, agent := .l2 g, dom := d } t) ∧
      exec (.cmoFlush g d l) s = .next (sendReq l { kind := .cmoFlush, agent := .l2 g, dom := d } t) ∧
      exec (.cmoInval g d l) s = .next (sendReq l { kind := .cmoInval, agent := .l2 g, dom := d } t))) ∧
  ∀ (a : CohAgent) (d l : Nat) (x : Line) (k : BitVec 64) (w : BitVec 8) (s t : State), agentOk a = true → d < 16 → l < 2 ^ 46 →
    admitWaiting s = t → t.modes.mode.active = true → domState t d = 0 → agentOf t d a = true → lineOwned t d l = true →
    agentOpen t a d l = false → mayAsk t (agentGallery a) l = true →
    exec (.crd a d l) s = .next (sendReq l { kind := .crd, agent := a, dom := d } t) ∧
    exec (.cwr a d l x k w) s = .next
      (sendReq l { kind := cwrKind k w, agent := a, dom := d, data := x, mask := k, whole := w } t)

/-- Snoops and their answers (R306, R307, R309-R311): each is the oldest message of its kind on the line, taken from the messages in
flight while its gallery is not fenced and its module has a width; the L2 answers a snoop that no LR hold keeps, and the slice handles an
answer, data or a writeback. Data that comes before its RspD is taken and held. -/
def Obligations.SnoopsAndAnswers : Prop :=
  ∀ (g l d n : Nat) (rest : List (Nat × Msg)) (s : State), reqOk g 0 l = true → fenced s g = false →
    getO s (nGal g) (0x6010 + n) 1 ≠ 0 →
    let u := { s with conc := { s.conc with msgs := rest } }
    (∀ (k : SnpKind) (t : State) (r : RspKind) (x : LineData), lrHeld s g l = false →
      s.conc.msgs = (n, .snp k g l d) :: rest → snoopL2 k g d l u = (t, r, x) →
      let v := sendMsg (.rsp r g l d) t
      let w := if r = .d then sendMsg (.snpData g l d x) v else v
      (k = .s → exec (.snps g l) s = .next w) ∧ (k = .x → exec (.snpx g l) s = .next w) ∧
      (k = .inv → exec (.snpinv g l) s = .next w) ∧ (k = .cln → exec (.snpcln g l) s = .next w)) ∧
    (∀ r : RspKind, s.conc.msgs = (n, .rsp r g l d) :: rest →
      exec (.snoopResponse g l) s = .next (admitWaiting (takeRsp r g l d u))) ∧
    (∀ (x : LineData) (k : Nat) (t : Tx), s.conc.msgs = (n, .snpData g l d x) :: rest → waitingTx u d l = some (k, t) →
      (t.awaitData.getLsbD g = true → exec (.snpdata g l) s = .next (admitWaiting (takeSnpData g l d x u))) ∧
      (t.awaitData.getLsbD g = false → t.snoops.getLsbD g = true → tblFind t.early g = none →
        exec (.snpdata g l) s = .next
          (admitWaiting (setTx (k / 2 ^ 46) (k % 2 ^ 46) { t with early := tblInsert t.early g x } u)))) ∧
    ∀ x : LineData, s.conc.msgs = (n, .wbd g l d x) :: rest → exec (.wbd g l) s = .next (admitWaiting (takeWbd g l d x u))

/-- Grants and ends (R306, R312, R318, R323): data or a completion reaches the L2 that asked, a writeback's acknowledgement frees the
line, and an acknowledgement closes the transaction and serves the line's queue; each takes its domain down, cause 05h, where no state
expects it, as does one that no agent has sent. The domain of such a message, and that it is taken so, is log entry 102. -/
def Obligations.GrantsAndEnds : Prop :=
  (∀ (g l d n : Nat) (rest : List (Nat × Msg)) (s : State), reqOk g 0 l = true → fenced s g = false →
    getO s (nGal g) (0x6010 + n) 1 ≠ 0 →
    let u := { s with conc := { s.conc with msgs := rest } }
    let bad := admitWaiting (domainDown d 5 0xFF u)
    (∀ (x : LineData) (gr : Grant), gr ≠ .none → s.conc.msgs = (n, .data (.l2 g) l d x gr) :: rest →
      exec (.data (.l2 g) l) s = .next (admitWaiting (takeGrant g l d gr (some x) u))) ∧
    (∀ (gr : Grant) (zero : Bool), gr ≠ .none → s.conc.msgs = (n, .cmp (.l2 g) l d gr zero) :: rest →
      exec (.cmp (.l2 g) l) s = .next (admitWaiting (takeGrant g l d gr (if zero then some {} else none) u))) ∧
    (s.conc.msgs = (n, .wbAck g l d) :: rest →
      ((s.l2 g l).st = .wp → exec (.wback g l) s = .next (admitWaiting (removeL2 g l u))) ∧
      ((s.l2 g l).st ≠ .wp → exec (.wback g l) s = .next bad)) ∧
    (s.conc.msgs = (n, .ack g l d) :: rest →
      (∀ t : Tx, u.txAt d l = some t → t.waitAck = true → t.req.agent = .l2 g →
        exec (.ack g l) s = .next (admitWaiting (serveQueue d l queueBound (closeTx d l t u)))) ∧
      (u.txAt d l = none → exec (.ack g l) s = .next bad)) ∧
    exec (.lrSnoopHoldEnd g l) s =
      .next (admitWaiting { s with caches := { s.caches with lrHold := tblErase s.caches.lrHold (l2Key g l) } })) ∧
  ∀ (g l p : Nat) (s : State), reqOk g 0 l = true → s.conc.msgs = [] → s.modes.mode.active = true →
    partOfAddr s (64 * l) = some p →
    exec (.ack g l) s = .next (domainDown p 5 0xFF s) ∧ exec (.wbd g l) s = .next (domainDown p 5 0xFF s) ∧
    exec (.snoopResponse g l) s = .next (domainDown p 5 0xFF s) ∧ exec (.snpdata g l) s = .next (domainDown p 5 0xFF s)

/-- Faults of the fabric (R322-R329): a transaction past its watchdog takes its domain down, a domain that is clear leaves its
partition down, or ends the stop that was requested, and a correctable directory error is counted. -/
def Obligations.FabricFaults : Prop :=
  (∀ (l k : Nat) (t : Tx) (s : State), l < 2 ^ 46 →
    s.conc.tx.find? (fun t => t.1 % 2 ^ 46 == l && decide (t.2.start + t.2.req.limit * 1000 < now s)) = some (k, t) →
    exec (.transactionWatchdog l) s = .next (domainDown (k / 2 ^ 46) 4 0xFF s)) ∧
  (∀ (d : Nat) (s : State), d < 16 → clearWaits s d = false → domState s d = 1 ∨ domState s d = 2 →
    let u := clearPhase d s
    (tblFind s.parts.stopping d = none → exec (.domainClear d) s = .next (setO nS 0x7040 (d + 1) 5 u)) ∧
    (∀ x : Stopping, tblFind s.parts.stopping d = some x → exec (.domainClear d) s = .next (endStop d x u)) ∧
    getO u nC 0x6810 (d + 1) = 3 ∧ (∀ e ∈ u.conc.dir, e.1 / 2 ^ 46 ≠ d) ∧ ∀ m ∈ u.conc.msgs, m.2.dom ≠ d) ∧
  ∀ (k set way : Nat) (s t : State) (n : Nat), k < 32 → set < 16384 → way < 16 → s.modes.mode.active = true →
    s.conc.faultyWays.contains (k * 16 + way) = false →
    countHit (hitKey 6 (k * 16 + way) 1) (getO s nP 0x8204 2) (addO nC 0x6800 7 1 s) = (t, n) →
    classifyOf n (getO s nP 0x8204 1) ≠ 2 →
    exec (.directoryEntryError k set way .correctable) s = .next
      (record { cls := 1, action := 1, kind := 6, unit := k, sub := way * 2 ^ 16 + set,
                classify := classifyOf n (getO s nP 0x8204 1), count := n } t)

/-! The Catalogue, the field ports and the CAN FD port. -/

/-- Requests (R397-R404): one that is not received changes nothing; the repetition of the request last answered changes nothing but the
arrival; any other is served where none is outstanding, and its response kept. While one is outstanding those of others wait behind it, a
repetition of it is discarded, and a further one of its requester is refused as busy. On CAN FD (R413, R414) the NMT commands for the node
set the state, a reset of communication and a recovered bus boot the port up again, a bus-off is counted, a classical frame and one for
another node are dropped and counted, the heartbeat goes out when it is due, and a transfer that times out is aborted; an abort by the
client changes nothing. When a request is outstanding is log entry 106, what CAN FD operands say log entry 22. -/
def Obligations.CatalogueRequests : Prop :=
  (∀ (who : Requester) (r : CatReq) (s : State),
    (received s who = false → exec (.catalogueRead who r) s = .next s ∧ exec (.catalogueWrite who r) s = .next s ∧
      exec (.catalogueTake who r) s = .next s) ∧
    ∀ op : CatOp, received s who = true →
      let cmd := match op with
        | .read => Instr.catalogueRead who r
        | .write => Instr.catalogueWrite who r
        | .take => Instr.catalogueTake who r
      let w : Waiting := { who := who, op := op, req := r, since := now s, keeps := true }
      (repeats s who op r = true → exec cmd s = .next (appear who s)) ∧
      (repeats s who op r = false → s.cat.queue = [] → exec cmd s = .next (serveNow w (serveRequest who op r) (appear who s))) ∧
      (repeats s who op r = false → s.cat.queue ≠ [] → (∀ x ∈ s.cat.queue, x.who ≠ who) → canFull s who = false →
        exec cmd s = .next { appear who s with cat := { (appear who s).cat with queue := s.cat.queue ++ [w] } }) ∧
      ∀ (x : Waiting) (rest : List Waiting), repeats s who op r = false → s.cat.queue = x :: rest → x.who = who →
        (x.keeps = true → mayRepeat who = true → x.op = op → x.req = r → exec cmd s = .next (appear who s)) ∧
        (x.op ≠ op ∨ x.req ≠ r →
          exec cmd s = .next (keepRequest w (respondRefused who 0x08000021 1 (appear who s))))) ∧
  (∀ (f : CanFrame) (s : State), canOn s = true →
    (f.classical = false → f.node = 0 ∨ f.node = s.cat.canNodeId → exec (.nmtStart f) s = .next (setNmt .operational s) ∧
      exec (.nmtStop f) s = .next (setNmt .stopped s) ∧ exec (.nmtEnterPreoperational f) s = .next (setNmt .preOperational s) ∧
      exec (.nmtResetCommunication f) s = .next (bootUp { s with cat := { s.cat with
        reqs := tblDrop (fun k => decide (8 ≤ k) && decide (k < 1000)) s.cat.reqs, canNodeId := getO s nV 0x1200 1,
        canRates := (getO s nV 0x1200 2, getO s nV 0x1200 3) } })) ∧
    (f.classical = true ∨ (f.node ≠ 0 ∧ f.node ≠ s.cat.canNodeId) →
      exec (.nmtStart f) s = .next (addO nV 0x1200 8 1 s) ∧ exec (.nmtStop f) s = .next (addO nV 0x1200 8 1 s) ∧
      exec (.nmtEnterPreoperational f) s = .next (addO nV 0x1200 8 1 s) ∧
      exec (.nmtResetCommunication f) s = .next (addO nV 0x1200 8 1 s)) ∧
    (getO s nV 0x1017 0 ≠ 0 → s.cat.lastBeat + getO s nV 0x1017 0 * 1000000 ≤ now s → exec .heartbeatTimer s = .next
      (emit (.heartbeat s.cat.canNodeId s.cat.nmt) { s with cat := { s.cat with lastBeat := now s } }))) ∧
  (∀ s : State, canRuns s = true →
    (getO s nV 0x1200 5 = 1 ∨ getO s nV 0x1200 5 = 2 →
      exec (.canBusOff .busOff) s = .next (setO nV 0x1200 5 3 (addO nV 0x1200 6 1 s))) ∧
    (getO s nV 0x1200 5 = 1 → exec (.canBusOff .passive) s = .next (setO nV 0x1200 5 2 s)) ∧
    (getO s nV 0x1200 5 = 2 → exec (.canBusOff .active) s = .next (setO nV 0x1200 5 1 s)) ∧
    (getO s nV 0x1200 5 = 3 → exec (.canBusOff .recovered) s = .next (bootUp (setO nV 0x1200 5 1 s)))) ∧
  ∀ (c : Nat) (s : State), 1 ≤ c → c ≤ 127 → exec (.usdoAbort c) s = .next s ∧
    (received s (.can c) = true → exec (.usdoTransferTimeout c) s = .next
      (emit (.usdoAbort c 0x05040000) (respondRefused (.can c) 0x05040000 0 s)))

/-- A register written by its address (R14, R196, R407, R469, R471): a Catalogue object through its rule, a CSR by a hart whose mode may
write it, a mailbox word and a device word by a hart's store that passes the checks; SUBMIT hands the mailbox's request over. The
debugger's bus accesses, and the writes of 7500h, which resume what they close. -/
def Obligations.RegisterWrites : Prop :=
  (∀ (who : Requester) (node n ix sub v : Nat) (row : ObjRow) (s : State), resolveNode node ix = some n →
    rowOf (n / 2 ^ 24) ix sub = some row → row.acc ≠ .ro → row.acc ≠ .tk → v < 2 ^ (8 * row.ty.size) →
    exec (.registerWrite (.object who node ix sub v)) s = .next (writeObject who n ix sub v s)) ∧
  (∀ (h num : Nat) (v : Word) (s : State), num < 4096 → goes s h → (s.hart h).csrLegal num true = true →
    exec (.registerWrite (.csr h num v)) s = .next (csrWrite h num v (complete h ((s.hart h).pc + 4) s))) ∧
  (∀ (h p o k a size : Nat) (v : Word) (va : Word) (s t u : State), goes s h → (t.hart h).sb = [] → fenced t (h / 12) = false →
    (p < 16 → o % 4 = 0 → o < 0x1000 → reach h storeAccess va 4 (va.toNat % 4 == 0) s = (t, .device (mailboxAddr p + o)) →
      exec (.registerWrite (.mailboxWord h va p o (v.setWidth 32))) s =
        .next (mailboxStore p o 4 (v.setWidth 32).toNat t)) ∧
    (p < 16 → k < 2 ^ 32 → reach h storeAccess va 4 (va.toNat % 4 == 0) s = (t, .device (mailboxAddr p)) →
      exec (.mailboxSubmit h va p k) s = .next (mailboxStore p 0 4 k t)) ∧
    (size = 4 ∨ size = 8 → inDevice a = true → reach h storeAccess va size (va.toNat % size == 0) s = (t, .device a) →
      deviceStore a size (v.toNat % 2 ^ (8 * size)) t = some u →
      exec (.registerWrite (.deviceWord h va a v size)) s = .next u)) ∧
  (∀ (a n : Nat) (v : Word) (s t : State) (l : List Byte) (bad : List (Nat × Nat)), s.modes.mode.on = true →
    getO s nS 0x7500 1 = 1 → sbError s a n = 0 →
    let u := { s with dbg := { s.dbg with sberror := 0 } }
    exec (.systemBusAccess a n (some v)) s = .next (ioWrite .io .package a (leBytes n v.toNat) u) ∧
    (ioRead a n u = (t, l, bad) →
      exec (.systemBusAccess a n none) s = .next { t with dbg := { t.dbg with sbdata := BitVec.ofNat 64 (fromLe l) } })) ∧
  ∀ (who : Requester) (sub v : Nat) (s : State), sub = 1 ∨ sub = 2 → reaches .rw who nS 0x7500 sub v s = true →
    let t := setO nS 0x7500 sub v (arrived who nS 0x7500 sub v s)
    exec (.debugEnableWrite who sub v) s = .next
      (written .rw who (forAll (haltedHarts t) (fun h s => onlyIf (!debugOpen s h) (resumeHart h) s) t))

/-- The field ports (R410-R412, R436): sessions open, idle sessions close, configuration is written, links come and go, and frames for
the port's own address are answered and counted; a session's record carries one access unit, which is served; a record that holds
anything but one access unit closes its session. -/
def Obligations.FieldNetworks : Prop :=
  (∀ (p role n : Nat) (ch : CertChain) (s : State), p < 2 → portUp s p = true → chainRole s ch = some role →
    freeSession s = some n → exec (.dtlsHandshake p ch) s = .next (emit (.handshake n Config.identityKey) (appear (.session n)
      { s with cat := { s.cat with sessions := tblInsert s.cat.sessions n { port := p, role := role, lastUse := now s } } }))) ∧
  (∀ (n : Nat) (x : Session) (s : State), n < 8 → tblFind s.cat.sessions n = some x →
    x.lastUse + getO s nV 0x1300 2 * 1000000000 ≤ now s → exec (.sessionIdleClose n) s = .next (closeSession n s)) ∧
  (∀ (who : Requester) (p sub v : Nat) (row : ObjRow) (s : State), p < 2 → rowOf (nV / 2 ^ 24) (portIx p) sub = some row →
    row.acc ≠ .ro → row.acc ≠ .tk → v < 2 ^ (8 * row.ty.size) →
    exec (.fieldPortConfigWrite who p sub v) s = .next (writeObject who nV (portIx p) sub v s)) ∧
  (∀ (p : Nat) (s : State), p < 2 → portUp s p = true → ∃ t, exec (.fieldPortLinkLoss p) s = .next t ∧
    getO t nV (portIx p) 7 = 1 ∧ t.cat = s.cat ∧ t.mem = s.mem) ∧
  (∀ (p : Nat) (s : State), p < 2 → s.modes.mode.on = true → getO s nV (portIx p) 1 = 1 →
    ∃ t, exec (.fieldPortLinkReturn p) s = .next t ∧ getO t nV (portIx p) 7 = 2 ∧ t.cat = s.cat ∧ t.mem = s.mem) ∧
  ∀ (p : Nat) (s : State), p < 2 → portUp s p = true →
    exec (.fieldPortFrameReceived p (.arpRequest (getO s nV (portIx p) 3))) s = .next
      (emit (.fieldArp p (getO s nV (portIx p) 3)) (addO nV (portIx p) 8 1 s)) ∧
    exec (.fieldPortFrameReceived p (.icmpEcho (getO s nV (portIx p) 3))) s = .next
      (emit (.fieldEcho p (getO s nV (portIx p) 3)) (addO nV (portIx p) 8 1 s)) ∧
    exec (.fieldPortFrameReceived p .catalogue) s = .next (addO nV (portIx p) 8 1 s) ∧
    (∀ (n : Nat) (x : Session), tblFind s.cat.sessions n = some x → x.port = p →
      exec (.fieldPortFrameReceived p (.badRecord n)) s = .next (closeSession n (addO nV (portIx p) 8 1 s)) ∧
      ∀ b : List Byte, exec (.fieldPortFrameReceived p (.accessUnit n b)) s =
        .next (sessionUnit n b (addO nV (portIx p) 8 1 s))) ∧
    exec (.fieldPortFrameReceived p .other) s = .next (addO nV (portIx p) 9 1 (addO nV (portIx p) 8 1 s))

/-! Harts. -/

/-- Integer instructions (R195, R203): each completes, writes its result to rd and moves the pc; x0 discards the write and reads zero, and
nothing but the hart's pc, integer registers and counters changes, no byte of memory among it. The results are those of RISC-V (log
entries 35 and 36). -/
def Obligations.IntegerInstructions : Prop :=
  ∀ (hart len : Nat) (s : State), goes s hart → len = 2 ∨ len = 4 →
    (∀ (op : AluOp) (rd rs1 : Nat) (b : Src2), ∃ t, exec (.scalarInstruction hart (.alu op rd rs1 b) len) s = .next t ∧
      onlyHart hart s t ∧ sameBeyond (s.hart hart) (t.hart hart) ∧
      (t.hart hart).pc = (s.hart hart).pc + BitVec.ofNat 64 len ∧
      wroteX rd (aluResult op ((s.hart hart).getX rs1) ((s.hart hart).src2 b)) (s.hart hart) (t.hart hart)) ∧
    (∀ (rd : Nat) (v : Word), ∃ t, exec (.scalarInstruction hart (.lui rd v) len) s = .next t ∧
      onlyHart hart s t ∧ sameBeyond (s.hart hart) (t.hart hart) ∧
      (t.hart hart).pc = (s.hart hart).pc + BitVec.ofNat 64 len ∧ wroteX rd v (s.hart hart) (t.hart hart)) ∧
    (∀ (rd : Nat) (v : Word), ∃ t, exec (.scalarInstruction hart (.auipc rd v) len) s = .next t ∧
      onlyHart hart s t ∧ sameBeyond (s.hart hart) (t.hart hart) ∧
      (t.hart hart).pc = (s.hart hart).pc + BitVec.ofNat 64 len ∧
      wroteX rd ((s.hart hart).pc + v) (s.hart hart) (t.hart hart)) ∧
    (∀ (rd rs1 : Nat) (v : Word),
      (∃ t, exec (.scalarInstruction hart (.jal rd v) len) s = .next t ∧
        onlyHart hart s t ∧ sameBeyond (s.hart hart) (t.hart hart) ∧ (t.hart hart).pc = (s.hart hart).pc + v ∧
        wroteX rd ((s.hart hart).pc + BitVec.ofNat 64 len) (s.hart hart) (t.hart hart)) ∧
      ∃ t, exec (.scalarInstruction hart (.jalr rd rs1 v) len) s = .next t ∧
        onlyHart hart s t ∧ sameBeyond (s.hart hart) (t.hart hart) ∧
        (t.hart hart).pc = ((s.hart hart).getX rs1 + v) &&& ~~~(1 : Word) ∧
        wroteX rd ((s.hart hart).pc + BitVec.ofNat 64 len) (s.hart hart) (t.hart hart)) ∧
    ∀ (op : BranchOp) (rs1 rs2 : Nat) (v : Word), ∃ t, exec (.scalarInstruction hart (.branch op rs1 rs2 v) len) s = .next t ∧
      onlyHart hart s t ∧ sameBeyond (s.hart hart) (t.hart hart) ∧ (t.hart hart).x = (s.hart hart).x ∧
      (t.hart hart).pc = (if branchTaken op ((s.hart hart).getX rs1) ((s.hart hart).getX rs2) then (s.hart hart).pc + v
        else (s.hart hart).pc + BitVec.ofNat 64 len)

/-- Traps and returns (R195, R223): an environment call saves pc, cause and status in the registers of the mode that takes it and goes to
that mode's handler; mret and sret restore them; each changes nothing but its hart. They are as RISC-V has them (log entry 35). -/
def Obligations.TrapsAndReturns : Prop :=
  ∀ (hart len : Nat) (s : State), goes s hart → len = 2 ∨ len = 4 →
    let h := s.hart hart
    (h.excMode (8 + h.priv.level) = .m →
      ∃ t, exec (.scalarInstruction hart .ecall len) s = .next t ∧ onlyHart hart s t ∧
        (t.hart hart).x = h.x ∧ (t.hart hart).priv = .m ∧ (t.hart hart).reserved = none ∧
        (t.hart hart).pc = tvecTarget (h.csrOf 0x305) false (8 + h.priv.level) ∧
        (t.hart hart).csrOf 0x341 = h.pc ∧
        (t.hart hart).csrOf 0x342 = causeWord false (8 + h.priv.level) ∧ (t.hart hart).csrOf 0x343 = 0 ∧
        (t.hart hart).mstatus = setField (setField (setField h.mstatus 7 1 (field h.mstatus 3 1)) 3 1 0)
          11 2 h.priv.level) ∧
    (h.excMode (8 + h.priv.level) = .s →
      ∃ t, exec (.scalarInstruction hart .ecall len) s = .next t ∧ onlyHart hart s t ∧
        (t.hart hart).x = h.x ∧ (t.hart hart).priv = .s ∧ (t.hart hart).reserved = none ∧
        (t.hart hart).pc = tvecTarget (h.csrOf 0x105) false (8 + h.priv.level) ∧
        (t.hart hart).csrOf 0x141 = h.pc ∧
        (t.hart hart).csrOf 0x142 = causeWord false (8 + h.priv.level) ∧ (t.hart hart).csrOf 0x143 = 0 ∧
        (t.hart hart).mstatus = setField (setField (setField h.mstatus 5 1 (field h.mstatus 1 1)) 1 1 0)
          8 1 (if h.priv = .u then 0 else 1)) ∧
    (h.priv = .m →
      ∃ t, exec (.scalarInstruction hart .mret len) s = .next t ∧ onlyHart hart s t ∧ (t.hart hart).x = h.x ∧
        (t.hart hart).pc = h.csrOf 0x341 ∧ (t.hart hart).priv = privOf (field h.mstatus 11 2) ∧
        (t.hart hart).mstatus = h.mret.mstatus) ∧
    (h.priv = .m ∨ (h.priv = .s ∧ h.tsr = false) →
      ∃ t, exec (.scalarInstruction hart .sret len) s = .next t ∧ onlyHart hart s t ∧ (t.hart hart).x = h.x ∧
        (t.hart hart).pc = h.csrOf 0x141 ∧
        (t.hart hart).priv = (if field h.mstatus 8 1 = 1 then .s else .u) ∧
        (t.hart hart).mstatus = h.sret.mstatus) ∧
    (h.priv ≠ .m → exec (.scalarInstruction hart .mret len) s =
      .next (takeExc hart (.trap 2 (takeFree s).2) (takeFree s).1))

/-- Loads and stores (R212-R215, R218-R223): a load that reads a value writes it to its integer or floating-point register and
completes, one that meets an exception takes it, and a store enters the store buffer. -/
def Obligations.LoadsAndStores : Prop :=
  (∀ (hart rd rs1 size len : Nat) (off v : Word) (sg : Bool) (f w : Finding) (ks : List Int) (s t : State), goes s hart →
    len = 2 ∨ len = 4 → findingOk false f = true → findingOk false w = true →
    let va := (s.hart hart).getX rs1 + off
    let fin := fun (h : Hart) => stridePrefetches hart va ks s (retire hart len
      (onlyIf (isSplit va size) (hartEvent hart 0x00A 1) (hartEvent hart 0x006 1 (setHart hart h t))))
    readAccess hart { loadAccess with walk := w } va size f s = (t, .ok v) →
    (size = 1 ∨ size = 2 ∨ size = 4 ∨ size = 8 → exec (.load hart rd rs1 off size sg false len f w ks) s =
      .next (fin ((t.hart hart).withX rd (extend size sg v)))) ∧
    (size = 4 ∨ size = 8 → (s.hart hart).fpOff = false → exec (.load hart rd rs1 off size sg true len f w ks) s =
      .next (fin ((t.hart hart).withF rd (nanBox size v))))) ∧
  (∀ (hart rs1 rs2 size len : Nat) (off v : Word) (fp : Bool) (w : Finding) (s t : State), goes s hart →
    size = 4 ∨ size = 8 ∨ (fp = false ∧ (size = 1 ∨ size = 2)) → len = 2 ∨ len = 4 → findingOk false w = true →
    (fp = true → (s.hart hart).fpOff = false) →
    let va := (s.hart hart).getX rs1 + off
    writeAccess hart va size (if fp then (s.hart hart).getF rs2 else (s.hart hart).getX rs2) w s = (t, .ok v) →
    exec (.store hart rs1 rs2 off size fp len w) s = .next (retire hart len
      (onlyIf (isSplit va size) (hartEvent hart 0x00A 1) (hartEvent hart 0x007 1 t)))) ∧
  ∀ (hart rd rs1 size len : Nat) (off : Word) (sg : Bool) (f w : Finding) (ks : List Int) (s t : State) (x : Exc), goes s hart →
    size = 1 ∨ size = 2 ∨ size = 4 ∨ size = 8 → len = 2 ∨ len = 4 → findingOk false f = true → findingOk false w = true →
    readAccess hart { loadAccess with walk := w } ((s.hart hart).getX rs1 + off) size f s = (t, .exc x) →
    exec (.load hart rd rs1 off size sg false len f w ks) s = .next (takeExc hart x t)

/-- AMO, LR and SC (R216, R311): the old value sign-extended to rd; a reservation taken, and the snoops of a line that entered M held for
50 ns; a store conditional writes and answers 0 with its reservation, and answers 1 without one. A write at the L2 ends every other hart's
reservation of the line in the gallery. When a reservation ends is log entry 31. -/
def Obligations.Atomics : Prop :=
  (∀ (hart size rd rs1 rs2 line : Nat) (op : AmoOp) (v : Word) (s t : State), goes s hart → size = 4 ∨ size = 8 →
    atomicAccess hart amoAccess ((s.hart hart).getX rs1) size true
      (fun old => some (amoResult op size old (((s.hart hart).getX rs2).toNat % 2 ^ (8 * size)))) s = (t, .ok v, line) →
    exec (.amo hart op size rd rs1 rs2) s = .next (retire hart 4
      (setHart hart ((t.hart hart).withX rd (extend size true v)) t))) ∧
  (∀ (hart size rd rs1 line : Nat) (v : Word) (s t : State), goes s hart → size = 4 ∨ size = 8 →
    atomicAccess hart lrAccess ((s.hart hart).getX rs1) size true (fun _ => none) s = (t, .ok v, line) →
    exec (.lr hart size rd rs1) s = .next (retire hart 4
      (setHart hart { (t.hart hart).withX rd (extend size true v) with reserved := some line }
        (onlyIf ((t.l2 (hart / 12) line).st == .m && (s.l2 (hart / 12) line).st != .m) (fun u => { u with caches := { u.caches with
          lrHold := tblSet 0 t.caches.lrHold (l2Key (hart / 12) line) (now t + 50) } }) t)))) ∧
  (∀ (hart size rd rs1 rs2 line : Nat) (p : Part) (ps : List Part) (v : Word) (s u t : State), goes s hart →
    size = 4 ∨ size = 8 → ((s.hart hart).getX rs1).toNat % size = 0 →
    plan hart storeAccess ((s.hart hart).getX rs1) size s = (u, .parts (p :: ps)) → (u.hart hart).sb = [] →
    ((u.hart hart).reserved ≠ some (p.pa / 64) → exec (.sc hart size rd rs1 rs2) s =
      .next (retire hart 4 (setHart hart { (u.hart hart).withX rd 1 with reserved := none } u))) ∧
    ((u.hart hart).reserved = some (p.pa / 64) →
      atomicAccess hart amoAccess ((s.hart hart).getX rs1) size false
        (fun _ => some (((s.hart hart).getX rs2).toNat % 2 ^ (8 * size))) s = (t, .ok v, line) →
      exec (.sc hart size rd rs1 rs2) s =
        .next (retire hart 4 (setHart hart { (t.hart hart).withX rd 0 with reserved := none } t)))) ∧
  ∀ (hart line k : Nat) (s : State), k ≠ hart → k / 12 = hart / 12 →
    ((breakReservations hart line s).hart k).reserved ≠ some line

/-- Fences and cache blocks (R216, R261, R262, R297): a fence waits for the stores before it where they bear on what follows and then
completes, fence.i empties the instruction side, sfence.vma the translations it names, and a block operation reaches its line and
completes. -/
def Obligations.FencesAndBlocks : Prop :=
  (∀ (hart rs1 rs2 : Nat) (pred succ : FenceSet) (tso : Bool) (s : State), goes s hart →
    let h := s.hart hart
    (h.sb = [] ∨ (tso = false ∧ (pred.w = false ∧ pred.o = false ∨ succ = {})) →
      exec (.fence hart pred succ tso) s = .next (retire hart 4 s)) ∧
    (h.sb ≠ [] → tso = true ∨ (pred.w = true ∧ (succ.r = true ∨ succ.w = true)) → exec (.fence hart pred succ tso) s = .next s) ∧
    (h.sb ≠ [] → h.fiom = true → pred.w = true ∨ pred.o = true → succ ≠ {} → exec (.fence hart pred succ tso) s = .next s) ∧
    (h.sb ≠ [] → exec (.fenceI hart) s = .next s) ∧
    (h.sb = [] → exec (.fenceI hart) s = .next (retire hart 4 (setHart hart { h with l1i := [], lineBuf := [] } s))) ∧
    (h.sb = [] → h.priv = .m ∨ (h.priv = .s ∧ h.tvm = false) →
      exec (.sfenceVma hart rs1 rs2) s = .next (retire hart 4 (setHart hart (h.sfence
        (if rs1 % 32 = 0 then none else some (h.getX rs1))
        (if rs2 % 32 = 0 then none else some ((h.getX rs2).toNat % 65536))) s)))) ∧
  (∀ (hart rs1 : Nat) (k : ReqKind) (p : Part) (ps : List Part) (s t u : State), goes s hart →
    let h := s.hart hart
    (t.hart hart).sb = [] →
    (h.envOk 6 = true → planPart hart (cboAccess false) (h.getX rs1) 0 1 true s = (t, .parts (p :: ps)) →
      (cohMaintain .cmoClean (hart / 12) ((partOfHart t hart).getD 0) (p.pa / 64) t = (u, true) →
        exec (.cboClean hart rs1) s = .next (retire hart 4 (hartEvent hart 0x202 1 u))) ∧
      (cohMaintain .cmoFlush (hart / 12) ((partOfHart t hart).getD 0) (p.pa / 64) t = (u, true) →
        exec (.cboFlush hart rs1) s = .next (retire hart 4 (hartEvent hart 0x202 1 u)))) ∧
    (h.invalKind = some k → planPart hart (cboAccess (k == .cmoInval)) (h.getX rs1) 0 1 true s = (t, .parts (p :: ps)) →
      cohMaintain k (hart / 12) ((partOfHart t hart).getD 0) (p.pa / 64) t = (u, true) →
      exec (.cboInval hart rs1) s = .next (retire hart 4 (hartEvent hart 0x202 1 u))) ∧
    (h.envOk 7 = true → planPart hart cboZeroAccess (h.getX rs1) 0 1 true s = (t, .parts (p :: ps)) → p.pbmt = 0 →
      l2Zero hart (p.pa / 64) t = (u, true) →
      exec (.cboZero hart rs1) s = .next (retire hart 4 (hartEvent hart 0x202 1 u))))

/-- The CSRs written by a command of their own (R199, R201, R202, R283, R284): where the mode and the enables permit it the
register takes the value under its own rule and the instruction completes; elsewhere the hart takes an illegal-instruction
exception. That a reserved SRC or FORM leaves its field of mnerr as it was is the model's choice among the legal values (log entry 98). -/
def Obligations.NamedCsrWrites : Prop :=
  ∀ (hart : Nat) (v : Word) (s : State), goes s hart →
    let h := s.hart hart
    let done := fun (g : Hart) => complete hart (h.pc + 4) (setHart hart g s)
    let illegal := takeExc hart (.trap 2 (takeFree s).2) (takeFree s).1
    (h.csrLegal 0x180 true = true → exec (.satpWrite hart v) s = .next (done (h.withCsr 0x180 (satpWritten (h.csrOf 0x180) v)))) ∧
    (h.priv = .m →
      exec (.mntimecmpWrite hart v) s = .next (done (h.withCsr 0x7C3 v)) ∧
      exec (.mnerrWrite hart true v) s = .next (done (h.withCsr 0x7C2 (v &&& 0xFFFFFFFFFFFF8))) ∧
      exec (.mncfgWrite hart v) s = .next (done (h.withCsr 0x7C0 (v &&& 0x3F))) ∧
      ∃ w, exec (.mnerrWrite hart false v) s = .next (done (h.withCsr 0x7C1 w)) ∧ field w 62 2 = field v 62 2 ∧
        (field v 0 4 ≤ 5 → field w 0 4 = field v 0 4) ∧ (field v 8 8 ≤ 6 → field w 8 8 = field v 8 8) ∧
        field w 4 4 = 0 ∧ field w 16 46 = 0) ∧
    (h.priv ≠ .m →
      exec (.mntimecmpWrite hart v) s = .next illegal ∧ exec (.mnerrWrite hart false v) s = .next illegal ∧
      exec (.mnerrWrite hart true v) s = .next illegal ∧ exec (.mncfgWrite hart v) s = .next illegal) ∧
    (h.csrLegal 0x180 true = false → exec (.satpWrite hart v) s = .next illegal)

/-- Vector instructions (R206-R211): an access of legal registers that meets no exception completes with every element moved; an integer
operation writes each active element; vsetvl and its forms set vl and vtype from their registers or immediates, or keep vl where both
registers are x0. The results are those of V (log entries 37 and 38). -/
def Obligations.VectorInstructions : Prop :=
  (∀ (hart r w rs1 k : Nat) (a : VecAddr) (m ff : Bool) (ks : List (Nat × Int)) (es : List SbEntry) (s t u : State), goes s hart →
    r < 32 →
    let h := s.hart hart
    let x : VecMem := { reg := r, width := w, rs1 := rs1, fields := k, addrs := a, masked := m }
    (h.vecMemOk r w k a m true = true → ff = false ∨ a = .unit →
      vecLoadFrom hart h x ks (h.memCount w a - h.vstart) h.vstart s = (t, none) →
      exec (.vectorLoad hart r w rs1 k a m ff ks) s = .next (vecDone hart true t)) ∧
    (h.vecMemOk r w k a m false = true → vecStoreFrom hart h x (h.memCount w a - h.vstart) h.vstart [] s = (t, es, none) →
      vecBuffer hart es t = (u, true) → exec (.vectorStore hart r w rs1 k a m) s = .next (vecDone hart false u))) ∧
  (∀ (hart vd vs2 : Nat) (op : VAlu) (src : VecSrc) (m : Bool) (s : State), goes s hart → vecCompare op = false → op ≠ .merge →
    (∀ rm w a b, fixedResult op rm w a b = none) →
    let h := s.hart hart
    h.vecReady = true → vecForm op src = true → eewOk (maskSource m ++ [h.source vs2 h.sew] ++ h.sourceOf src h.sew ++
      if [VAlu.macc, .nmsac, .madd, .nmsub].contains op then [h.source vd h.sew] else []) = true →
    h.destOk vd h.sew m = true → h.vsOk vs2 h.sew vd h.sew = true → h.srcOk src h.sew vd h.sew = true →
    exec (.vectorArithmetic hart (.arith op vd src vs2 m)) s = .next (vecDone hart true (setHart hart
      ((h.activeBody m).foldl (fun g i => g.withElem vd h.sew i (BitVec.ofNat 64
        (vecResult op h.sew (h.elem vs2 h.sew i).toNat (h.vecSrc src h.sew i) (h.elem vd h.sew i).toNat))) h) s))) ∧
  ∀ (hart rd : Nat) (avl vt : Src2) (s : State), goes s hart → (s.hart hart).vecOff = false →
    let h := s.hart hart
    let ty := match vt with
      | .imm v => v &&& 0x7FF
      | .reg n => h.getX n
    let set := fun (vl : Nat) (w : Word) => ∃ t, exec (.vectorArithmetic hart (.setvl rd avl vt)) s = .next t ∧ onlyHart hart s t ∧
      wroteX rd (BitVec.ofNat 64 vl) h (t.hart hart) ∧ (t.hart hart).csrOf 0xC20 = BitVec.ofNat 64 vl ∧
      (t.hart hart).csrOf 0xC21 = w ∧ (t.hart hart).pc = h.pc + 4
    (∀ n : Nat, h.avl rd avl = some n → vtypeOk ty = true → set (vlFor n (vlmax ty)) ty) ∧
    (h.avl rd avl = none → vtypeOk ty = true → h.vill = false → vlmax ty = h.vlmax → set h.vl ty) ∧
    (vtypeOk ty = false → set 0 0x8000000000000000)

/-- Waiting and interrupts (R202, R224-R226): wfi waits until an interrupt is pending and enabled and then completes; the hart
takes the interrupt of highest priority, pc, cause and status saved by the mode that takes it. What its files hold reaches a hart
when its gallery leaves a fence. -/
def Obligations.WaitsAndInterrupts : Prop :=
  (∀ (hart : Nat) (s : State), goes s hart → (s.hart hart).priv = .m ∨ ((s.hart hart).priv = .s ∧ (s.hart hart).tw = false) →
    (wakes (heard s hart) (now s) = false → exec (.wfi hart) s = .next (setHart hart { s.hart hart with run := .wfi } s)) ∧
    (wakes (heard s hart) (now s) = true → exec (.wfi hart) s = .next (leaveWfi hart s))) ∧
  (∀ (hart : Nat) (sup : Bool) (s : State), hart < 264 → s.modes.mode.active = true → (s.hart hart).run = .wfi →
    wakes (heard s hart) (now s) = true →
    (if sup then (s.hart hart).stce && decide (((s.hart hart).csrOf 0x14D).toNat ≤ now s)
      else decide (((s.hart hart).csrOf 0x7C3).toNat ≤ now s)) = true →
    exec (.timerCompareReached hart sup) s = .next (leaveWfi hart s)) ∧
  (∀ (hart cause : Nat) (s : State), goes s hart → takeable (heard s hart) (now s) = some (cause, .m) →
    ∃ t, exec (.interruptTake hart) s = .next t ∧ onlyHart hart s t ∧ (t.hart hart).priv = .m ∧
      (t.hart hart).x = (s.hart hart).x ∧ (t.hart hart).csrOf 0x341 = (s.hart hart).pc ∧
      (t.hart hart).csrOf 0x342 = causeWord true cause ∧
      (t.hart hart).pc = tvecTarget ((s.hart hart).csrOf 0x305) true cause) ∧
  ∀ (hart cause : Nat) (s : State), goes s hart → takeable (heard s hart) (now s) = some (cause, .s) →
    ∃ t, exec (.interruptTake hart) s = .next t ∧ onlyHart hart s t ∧ (t.hart hart).priv = .s ∧
      (t.hart hart).x = (s.hart hart).x ∧ (t.hart hart).csrOf 0x141 = (s.hart hart).pc ∧
      (t.hart hart).csrOf 0x142 = causeWord true cause ∧
      (t.hart hart).pc = tvecTarget ((s.hart hart).csrOf 0x105) true cause

/-! Ways, Vitrines, partitions, the Strongroom, counters and debug. -/

/-- Way control (R264, R270-R273, R278, R280): open empties the way and, once every line has gone, names the core that preloads it, and
its answer waits till then; lock makes it LOCKED, unlock and cancel NORMAL, each with result 00h; a refusal leaves its code in the result;
a new method starts from ways all NORMAL but DISABLED ones; disabled ways are cleared in SERVICE. When a pending line leaves its way is
log entry 97. -/
def Obligations.WayActions : Prop :=
  ∀ (who : Requester) (g v : Nat) (s : State), g < 22 →
    let a := fun (op : Nat) => arrived who (nGal g) 0x6120 1 (withOp v op) s
    let w := v / 16 % 16
    let won := fun (t : State) => Host.Outcome.next (ended who (nGal g) 0x6120 1 (setO (nGal g) 0x6120 2 0 t))
    (∀ op : Nat, 1 ≤ op → op ≤ 4 → reaches .wo who (nGal g) 0x6120 1 (withOp v op) s = true →
      lockRefusal who g (withOp v op) (a op) = 0 →
      (op = 1 →
        let t := if fenced (a 1) g then a 1 else emptyWay g w (a 1)
        (openReady t g = true → exec (.lockOpen who g v) s = won (setO (nGal g) 0x6110 (w + 1) 1
          { t with caches := { t.caches with preloadCore := tblSet 0 t.caches.preloadCore g (v / 4096 % 16) } })) ∧
        (openReady t g = false → exec (.lockOpen who g v) s = .next (holdRequest t))) ∧
      (op = 2 → exec (.lockLock who g v) s = won (setO (nGal g) 0x6110 (w + 1) 2 (a 2))) ∧
      (op = 3 → exec (.lockUnlock who g v) s = won (setO (nGal g) 0x6110 (w + 1) 0 (a 3))) ∧
      (op = 4 → exec (.lockCancel who g v) s = won (setO (nGal g) 0x6110 (w + 1) 0 (a 4)))) ∧
    (reaches .wo who (nGal g) 0x6120 1 (withOp v 1) s = true → lockRefusal who g (withOp v 1) (a 1) ≠ 0 →
      exec (.lockOpen who g v) s = .next (turnedAway who 0x08000020 (lockRefusal who g (withOp v 1) (a 1))
        (setO (nGal g) 0x6120 2 (lockRefusal who g (withOp v 1) (a 1)) (a 1)))) ∧
    (reaches .rwp who (nGal g) 0x6100 1 v s = true →
      let b := arrived who (nGal g) 0x6100 1 v s
      getO b (nGal g) 0x6100 1 ≠ v →
      ([0, 1, 2].any fun k => match partOfCluster b (3 * g + k) with
        | some p => partState b p == 3
        | none => false) = false →
      exec (.wayMethodWrite who g v) s = .next (written .rwp who (forceGallery g
        (forAll (List.range 16) (fun w s => onlyIf (wayState s g w != 3) (setO (nGal g) 0x6110 (w + 1) 0) s)
          (setO (nGal g) 0x6100 1 v b))))) ∧
    (reaches .wo who (nGal g) 0x6100 6 1 s = true → s.modes.mode = .service →
      let b := arrived who (nGal g) 0x6100 6 1 s
      exec (.clearDisabledWays who g 1) s = .next (ended who (nGal g) 0x6100 6 (forceGallery g (showDisabled g
        { b with panel := { b.panel with wayDisabled := tblSet 0 b.panel.wayDisabled (siteOf b g) 0 } }))))

/-- The Vitrine instructions of a hart that change its slots and jobs (R235-R241, R245-R249): each waits for the hart's stores and the
Vitrine, answers its result or its failure code in rd, and completes. -/
def Obligations.VitrineInstructions : Prop :=
  ∀ (hart rd rs1 rs2 : Nat) (s : State), goes s hart → (s.hart hart).sb = [] → vitRuns s (hart / 4) = true →
    let v := hart / 4
    let x := s.vit v
    let a := ((s.hart hart).getX rs1).toNat
    let slot := ((s.hart hart).getX rs2).toNat
    (∀ (t : State) (b : List Byte), (s.hart hart).vitSuper = true → slot ≤ 3 → loadable x slot = true →
      (a % 64 == 0 && vitRange s v a 640) = true → cohBytes (v / 3) (vitPart s v) a 640 s = (t, some (b, [])) →
      (loadCode t v slot b = 0 → exec (.vitLoad hart rd rs1 rs2) s = .next (vitDone hart rd 0 (setVit v ((t.vit v).withSlot slot
        { state := 1, block := b, stepped := ((t.vit v).slotAt slot).stepped,
          faultCode := ((t.vit v).slotAt slot).faultCode }) t))) ∧
      (loadCode t v slot b ≠ 0 → exec (.vitLoad hart rd rs1 rs2) s = .next (vitDone hart rd (vitFail (loadCode t v slot b)) t))) ∧
    ((s.hart hart).vitSuper = true → a ≤ 3 →
      let y := x.slotAt a
      (armCode s v a = 0 → exec (.vitArm hart rd rs1) s = .next (vitDone hart rd 0 (setVit v (x.withSlot a
        { state := 2, block := y.block, stepped := y.stepped, faultCode := y.faultCode }) s))) ∧
      (armCode s v a ≠ 0 → exec (.vitArm hart rd rs1) s = .next (vitDone hart rd (vitFail (armCode s v a)) s)) ∧
      (2 ≤ y.state → ((vitWaiting s v).any fun r => leAt r 3 1 == a && ofStep r) = false →
        exec (.vitDisarm hart rd rs1) s = .next (vitDone hart rd 0 (setVit v
          { x.withSlot a { y with state := 1, rows := [], disarming := false } with notices := dropSlot a x.notices } s)))) ∧
    ∀ (t : State) (d : List Byte), (s.hart hart).vitUser = true → slot ≤ 3 →
      let y := x.slotAt slot
      y.state ≠ 0 → y.state ≠ 2 → x.jobs.length < 16 → blkQueue y.block = 0xFFFFFFFF ∨ ownQueue s v (blkQueue y.block) = true →
      (a % 64 == 0 && vitRange s v a 64) = true → cohBytes (v / 3) (vitPart s v) a 64 s = (t, some (d, [])) →
      jobRanges t v y.block d = true →
      let n := (t.vit v).tickets + 1
      exec (.vitRun hart rd rs1 rs2) s = .next (vitDone hart rd (BitVec.ofNat 64 n)
        (setVit v { t.vit v with tickets := n, jobs := (t.vit v).jobs ++ [{ slot := slot, ticket := n, desc := d }] } t))

/-- What a Vitrine does by itself (R230-R234, R240-R244, R250): a seal notice on its way is counted and joins the notices of
armed slots, or is dropped and counted as the sixty-fifth; the oldest notice runs its first slot's step; the first job runs a
row. vit.wait answers the code of a job that ended, vit.stat the state of a slot, and an instruction below its privilege is illegal. -/
def Obligations.VitrineWork : Prop :=
  (∀ (v r l c : Nat) (s : State), v < 66 → r < 256 → s.modes.mode.active = true → s.acc.notices.contains (v, r, l, c) = true →
    fenced s (v / 3) = false → armedOn (s.vit v) r ≠ [] →
    let s1 := addO (nVitrine v) 0x6400 6 1 { s with acc := { s.acc with notices := s.acc.notices.erase (v, r, l, c) } }
    let more := (s.vit v).notices ++ [{ ring := r, line := l, cover := c, slots := armedOn (s.vit v) r }]
    ((s.vit v).notices.length < 64 → exec (.sealNotice v r l c) s = .next (setVit v { s.vit v with notices := more } s1)) ∧
    (64 ≤ (s.vit v).notices.length → exec (.sealNotice v r l c) s = .next (addO (nVitrine v) 0x6400 7 1 s1))) ∧
  (∀ (v slot : Nat) (n : Notice) (more : List Notice) (rest : List Nat) (f : ArrayFinding) (s t : State), v < 66 → vitRuns s v = true →
    vitWaiting s v = [] → (s.vit v).notices = n :: more → n.slots = slot :: rest →
    stepFound v slot n f (setVit v (noticeDone slot (s.vit v)) s) = some t →
    exec (.vitrineStep v f) s = .next t) ∧
  (∀ (v : Nat) (j : Job) (more : List Job) (f : ArrayFinding) (s t : State), v < 66 → vitRuns s v = true → vitWaiting s v = [] →
    (s.vit v).notices = [] → (s.vit v).jobs = j :: more → jobFound v j f s = some t →
    exec (.vitrineJobRow v f) s = .next t) ∧
  ∀ (hart rd rs1 : Nat) (s : State), goes s hart → (s.hart hart).sb = [] → vitRuns s (hart / 4) = true →
    let v := hart / 4
    let a := ((s.hart hart).getX rs1).toNat
    (∀ code : Nat, (s.hart hart).vitUser = true → 0 < a → a ≤ (s.vit v).tickets → (s.vit v).ended.lookup a = some code →
      jobWaiting s v a = false → exec (.vitWait hart rd rs1) s = .next (vitDone hart rd (BitVec.ofNat 64 code) s)) ∧
    ((s.hart hart).vitUser = true → a ≤ 3 → exec (.vitStat hart rd rs1) s = .next (vitDone hart rd
      (BitVec.ofNat 64 (((s.vit v).slotAt a).stepped % 2 ^ 32 * 2 ^ 32 + ((s.vit v).slotAt a).faultCode * 256 +
        ((s.vit v).slotAt a).state)) s)) ∧
    ((s.hart hart).vitSuper = false → exec (.vitArm hart rd rs1) s =
      .next (takeExc hart (.trap 2 (takeFree s).2) (takeFree s).1))

/-- What a running hart's access to an array of its gallery does when it meets an error (R176, R274): a corrected error and one in a
core's array, a translation or a clean line change no architectural value; a store-buffer entry marks the words it lost; a dirty
line keeps its words but for those lost, which are poison of form 02h; a tag or state that cannot be read takes the domain of the
way's partition down with cause 02h. -/
def Obligations.ArrayErrors : Prop :=
  (∀ (hart array entry : Nat) (w : BitVec 8) (fatal : Bool) (s : State), hart < 264 → array < 5 → hartRuns s hart = true →
    exec (.scalarInstruction hart (.arrayError (.core array entry w fatal)) 4) s =
      .next (coreArrayError hart array entry w fatal s)) ∧
  (∀ (hart way set line : Nat) (w : BitVec 8) (fatal : Bool) (s : State), hart < 264 → way < 16 → set < 16384 →
    hartRuns s hart = true → wayEnabled s (hart / 12) way = true → slotLine s (hart / 12) way set = some line →
    exec (.scalarInstruction hart (.arrayError (.l2 false way set w fatal)) 4) s =
      .next (l2DataError (hart / 12) way line w fatal s)) ∧
  (∀ (hart way set : Nat) (w : BitVec 8) (fatal : Bool) (s : State), hart < 264 → way < 16 → set < 16384 →
    hartRuns s hart = true → wayEnabled s (hart / 12) way = true →
    exec (.scalarInstruction hart (.arrayError (.l2 true way set w fatal)) 4) s =
      .next (l2TagError (hart / 12) way (slotLine s (hart / 12) way set) fatal s)) ∧
  (∀ (h : Hart) (array entry : Nat) (w : BitVec 8), (h.loseEntry array entry w).x = h.x ∧ (h.loseEntry array entry w).f = h.f ∧
    (h.loseEntry array entry w).v = h.v ∧ (h.loseEntry array entry w).csr = h.csr ∧ (h.loseEntry array entry w).pc = h.pc ∧
    (array ≠ 3 → (h.loseEntry array entry w).sb = h.sb) ∧
    ((h.loseEntry array entry w).sb.map fun e => (e.line, e.data, e.mask, e.whole)) =
      h.sb.map fun e => (e.line, e.data, e.mask, e.whole)) ∧
  (∀ (g line : Nat) (w : BitVec 8) (s : State),
    ((s.l2 g line).st = .e ∨ (s.l2 g line).st = .s → ((loseData g line w s).l2 g line).st = .i) ∧
    ((s.l2 g line).st = .m → ((loseData g line w s).l2 g line).st = .m ∧ ∀ i, i < 8 →
      ((loseData g line w s).l2 g line).copy.form i = if w.getLsbD i then 2 else (s.l2 g line).copy.form i) ∧
    (loseData g line w s).mem = s.mem ∧ (loseData g line w s).obj = s.obj) ∧
  ∀ (g w p line : Nat) (s : State), p < 16 → wayOwner s g w (some (s.l2 g line)) = some p → ∃ t,
    l2TagError g w (some line) true s = domainDown p 2 g t

/-- Partitions (R417-R421, R424-R427): a configuration write that its rule takes is committed; a start whose preconditions hold runs
the partition; a stop begins, and ends with the clear phase of its domain where that is UP (R425, R428); a restart does both; an
automatic start is made, or not made as the fourth in 60 s. -/
def Obligations.PartitionLife : Prop :=
  (∀ (who : Requester) (ix sub v : Nat) (s t : State), 0x7000 ≤ ix → ix ≤ 0x703F → reaches .rwp who nS ix sub v s = true →
    rulePartition ix sub v (arrived who nS ix sub v s) = answered t →
    exec (.partitionConfigWrite who ix sub v) s = .next (written .rwp who t)) ∧
  (∀ (who : Requester) (ix sub v : Nat) (s : State), 0x7000 ≤ ix → ix ≤ 0x703F → reaches .rwp who nS ix sub v s = true →
    promoting (arrived who nS ix sub v s) = true →
    exec (.partitionConfigWrite who ix sub v) s = .next (turnedAway who 0x08000021 2 (arrived who nS ix sub v s))) ∧
  (∀ (who : Requester) (p : Nat) (f : Bool) (s t : State), reaches .wo who nS 0x7050 1 p s = true →
    let a := arrivedWith f who nS 0x7050 1 p s
    startRefusal a p = 0 → startWaits a p = false → runStart p f a = (t, true) →
    exec (.partitionStart who p f) s = .next (ended who nS 0x7050 1 t) ∧ (p < 16 → partState t p = 3)) ∧
  (∀ (who : Requester) (p n : Nat) (s t : State), reaches .wo who nS 0x7050 2 p s = true →
    let a := arrived who nS 0x7050 2 p s
    mayStop a p = true → beginStop p { action := some (who, a.cat.nextTag) } a = (t, n) →
    exec (.partitionStop who p) s = .next (closed (respondAction who nS 0x7050 2 n 0 t)) ∧
    (domState a p = 0 → n = 1) ∧ (domState a p ≠ 0 → n = 0)) ∧
  (∀ (who : Requester) (p n : Nat) (f : Bool) (s t : State), reaches .wo who nS 0x7050 3 p s = true →
    let a := arrivedWith f who nS 0x7050 3 p s
    let act := some (who, a.cat.nextTag)
    mayStop a p = true → beginStop p { action := act, restart := true, flash := f } a = (t, n) →
    (n = 1 → exec (.partitionRestart who p f) s = .next (pending who nS 0x7050 3 t)) ∧
    ∀ (u : State) (st d : Nat), n = 0 → relaunch p act f t = (u, st, d) →
      exec (.partitionRestart who p f) s = .next (closed (respondAction who nS 0x7050 3 st d u))) ∧
  ∀ (p : Nat) (f : Bool) (s : State), p < 16 → partState s p = 5 → getO s nS 0x7043 (p + 1) = 2 → getO s nS (0x7000 + p) 6 = 1 →
    s.parts.held.contains p = false → getO s nC 0x6812 (p + 1) ≠ 1 ∨ ownPromotion s p = false →
    exec (.automaticStart p f) s = .next
      (if 3 ≤ ((tblGet [] s.parts.autoTimes p).filter fun t => decide (now s < t + 60000000000)).length
        then setO nS 0x7043 (p + 1) 6 s else autoStart p f s)

/-- The Strongroom's actions (R435, R437-R441), each in SERVICE but the attestation: an install begins, takes its data and ends by
its verdict; a report is kept; keys are erased and every session closed; decommissioning follows a zeroisation; the minimum version
rises to the running one. -/
def Obligations.StrongroomActions : Prop :=
  ∀ (who : Requester) (v : Nat) (s : State), s.modes.mode = .service →
    (reaches .wo who nS 0x7200 1 v s = true → v ≠ 0 → s.strong.inst = none →
      ∃ t, exec (.installTarget who v) s = .next (ended who nS 0x7200 1 t) ∧ getO t nS 0x7200 3 = 0 ∧
        t.strong.inst = some { who := who, target := v, offset := 0 } ∧ t.strong.flash = (eraseFlash v s).strong.flash) ∧
    (∀ x : InstallState, reaches .wo who nS 0x7200 2 v s = true → s.strong.inst = some x → x.who = who →
      x.offset + 1024 ≤ flashRoom x.target →
      ∃ t, exec (.installData who v) s = .next (ended who nS 0x7200 2 t) ∧ t.strong.inst = some { x with offset := x.offset + 1024 } ∧
        t.strong.flash = (programFlash x.target x.offset (leBytes 1024 v) s).strong.flash) ∧
    (∀ x : InstallState, reaches .wo who nS 0x7200 4 1 s = true → s.strong.inst = some x → x.who = who →
      let code := verdict (arrived who nS 0x7200 4 1 s) x.target
      let t := verifyTarget x.target { arrived who nS 0x7200 4 1 s with strong := { (arrived who nS 0x7200 4 1 s).strong with inst := none } }
      exec (.install who 1) s = .next (closed (respondAction who nS 0x7200 4 (if code = 0 then 0 else 2) code
        (if code = 0 ∧ isBank x.target = true then setO nS 0x7100 7 x.target t else t)))) ∧
    (reaches .wo who nS 0x7410 1 v s = true → s.strong.decommissioned = false → ((arrived who nS 0x7410 1 v s).req who).reports = [] →
      exec (.attestation who v) s = .next (ended who nS 0x7410 1 (setReq who { (arrived who nS 0x7410 1 v s).req who with
        reports := [reportBody (arrived who nS 0x7410 1 v s) v ++
          leBytes 96 (Config.attestSign ((reportBody (arrived who nS 0x7410 1 v s) v).map BitVec.toNat))] } (arrived who nS 0x7410 1 v s)))) ∧
    (reaches .wo who nS 0x7100 9 1 s = true → ∃ t, exec (.zeroise who 1) s = .next (closeSessions t) ∧
      t.strong.zeroised = true ∧ t.obj = (eraseKeys (arrived who nS 0x7100 9 1 s)).obj) ∧
    (reaches .wo who nS 0x7100 0x0A 1 s = true → s.strong.zeroised = true →
      ∃ t, exec (.decommission who 1) s = .next (closeSessions t) ∧ t.strong.decommissioned = true) ∧
    (reaches .wo who nS 0x7100 6 1 s = true → ∃ t, exec (.raiseMinimum who 1) s = .next t ∧
      (getO s nS 0x7100 5 < 2 ^ 32 → getO s nS 0x7100 4 < 2 ^ 32 →
        getO t nS 0x7100 5 = max (getO s nS 0x7100 5) (getO s nS 0x7100 4)))

/-- Audits, counters and defaults (R395, R456-R458, R460, R466, R467): an audit begins when its period has passed and on request,
samples what is quiescent, waits for the rest as long as 8300h.03h says, and then ends with the actions that asked for it
(overlapping audits and the time that 8312h.01h names are log entry 19); the package counters clear; an event is selected while
its counter is disabled, which starts from zero; a hart's counter wraps to zero and sets its overflow. -/
def Obligations.CountersAndAudits : Prop :=
  (∀ s : State, curatorRuns s = true → getO s nP 0x8300 2 ≠ 0 → getO s nP 0x8312 1 + getO s nP 0x8300 2 * 1000000000 ≤ now s →
    s.errs.audit = none → exec .auditTimer s = .next
      (continueAudit { s with errs := { s.errs with audit := some { start := now s, left := auditInstances s } } })) ∧
  (∀ (s : State) (a : Audit), curatorRuns s = true → s.errs.audit = some a →
    exec .auditTimer s = .next (continueAudit s) ∧
    let left := a.left.filter fun i => !quiescent s i
    let t := forAll (a.left.filter (quiescent s)) sample s
    (left = [] → continueAudit s = endAudit a t) ∧
    (a.start + getO s nP 0x8300 3 * 1000000 ≤ now s →
      continueAudit s = endAudit a (forAll left (fun i s => notQuiescent i.1 s) t)) ∧
    ((a.left.any fun i => !quiescent s i) = true → now s < a.start + getO s nP 0x8300 3 * 1000000 →
      continueAudit s = { t with errs := { t.errs with audit := some { a with left := left } } })) ∧
  (∀ (who : Requester) (s : State), reaches .wo who nP 0x8300 1 1 s = true →
    let u := arrived who nP 0x8300 1 1 s
    ((audit u).errs.audit = none → exec (.auditNow who 1) s = .next (ended who nP 0x8300 1 (audit u))) ∧
    ∀ a, (audit u).errs.audit = some a → exec (.auditNow who 1) s = .next (pending who nP 0x8300 1
      { audit u with errs := { (audit u).errs with audit := some { a with asked := a.asked ++ [(who, u.cat.nextTag)] } } })) ∧
  (∀ (who : Requester) (s : State), reaches .wo who nP 0x9000 3 1 s = true →
    ∃ t, exec (.countersClearAll who 1) s = .next (ended who nP 0x9000 3 t) ∧
      ∀ i, i < 32 → getO t nP (0x9100 + i) 4 = 0 ∧ getO t nP (0x9100 + i) 5 = 0) ∧
  (∀ (who : Requester) (i v : Nat) (s : State), i < 32 → reaches .rw who nP (0x9100 + i) 1 v s = true →
    getO (arrived who nP (0x9100 + i) 1 v s) nP (0x9100 + i) 6 ≠ 1 → v = 0 ∨ isPackageEvent v = true →
    exec (.packageCounterEventWrite who i v) s = .next (written .rw who
      (setO nP (0x9100 + i) 1 v (setO nP (0x9100 + i) 4 0 (setO nP (0x9100 + i) 5 0 (arrived who nP (0x9100 + i) 1 v s)))))) ∧
  (∀ (hart i : Nat) (s : State), hart < 264 → 3 ≤ i → i ≤ 31 → (s.hart hart).run ≠ .inReset →
    (s.hart hart).counts (getO s nP 0x2103 1 % 2 == 1) (field ((s.hart hart).csrOf (0x320 + i)) 0 12) i = true →
    (s.hart hart).csrOf (0xB00 + i) = BitVec.allOnes 64 →
    ∃ t, exec (.hartCounterWrap hart i) s = .next t ∧ onlyHart hart s t ∧ (t.hart hart).csrOf (0xB00 + i) = 0 ∧
      (t.hart hart).csrOf (0x320 + i) = setField ((s.hart hart).csrOf (0x320 + i)) 63 1 1) ∧
  ∀ (who : Requester) (s t : State), reaches .wo who nP 0x2040 1 1 s = true → s.modes.mode = .service →
    ruleRestore (arrived who nP 0x2040 1 1 s) = actionDone t → exec (.restoreDefaults who 1) s = .next (ended who nP 0x2040 1 t)

/-- Debug (R468-R472): a hart that 7500h opens halts with its pc saved, resumes there, steps one instruction, restarts, and lets its
registers be read and written while halted; a hart that is nonexistent or reads as unavailable takes no request, and an access to its
registers has cmderr 4 (log entry 42); the hart array mask adds harts; the JTAG instruction register is selected. -/
def Obligations.DebugCommands : Prop :=
  (∀ (hart : Nat) (s : State), hart < 264 → debuggable s hart = true →
    let h := s.hart hart
    (h.run = .running → ∃ t, exec (.debugHalt hart [] false) s = .next t ∧ onlyHart hart s t ∧ (t.hart hart).run = .debug ∧
      (t.hart hart).priv = .m ∧ (t.hart hart).csrOf 0x7B1 = h.pc ∧ (t.hart hart).x = h.x) ∧
    (h.run = .debug → h.stepping = false → ∃ t, exec (.debugResume hart [] false) s = .next t ∧
      onlyHart hart s t ∧ (t.hart hart).run = .running ∧ (t.hart hart).pc = h.csrOf 0x7B1 ∧
      (t.hart hart).priv = privOf (field (h.csrOf 0x7B0) 0 2)) ∧
    (∀ (i : RvInsn) (len : Nat), h.run = .debug → progOk (.scalar i len) = true →
      (h.csrOf 0x7B0).getLsbD 11 = false →
      ((runScalar hart i len (resumeHart hart s)).hart hart).run = .running →
      exec (.debugStep hart i len) s = .next (haltHart hart 4 (runScalar hart i len (resumeHart hart s)))) ∧
    exec (.debugHartreset hart []) s = .next (hartReset hart s) ∧
    (∀ n : Nat, h.run = .debug → exec (.accessRegister hart (.gpr n) none 8 []) s =
      .next { s with dbg := { s.dbg with data0 := h.getX n, cmderr := 0 } }) ∧
    (∀ (n : Nat) (v : Word), h.run = .debug → exec (.accessRegister hart (.gpr n) (some v) 8 []) s =
      .next (setCmderr 0 (setHart hart (h.withX n v) s))) ∧
    (∀ (r : DbgReg) (w : Option Word) (p : List ProgInsn), programOk p = true → h.run = .debug →
      exec (.accessRegister hart r w 8 p) s = .next (postExec hart p s (transfer hart r w 8 s))) ∧
    ∀ (r : DbgReg) (w : Option Word) (p : List ProgInsn), programOk p = true → h.run ≠ .debug →
      exec (.accessRegister hart r w 8 p) s = .next (setCmderr 4 s)) ∧
  (∀ (hart : Nat) (s : State), hart < 2 ^ 20 → debuggable s hart = false →
    (∀ (i : RvInsn) (len : Nat), progOk (.scalar i len) = true → exec (.debugStep hart i len) s = .next s) ∧
    exec (.debugHalt hart [] false) s = .next s ∧ exec (.debugResume hart [] false) s = .next s ∧
    exec (.debugHartreset hart []) s = .next s ∧
    ∀ (r : DbgReg) (w : Option Word) (p : List ProgInsn), programOk p = true → authenticated s = true →
      exec (.accessRegister hart r w 8 p) s = .next (setCmderr 4 s)) ∧
  (∀ (hart : Nat) (s : State), 264 ≤ hart → debuggable s hart = false) ∧
  (∀ (hart : Nat) (l : List Nat) (s : State), hart < 2 ^ 20 → (∀ h ∈ l, h < 2 ^ 20) →
    (∀ ack : Bool,
      exec (.debugHalt hart l ack) s = .next (forAll (hart :: l) (fun h s => haltRequest h (ackReset ack h s)) s) ∧
      exec (.debugResume hart l ack) s = .next (forAll (hart :: l) (fun h s => resumeRequest h (ackReset ack h s)) s)) ∧
    exec (.debugHartreset hart l) s = .next (forAll l resetRequest (resetRequest hart s))) ∧
  ∀ (ir : Nat) (s : State), ir < 32 → s.modes.mode.on = true →
    exec (.jtagIrSelect ir) s = .next { s with dbg := { s.dbg with ir := ir } }

/-- The state after reset (R77, R80, R166, R394; the model's choice where the spec gives no value, log entries 1, 7, 8 and 78): OFF, PORESET_N low, STAT 000,
no command waiting, every object at its default, every hart in reset, no word of memory written, and nothing in flight. A word that
names a command exists nowhere, for the table gives none. -/
def Obligations.ResetValues : Prop :=
  State.reset.modes.mode = .off ∧ State.reset.power.poresetN = false ∧ State.reset.power.stat = 0 ∧ State.reset.pending = [] ∧
  (∀ node ix sub, getO State.reset node ix sub = objDefault node ix sub) ∧
  (∀ h, (State.reset.hart h).run = .inReset ∧ (State.reset.hart h).sb = [] ∧ (State.reset.hart h).reserved = none) ∧
  (∀ w, storedForm State.reset.mem w = 1) ∧ State.reset.conc.tx = [] ∧ State.reset.conc.msgs = [] ∧ now State.reset = 0 ∧
  (∀ n, n < 22 → getO State.reset nP 0x2101 (n + 1) = n) ∧
  ∀ (s : State) (n w : Nat), s.withFetchWord n w = s

/-! Rules of the spec, whole. -/

/-- R58: retirement writes that are served, none outstanding (R397), are refused, and change nothing but the answer. -/
def Obligations.RetirementWritesRefused : Prop :=
  (∀ (who : Requester) (g : Nat) (s : State), received s who = true → s.cat.queue = [] →
    siteOf (appear who s) g = 0xFF ∨ promoting (appear who s) = true →
    ∃ t, exec (.retireGallery who g) s = .next t ∧ (t.req who).abort ≠ 0 ∧ t.obj = s.obj ∧ t.panel = s.panel) ∧
  ∀ (who : Requester) (n : Nat) (s : State), received s who = true → s.cat.queue = [] →
    s.modes.mode ≠ .service ∨ siteStateOf (appear who s) n ≠ 3 ∨ siteReasonOf (appear who s) n = 3 ∨
      siteReasonOf (appear who s) n = 5 →
    ∃ t, exec (.retestSite who n) s = .next t ∧ (t.req who).abort ≠ 0 ∧ t.obj = s.obj ∧ t.panel = s.panel

/-- R78: a package reset is refused in LOCKSTEP and KEEP, during a transition and during a promotion; an accepted one is answered
before the package goes to OFF. -/
def Obligations.PackageResetRule : Prop :=
  ∀ (who : Requester) (v : Nat) (s : State), received s who = true → s.cat.queue = [] →
    (s.modes.mode = .lockstep ∨ s.modes.mode = .keep ∨ s.modes.trans ≠ none ∨ getO s nP 0x2102 3 = 1 →
      ∃ t, exec (.packageReset who v) s = .next t ∧ (t.req who).abort ≠ 0 ∧ t.modes = s.modes ∧ t.power = s.power) ∧
    (s.modes.mode ≠ .lockstep → s.modes.mode ≠ .keep → s.modes.trans = none → getO s nP 0x2102 3 ≠ 1 →
      reaches .wo who nP 0x2030 1 v s = true →
      exec (.packageReset who v) s = .next (enterOff 3 0 false (emit (.acknowledged who)
        (ended who nP 0x2030 1 { arrived who nP 0x2030 1 v s with power := { (arrived who nP 0x2030 1 v s).power with resetting := true } }))))

/-- R461: the bits of mcounteren and scounteren that are writable, and who may read hpmcounter3 to hpmcounter31; any other read is
an illegal-instruction exception. -/
def Obligations.CounterAccess : Prop :=
  (∀ (hart rd rs len : Nat) (s : State), goes s hart → len = 2 ∨ len = 4 →
    ((s.hart hart).priv = .m → ∃ t, exec (.scalarInstruction hart (.csr .rw rd 0x306 (.reg rs)) len) s = .next t ∧
      (t.hart hart).csrOf 0x306 = (s.hart hart).getX rs &&& 0xFFFFFFFF) ∧
    ((s.hart hart).priv ≠ .u → ∃ t, exec (.scalarInstruction hart (.csr .rw rd 0x106 (.reg rs)) len) s = .next t ∧
      (t.hart hart).csrOf 0x106 = (s.hart hart).getX rs &&& 7)) ∧
  ∀ (hart rd i len : Nat) (s : State), goes s hart → len = 2 ∨ len = 4 → 3 ≤ i → i ≤ 31 →
    let free := (s.hart hart).countsOpen (getO s nP 0x2103 1 % 2 == 1) i
    ((s.hart hart).priv = .u ∨ ((s.hart hart).priv = .s ∧ ((s.hart hart).csrOf 0x306).getLsbD i = false) →
      exec (.scalarInstruction hart (.csr .rs rd (0xC00 + i) (.reg 0)) len) s =
        .next (takeExc hart (.trap 2 (takeFree s).2) (takeFree s).1)) ∧
    ((s.hart hart).priv = .m ∨ ((s.hart hart).priv = .s ∧ ((s.hart hart).csrOf 0x306).getLsbD i = true) →
      ∃ t, exec (.scalarInstruction hart (.csr .rs rd (0xC00 + i) (.reg 0)) len) s = .next t ∧
        (free = false → wroteX rd ((s.hart hart).csrOf (0xB00 + i)) (s.hart hart) (t.hart hart)))
end

