-- ==== Sys2Proof/Laws/Table.lean ====
section
/-! SUPPORT. Laws of the sparse tables: read after write, and the canonical form kept. -/

namespace Sys2Proof

variable {α : Type}

theorem tblGet_erase_same (d : α) (t : List (Nat × α)) (k : Nat) : tblGet d (tblErase t k) k = d := by
  induction t with
  | nil => rfl
  | cons e t ih =>
    obtain ⟨k', v⟩ := e
    by_cases h : k = k' <;> simp [tblErase, tblGet, h, ih]
    simpa [h] using ih

theorem tblGet_erase_ne (d : α) (t : List (Nat × α)) {k j : Nat} (h : j ≠ k) :
    tblGet d (tblErase t k) j = tblGet d t j := by
  induction t with
  | nil => rfl
  | cons e t ih =>
    obtain ⟨k', v⟩ := e
    by_cases hk : k = k'
    · subst hk; simp [tblErase, tblGet, h, ih]
    · simp [tblErase, tblGet, hk, ih]

theorem tblGet_insert_same (d : α) (t : List (Nat × α)) (k : Nat) (v : α) : tblGet d (tblInsert t k v) k = v := by
  induction t with
  | nil => simp [tblInsert, tblGet]
  | cons e t ih =>
    obtain ⟨k', v'⟩ := e
    unfold tblInsert
    split
    · simp [tblGet]
    · split
      · simp [tblGet]
      · simp [tblGet, *]

theorem tblGet_insert_ne (d : α) (t : List (Nat × α)) (v : α) {k j : Nat} (h : j ≠ k) :
    tblGet d (tblInsert t k v) j = tblGet d t j := by
  induction t with
  | nil => simp [tblInsert, tblGet, h]
  | cons e t ih =>
    obtain ⟨k', v'⟩ := e
    unfold tblInsert
    split
    · simp [tblGet, h]
    · split
      · subst_vars; simp [tblGet, h]
      · simp [tblGet, ih]

variable [DecidableEq α]

/-- A table reads what was written where it was written. -/
@[simp] theorem tblGet_set_same (d : α) (t : List (Nat × α)) (k : Nat) (v : α) : tblGet d (tblSet d t k v) k = v := by
  unfold tblSet
  split
  · subst_vars; exact tblGet_erase_same _ _ _
  · exact tblGet_insert_same _ _ _ _

/-- A write leaves every other place alone. -/
theorem tblGet_set_ne (d : α) (t : List (Nat × α)) (v : α) {k j : Nat} (h : j ≠ k) :
    tblGet d (tblSet d t k v) j = tblGet d t j := by
  unfold tblSet
  split
  · exact tblGet_erase_ne _ _ h
  · exact tblGet_insert_ne _ _ _ h

/-- The same read with another default. -/
theorem tblGet_set_other (d d' : α) (t : List (Nat × α)) (v : α) {k j : Nat} (h : j ≠ k) :
    tblGet d' (tblSet d t k v) j = tblGet d' t j := by
  unfold tblSet
  split
  · exact tblGet_erase_ne _ _ h
  · exact tblGet_insert_ne _ _ _ h

/-- Read after write, both cases. -/
theorem tblGet_set (d : α) (t : List (Nat × α)) (k j : Nat) (v : α) :
    tblGet d (tblSet d t k v) j = if j = k then v else tblGet d t j := by
  split
  · subst_vars; simp
  · exact tblGet_set_ne _ _ _ ‹_›

/-! Canonical form. -/

theorem tblWfFrom_mono (d : α) {lo lo' : Nat} (h : lo' ≤ lo) (t : List (Nat × α)) (w : tblWfFrom d lo t = true) :
    tblWfFrom d lo' t = true := by
  cases t with
  | nil => rfl
  | cons e t => simp only [tblWfFrom, Bool.and_eq_true, decide_eq_true_eq] at w ⊢; exact ⟨⟨le_trans h w.1.1, w.1.2⟩, w.2⟩

theorem tblWfFrom_erase (d : α) (k : Nat) : ∀ (t : List (Nat × α)) (lo : Nat),
    tblWfFrom d lo t = true → tblWfFrom d lo (tblErase t k) = true
  | [], _, _ => rfl
  | (k', v) :: t, lo, w => by
    simp only [tblWfFrom, Bool.and_eq_true, decide_eq_true_eq] at w
    have ih := tblWfFrom_erase d k t (k' + 1) w.2
    unfold tblErase
    split
    · exact tblWfFrom_mono d (by omega) _ ih
    · simp [tblWfFrom, w.1.1, w.1.2, ih]

theorem tblWfFrom_insert (d : α) (k : Nat) (v : α) (hv : v ≠ d) : ∀ (t : List (Nat × α)) (lo : Nat),
    lo ≤ k → tblWfFrom d lo t = true → tblWfFrom d lo (tblInsert t k v) = true
  | [], lo, h, _ => by simp [tblInsert, tblWfFrom, h, hv]
  | (k', v') :: t, lo, h, w => by
    simp only [tblWfFrom, Bool.and_eq_true, decide_eq_true_eq] at w
    unfold tblInsert
    split
    · rename_i hk; simp [tblWfFrom, h, hv, w.1.2, w.2]; omega
    · split
      · subst_vars; simp [tblWfFrom, h, hv, w.2]
      · have ih := tblWfFrom_insert d k v hv t (k' + 1) (by omega) w.2
        simp [tblWfFrom, w.1.1, w.1.2, ih]

/-- A write keeps the canonical form. -/
theorem tblWf_set (d : α) (t : List (Nat × α)) (k : Nat) (v : α) (w : tblWf d t = true) : tblWf d (tblSet d t k v) = true := by
  unfold tblSet tblWf
  split
  · exact tblWfFrom_erase d k t 0 w
  · exact tblWfFrom_insert d k v ‹_› t 0 (Nat.zero_le _) w

omit [DecidableEq α] in
/-- A dropped place reads the default, every other place as before. -/
theorem tblGet_drop (d : α) (p : Nat → Bool) (t : List (Nat × α)) (k : Nat) :
    tblGet d (tblDrop p t) k = if p k then d else tblGet d t k := by
  induction t with
  | nil => simp [tblDrop, tblGet]
  | cons e t ih =>
    obtain ⟨k', v⟩ := e
    by_cases hk : k = k'
    · subst hk
      by_cases hp : p k = true <;> simp_all [tblDrop, tblGet]
    · by_cases hp : p k' = true <;> simp [tblDrop, tblGet, hk, hp, ih]

/-- Dropping entries keeps the canonical form. -/
theorem tblWf_drop (d : α) (p : Nat → Bool) (t : List (Nat × α)) (w : tblWf d t = true) : tblWf d (tblDrop p t) = true := by
  unfold tblWf at *
  generalize 0 = lo at w
  induction t generalizing lo with
  | nil => rfl
  | cons e t ih =>
    obtain ⟨k, v⟩ := e
    simp only [tblWfFrom, Bool.and_eq_true, decide_eq_true_eq] at w
    unfold tblDrop
    split
    · exact tblWfFrom_mono d (by omega) _ (ih _ w.2)
    · simp [tblWfFrom, w.1.1, w.1.2, ih _ w.2]

end Sys2Proof
end

