-- ==== Sys2Proof/Laws/State.lean ====
section
/-! SUPPORT. What each named update of the state leaves alone, field by field, and reads after writes. -/

namespace Sys2Proof.Machine

variable (s : State)

/-! setO changes `obj` only. -/

@[simp] theorem setO_power (node ix sub v : Nat) : (setO node ix sub v s).power = s.power := rfl
@[simp] theorem setO_modes (node ix sub v : Nat) : (setO node ix sub v s).modes = s.modes := rfl
@[simp] theorem setO_clock (node ix sub v : Nat) : (setO node ix sub v s).clock = s.clock := rfl
@[simp] theorem setO_panel (node ix sub v : Nat) : (setO node ix sub v s).panel = s.panel := rfl
@[simp] theorem setO_hodo (node ix sub v : Nat) : (setO node ix sub v s).hodo = s.hodo := rfl
@[simp] theorem setO_acc (node ix sub v : Nat) : (setO node ix sub v s).acc = s.acc := rfl
@[simp] theorem setO_mem (node ix sub v : Nat) : (setO node ix sub v s).mem = s.mem := rfl
@[simp] theorem setO_harts (node ix sub v : Nat) : (setO node ix sub v s).harts = s.harts := rfl
@[simp] theorem setO_caches (node ix sub v : Nat) : (setO node ix sub v s).caches = s.caches := rfl
@[simp] theorem setO_conc (node ix sub v : Nat) : (setO node ix sub v s).conc = s.conc := rfl
@[simp] theorem setO_vits (node ix sub v : Nat) : (setO node ix sub v s).vits = s.vits := rfl
@[simp] theorem setO_queues (node ix sub v : Nat) : (setO node ix sub v s).queues = s.queues := rfl
@[simp] theorem setO_dray (node ix sub v : Nat) : (setO node ix sub v s).dray = s.dray := rfl
@[simp] theorem setO_arch (node ix sub v : Nat) : (setO node ix sub v s).arch = s.arch := rfl
@[simp] theorem setO_cat (node ix sub v : Nat) : (setO node ix sub v s).cat = s.cat := rfl
@[simp] theorem setO_strong (node ix sub v : Nat) : (setO node ix sub v s).strong = s.strong := rfl
@[simp] theorem setO_parts (node ix sub v : Nat) : (setO node ix sub v s).parts = s.parts := rfl
@[simp] theorem setO_errs (node ix sub v : Nat) : (setO node ix sub v s).errs = s.errs := rfl
@[simp] theorem setO_dbg (node ix sub v : Nat) : (setO node ix sub v s).dbg = s.dbg := rfl
@[simp] theorem setO_free (node ix sub v : Nat) : (setO node ix sub v s).free = s.free := rfl
@[simp] theorem setO_emitted (node ix sub v : Nat) : (setO node ix sub v s).emitted = s.emitted := rfl
@[simp] theorem setO_pending (node ix sub v : Nat) : (setO node ix sub v s).pending = s.pending := rfl

/-! setHart changes `harts` only. -/

@[simp] theorem setHart_obj (h : Nat) (x : Hart) : (setHart h x s).obj = s.obj := rfl
@[simp] theorem setHart_power (h : Nat) (x : Hart) : (setHart h x s).power = s.power := rfl
@[simp] theorem setHart_modes (h : Nat) (x : Hart) : (setHart h x s).modes = s.modes := rfl
@[simp] theorem setHart_clock (h : Nat) (x : Hart) : (setHart h x s).clock = s.clock := rfl
@[simp] theorem setHart_panel (h : Nat) (x : Hart) : (setHart h x s).panel = s.panel := rfl
@[simp] theorem setHart_hodo (h : Nat) (x : Hart) : (setHart h x s).hodo = s.hodo := rfl
@[simp] theorem setHart_acc (h : Nat) (x : Hart) : (setHart h x s).acc = s.acc := rfl
@[simp] theorem setHart_mem (h : Nat) (x : Hart) : (setHart h x s).mem = s.mem := rfl
@[simp] theorem setHart_caches (h : Nat) (x : Hart) : (setHart h x s).caches = s.caches := rfl
@[simp] theorem setHart_conc (h : Nat) (x : Hart) : (setHart h x s).conc = s.conc := rfl
@[simp] theorem setHart_vits (h : Nat) (x : Hart) : (setHart h x s).vits = s.vits := rfl
@[simp] theorem setHart_queues (h : Nat) (x : Hart) : (setHart h x s).queues = s.queues := rfl
@[simp] theorem setHart_dray (h : Nat) (x : Hart) : (setHart h x s).dray = s.dray := rfl
@[simp] theorem setHart_arch (h : Nat) (x : Hart) : (setHart h x s).arch = s.arch := rfl
@[simp] theorem setHart_cat (h : Nat) (x : Hart) : (setHart h x s).cat = s.cat := rfl
@[simp] theorem setHart_strong (h : Nat) (x : Hart) : (setHart h x s).strong = s.strong := rfl
@[simp] theorem setHart_parts (h : Nat) (x : Hart) : (setHart h x s).parts = s.parts := rfl
@[simp] theorem setHart_errs (h : Nat) (x : Hart) : (setHart h x s).errs = s.errs := rfl
@[simp] theorem setHart_dbg (h : Nat) (x : Hart) : (setHart h x s).dbg = s.dbg := rfl
@[simp] theorem setHart_free (h : Nat) (x : Hart) : (setHart h x s).free = s.free := rfl
@[simp] theorem setHart_emitted (h : Nat) (x : Hart) : (setHart h x s).emitted = s.emitted := rfl
@[simp] theorem setHart_pending (h : Nat) (x : Hart) : (setHart h x s).pending = s.pending := rfl

/-! setVit changes `vits` only. -/

@[simp] theorem setVit_obj (v : Nat) (x : Vit) : (setVit v x s).obj = s.obj := rfl
@[simp] theorem setVit_power (v : Nat) (x : Vit) : (setVit v x s).power = s.power := rfl
@[simp] theorem setVit_modes (v : Nat) (x : Vit) : (setVit v x s).modes = s.modes := rfl
@[simp] theorem setVit_clock (v : Nat) (x : Vit) : (setVit v x s).clock = s.clock := rfl
@[simp] theorem setVit_panel (v : Nat) (x : Vit) : (setVit v x s).panel = s.panel := rfl
@[simp] theorem setVit_hodo (v : Nat) (x : Vit) : (setVit v x s).hodo = s.hodo := rfl
@[simp] theorem setVit_acc (v : Nat) (x : Vit) : (setVit v x s).acc = s.acc := rfl
@[simp] theorem setVit_mem (v : Nat) (x : Vit) : (setVit v x s).mem = s.mem := rfl
@[simp] theorem setVit_harts (v : Nat) (x : Vit) : (setVit v x s).harts = s.harts := rfl
@[simp] theorem setVit_caches (v : Nat) (x : Vit) : (setVit v x s).caches = s.caches := rfl
@[simp] theorem setVit_conc (v : Nat) (x : Vit) : (setVit v x s).conc = s.conc := rfl
@[simp] theorem setVit_queues (v : Nat) (x : Vit) : (setVit v x s).queues = s.queues := rfl
@[simp] theorem setVit_dray (v : Nat) (x : Vit) : (setVit v x s).dray = s.dray := rfl
@[simp] theorem setVit_arch (v : Nat) (x : Vit) : (setVit v x s).arch = s.arch := rfl
@[simp] theorem setVit_cat (v : Nat) (x : Vit) : (setVit v x s).cat = s.cat := rfl
@[simp] theorem setVit_strong (v : Nat) (x : Vit) : (setVit v x s).strong = s.strong := rfl
@[simp] theorem setVit_parts (v : Nat) (x : Vit) : (setVit v x s).parts = s.parts := rfl
@[simp] theorem setVit_errs (v : Nat) (x : Vit) : (setVit v x s).errs = s.errs := rfl
@[simp] theorem setVit_dbg (v : Nat) (x : Vit) : (setVit v x s).dbg = s.dbg := rfl
@[simp] theorem setVit_free (v : Nat) (x : Vit) : (setVit v x s).free = s.free := rfl
@[simp] theorem setVit_emitted (v : Nat) (x : Vit) : (setVit v x s).emitted = s.emitted := rfl
@[simp] theorem setVit_pending (v : Nat) (x : Vit) : (setVit v x s).pending = s.pending := rfl

/-! setQueue changes `queues` only. -/

@[simp] theorem setQueue_obj (q : Nat) (x : Queue) : (setQueue q x s).obj = s.obj := rfl
@[simp] theorem setQueue_power (q : Nat) (x : Queue) : (setQueue q x s).power = s.power := rfl
@[simp] theorem setQueue_modes (q : Nat) (x : Queue) : (setQueue q x s).modes = s.modes := rfl
@[simp] theorem setQueue_clock (q : Nat) (x : Queue) : (setQueue q x s).clock = s.clock := rfl
@[simp] theorem setQueue_panel (q : Nat) (x : Queue) : (setQueue q x s).panel = s.panel := rfl
@[simp] theorem setQueue_hodo (q : Nat) (x : Queue) : (setQueue q x s).hodo = s.hodo := rfl
@[simp] theorem setQueue_acc (q : Nat) (x : Queue) : (setQueue q x s).acc = s.acc := rfl
@[simp] theorem setQueue_mem (q : Nat) (x : Queue) : (setQueue q x s).mem = s.mem := rfl
@[simp] theorem setQueue_harts (q : Nat) (x : Queue) : (setQueue q x s).harts = s.harts := rfl
@[simp] theorem setQueue_caches (q : Nat) (x : Queue) : (setQueue q x s).caches = s.caches := rfl
@[simp] theorem setQueue_conc (q : Nat) (x : Queue) : (setQueue q x s).conc = s.conc := rfl
@[simp] theorem setQueue_vits (q : Nat) (x : Queue) : (setQueue q x s).vits = s.vits := rfl
@[simp] theorem setQueue_arch (q : Nat) (x : Queue) : (setQueue q x s).arch = s.arch := rfl
@[simp] theorem setQueue_cat (q : Nat) (x : Queue) : (setQueue q x s).cat = s.cat := rfl
@[simp] theorem setQueue_strong (q : Nat) (x : Queue) : (setQueue q x s).strong = s.strong := rfl
@[simp] theorem setQueue_parts (q : Nat) (x : Queue) : (setQueue q x s).parts = s.parts := rfl
@[simp] theorem setQueue_errs (q : Nat) (x : Queue) : (setQueue q x s).errs = s.errs := rfl
@[simp] theorem setQueue_dbg (q : Nat) (x : Queue) : (setQueue q x s).dbg = s.dbg := rfl
@[simp] theorem setQueue_free (q : Nat) (x : Queue) : (setQueue q x s).free = s.free := rfl
@[simp] theorem setQueue_emitted (q : Nat) (x : Queue) : (setQueue q x s).emitted = s.emitted := rfl
@[simp] theorem setQueue_pending (q : Nat) (x : Queue) : (setQueue q x s).pending = s.pending := rfl

/-! setReq changes `cat` only. -/

@[simp] theorem setReq_obj (who : Requester) (r : ReqState) : (setReq who r s).obj = s.obj := rfl
@[simp] theorem setReq_power (who : Requester) (r : ReqState) : (setReq who r s).power = s.power := rfl
@[simp] theorem setReq_modes (who : Requester) (r : ReqState) : (setReq who r s).modes = s.modes := rfl
@[simp] theorem setReq_clock (who : Requester) (r : ReqState) : (setReq who r s).clock = s.clock := rfl
@[simp] theorem setReq_panel (who : Requester) (r : ReqState) : (setReq who r s).panel = s.panel := rfl
@[simp] theorem setReq_hodo (who : Requester) (r : ReqState) : (setReq who r s).hodo = s.hodo := rfl
@[simp] theorem setReq_acc (who : Requester) (r : ReqState) : (setReq who r s).acc = s.acc := rfl
@[simp] theorem setReq_mem (who : Requester) (r : ReqState) : (setReq who r s).mem = s.mem := rfl
@[simp] theorem setReq_harts (who : Requester) (r : ReqState) : (setReq who r s).harts = s.harts := rfl
@[simp] theorem setReq_caches (who : Requester) (r : ReqState) : (setReq who r s).caches = s.caches := rfl
@[simp] theorem setReq_conc (who : Requester) (r : ReqState) : (setReq who r s).conc = s.conc := rfl
@[simp] theorem setReq_vits (who : Requester) (r : ReqState) : (setReq who r s).vits = s.vits := rfl
@[simp] theorem setReq_queues (who : Requester) (r : ReqState) : (setReq who r s).queues = s.queues := rfl
@[simp] theorem setReq_dray (who : Requester) (r : ReqState) : (setReq who r s).dray = s.dray := rfl
@[simp] theorem setReq_arch (who : Requester) (r : ReqState) : (setReq who r s).arch = s.arch := rfl
@[simp] theorem setReq_strong (who : Requester) (r : ReqState) : (setReq who r s).strong = s.strong := rfl
@[simp] theorem setReq_parts (who : Requester) (r : ReqState) : (setReq who r s).parts = s.parts := rfl
@[simp] theorem setReq_errs (who : Requester) (r : ReqState) : (setReq who r s).errs = s.errs := rfl
@[simp] theorem setReq_dbg (who : Requester) (r : ReqState) : (setReq who r s).dbg = s.dbg := rfl
@[simp] theorem setReq_free (who : Requester) (r : ReqState) : (setReq who r s).free = s.free := rfl
@[simp] theorem setReq_emitted (who : Requester) (r : ReqState) : (setReq who r s).emitted = s.emitted := rfl
@[simp] theorem setReq_pending (who : Requester) (r : ReqState) : (setReq who r s).pending = s.pending := rfl

/-! The answers change `cat` only. -/

theorem respondRefused_eq (who : Requester) (a d : Nat) : ∃ c, respondRefused who a d s = { s with cat := c } := ⟨_, rfl⟩
@[simp] theorem respondRefused_obj (who : Requester) (a d : Nat) : (respondRefused who a d s).obj = s.obj := by
  obtain ⟨c, e⟩ := respondRefused_eq s who a d; rw [e]
@[simp] theorem respondRefused_power (who : Requester) (a d : Nat) : (respondRefused who a d s).power = s.power := by
  obtain ⟨c, e⟩ := respondRefused_eq s who a d; rw [e]
@[simp] theorem respondRefused_modes (who : Requester) (a d : Nat) : (respondRefused who a d s).modes = s.modes := by
  obtain ⟨c, e⟩ := respondRefused_eq s who a d; rw [e]
@[simp] theorem respondRefused_clock (who : Requester) (a d : Nat) : (respondRefused who a d s).clock = s.clock := by
  obtain ⟨c, e⟩ := respondRefused_eq s who a d; rw [e]
@[simp] theorem respondRefused_panel (who : Requester) (a d : Nat) : (respondRefused who a d s).panel = s.panel := by
  obtain ⟨c, e⟩ := respondRefused_eq s who a d; rw [e]
@[simp] theorem respondRefused_hodo (who : Requester) (a d : Nat) : (respondRefused who a d s).hodo = s.hodo := by
  obtain ⟨c, e⟩ := respondRefused_eq s who a d; rw [e]
@[simp] theorem respondRefused_acc (who : Requester) (a d : Nat) : (respondRefused who a d s).acc = s.acc := by
  obtain ⟨c, e⟩ := respondRefused_eq s who a d; rw [e]
@[simp] theorem respondRefused_mem (who : Requester) (a d : Nat) : (respondRefused who a d s).mem = s.mem := by
  obtain ⟨c, e⟩ := respondRefused_eq s who a d; rw [e]
@[simp] theorem respondRefused_harts (who : Requester) (a d : Nat) : (respondRefused who a d s).harts = s.harts := by
  obtain ⟨c, e⟩ := respondRefused_eq s who a d; rw [e]
@[simp] theorem respondRefused_caches (who : Requester) (a d : Nat) : (respondRefused who a d s).caches = s.caches := by
  obtain ⟨c, e⟩ := respondRefused_eq s who a d; rw [e]
@[simp] theorem respondRefused_conc (who : Requester) (a d : Nat) : (respondRefused who a d s).conc = s.conc := by
  obtain ⟨c, e⟩ := respondRefused_eq s who a d; rw [e]
@[simp] theorem respondRefused_vits (who : Requester) (a d : Nat) : (respondRefused who a d s).vits = s.vits := by
  obtain ⟨c, e⟩ := respondRefused_eq s who a d; rw [e]
@[simp] theorem respondRefused_queues (who : Requester) (a d : Nat) : (respondRefused who a d s).queues = s.queues := by
  obtain ⟨c, e⟩ := respondRefused_eq s who a d; rw [e]
@[simp] theorem respondRefused_dray (who : Requester) (a d : Nat) : (respondRefused who a d s).dray = s.dray := by
  obtain ⟨c, e⟩ := respondRefused_eq s who a d; rw [e]
@[simp] theorem respondRefused_arch (who : Requester) (a d : Nat) : (respondRefused who a d s).arch = s.arch := by
  obtain ⟨c, e⟩ := respondRefused_eq s who a d; rw [e]
@[simp] theorem respondRefused_strong (who : Requester) (a d : Nat) : (respondRefused who a d s).strong = s.strong := by
  obtain ⟨c, e⟩ := respondRefused_eq s who a d; rw [e]
@[simp] theorem respondRefused_parts (who : Requester) (a d : Nat) : (respondRefused who a d s).parts = s.parts := by
  obtain ⟨c, e⟩ := respondRefused_eq s who a d; rw [e]
@[simp] theorem respondRefused_errs (who : Requester) (a d : Nat) : (respondRefused who a d s).errs = s.errs := by
  obtain ⟨c, e⟩ := respondRefused_eq s who a d; rw [e]
@[simp] theorem respondRefused_dbg (who : Requester) (a d : Nat) : (respondRefused who a d s).dbg = s.dbg := by
  obtain ⟨c, e⟩ := respondRefused_eq s who a d; rw [e]
@[simp] theorem respondRefused_free (who : Requester) (a d : Nat) : (respondRefused who a d s).free = s.free := by
  obtain ⟨c, e⟩ := respondRefused_eq s who a d; rw [e]
@[simp] theorem respondRefused_emitted (who : Requester) (a d : Nat) : (respondRefused who a d s).emitted = s.emitted := by
  obtain ⟨c, e⟩ := respondRefused_eq s who a d; rw [e]
@[simp] theorem respondRefused_pending (who : Requester) (a d : Nat) : (respondRefused who a d s).pending = s.pending := by
  obtain ⟨c, e⟩ := respondRefused_eq s who a d; rw [e]

theorem respondValue_eq (who : Requester) (l : List Byte) : ∃ c, respondValue who l s = { s with cat := c } := ⟨_, rfl⟩
@[simp] theorem respondValue_obj (who : Requester) (l : List Byte) : (respondValue who l s).obj = s.obj := by
  obtain ⟨c, e⟩ := respondValue_eq s who l; rw [e]
@[simp] theorem respondValue_power (who : Requester) (l : List Byte) : (respondValue who l s).power = s.power := by
  obtain ⟨c, e⟩ := respondValue_eq s who l; rw [e]
@[simp] theorem respondValue_modes (who : Requester) (l : List Byte) : (respondValue who l s).modes = s.modes := by
  obtain ⟨c, e⟩ := respondValue_eq s who l; rw [e]
@[simp] theorem respondValue_clock (who : Requester) (l : List Byte) : (respondValue who l s).clock = s.clock := by
  obtain ⟨c, e⟩ := respondValue_eq s who l; rw [e]
@[simp] theorem respondValue_panel (who : Requester) (l : List Byte) : (respondValue who l s).panel = s.panel := by
  obtain ⟨c, e⟩ := respondValue_eq s who l; rw [e]
@[simp] theorem respondValue_hodo (who : Requester) (l : List Byte) : (respondValue who l s).hodo = s.hodo := by
  obtain ⟨c, e⟩ := respondValue_eq s who l; rw [e]
@[simp] theorem respondValue_acc (who : Requester) (l : List Byte) : (respondValue who l s).acc = s.acc := by
  obtain ⟨c, e⟩ := respondValue_eq s who l; rw [e]
@[simp] theorem respondValue_mem (who : Requester) (l : List Byte) : (respondValue who l s).mem = s.mem := by
  obtain ⟨c, e⟩ := respondValue_eq s who l; rw [e]
@[simp] theorem respondValue_harts (who : Requester) (l : List Byte) : (respondValue who l s).harts = s.harts := by
  obtain ⟨c, e⟩ := respondValue_eq s who l; rw [e]
@[simp] theorem respondValue_caches (who : Requester) (l : List Byte) : (respondValue who l s).caches = s.caches := by
  obtain ⟨c, e⟩ := respondValue_eq s who l; rw [e]
@[simp] theorem respondValue_conc (who : Requester) (l : List Byte) : (respondValue who l s).conc = s.conc := by
  obtain ⟨c, e⟩ := respondValue_eq s who l; rw [e]
@[simp] theorem respondValue_vits (who : Requester) (l : List Byte) : (respondValue who l s).vits = s.vits := by
  obtain ⟨c, e⟩ := respondValue_eq s who l; rw [e]
@[simp] theorem respondValue_queues (who : Requester) (l : List Byte) : (respondValue who l s).queues = s.queues := by
  obtain ⟨c, e⟩ := respondValue_eq s who l; rw [e]
@[simp] theorem respondValue_dray (who : Requester) (l : List Byte) : (respondValue who l s).dray = s.dray := by
  obtain ⟨c, e⟩ := respondValue_eq s who l; rw [e]
@[simp] theorem respondValue_arch (who : Requester) (l : List Byte) : (respondValue who l s).arch = s.arch := by
  obtain ⟨c, e⟩ := respondValue_eq s who l; rw [e]
@[simp] theorem respondValue_strong (who : Requester) (l : List Byte) : (respondValue who l s).strong = s.strong := by
  obtain ⟨c, e⟩ := respondValue_eq s who l; rw [e]
@[simp] theorem respondValue_parts (who : Requester) (l : List Byte) : (respondValue who l s).parts = s.parts := by
  obtain ⟨c, e⟩ := respondValue_eq s who l; rw [e]
@[simp] theorem respondValue_errs (who : Requester) (l : List Byte) : (respondValue who l s).errs = s.errs := by
  obtain ⟨c, e⟩ := respondValue_eq s who l; rw [e]
@[simp] theorem respondValue_dbg (who : Requester) (l : List Byte) : (respondValue who l s).dbg = s.dbg := by
  obtain ⟨c, e⟩ := respondValue_eq s who l; rw [e]
@[simp] theorem respondValue_free (who : Requester) (l : List Byte) : (respondValue who l s).free = s.free := by
  obtain ⟨c, e⟩ := respondValue_eq s who l; rw [e]
@[simp] theorem respondValue_emitted (who : Requester) (l : List Byte) : (respondValue who l s).emitted = s.emitted := by
  obtain ⟨c, e⟩ := respondValue_eq s who l; rw [e]
@[simp] theorem respondValue_pending (who : Requester) (l : List Byte) : (respondValue who l s).pending = s.pending := by
  obtain ⟨c, e⟩ := respondValue_eq s who l; rw [e]

theorem ended_eq (who : Requester) (node ix sub : Nat) : ∃ c, ended who node ix sub s = { s with cat := c } := ⟨_, rfl⟩
@[simp] theorem ended_obj (who : Requester) (node ix sub : Nat) : (ended who node ix sub s).obj = s.obj := by
  obtain ⟨c, e⟩ := ended_eq s who node ix sub; rw [e]
@[simp] theorem ended_power (who : Requester) (node ix sub : Nat) : (ended who node ix sub s).power = s.power := by
  obtain ⟨c, e⟩ := ended_eq s who node ix sub; rw [e]
@[simp] theorem ended_modes (who : Requester) (node ix sub : Nat) : (ended who node ix sub s).modes = s.modes := by
  obtain ⟨c, e⟩ := ended_eq s who node ix sub; rw [e]
@[simp] theorem ended_clock (who : Requester) (node ix sub : Nat) : (ended who node ix sub s).clock = s.clock := by
  obtain ⟨c, e⟩ := ended_eq s who node ix sub; rw [e]
@[simp] theorem ended_panel (who : Requester) (node ix sub : Nat) : (ended who node ix sub s).panel = s.panel := by
  obtain ⟨c, e⟩ := ended_eq s who node ix sub; rw [e]
@[simp] theorem ended_hodo (who : Requester) (node ix sub : Nat) : (ended who node ix sub s).hodo = s.hodo := by
  obtain ⟨c, e⟩ := ended_eq s who node ix sub; rw [e]
@[simp] theorem ended_acc (who : Requester) (node ix sub : Nat) : (ended who node ix sub s).acc = s.acc := by
  obtain ⟨c, e⟩ := ended_eq s who node ix sub; rw [e]
@[simp] theorem ended_mem (who : Requester) (node ix sub : Nat) : (ended who node ix sub s).mem = s.mem := by
  obtain ⟨c, e⟩ := ended_eq s who node ix sub; rw [e]
@[simp] theorem ended_harts (who : Requester) (node ix sub : Nat) : (ended who node ix sub s).harts = s.harts := by
  obtain ⟨c, e⟩ := ended_eq s who node ix sub; rw [e]
@[simp] theorem ended_caches (who : Requester) (node ix sub : Nat) : (ended who node ix sub s).caches = s.caches := by
  obtain ⟨c, e⟩ := ended_eq s who node ix sub; rw [e]
@[simp] theorem ended_conc (who : Requester) (node ix sub : Nat) : (ended who node ix sub s).conc = s.conc := by
  obtain ⟨c, e⟩ := ended_eq s who node ix sub; rw [e]
@[simp] theorem ended_vits (who : Requester) (node ix sub : Nat) : (ended who node ix sub s).vits = s.vits := by
  obtain ⟨c, e⟩ := ended_eq s who node ix sub; rw [e]
@[simp] theorem ended_queues (who : Requester) (node ix sub : Nat) : (ended who node ix sub s).queues = s.queues := by
  obtain ⟨c, e⟩ := ended_eq s who node ix sub; rw [e]
@[simp] theorem ended_dray (who : Requester) (node ix sub : Nat) : (ended who node ix sub s).dray = s.dray := by
  obtain ⟨c, e⟩ := ended_eq s who node ix sub; rw [e]
@[simp] theorem ended_arch (who : Requester) (node ix sub : Nat) : (ended who node ix sub s).arch = s.arch := by
  obtain ⟨c, e⟩ := ended_eq s who node ix sub; rw [e]
@[simp] theorem ended_strong (who : Requester) (node ix sub : Nat) : (ended who node ix sub s).strong = s.strong := by
  obtain ⟨c, e⟩ := ended_eq s who node ix sub; rw [e]
@[simp] theorem ended_parts (who : Requester) (node ix sub : Nat) : (ended who node ix sub s).parts = s.parts := by
  obtain ⟨c, e⟩ := ended_eq s who node ix sub; rw [e]
@[simp] theorem ended_errs (who : Requester) (node ix sub : Nat) : (ended who node ix sub s).errs = s.errs := by
  obtain ⟨c, e⟩ := ended_eq s who node ix sub; rw [e]
@[simp] theorem ended_dbg (who : Requester) (node ix sub : Nat) : (ended who node ix sub s).dbg = s.dbg := by
  obtain ⟨c, e⟩ := ended_eq s who node ix sub; rw [e]
@[simp] theorem ended_free (who : Requester) (node ix sub : Nat) : (ended who node ix sub s).free = s.free := by
  obtain ⟨c, e⟩ := ended_eq s who node ix sub; rw [e]
@[simp] theorem ended_emitted (who : Requester) (node ix sub : Nat) : (ended who node ix sub s).emitted = s.emitted := by
  obtain ⟨c, e⟩ := ended_eq s who node ix sub; rw [e]
@[simp] theorem ended_pending (who : Requester) (node ix sub : Nat) : (ended who node ix sub s).pending = s.pending := by
  obtain ⟨c, e⟩ := ended_eq s who node ix sub; rw [e]

/-! emit changes `emitted` only. -/

@[simp] theorem emit_obj (e : Emit) : (emit e s).obj = s.obj := rfl
@[simp] theorem emit_power (e : Emit) : (emit e s).power = s.power := rfl
@[simp] theorem emit_modes (e : Emit) : (emit e s).modes = s.modes := rfl
@[simp] theorem emit_clock (e : Emit) : (emit e s).clock = s.clock := rfl
@[simp] theorem emit_panel (e : Emit) : (emit e s).panel = s.panel := rfl
@[simp] theorem emit_hodo (e : Emit) : (emit e s).hodo = s.hodo := rfl
@[simp] theorem emit_acc (e : Emit) : (emit e s).acc = s.acc := rfl
@[simp] theorem emit_mem (e : Emit) : (emit e s).mem = s.mem := rfl
@[simp] theorem emit_harts (e : Emit) : (emit e s).harts = s.harts := rfl
@[simp] theorem emit_caches (e : Emit) : (emit e s).caches = s.caches := rfl
@[simp] theorem emit_conc (e : Emit) : (emit e s).conc = s.conc := rfl
@[simp] theorem emit_vits (e : Emit) : (emit e s).vits = s.vits := rfl
@[simp] theorem emit_queues (e : Emit) : (emit e s).queues = s.queues := rfl
@[simp] theorem emit_dray (e : Emit) : (emit e s).dray = s.dray := rfl
@[simp] theorem emit_arch (e : Emit) : (emit e s).arch = s.arch := rfl
@[simp] theorem emit_cat (e : Emit) : (emit e s).cat = s.cat := rfl
@[simp] theorem emit_strong (e : Emit) : (emit e s).strong = s.strong := rfl
@[simp] theorem emit_parts (e : Emit) : (emit e s).parts = s.parts := rfl
@[simp] theorem emit_errs (e : Emit) : (emit e s).errs = s.errs := rfl
@[simp] theorem emit_dbg (e : Emit) : (emit e s).dbg = s.dbg := rfl
@[simp] theorem emit_free (e : Emit) : (emit e s).free = s.free := rfl
@[simp] theorem emit_pending (e : Emit) : (emit e s).pending = s.pending := rfl

/-! The arrival of a request changes `cat` only, and of it the sessions' times and the cursor. -/

theorem appear_eq (who : Requester) : ∃ x y, appear who s = { s with cat := { s.cat with sessions := x, reqs := y } } := by
  have key : ∀ s1 : State, (∃ x, s1 = { s with cat := { s.cat with sessions := x } }) →
      ∃ x y, (if (s1.req who).cursor = none then setReq who { s1.req who with cursor := some (oldestHeld s1) } s1 else s1) =
        { s with cat := { s.cat with sessions := x, reqs := y } } := by
    rintro s1 ⟨x, rfl⟩
    split
    · exact ⟨x, _, rfl⟩
    · exact ⟨x, s.cat.reqs, rfl⟩
  unfold appear
  refine key _ ?_
  cases who with
  | session n =>
    dsimp only
    split
    · exact ⟨_, rfl⟩
    · exact ⟨s.cat.sessions, rfl⟩
  | can id => exact ⟨s.cat.sessions, rfl⟩
  | mailbox p => exact ⟨s.cat.sessions, rfl⟩

@[simp] theorem appear_obj (who : Requester) : (appear who s).obj = s.obj := by
  obtain ⟨x, y, e⟩ := appear_eq s who; rw [e]
@[simp] theorem appear_power (who : Requester) : (appear who s).power = s.power := by
  obtain ⟨x, y, e⟩ := appear_eq s who; rw [e]
@[simp] theorem appear_modes (who : Requester) : (appear who s).modes = s.modes := by
  obtain ⟨x, y, e⟩ := appear_eq s who; rw [e]
@[simp] theorem appear_clock (who : Requester) : (appear who s).clock = s.clock := by
  obtain ⟨x, y, e⟩ := appear_eq s who; rw [e]
@[simp] theorem appear_panel (who : Requester) : (appear who s).panel = s.panel := by
  obtain ⟨x, y, e⟩ := appear_eq s who; rw [e]
@[simp] theorem appear_hodo (who : Requester) : (appear who s).hodo = s.hodo := by
  obtain ⟨x, y, e⟩ := appear_eq s who; rw [e]
@[simp] theorem appear_acc (who : Requester) : (appear who s).acc = s.acc := by
  obtain ⟨x, y, e⟩ := appear_eq s who; rw [e]
@[simp] theorem appear_mem (who : Requester) : (appear who s).mem = s.mem := by
  obtain ⟨x, y, e⟩ := appear_eq s who; rw [e]
@[simp] theorem appear_harts (who : Requester) : (appear who s).harts = s.harts := by
  obtain ⟨x, y, e⟩ := appear_eq s who; rw [e]
@[simp] theorem appear_caches (who : Requester) : (appear who s).caches = s.caches := by
  obtain ⟨x, y, e⟩ := appear_eq s who; rw [e]
@[simp] theorem appear_conc (who : Requester) : (appear who s).conc = s.conc := by
  obtain ⟨x, y, e⟩ := appear_eq s who; rw [e]
@[simp] theorem appear_vits (who : Requester) : (appear who s).vits = s.vits := by
  obtain ⟨x, y, e⟩ := appear_eq s who; rw [e]
@[simp] theorem appear_queues (who : Requester) : (appear who s).queues = s.queues := by
  obtain ⟨x, y, e⟩ := appear_eq s who; rw [e]
@[simp] theorem appear_dray (who : Requester) : (appear who s).dray = s.dray := by
  obtain ⟨x, y, e⟩ := appear_eq s who; rw [e]
@[simp] theorem appear_arch (who : Requester) : (appear who s).arch = s.arch := by
  obtain ⟨x, y, e⟩ := appear_eq s who; rw [e]
@[simp] theorem appear_strong (who : Requester) : (appear who s).strong = s.strong := by
  obtain ⟨x, y, e⟩ := appear_eq s who; rw [e]
@[simp] theorem appear_parts (who : Requester) : (appear who s).parts = s.parts := by
  obtain ⟨x, y, e⟩ := appear_eq s who; rw [e]
@[simp] theorem appear_errs (who : Requester) : (appear who s).errs = s.errs := by
  obtain ⟨x, y, e⟩ := appear_eq s who; rw [e]
@[simp] theorem appear_dbg (who : Requester) : (appear who s).dbg = s.dbg := by
  obtain ⟨x, y, e⟩ := appear_eq s who; rw [e]
@[simp] theorem appear_free (who : Requester) : (appear who s).free = s.free := by
  obtain ⟨x, y, e⟩ := appear_eq s who; rw [e]
@[simp] theorem appear_emitted (who : Requester) : (appear who s).emitted = s.emitted := by
  obtain ⟨x, y, e⟩ := appear_eq s who; rw [e]
@[simp] theorem appear_pending (who : Requester) : (appear who s).pending = s.pending := by
  obtain ⟨x, y, e⟩ := appear_eq s who; rw [e]
@[simp] theorem appear_nextTag (who : Requester) : (appear who s).cat.nextTag = s.cat.nextTag := by
  obtain ⟨x, y, e⟩ := appear_eq s who; rw [e]
@[simp] theorem appear_getO (who : Requester) (node ix sub : Nat) : getO (appear who s) node ix sub = getO s node ix sub := by
  obtain ⟨x, y, e⟩ := appear_eq s who; rw [e]; rfl

/-! Reads after writes. -/

/-- An object reads what was written to it, reduced to its size. -/
theorem getO_setO_same (node ix sub v : Nat) :
    getO (setO node ix sub v s) node ix sub = v % 2 ^ (8 * objSize node ix sub) := by
  simp [getO, setO]

/-- Writing an object leaves every object of another key alone. -/
theorem getO_setO_ne (node ix sub v : Nat) {node' ix' sub' : Nat} (h : objKey node' ix' sub' ≠ objKey node ix sub) :
    getO (setO node ix sub v s) node' ix' sub' = getO s node' ix' sub' := by
  simp only [getO, setO]
  exact tblGet_set_other _ _ _ _ h

/-- Keys of objects differ where the node, the index or the subindex does. -/
theorem objKey_inj {n i b n' i' b' : Nat} (hi : i < 2 ^ 16) (hb : b < 2 ^ 8) (hi' : i' < 2 ^ 16) (hb' : b' < 2 ^ 8)
    (h : objKey n i b = objKey n' i' b') : n = n' ∧ i = i' ∧ b = b' := by
  simp only [objKey] at h
  omega

/-- Objects read alike in states that hold the same store. -/
theorem getO_congr {s t : State} (h : s.obj = t.obj) (node ix sub : Nat) : getO s node ix sub = getO t node ix sub := by
  simp only [getO, h]

@[simp] theorem setHart_hart (h : Nat) (x : Hart) : (setHart h x s).hart h = x := by simp [State.hart, setHart]
theorem setHart_hart_ne {h j : Nat} (x : Hart) (n : j ≠ h) : (setHart h x s).hart j = s.hart j := by
  simpa [State.hart, setHart] using tblGet_set_ne _ _ _ n
@[simp] theorem setVit_vit (v : Nat) (x : Vit) : (setVit v x s).vit v = x := by simp [State.vit, setVit]
theorem setVit_vit_ne {v j : Nat} (x : Vit) (n : j ≠ v) : (setVit v x s).vit j = s.vit j := by
  simpa [State.vit, setVit] using tblGet_set_ne _ _ _ n
@[simp] theorem setQueue_queue (q : Nat) (x : Queue) : (setQueue q x s).queue q = x := by simp [State.queue, setQueue]
theorem setQueue_queue_ne {q j : Nat} (x : Queue) (n : j ≠ q) : (setQueue q x s).queue j = s.queue j := by
  simpa [State.queue, setQueue] using tblGet_set_ne _ _ _ n
@[simp] theorem setReq_req (who : Requester) (r : ReqState) : (setReq who r s).req who = r := by simp [State.req, setReq]

/-! Shared shapes of the commands. -/

/-- A command whose operands are all in range answers its state. -/
theorem within_true {c : Bool} (t : State) (h : c = true) : within c t = .next t := by simp [within, h]
theorem within_false {c : Bool} (t : State) (h : c = false) : within c t = .fault .noSuchResource := by simp [within, h]
/-- `within` answers a next state exactly where its condition holds. -/
theorem within_next_iff (c : Bool) (t : State) : (∃ u, within c t = .next u) ↔ c = true := by
  cases c <;> simp [within]

/-- A request answered is closed, whatever its rule left under service. -/
theorem serveNow_closed (w : Waiting) (serve : State → State) (s : State) (h : w.keeps = false) :
    serveNow w serve s = closed (serve { s with cat := { s.cat with serving := some w } }) := by
  unfold serveNow
  dsimp only
  generalize serve { s with cat := { s.cat with serving := some w } } = t
  split
  · rename_i e
    rw [Option.isNone_iff_eq_none] at e
    show t = { t with cat := { t.cat with serving := none } }
    rw [← e]
  · simp [keepRequest, h, closed]

/-- A write that reaches its object's rule is answered by what the rule does. -/
theorem served_of_reaches {acc : Acc} {who : Requester} {node ix sub value : Nat} {s : State} (rule : Rule)
    (h : reaches acc who node ix sub value s = true) :
    served who node ix sub value rule s = match rule (arrived who node ix sub value s) with
      | (t, .wait) => holdRequest t
      | (t, .ok) => if acc = .wo then ended who node ix sub t else written acc who t
      | (t, .refuse a d) => turnedAway who a d t
      | (t, .action st d) => closed (respondAction who node ix sub st d t) := by
  have hq : (appear who s).cat.queue = s.cat.queue := by
    unfold appear
    dsimp only
    repeat' split
    all_goals rfl
  have hm : (arrived who node ix sub value s).modes = s.modes := by
    unfold arrived arrivedWith appear
    dsimp only
    repeat' split
    all_goals rfl
  unfold reaches at h
  split at h
  · exact absurd h (by simp)
  · rename_i row e
    simp only [Bool.and_eq_true, beq_iff_eq, bne_iff_ne, Bool.not_eq_true', Option.isNone_iff_eq_none, Bool.or_eq_true,
      List.isEmpty_iff] at h
    obtain ⟨⟨⟨⟨⟨⟨⟨ha, hr⟩, hf⟩, hk⟩, h2⟩, hn⟩, hc⟩, hs⟩ := h
    have hk' : (arrived who node ix sub value s).modes.mode ≠ Mode.keep := hm ▸ hk
    unfold served servedWith admitRequest
    rw [if_pos hr, hq, hf]
    have hcf : canFull (appear who s) (writeOf who node ix sub value false s).who = false := by unfold canFull; rw [hq, hf]; split <;> rfl
    simp only [List.find?_nil, hcf, Bool.false_eq_true, if_false, List.isEmpty_nil, if_true]
    rw [serveNow_closed _ _ _ rfl]
    show closed (serveWrite who node ix sub value rule (arrived who node ix sub value s)) = _
    unfold serveWrite
    have hkb : ((arrived who node ix sub value s).modes.mode == Mode.keep) = false := by simpa using hk'
    have hsys : (row.acc == Acc.rwp && !systemArea (arrived who node ix sub value s)) = false := by
      cases hs with
      | inl h => simp [h]
      | inr h => simp [h]
    simp only [e, hkb, Bool.false_and, Bool.false_eq_true, if_false, hn, hc, Bool.not_true, h2, hsys]
    subst ha
    split <;> simp_all [ended, written, turnedAway, closed, holdRequest]
    split <;> simp_all

/-! Requesters. -/

/-- A requester's record after it was set. -/
@[simp] theorem setReq_req_same (who : Requester) (r : ReqState) (s : State) : (setReq who r s).req who = r := by
  simp [setReq, State.req]

/-- The arrival of a request leaves the count of requests served. -/
@[simp] theorem appear_served (who : Requester) (s : State) : ((appear who s).req who).served = (s.req who).served := by
  have key : ∀ t : State, t.req who = s.req who →
      ((if (t.req who).cursor = none then setReq who { t.req who with cursor := some (oldestHeld t) } t else t).req who).served =
        (s.req who).served := by
    intro t h
    split <;> simp [h]
  cases who with
  | session n =>
    unfold appear
    apply key
    show State.req (match tblFind s.cat.sessions n with
      | some x => _
      | none => s) _ = _
    split <;> rfl
  | _ => exact key s rfl

/-- A requester's record does not depend on what is under service. -/
@[simp] theorem closed_req (who : Requester) (t : State) : (closed t).req who = t.req who := rfl

/-- An answer to an action counts one more request served, without an abort. -/
theorem accepted_ended (who : Requester) (node ix sub : Nat) (s t : State) (h : t.cat.reqs = (appear who s).cat.reqs) :
    accepted who s (ended who node ix sub t) = true := by
  have e : (t.req who).served = (s.req who).served := by
    rw [← appear_served who s]; unfold State.req; rw [h]
  have held : ∀ r q, (holdResult r q).served = q.served ∧ (holdResult r q).abort = q.abort := by
    intro r q; unfold holdResult; dsimp only; split <;> exact ⟨rfl, rfl⟩
  unfold ended respondAction accepted
  simp [held, e]

end Sys2Proof.Machine
end

