-- ==== Sys2Proof/Laws/Hart.lean ====
section
/-! SUPPORT. What the operations on a hart do, said once: registers read after a write, and what an event, a completion and an
exception leave alone. -/

namespace Sys2Proof.Machine

/-! Registers. -/

/-- A CSR after one was set. -/
theorem csrOf_withCsr (h : Hart) (n k : Nat) (v : Word) : (h.withCsr k v).csrOf n = if n = k then v else h.csrOf n := by
  unfold Hart.withCsr Hart.csrOf
  split
  · subst_vars; simp
  · exact tblGet_set_other _ _ _ _ ‹_›

@[simp] theorem csrOf_withCsr_same (h : Hart) (k : Nat) (v : Word) : (h.withCsr k v).csrOf k = v := by simp [csrOf_withCsr]
theorem csrOf_withCsr_ne (h : Hart) {n k : Nat} (v : Word) (ne : n ≠ k) : (h.withCsr k v).csrOf n = h.csrOf n := by
  simp [csrOf_withCsr, ne]

@[simp] theorem withCsr_pc (h : Hart) (k : Nat) (v : Word) : (h.withCsr k v).pc = h.pc := rfl
@[simp] theorem withCsr_x (h : Hart) (k : Nat) (v : Word) : (h.withCsr k v).x = h.x := rfl
@[simp] theorem withCsr_priv (h : Hart) (k : Nat) (v : Word) : (h.withCsr k v).priv = h.priv := rfl
@[simp] theorem withCsr_run (h : Hart) (k : Nat) (v : Word) : (h.withCsr k v).run = h.run := rfl
@[simp] theorem withCsr_reserved (h : Hart) (k : Nat) (v : Word) : (h.withCsr k v).reserved = h.reserved := rfl
@[simp] theorem withCsr_getX (h : Hart) (k : Nat) (v : Word) (r : Nat) : (h.withCsr k v).getX r = h.getX r := rfl

/-- x0 reads zero. -/
@[simp] theorem getX_zero (h : Hart) : h.getX 0 = 0 := rfl

/-- Integer registers after a write. -/
theorem withX_wroteX (h : Hart) (rd : Nat) (v : Word) : wroteX rd v h (h.withX rd v) := by
  intro r hr
  unfold Hart.withX Hart.getX
  by_cases e : rd % 32 = 0
  · simp only [e, if_true]; split <;> simp_all
  · simp only [e, if_false]
    have : r % 32 = r := Nat.mod_eq_of_lt hr
    simp only [this]
    by_cases z : r = 0
    · simp [z]
    · simp only [z, if_false]
      rw [tblGet_set]
      simp [z]

@[simp] theorem withX_csr (h : Hart) (rd : Nat) (v : Word) : (h.withX rd v).csr = h.csr := by unfold Hart.withX; split <;> rfl
@[simp] theorem withX_pc (h : Hart) (rd : Nat) (v : Word) : (h.withX rd v).pc = h.pc := by unfold Hart.withX; split <;> rfl
@[simp] theorem withX_csrOf (h : Hart) (rd n : Nat) (v : Word) : (h.withX rd v).csrOf n = h.csrOf n := by
  unfold Hart.csrOf; rw [withX_csr]

/-- A write of an integer register changes nothing else of the hart. -/
theorem withX_same (h : Hart) (rd : Nat) (v : Word) : h.withX rd v = { h with x := (h.withX rd v).x } := by
  unfold Hart.withX; split <;> rfl

/-! Frames over one hart. -/

theorem onlyHart_refl (hart : Nat) (s : State) : onlyHart hart s s := ⟨rfl, fun _ _ => rfl⟩

theorem onlyHart_trans {hart : Nat} {s t u : State} (a : onlyHart hart s t) (b : onlyHart hart t u) : onlyHart hart s u := by
  refine ⟨?_, fun g n => (b.2 g n).trans (a.2 g n)⟩
  have h1 := a.1; have h2 := b.1
  rw [h1] at h2; exact h2

/-- Setting a hart changes only that hart. -/
theorem onlyHart_setHart (hart : Nat) (h : Hart) (s : State) : onlyHart hart s (setHart hart h s) :=
  ⟨rfl, fun _ n => setHart_hart_ne s h n⟩

theorem sameBeyond_refl (h : Hart) : sameBeyond h h := ⟨rfl, fun _ _ => rfl⟩

theorem sameBeyond_trans {a b c : Hart} (p : sameBeyond a b) (q : sameBeyond b c) : sameBeyond a c := by
  refine ⟨?_, fun n hn => (q.2 n hn).trans (p.2 n hn)⟩
  have h1 := p.1; have h2 := q.1
  rw [h1] at h2; exact h2

theorem sameBeyond_withX (h : Hart) (rd : Nat) (v : Word) : sameBeyond h (h.withX rd v) := by
  refine ⟨?_, fun n _ => withX_csrOf h rd n v⟩
  have e := withX_same h rd v
  generalize h.withX rd v = g at e ⊢
  cases g; cases h
  simp only [Hart.mk.injEq] at e ⊢
  simp [e]

theorem sameBeyond_withCsr (h : Hart) (k : Nat) (v : Word) (hk : ∀ m, counterCsr m = false → m ≠ k) :
    sameBeyond h (h.withCsr k v) := ⟨rfl, fun m hm => csrOf_withCsr_ne h v (hk m hm)⟩

/-! Events. -/

/-- A CSR set, and another where a condition holds, change nothing else. -/
theorem sameBeyond_two (h : Hart) (c : Prop) [Decidable c] (k l : Nat) (v w : Word) (hk : ∀ m, counterCsr m = false → m ≠ k)
    (hl : ∀ m, counterCsr m = false → m ≠ l) :
    (if c then (h.withCsr k v).withCsr l w else h.withCsr k v).x = h.x ∧
      (if c then (h.withCsr k v).withCsr l w else h.withCsr k v).pc = h.pc ∧
      sameBeyond h (if c then (h.withCsr k v).withCsr l w else h.withCsr k v) := by
  split
  · exact ⟨rfl, rfl, sameBeyond_trans (sameBeyond_withCsr _ _ _ hk) (sameBeyond_withCsr _ _ _ hl)⟩
  · exact ⟨rfl, rfl, sameBeyond_withCsr _ _ _ hk⟩

/-- A counter raised changes the counter and its event register only. -/
theorem bump_same (h : Hart) (i n : Nat) (hi : 3 ≤ i) (hj : i ≤ 31) :
    (h.bump i n).x = h.x ∧ (h.bump i n).pc = h.pc ∧ sameBeyond h (h.bump i n) :=
  sameBeyond_two h _ _ _ _ _ (fun m hm => by simp [counterCsr] at hm; omega) (fun m hm => by simp [counterCsr] at hm; omega)

/-- Events of a hart change its counters only. -/
theorem hartEvent_same (hart ev n : Nat) (s : State) :
    onlyHart hart s (hartEvent hart ev n s) ∧ ((hartEvent hart ev n s).hart hart).x = (s.hart hart).x ∧
      ((hartEvent hart ev n s).hart hart).pc = (s.hart hart).pc ∧ sameBeyond (s.hart hart) ((hartEvent hart ev n s).hart hart) := by
  unfold hartEvent
  dsimp only
  split
  · exact ⟨onlyHart_refl _ _, rfl, rfl, sameBeyond_refl _⟩
  · refine ⟨onlyHart_setHart _ _ _, ?_⟩
    rw [setHart_hart]
    have key : ∀ (l : List (Nat × Word)) (h : Hart), (∀ c ∈ l, 0x323 ≤ c.1 ∧ c.1 ≤ 0x33F) →
        let g := l.foldl (fun h c => if h.counts (getO s nP 0x2103 1 % 2 == 1) ev (c.1 - 0x320) then h.bump (c.1 - 0x320) n else h) h
        g.x = h.x ∧ g.pc = h.pc ∧ sameBeyond h g := by
      intro l
      induction l with
      | nil => intro h _; exact ⟨rfl, rfl, sameBeyond_refl _⟩
      | cons c l ih =>
        intro h hl
        simp only [List.foldl_cons]
        have hc := hl c (by simp)
        have hb := bump_same h (c.1 - 0x320) n (by omega) (by omega)
        split
        · have := ih (h.bump (c.1 - 0x320) n) (fun c hc => hl c (by simp [hc]))
          exact ⟨this.1.trans hb.1, this.2.1.trans hb.2.1, sameBeyond_trans hb.2.2 this.2.2⟩
        · exact ih h (fun c hc => hl c (by simp [hc]))
    apply key
    intro c hc
    simpa using (List.mem_filter.mp hc).2

/-! Completion. -/

/-- An instruction that completes moves the pc and its counters, and changes nothing else. -/
theorem complete_same (hart : Nat) (pc : Word) (s : State) :
    onlyHart hart s (complete hart pc s) ∧ ((complete hart pc s).hart hart).x = (s.hart hart).x ∧
      ((complete hart pc s).hart hart).pc = pc ∧ sameBeyond (s.hart hart) ((complete hart pc s).hart hart) := by
  unfold complete
  dsimp only
  have key := hartEvent_same hart 1 1
  refine ⟨onlyHart_trans (onlyHart_setHart _ _ _) (key _).1, (key _).2.1.trans ?_, (key _).2.2.1.trans ?_,
    sameBeyond_trans ?_ (key _).2.2.2⟩
  all_goals rw [setHart_hart]
  · split <;> rfl
  · split <;> rfl
  · split
    · exact ⟨rfl, fun _ _ => rfl⟩
    · refine ⟨rfl, fun n hn => ?_⟩
      have : n ≠ 0xB02 := by simp [counterCsr] at hn; omega
      rw [csrOf_withCsr_ne _ _ this]; rfl

/-- The registers that are written follow the hart through a frame that keeps them. -/
theorem wroteX_of_x {rd : Nat} {v : Word} {h g k : Hart} (w : wroteX rd v h g) (e : k.x = g.x) : wroteX rd v h k := by
  intro r hr
  have : k.getX r = g.getX r := by unfold Hart.getX; rw [e]
  rw [this]; exact w r hr

/-- An instruction that writes an integer register and completes. -/
theorem writeX_same (hart rd : Nat) (v next : Word) (s : State) :
    onlyHart hart s (writeX hart rd v next s) ∧ sameBeyond (s.hart hart) ((writeX hart rd v next s).hart hart) ∧
      ((writeX hart rd v next s).hart hart).pc = next ∧
      wroteX rd v (s.hart hart) ((writeX hart rd v next s).hart hart) := by
  unfold writeX
  have c := complete_same hart next (setHart hart ((s.hart hart).withX rd v) s)
  rw [setHart_hart] at c
  exact ⟨onlyHart_trans (onlyHart_setHart _ _ _) c.1, sameBeyond_trans (sameBeyond_withX _ _ _) c.2.2.2, c.2.2.1,
    wroteX_of_x (withX_wroteX _ _ _) c.2.1⟩

/-! Traps. -/

/-- An exception taken in M-mode: where it goes and what it saves. -/
theorem takeExc_trap_m (hart cause : Nat) (tval : Word) (s : State) (hm : (s.hart hart).excMode cause = .m) :
    let t := takeExc hart (.trap cause tval) s
    onlyHart hart s t ∧ (t.hart hart).x = (s.hart hart).x ∧ (t.hart hart).priv = .m ∧ (t.hart hart).reserved = none ∧
      (t.hart hart).pc = tvecTarget ((s.hart hart).csrOf 0x305) false cause ∧ (t.hart hart).csrOf 0x341 = (s.hart hart).pc ∧
      (t.hart hart).csrOf 0x342 = causeWord false cause ∧ (t.hart hart).csrOf 0x343 = tval ∧
      (t.hart hart).mstatus = setField (setField (setField (s.hart hart).mstatus 7 1 (field (s.hart hart).mstatus 3 1)) 3 1 0)
        11 2 (s.hart hart).priv.level := by
  have k := hartEvent_same hart 0x00B 1 s
  have b := k.2.2.2
  have p : ((hartEvent hart 0x00B 1 s).hart hart).priv = (s.hart hart).priv := by rw [b.1]
  have c : ∀ n, counterCsr n = false → ((hartEvent hart 0x00B 1 s).hart hart).csrOf n = (s.hart hart).csrOf n := b.2
  have e : ((hartEvent hart 0x00B 1 s).hart hart).excMode cause = .m := by
    rw [← hm]; unfold Hart.excMode; rw [p, c 0x302 rfl]
  unfold takeExc
  dsimp only
  rw [e]
  refine ⟨onlyHart_trans k.1 (onlyHart_setHart _ _ _), ?_⟩
  rw [setHart_hart]
  unfold Hart.trapped
  simp only [if_true, withCsr_x, withCsr_priv, withCsr_reserved, withCsr_pc]
  refine ⟨k.2.1, trivial, trivial, ?_, ?_, ?_, ?_, ?_⟩
  · rw [c 0x305 rfl]
  · simp [csrOf_withCsr, k.2.2.1]
  · simp [csrOf_withCsr]
  · simp
  · simp only [Hart.mstatus, csrOf_withCsr]; rw [c 0x300 rfl, p]; simp

/-- An exception taken in S-mode: where it goes and what it saves. -/
theorem takeExc_trap_s (hart cause : Nat) (tval : Word) (s : State) (hm : (s.hart hart).excMode cause = .s) :
    let t := takeExc hart (.trap cause tval) s
    onlyHart hart s t ∧ (t.hart hart).x = (s.hart hart).x ∧ (t.hart hart).priv = .s ∧ (t.hart hart).reserved = none ∧
      (t.hart hart).pc = tvecTarget ((s.hart hart).csrOf 0x105) false cause ∧ (t.hart hart).csrOf 0x141 = (s.hart hart).pc ∧
      (t.hart hart).csrOf 0x142 = causeWord false cause ∧ (t.hart hart).csrOf 0x143 = tval ∧
      (t.hart hart).mstatus = setField (setField (setField (s.hart hart).mstatus 5 1 (field (s.hart hart).mstatus 1 1)) 1 1 0)
        8 1 (if (s.hart hart).priv = .u then 0 else 1) := by
  have k := hartEvent_same hart 0x00B 1 s
  have b := k.2.2.2
  have p : ((hartEvent hart 0x00B 1 s).hart hart).priv = (s.hart hart).priv := by rw [b.1]
  have c : ∀ n, counterCsr n = false → ((hartEvent hart 0x00B 1 s).hart hart).csrOf n = (s.hart hart).csrOf n := b.2
  have e : ((hartEvent hart 0x00B 1 s).hart hart).excMode cause = .s := by
    rw [← hm]; unfold Hart.excMode; rw [p, c 0x302 rfl]
  unfold takeExc
  dsimp only
  rw [e]
  refine ⟨onlyHart_trans k.1 (onlyHart_setHart _ _ _), ?_⟩
  rw [setHart_hart]
  unfold Hart.trapped
  simp only [reduceCtorEq, if_false, withCsr_x, withCsr_priv, withCsr_reserved, withCsr_pc]
  refine ⟨k.2.1, trivial, trivial, ?_, ?_, ?_, ?_, ?_⟩
  · rw [c 0x105 rfl]
  · simp [csrOf_withCsr, k.2.2.1]
  · simp [csrOf_withCsr]
  · simp
  · simp only [Hart.mstatus, csrOf_withCsr]; rw [c 0x300 rfl, p]; simp

end Sys2Proof.Machine
end

