-- ==== Sys2Proof/Laws/Memory.lean ====
section
/-! SUPPORT. Every memory operation keeps the memory's canonical form and leaves no byte listed in a poisoned word. -/

namespace Sys2Proof.Machine

theorem setBytes_wf {b : List Host.Cell} (w : Nat) (d : Word) (k : BitVec 8) (h : tblWf 0 b = true) :
    tblWf 0 (setBytes b w d k) = true := by
  unfold setBytes
  generalize List.range 8 = l
  induction l generalizing b with
  | nil => exact h
  | cons i l ih =>
    simp only [List.foldl_cons]
    apply ih
    split
    · exact tblWf_set _ _ _ _ h
    · exact h

/-- A masked write of one word changes no byte of another word. -/
theorem setBytes_other (b : List Host.Cell) (w : Nat) (d : Word) (k : BitVec 8) (a : Nat) (h : a / 8 ≠ w) :
    tblGet 0 (setBytes b w d k) a = tblGet 0 b a := by
  unfold setBytes
  have hl : ∀ i ∈ List.range 8, i < 8 := fun i hi => List.mem_range.mp hi
  generalize List.range 8 = l at hl
  induction l generalizing b with
  | nil => rfl
  | cons i l ih =>
    simp only [List.foldl_cons]
    rw [ih _ (fun j hj => hl j (List.mem_cons_of_mem _ hj))]
    have := hl i (by simp)
    split
    · exact tblGet_set_ne _ _ _ (by omega)
    · rfl

/-- The bytes of a word whose write is not masked. -/
theorem setBytes_byte (b : List Host.Cell) (w : Nat) (d : Word) (k : BitVec 8) (a : Nat) (h : a / 8 = w) :
    tblGet 0 (setBytes b w d k) a = if k.getLsbD (a % 8) then d.extractLsb' (8 * (a % 8)) 8 else tblGet 0 b a := by
  unfold setBytes
  have key : ∀ (l : List Nat) (b : List Host.Cell), l.Nodup →
      tblGet 0 (l.foldl (fun b i =>
        if k.getLsbD i then tblSet 0 b (8 * w + i) (d.extractLsb' (8 * i) 8) else b) b) a =
      if a % 8 ∈ l ∧ k.getLsbD (a % 8) then d.extractLsb' (8 * (a % 8)) 8 else tblGet 0 b a := by
    intro l
    induction l with
    | nil => intro b _; simp
    | cons i l ih =>
      intro b hn
      obtain ⟨hi, hn⟩ := List.nodup_cons.mp hn
      simp only [List.foldl_cons]
      rw [ih _ hn]
      by_cases e : i = a % 8
      · subst e
        have ea : 8 * w + a % 8 = a := by omega
        simp only [hi, false_and, if_false, List.mem_cons, true_or, true_and, ea]
        split <;> simp
      · have ea : a ≠ 8 * w + i := by omega
        simp only [List.mem_cons, Ne.symm e, false_or]
        congr 1
        split
        · exact tblGet_set_ne _ _ _ ea
        · rfl
  rw [key _ _ List.nodup_range]
  have : a % 8 < 8 := Nat.mod_lt _ (by omega)
  simp [this]

theorem poisonWord_good {m : Memory} (w form : Nat) (h : m.Good) : (poisonWord w form m).Good := by
  obtain ⟨hw, hp⟩ := h
  simp only [Memory.wf, Bool.and_eq_true] at hw
  refine ⟨?_, fun a ha => ?_⟩
  · simp only [Memory.wf, poisonWord, Bool.and_eq_true]
    exact ⟨⟨setBytes_wf _ _ _ hw.1.1, tblWf_set _ _ _ _ hw.1.2⟩, hw.2⟩
  · by_cases e : a / 8 = w
    · have : a % 8 < 8 := Nat.mod_lt _ (by omega)
      simp only [storedByte, poisonWord]
      rw [setBytes_byte _ _ _ _ _ e]
      have hk : (0xFF#8).getLsbD (a % 8) = true := by
        generalize a % 8 = i at this
        interval_cases i <;> rfl
      simp [hk]
    · simp only [storedByte, storedForm, poisonWord] at ha ⊢
      rw [setBytes_other _ _ _ _ _ e]
      rw [tblGet_set_ne _ _ _ e] at ha
      exact hp a ha

theorem writeWord_good {m : Memory} (w : Nat) (d : Word) (k : BitVec 8) (b : Bool) (h : m.Good) :
    (writeWord w d k b m).Good := by
  obtain ⟨hw, hp⟩ := h
  have hw0 := hw
  simp only [Memory.wf, Bool.and_eq_true] at hw
  unfold writeWord
  split
  · refine ⟨?_, fun a ha => ?_⟩
    · simp only [Memory.wf, Bool.and_eq_true]
      exact ⟨⟨setBytes_wf _ _ _ hw.1.1, tblWf_set _ _ _ _ hw.1.2⟩, hw.2⟩
    · simp only [storedByte, storedForm] at ha ⊢
      by_cases e : a / 8 = w
      · simp [e] at ha
      · rw [setBytes_other _ _ _ _ _ e]
        rw [tblGet_set_ne _ _ _ e] at ha
        exact hp a ha
  · split
    · exact ⟨hw0, hp⟩
    · rename_i hc
      refine ⟨?_, fun a ha => ?_⟩
      · simp only [Memory.wf, Bool.and_eq_true]
        exact ⟨⟨setBytes_wf _ _ _ hw.1.1, hw.1.2⟩, hw.2⟩
      · simp only [storedByte, storedForm] at ha ⊢
        by_cases e : a / 8 = w
        · exact absurd (by rw [e] at ha; exact ha) (fun hx => hc (Or.inr hx))
        · rw [setBytes_other _ _ _ _ _ e]
          exact hp a ha

/-- A change of any other field of the memory. -/
theorem Memory.Good.of_eq {m n : Memory} (h : m.Good) (hb : n.bytes = m.bytes) (hm : n.marks = m.marks)
    (hc : tblWf 0 n.check = true) : n.Good := by
  obtain ⟨hw, hp⟩ := h
  simp only [Memory.wf, Bool.and_eq_true] at hw
  exact ⟨by simp only [Memory.wf, Bool.and_eq_true, hb, hm]; exact ⟨hw.1, hc⟩, fun a => by simpa [storedForm, storedByte, hb, hm] using hp a⟩

theorem Memory.Good.check {m : Memory} (h : m.Good) : tblWf 0 m.check = true := by
  have := h.wf
  simp only [Memory.wf, Bool.and_eq_true] at this
  exact this.2

/-- A memory that lists nothing is good. -/
theorem Memory.Good.of_empty {n : Memory} (hb : n.bytes = []) (hm : n.marks = []) (hc : n.check = []) : n.Good :=
  ⟨by simp [Memory.wf, hb, hm, hc, tblWf, tblWfFrom], fun a _ => by simp [storedByte, hb, tblGet]⟩

theorem foldl_good {α : Type} (l : List α) (f : Memory → α → Memory) {m : Memory}
    (hf : ∀ m a, m.Good → (f m a).Good) (h : m.Good) : (l.foldl f m).Good := by
  induction l generalizing m with
  | nil => exact h
  | cons a l ih => exact ih (hf _ _ h)

theorem writeLine_good {m : Memory} (l : Nat) (d : Line) (k : BitVec 64) (w : BitVec 8) (h : m.Good) :
    (writeLine l d k w m).Good := by
  unfold writeLine
  have h1 := foldl_good (List.range 8) (fun m i =>
    writeWord (8 * l + i) (lineWord d i) (k.extractLsb' (8 * i) 8) (w.getLsbD i) m)
    (fun m i hm => writeWord_good _ _ _ _ hm) h
  exact h1.of_eq rfl rfl (show tblWf 0 (tblSet 0 _ l 0) = true from tblWf_set _ _ _ _ h1.check)

theorem writeLineData_good {m : Memory} (l : Nat) (d : LineData) (h : m.Good) : (writeLineData l d m).Good := by
  unfold writeLineData
  have h1 := foldl_good (List.range 8) (fun m w =>
    if d.form w = 0 then writeWord (8 * l + w) (lineWord d.data w) 0xFF#8 true m
    else poisonWord (8 * l + w) (d.form w).toNat m)
    (fun m i hm => by
      show Memory.Good (if _ then _ else _)
      split
      · exact writeWord_good _ _ _ _ hm
      · exact poisonWord_good _ _ hm) h
  exact h1.of_eq rfl rfl (show tblWf 0 (tblSet 0 _ l 0) = true from tblWf_set _ _ _ _ h1.check)

/-- The DDR5 tier with nothing written (R166). -/
theorem dropDdr_good {m : Memory} (h : m.Good) :
    Memory.Good { m with bytes := tblDrop (decide <| ddrBase ≤ ·) m.bytes
                         marks := tblDrop (decide <| ddrBase / 8 ≤ ·) m.marks
                         check := tblDrop (decide <| ddrBase / 64 ≤ ·) m.check } := by
  obtain ⟨hw, hp⟩ := h
  simp only [Memory.wf, Bool.and_eq_true] at hw
  refine ⟨?_, fun a ha => ?_⟩
  · simp only [Memory.wf, Bool.and_eq_true]
    exact ⟨⟨tblWf_drop _ _ _ hw.1.1, tblWf_drop _ _ _ hw.1.2⟩, tblWf_drop _ _ _ hw.2⟩
  simp only [storedForm, storedByte, tblGet_drop, decide_eq_true_eq] at ha ⊢
  split
  · rfl
  · rename_i hn
    have : ¬ ddrBase / 8 ≤ a / 8 := by simp only [ddrBase] at hn ⊢; omega
    rw [if_neg this] at ha
    exact hp a ha

end Sys2Proof.Machine
end

