-- ==== Sys2Proof/Laws/Keep.lean ====
section
/-! SUPPORT. `Keep` through the shared shapes of the model's functions: record updates, conditions, loops, options, outcomes. -/

namespace Sys2Proof.Machine

/-- From `o` to `s`: the stores stay in canonical form, the queue of waiting commands is as it was, the counter of open
values has not gone back, what was sent out stays recorded, and a decommissioned package stays so. -/
structure Keep (o s : State) : Prop where
  canon : Canon o → Canon s
  queue : s.pending = o.pending
  free : o.free ≤ s.free
  sent : o.emitted <:+ s.emitted
  decom : o.strong.decommissioned = true → s.strong.decommissioned = true

/-- `Keep` of the state that an option holds. -/
def KeepO (o : State) (x : Option State) : Prop := ∀ t, x = some t → Keep o t

/-- `Keep` of the next state of an outcome. -/
def KeepN (o : State) (x : Out) : Prop := ∀ t, x = .next t → Keep o t

theorem Keep.refl (s : State) : Keep s s := ⟨id, rfl, le_refl _, List.suffix_refl _, id⟩

theorem Keep.trans {o s t : State} (h : Keep o s) (k : Keep s t) : Keep o t :=
  ⟨fun c => k.canon (h.canon c), k.queue.trans h.queue, le_trans h.free k.free, h.sent.trans k.sent,
    fun d => k.decom (h.decom d)⟩

theorem rising_mono {α : Type} {lo lo' : Nat} (h : lo' ≤ lo) (t : List (Nat × α)) (w : rising lo t = true) :
    rising lo' t = true := by
  cases t with
  | nil => rfl
  | cons e t => simp only [rising, Bool.and_eq_true, decide_eq_true_eq] at w ⊢; exact ⟨le_trans h w.1, w.2⟩

theorem rising_erase {α : Type} (k : Nat) : ∀ (t : List (Nat × α)) (lo : Nat),
    rising lo t = true → rising lo (tblErase t k) = true
  | [], _, _ => rfl
  | (k', v) :: t, lo, w => by
    simp only [rising, Bool.and_eq_true, decide_eq_true_eq] at w
    have ih := rising_erase k t (k' + 1) w.2
    unfold tblErase
    split
    · exact rising_mono (by omega) _ ih
    · simp [rising, w.1, ih]

theorem rising_insert {α : Type} (k : Nat) (v : α) : ∀ (t : List (Nat × α)) (lo : Nat),
    lo ≤ k → rising lo t = true → rising lo (tblInsert t k v) = true
  | [], lo, h, _ => by simp [tblInsert, rising, h]
  | (k', v') :: t, lo, h, w => by
    simp only [rising, Bool.and_eq_true, decide_eq_true_eq] at w
    unfold tblInsert
    split
    · rename_i hk; simp [rising, h, w.2]; omega
    · split
      · subst_vars; simp [rising, h, w.2]
      · have ih := rising_insert k v t (k' + 1) (by omega) w.2
        simp [rising, w.1, ih]

theorem rising_set {α : Type} [DecidableEq α] (d : α) {t : List (Nat × α)} (k : Nat) (v : α) (w : rising 0 t = true) :
    rising 0 (tblSet d t k v) = true := by
  unfold tblSet
  split
  · exact rising_erase k t 0 w
  · exact rising_insert k v t 0 (Nat.zero_le _) w

theorem rising_filter {α : Type} (p : Nat × α → Bool) : ∀ (t : List (Nat × α)) (lo : Nat),
    rising lo t = true → rising lo (t.filter p) = true
  | [], _, _ => rfl
  | (k, v) :: t, lo, w => by
    simp only [rising, Bool.and_eq_true, decide_eq_true_eq] at w
    have ih := rising_filter p t (k + 1) w.2
    rw [List.filter_cons]
    split
    · simp [rising, w.1, ih]
    · exact rising_mono (by omega) _ ih

theorem rising_drop {α : Type} (p : Nat → Bool) : ∀ (t : List (Nat × α)) (lo : Nat),
    rising lo t = true → rising lo (tblDrop p t) = true
  | [], _, _ => rfl
  | (k, v) :: t, lo, w => by
    simp only [rising, Bool.and_eq_true, decide_eq_true_eq] at w
    have ih := rising_drop p t (k + 1) w.2
    unfold tblDrop
    split
    · exact rising_mono (by omega) _ ih
    · simp [rising, w.1, ih]

variable {o : State}

theorem Keep.obj {s : State} (c : Canon o) (h : Keep o s) : rising 0 s.obj = true := (h.canon c).obj
theorem Keep.mem {s : State} (c : Canon o) (h : Keep o s) : s.mem.Good := (h.canon c).mem

/-- A change that touches none of what `Keep` speaks of. -/
theorem Keep.of_eq {s t : State} (h : Keep o s) (ho : t.obj = s.obj) (hm : t.mem = s.mem) (hq : t.pending = s.pending)
    (hf : t.free = s.free) (he : t.emitted = s.emitted) (hd : t.strong = s.strong) : Keep o t :=
  ⟨fun c => ⟨ho ▸ (h.canon c).obj, hm ▸ (h.canon c).mem⟩, hq ▸ h.queue, hf ▸ h.free, he ▸ h.sent, hd ▸ h.decom⟩

theorem ite_keep {c : Prop} [Decidable c] {a b : State} (ha : Keep o a) (hb : Keep o b) : Keep o (if c then a else b) := by
  split <;> assumption

theorem ite_keepO {c : Prop} [Decidable c] {a b : Option State} (ha : KeepO o a) (hb : KeepO o b) :
    KeepO o (if c then a else b) := by
  split <;> assumption

theorem ite_keepN {c : Prop} [Decidable c] {a b : Out} (ha : KeepN o a) (hb : KeepN o b) : KeepN o (if c then a else b) := by
  split <;> assumption

theorem ite_keep1 {α : Type} {c : Prop} [Decidable c] {a b : State × α} (ha : Keep o a.1) (hb : Keep o b.1) :
    Keep o (if c then a else b).1 := by
  split <;> assumption

theorem ite_rule_keep {α : Type} {c : Prop} [Decidable c] {f g : State → State × α} {s : State} (hf : Keep o (f s).1)
    (hg : Keep o (g s).1) : Keep o ((if c then f else g) s).1 := by
  split <;> assumption

theorem some_keep {s : State} (h : Keep o s) : KeepO o (some s) := fun _ e => Option.some.inj e ▸ h
theorem none_keep : KeepO o none := fun _ e => nomatch e
theorem next_keep {s : State} (h : Keep o s) : KeepN o (.next s) := fun _ e => Host.Outcome.next.inj e ▸ h
theorem fault_keep (f : Fault) : KeepN o (.fault f) := fun _ e => nomatch e
theorem within_keep {c : Bool} {s : State} (h : Keep o s) : KeepN o (within c s) := by
  unfold within; split
  · exact next_keep h
  · exact fault_keep _

/-- Of the state of a pair that an option holds. -/
theorem keep_of_some_pair {α : Type} {x : Option (State × α)} {p : State × α} (e : x = some p)
    (h : ∀ q, x = some q → Keep o q.1) : Keep o p.1 := h p e
theorem keep_of_some {x : Option State} {t : State} (e : x = some t) (h : KeepO o x) : Keep o t := h t e
theorem keep_of_next {x : Out} {t : State} (e : x = .next t) (h : KeepN o x) : Keep o t := h t e
theorem keep_of_pair {α : Type} {p : State × α} {t : State} {x : α} (e : p = (t, x)) (h : Keep o p.1) : Keep o t := by
  subst e; exact h

theorem foldl_keep {α : Type} {l : List α} {f : State → α → State} {s : State}
    (hf : ∀ s a, Keep o s → Keep o (f s a)) (h : Keep o s) : Keep o (l.foldl f s) := by
  induction l generalizing s with
  | nil => exact h
  | cons a l ih => exact ih (hf _ _ h)

/-- A loop that carries a value beside the state. -/
theorem foldl_keep1 {α β : Type} {l : List α} {f : State × β → α → State × β} {p : State × β}
    (hf : ∀ p a, Keep o p.1 → Keep o (f p a).1) (h : Keep o p.1) : Keep o (l.foldl f p).1 := by
  induction l generalizing p with
  | nil => exact h
  | cons a l ih => exact ih (hf _ _ h)

theorem forAll_keep {α : Type} {l : List α} {f : α → State → State} {s : State}
    (hf : ∀ a s, Keep o s → Keep o (f a s)) (h : Keep o s) : Keep o (forAll l f s) :=
  foldl_keep (fun _ _ hs => hf _ _ hs) h

theorem onlyIf_keep {c : Bool} {f : State → State} {s : State} (hf : ∀ s, Keep o s → Keep o (f s)) (h : Keep o s) :
    Keep o (onlyIf c f s) := by
  unfold onlyIf; split
  · exact hf _ h
  · exact h

theorem runAll_nil_keep {s : State} (h : Keep o s) : Keep o (runAll [] s) := h
theorem runAll_cons_keep {f : State → State} {l : List (State → State)} {s : State} (h : Keep o (runAll l (f s))) :
    Keep o (runAll (f :: l) s) := h

/-- Setting an object keeps the store in order and leaves the memory alone. -/
theorem setO_keep (node ix sub v : Nat) {s : State} (h : Keep o s) : Keep o (setO node ix sub v s) :=
  ⟨fun c => ⟨rising_set _ _ _ (h.canon c).obj, (h.canon c).mem⟩, h.queue, h.free, h.sent, h.decom⟩

/-- `Keep` of a state written out in its fields. -/
theorem keep_mk_iff {o : State} {obj : List (Nat × Nat)} {power : Power} {modes : Modes} {clock : Clock} {panel :
    Panel} {hodo : Hodo} {acc : Accession} {mem : Memory} {harts : List (Nat × Hart)} {caches : Caches} {conc :
    Concourse} {vits : List (Nat × Vit)} {queues : List (Nat × Queue)} {dray : Dray} {arch : Archive} {cat : Catalogue} {strong :
    Strong} {parts : Parts} {errs : Errors} {dbg : Debug} {free : Nat} {emitted : List Emit} {pending : List Instr} :
    Keep o (State.mk obj power modes clock panel hodo acc mem harts caches conc vits queues dray arch cat strong
      parts errs dbg free emitted pending) ↔
      (Canon o → rising 0 obj = true ∧ mem.Good) ∧ pending = o.pending ∧ o.free ≤ free ∧ o.emitted <:+ emitted ∧
      (o.strong.decommissioned = true → strong.decommissioned = true) :=
  ⟨fun h => ⟨fun c => ⟨(h.canon c).obj, (h.canon c).mem⟩, h.queue, h.free, h.sent, h.decom⟩,
    fun h => ⟨fun c => ⟨(h.1 c).1, (h.1 c).2⟩, h.2.1, h.2.2.1, h.2.2.2.1, h.2.2.2.2⟩⟩

/-- `Good` of a memory written out in its fields whose bytes, marks and check bits are those of a good one. -/
theorem good_mk {m : Memory} {trained everTrained : Bool} {pcs : List Nat} {channels : List Nat} {retiredPcs : List Nat}
    {retiredChannels : List Nat} {committedPcs : List Nat} {committedChannels : List Nat} {dimms : List (List Dimm)}
    {writeQ : List (Nat × WriteQueue)} {accepted : Nat} {selfRefresh : List Nat} {postponed : List (Nat × Nat)} {scrubPos : List (Nat ×
    Nat)} {lapStart : List (Nat × Nat)} {laps : List (Nat × Nat)} {lastLap : List (Nat × Nat)} {lastScrub : List (Nat
    × Nat)} {lastRequest : List (Nat × Nat)} {hotChannels : List Nat} {failedDevices : List Nat} {discardMs : List
    (Nat × Nat)} (h : m.Good) :
    (Memory.mk m.bytes m.marks m.check trained everTrained pcs channels retiredPcs retiredChannels committedPcs
      committedChannels dimms writeQ accepted selfRefresh postponed scrubPos lapStart laps lastLap lastScrub lastRequest
      hotChannels failedDevices discardMs).Good :=
  h.of_eq rfl rfl h.check

theorem getD_keep {x : Option State} {s : State} (ho : KeepO o x) (h : Keep o s) : Keep o (x.getD s) := by
  cases x with
  | none => exact h
  | some t => exact ho t rfl

theorem findSome_keepO {α : Type} {l : List α} {f : α → Option State} (h : ∀ a, KeepO o (f a)) : KeepO o (l.findSome? f) :=
  fun t e => by
    obtain ⟨a, _, e⟩ := List.exists_of_findSome?_eq_some e
    exact h a t e

theorem map_keepO {α : Type} {x : Option α} {f : α → State} (h : ∀ a, Keep o (f a)) : KeepO o (x.map f) := by
  cases x with
  | none => exact none_keep
  | some a => exact some_keep (h a)

end Sys2Proof.Machine
end

