-- ==== Sys2Proof/Laws/KeepCore.lean ====
section
/-! SUPPORT. `Keep` is kept by every operation of the shared operations, the error log, the Catalogue server, the memory controllers, the CSRs, coherence, translation and the queues. -/

namespace Sys2Proof.Machine

variable {o : State}

/-! Machine/Ops.lean -/

theorem addO_keep (node ix sub n s) (h_s : Keep o s) :
    Keep o (addO node ix sub n s) := by
  unfold addO
  try dsimp only
  repeat' with_reducible first
    | assumption | apply setO_keep

theorem subO_keep (node ix sub n s) (h_s : Keep o s) :
    Keep o (subO node ix sub n s) := by
  unfold subO
  try dsimp only
  repeat' with_reducible first
    | assumption | apply setO_keep

theorem maxO_keep (node ix sub v s) (h_s : Keep o s) :
    Keep o (maxO node ix sub v s) := by
  unfold maxO
  try dsimp only
  repeat' with_reducible first
    | assumption | apply setO_keep

theorem setI_keep (node ix sub v s) (h_s : Keep o s) :
    Keep o (setI node ix sub v s) := by
  unfold setI
  try dsimp only
  repeat' with_reducible first
    | assumption | apply setO_keep

theorem takeFree_keep (s) (h_s : Keep o s) : Keep o (takeFree s).1 :=
  ⟨fun k => ⟨(h_s.canon k).obj, (h_s.canon k).mem⟩, h_s.queue, Nat.le_succ_of_le h_s.free, h_s.sent, h_s.decom⟩

theorem setHart_keep (h x s) (h_s : Keep o s) :
    Keep o (setHart h x s) := by
  unfold setHart
  try dsimp only
  repeat' with_reducible first
    | intro _ | assumption | (simp only [keep_mk_iff]; refine ⟨fun _ => ⟨?_, ?_⟩, ?_, ?_, ?_, ?_⟩)
    | apply Keep.obj ‹Canon _› | apply Keep.mem ‹Canon _› | apply Keep.queue | apply Keep.free | apply Keep.sent
    | apply Keep.decom

theorem setVit_keep (v x s) (h_s : Keep o s) :
    Keep o (setVit v x s) := by
  unfold setVit
  try dsimp only
  repeat' with_reducible first
    | intro _ | assumption | (simp only [keep_mk_iff]; refine ⟨fun _ => ⟨?_, ?_⟩, ?_, ?_, ?_, ?_⟩)
    | apply Keep.obj ‹Canon _› | apply Keep.mem ‹Canon _› | apply Keep.queue | apply Keep.free | apply Keep.sent
    | apply Keep.decom

theorem setQueue_keep (q x s) (h_s : Keep o s) :
    Keep o (setQueue q x s) := by
  unfold setQueue
  try dsimp only
  repeat' with_reducible first
    | intro _ | assumption | (simp only [keep_mk_iff]; refine ⟨fun _ => ⟨?_, ?_⟩, ?_, ?_, ?_, ?_⟩)
    | apply Keep.obj ‹Canon _› | apply Keep.mem ‹Canon _› | apply Keep.queue | apply Keep.free | apply Keep.sent
    | apply Keep.decom

theorem pkgEvent_keep (ev part unit n s) (h_s : Keep o s) :
    Keep o (pkgEvent ev part unit n s) := by
  unfold pkgEvent
  try dsimp only
  repeat' with_reducible first
    | intro _ | assumption | apply forAll_keep | apply onlyIf_keep | apply setO_keep | apply addO_keep
    | apply ite_keep

theorem emit_keep (e s) (h_s : Keep o s) : Keep o (emit e s) :=
  ⟨fun k => ⟨(h_s.canon k).obj, (h_s.canon k).mem⟩, h_s.queue, h_s.free, h_s.sent.trans (List.suffix_cons _ _), h_s.decom⟩

theorem setSite_keep (n state reason logical s) (h_s : Keep o s) :
    Keep o (setSite n state reason logical s) := by
  unfold setSite
  try dsimp only
  repeat' with_reducible first
    | assumption | apply setO_keep

/-! Machine/Log.lean -/

theorem logRecord_keep (r s) (h_s : Keep o s) :
    Keep o (logRecord r s) := by
  unfold logRecord
  try dsimp only
  repeat' with_reducible first
    | intro _ | assumption | apply addO_keep | apply setO_keep | apply forAll_keep | apply ite_keep
    | (simp only [keep_mk_iff]; refine ⟨fun _ => ⟨?_, ?_⟩, ?_, ?_, ?_, ?_⟩) | apply Keep.obj ‹Canon _›
    | apply Keep.mem ‹Canon _› | apply Keep.queue | apply Keep.free | apply Keep.sent | apply Keep.decom

theorem countHit_keep (key span s) (h_s : Keep o s) :
    Keep o (countHit key span s).1 := by
  unfold countHit
  try dsimp only
  repeat' with_reducible first
    | intro _ | assumption | apply rising_filter
    | (simp only [keep_mk_iff]; refine ⟨fun _ => ⟨?_, ?_⟩, ?_, ?_, ?_, ?_⟩) | apply Keep.obj ‹Canon _›
    | apply Keep.mem ‹Canon _› | apply Keep.queue | apply Keep.free | apply Keep.sent | apply Keep.decom

theorem clusterHit_keep (v fatal s) (h_s : Keep o s) :
    Keep o (clusterHit v fatal s).1 := by
  unfold clusterHit
  try dsimp only
  repeat' with_reducible first
    | assumption | apply countHit_keep

theorem setLastTransition_keep (src dst outcome cause start s) (h_s : Keep o s) :
    Keep o (setLastTransition src dst outcome cause start s) := by
  unfold setLastTransition
  try dsimp only
  repeat' with_reducible first
    | assumption | apply setO_keep

theorem changeMode_keep (dst cause start s) (h_s : Keep o s) :
    Keep o (changeMode dst cause start s) := by
  unfold changeMode
  try dsimp only
  repeat' with_reducible first
    | intro _ | assumption | apply addO_keep | apply setLastTransition_keep | apply onlyIf_keep | apply setO_keep
    | (simp only [keep_mk_iff]; refine ⟨fun _ => ⟨?_, ?_⟩, ?_, ?_, ?_, ?_⟩) | apply Keep.obj ‹Canon _›
    | apply Keep.mem ‹Canon _› | apply Keep.queue | apply Keep.free | apply Keep.sent | apply Keep.decom

theorem enterLimp_keep (s) (h_s : Keep o s) :
    Keep o (enterLimp s) := by
  unfold enterLimp
  try dsimp only
  repeat' with_reducible first
    | assumption | apply changeMode_keep | apply setO_keep | apply ite_keep
    | (simp only [keep_mk_iff]; refine ⟨fun _ => ⟨?_, ?_⟩, ?_, ?_, ?_, ?_⟩) | apply Keep.obj ‹Canon _›
    | apply Keep.mem ‹Canon _› | apply Keep.queue | apply Keep.free | apply Keep.sent | apply Keep.decom

/-! Machine/MemCtl.lean -/

theorem discardWrite_keep (ch a s) (h_s : Keep o s) :
    Keep o (discardWrite ch a s) := by
  unfold discardWrite
  try dsimp only
  repeat' with_reducible first
    | apply Keep.decom | intro _ | assumption | apply logRecord_keep | apply ite_keep | apply ite_keep1
    | (simp only [keep_mk_iff]; refine ⟨fun _ => ⟨?_, ?_⟩, ?_, ?_, ?_, ?_⟩) | apply Keep.obj ‹Canon _›
    | apply Keep.mem ‹Canon _› | apply Keep.queue | apply Keep.free | apply Keep.sent | apply good_mk

theorem discardQueued_keep (ch s) (h_s : Keep o s) :
    Keep o (discardQueued ch s) := by
  unfold discardQueued
  try dsimp only
  repeat' with_reducible first
    | apply Keep.decom | intro _ | assumption | apply discardWrite_keep | split
    | (simp only [keep_mk_iff]; refine ⟨fun _ => ⟨?_, ?_⟩, ?_, ?_, ?_, ?_⟩) | apply Keep.obj ‹Canon _›
    | apply Keep.mem ‹Canon _› | apply Keep.queue | apply Keep.free | apply Keep.sent | apply good_mk

theorem retirePcOnly_keep (cl pc s) (h_s : Keep o s) :
    Keep o (retirePcOnly cl pc s) := by
  unfold retirePcOnly
  try dsimp only
  repeat' with_reducible first
    | apply Keep.decom | intro _ | assumption | apply discardQueued_keep | apply logRecord_keep | apply setO_keep
    | apply ite_keep | apply ite_keep1 | split
    | (simp only [keep_mk_iff]; refine ⟨fun _ => ⟨?_, ?_⟩, ?_, ?_, ?_, ?_⟩) | apply Keep.obj ‹Canon _›
    | apply Keep.mem ‹Canon _› | apply Keep.queue | apply Keep.free | apply Keep.sent | apply good_mk

theorem retireStack_keep (st s) (h_s : Keep o s) :
    Keep o (retireStack st s) := by
  unfold retireStack
  try dsimp only
  repeat' with_reducible first
    | apply Keep.decom | intro _ | assumption | apply forAll_keep | apply discardQueued_keep | apply logRecord_keep
    | apply setO_keep | apply foldl_keep | apply foldl_keep1 | split
    | (simp only [keep_mk_iff]; refine ⟨fun _ => ⟨?_, ?_⟩, ?_, ?_, ?_, ?_⟩) | apply Keep.obj ‹Canon _›
    | apply Keep.mem ‹Canon _› | apply Keep.queue | apply Keep.free | apply Keep.sent | apply good_mk

theorem retirePc_keep (cl pc s) (h_s : Keep o s) :
    Keep o (retirePc cl pc s) := by
  unfold retirePc
  try dsimp only
  repeat' with_reducible first
    | intro _ | assumption | apply retirePcOnly_keep | apply onlyIf_keep | apply retireStack_keep
    | apply enterLimp_keep | apply ite_keep

theorem retireChannel_keep (cl c s) (h_s : Keep o s) :
    Keep o (retireChannel cl c s) := by
  unfold retireChannel
  try dsimp only
  repeat' with_reducible first
    | apply Keep.decom | intro _ | assumption | apply discardQueued_keep | apply logRecord_keep | apply setO_keep
    | apply onlyIf_keep | apply enterLimp_keep | apply ite_keep | apply ite_keep1 | split
    | (simp only [keep_mk_iff]; refine ⟨fun _ => ⟨?_, ?_⟩, ?_, ?_, ?_, ?_⟩) | apply Keep.obj ‹Canon _›
    | apply Keep.mem ‹Canon _› | apply Keep.queue | apply Keep.free | apply Keep.sent | apply good_mk

theorem retireResource_keep (a a1) (h_a1 : Keep o a1) :
    Keep o (retireResource a a1) := by
  unfold retireResource
  try dsimp only
  repeat' with_reducible first
    | assumption | apply retirePc_keep | apply retireChannel_keep | split

theorem failDevice_keep (c d s) (h_s : Keep o s) :
    Keep o (failDevice c d s) := by
  unfold failDevice
  try dsimp only
  repeat' with_reducible first
    | apply Keep.decom | intro _ | assumption | apply logRecord_keep | apply onlyIf_keep | apply retireChannel_keep
    | (simp only [keep_mk_iff]; refine ⟨fun _ => ⟨?_, ?_⟩, ?_, ?_, ?_, ?_⟩) | apply Keep.obj ‹Canon _›
    | apply Keep.mem ‹Canon _› | apply Keep.queue | apply Keep.free | apply Keep.sent | apply good_mk

theorem corrected_keep (ch addr place m s) (h_s : Keep o s) :
    Keep o (corrected ch addr place m s) := by
  unfold corrected
  try dsimp only
  repeat' with_reducible first
    | intro _ | assumption | apply addO_keep | apply countHit_keep | apply onlyIf_keep | apply retirePc_keep
    | apply logRecord_keep | apply failDevice_keep | apply ite_keep | apply ite_keep1
    | refine keep_of_pair (by assumption) ?_ | split

theorem uncorrectable_keep (ch addr place n s) (h_s : Keep o s) :
    Keep o (uncorrectable ch addr place n s) := by
  unfold uncorrectable
  try dsimp only
  repeat' with_reducible first
    | intro _ | assumption | apply addO_keep | apply countHit_keep | apply onlyIf_keep | apply retireResource_keep
    | apply logRecord_keep

theorem memEvent_keep (ev ch a s) (h_s : Keep o s) :
    Keep o (memEvent ev ch a s) := by
  unfold memEvent
  try dsimp only
  repeat' with_reducible first
    | assumption | apply pkgEvent_keep

theorem storeLine_keep (line d s) (h_s : Keep o s) :
    Keep o (storeLine line d s) :=
  addO_keep _ _ _ _ _ ⟨fun c => ⟨(h_s.canon c).obj, writeLineData_good _ _ (h_s.canon c).mem⟩, h_s.queue, h_s.free, h_s.sent,
    h_s.decom⟩

theorem readHandled_keep (line f s) (h_s : Keep o s) :
    Keep o (readHandled line f s).1 := by
  unfold readHandled
  try dsimp only
  repeat' with_reducible first
    | intro _ | assumption | apply memEvent_keep | apply onlyIf_keep | apply storeLine_keep | apply corrected_keep
    | apply uncorrectable_keep | apply ite_keep1 | apply ite_keep | refine keep_of_pair (by assumption) ?_ | split

theorem setWq_keep (ch x s) (h_s : Keep o s) : Keep o (setWq ch x s) :=
  ⟨fun c => ⟨(h_s.canon c).obj, good_mk (h_s.canon c).mem⟩, h_s.queue, le_trans h_s.free (le_max_left _ _), h_s.sent, h_s.decom⟩

theorem queueForRead_keep (ch s) (h_s : Keep o s) :
    Keep o (queueForRead ch s) := by
  unfold queueForRead
  try dsimp only
  repeat' with_reducible first
    | intro _ | assumption | apply setWq_keep

theorem queueEmptied_keep (ch s) (h_s : Keep o s) :
    Keep o (queueEmptied ch s) := by
  unfold queueEmptied
  try dsimp only
  repeat' with_reducible first
    | intro _ | assumption | apply setWq_keep

theorem enterWrite_keep (cls src ch line s) (h_s : Keep o s) :
    Keep o (enterWrite cls src ch line s) := by
  unfold enterWrite
  try dsimp only
  repeat' with_reducible first
    | apply Keep.decom | intro _ | assumption | apply setWq_keep | apply pkgEvent_keep | apply ite_keep
    | apply ite_keep1 | refine keep_of_pair (by assumption) ?_ | split
    | (simp only [keep_mk_iff]; refine ⟨fun _ => ⟨?_, ?_⟩, ?_, ?_, ?_, ?_⟩) | apply Keep.obj ‹Canon _›
    | apply Keep.mem ‹Canon _› | apply Keep.queue | apply Keep.free | apply Keep.sent | apply good_mk

theorem reachController_keep (ch s) (h_s : Keep o s) :
    Keep o (reachController ch s) := by
  unfold reachController
  try dsimp only
  repeat' with_reducible first
    | apply Keep.decom | intro _ | assumption | apply setO_keep | apply ite_keep | apply ite_keep1 | split
    | (simp only [keep_mk_iff]; refine ⟨fun _ => ⟨?_, ?_⟩, ?_, ?_, ?_, ?_⟩) | apply Keep.obj ‹Canon _›
    | apply Keep.mem ‹Canon _› | apply Keep.queue | apply Keep.free | apply Keep.sent | apply good_mk

theorem ctlRead_keep (line f s) (h_s : Keep o s) :
    Keep o (ctlRead line f s).1 := by
  unfold ctlRead
  try dsimp only
  repeat' with_reducible first
    | intro _ | assumption | apply readHandled_keep | apply queueForRead_keep | apply reachController_keep
    | apply ite_keep1

theorem ctlStore_keep (cls src line full merge f s) (h_s : Keep o s) :
    Keep o (ctlStore cls src line full merge f s) := by
  unfold ctlStore
  try dsimp only
  repeat' with_reducible first
    | intro _ | assumption | apply discardWrite_keep | apply enterWrite_keep | apply reachController_keep
    | apply memEvent_keep | apply storeLine_keep | apply readHandled_keep | apply addO_keep | apply pkgEvent_keep
    | apply ite_keep

theorem ctlWrite_keep (cls src line data mask whole f s) (h_s : Keep o s) :
    Keep o (ctlWrite cls src line data mask whole f s) := by
  unfold ctlWrite
  try dsimp only
  repeat' with_reducible first
    | intro _ | assumption | apply ctlStore_keep

theorem ctlPoison_keep (cls src line words form s) (h_s : Keep o s) :
    Keep o (ctlPoison cls src line words form s) := by
  unfold ctlPoison
  try dsimp only
  repeat' with_reducible first
    | intro _ | assumption | apply ctlStore_keep

theorem ctlWriteback_keep (src line d s) (h_s : Keep o s) :
    Keep o (ctlWriteback src line d s) := by
  unfold ctlWriteback
  try dsimp only
  repeat' with_reducible first
    | intro _ | assumption | apply ctlStore_keep

theorem ioWrite_keep (cls src a bytes s) (h_s : Keep o s) :
    Keep o (ioWrite cls src a bytes s) := by
  unfold ioWrite
  try dsimp only
  repeat' with_reducible first
    | intro _ | assumption | apply forAll_keep | apply onlyIf_keep | apply ctlWrite_keep

theorem ioRead_keep (a n s) (h_s : Keep o s) :
    Keep o (ioRead a n s).1 := by
  unfold ioRead
  try dsimp only
  repeat' with_reducible first
    | intro _ | assumption | apply forAll_keep | apply ctlRead_keep

theorem trainMemory_keep (badPcs badChannels s) (h_s : Keep o s) :
    Keep o (trainMemory badPcs badChannels s) := by
  unfold trainMemory
  try dsimp only
  repeat' with_reducible first
    | apply Keep.decom | intro _ | assumption | apply forAll_keep | apply retirePc_keep | apply retireChannel_keep
    | apply setO_keep | apply runAll_cons_keep | apply runAll_nil_keep | apply foldl_keep | apply foldl_keep1
    | apply ite_keep | apply ite_keep1 | (simp only [keep_mk_iff]; refine ⟨fun _ => ⟨?_, ?_⟩, ?_, ?_, ?_, ?_⟩)
    | apply Keep.obj ‹Canon _› | apply Keep.mem ‹Canon _› | apply Keep.queue | apply Keep.free | apply Keep.sent
    | apply good_mk | exact Memory.Good.of_empty rfl rfl rfl

theorem stopMemory_keep (s) (h_s : Keep o s) :
    Keep o (stopMemory s) := by
  unfold stopMemory
  try dsimp only
  repeat' with_reducible first
    | apply Keep.decom | intro _ | assumption | apply setO_keep | apply forAll_keep | apply ite_keep
    | apply ite_keep1 | (simp only [keep_mk_iff]; refine ⟨fun _ => ⟨?_, ?_⟩, ?_, ?_, ?_, ?_⟩)
    | apply Keep.obj ‹Canon _› | apply Keep.mem ‹Canon _› | apply Keep.queue | apply Keep.free | apply Keep.sent
    | apply good_mk | exact Memory.Good.of_empty rfl rfl rfl

theorem keepMemory_keep (enter s) (h_s : Keep o s) :
    Keep o (keepMemory enter s) := by
  unfold keepMemory
  try dsimp only
  repeat' with_reducible first
    | intro _ | assumption | apply forAll_keep | apply setO_keep | apply ite_keep
    | (simp only [keep_mk_iff]; refine ⟨fun _ => ⟨?_, ?_⟩, ?_, ?_, ?_, ?_⟩) | apply Keep.obj ‹Canon _›
    | apply Keep.mem ‹Canon _› | apply Keep.queue | apply Keep.free | apply Keep.sent | apply Keep.decom
    | apply good_mk

/-! Machine/Events.lean -/

theorem pendIdentity_keep (h machine i s) (h_s : Keep o s) :
    Keep o (pendIdentity h machine i s) := by
  unfold pendIdentity
  try dsimp only
  repeat' with_reducible first
    | intro _ | assumption | apply setHart_keep | apply ite_keep

theorem fireSource_keep (e s) (h_s : Keep o s) :
    Keep o (fireSource e s) := by
  unfold fireSource
  try dsimp only
  repeat' with_reducible first
    | assumption | apply addO_keep | apply pendIdentity_keep | apply ite_keep

theorem queueEval_keep (q s) (h_s : Keep o s) :
    Keep o (queueEval q s) := by
  unfold queueEval
  try dsimp only
  repeat' with_reducible first
    | assumption | apply fireSource_keep | apply addO_keep | apply setQueue_keep | apply ite_keep

theorem armQueue_keep (q s) (h_s : Keep o s) :
    Keep o (armQueue q s) := by
  unfold armQueue
  try dsimp only
  repeat' with_reducible first
    | assumption | apply queueEval_keep | apply setQueue_keep

theorem postNow_keep (src q entry s) (h_s : Keep o s) :
    Keep o (postNow src q entry s) := by
  unfold postNow
  try dsimp only
  repeat' with_reducible first
    | intro _ | assumption | apply setO_keep | apply ioWrite_keep | apply queueEval_keep | apply setQueue_keep

theorem countPosted_keep (producer entry s) (h_s : Keep o s) :
    Keep o (countPosted producer entry s) := by
  unfold countPosted
  try dsimp only
  repeat' with_reducible first
    | intro _ | assumption | apply addO_keep | apply getD_keep | apply ite_keep | apply ite_keep1 | split

theorem postOf_keep (q producer entry s) (h_s : Keep o s) :
    Keep o (postOf q producer entry s) := by
  unfold postOf
  try dsimp only
  repeat' with_reducible first
    | intro _ | assumption | apply countPosted_keep | apply postNow_keep

theorem drainWaiting_keep (q n s) (h_s : Keep o s) : Keep o (drainWaiting q n s) := by
  induction n generalizing s with
  | zero => exact h_s
  | succ n ih =>
    unfold drainWaiting
    split
    · exact h_s
    · split
      · exact ih _ (postOf_keep _ _ _ _ (setQueue_keep _ _ _ h_s))
      · exact h_s

theorem post_keep (q producer entry s) (h_s : Keep o s) :
    Keep o (post q producer entry s) := by
  unfold post
  try dsimp only
  repeat' with_reducible first
    | intro _ | assumption | apply postOf_keep | apply addO_keep | apply setQueue_keep | apply ite_keep

theorem dropWaiters_keep (p s) (h_s : Keep o s) :
    Keep o (dropWaiters p s) := by
  unfold dropWaiters
  try dsimp only
  repeat' with_reducible first
    | intro _ | assumption | apply forAll_keep | apply setQueue_keep

theorem dropWaiting_keep (producer s) (h_s : Keep o s) :
    Keep o (dropWaiting producer s) := by
  unfold dropWaiting
  try dsimp only
  repeat' with_reducible first
    | intro _ | assumption | apply dropWaiters_keep

/-! Machine/Errors.lean -/

theorem routeRecord_keep (p s) (h_s : Keep o s) :
    Keep o (routeRecord p s) := by
  unfold routeRecord
  try dsimp only
  repeat' with_reducible first
    | apply Keep.decom | intro _ | assumption | apply postNow_keep | apply addO_keep | apply fireSource_keep
    | apply ite_keep | apply ite_keep1 | refine keep_of_some (by assumption) ?_ | split
    | (simp only [keep_mk_iff]; refine ⟨fun _ => ⟨?_, ?_⟩, ?_, ?_, ?_, ?_⟩) | apply Keep.obj ‹Canon _›
    | apply Keep.mem ‹Canon _› | apply Keep.queue | apply Keep.free | apply Keep.sent

theorem record_keep (r s) (h_s : Keep o s) :
    Keep o (record r s) := by
  unfold record
  try dsimp only
  repeat' with_reducible first
    | assumption | apply routeRecord_keep | apply logRecord_keep

theorem contextRecord_keep (unit entry action found s) (h_s : Keep o s) :
    Keep o (contextRecord unit entry action found s) := by
  unfold contextRecord
  try dsimp only
  repeat' with_reducible first
    | assumption | apply record_keep | split

theorem consumeRecord_keep (addr form hart code part s) (h_s : Keep o s) :
    Keep o (consumeRecord addr form hart code part s) := by
  unfold consumeRecord
  try dsimp only
  repeat' with_reducible first
    | assumption | apply record_keep

/-! Machine/Access.lean -/

theorem setReq_keep (who r s) (h_s : Keep o s) :
    Keep o (setReq who r s) := by
  unfold setReq
  try dsimp only
  repeat' with_reducible first
    | intro _ | assumption | (simp only [keep_mk_iff]; refine ⟨fun _ => ⟨?_, ?_⟩, ?_, ?_, ?_, ?_⟩)
    | apply Keep.obj ‹Canon _› | apply Keep.mem ‹Canon _› | apply Keep.queue | apply Keep.free | apply Keep.sent
    | apply Keep.decom

theorem refused_keep (detail s) (h_s : Keep o s) :
    Keep o (refused detail s).1 := by
  unfold refused
  try dsimp only
  repeat' with_reducible first
    | assumption

theorem refusedBusy_keep (s) (h_s : Keep o s) :
    Keep o (refusedBusy s).1 := by
  unfold refusedBusy
  try dsimp only
  repeat' with_reducible first
    | assumption

theorem refusedValue_keep (s) (h_s : Keep o s) :
    Keep o (refusedValue s).1 := by
  unfold refusedValue
  try dsimp only
  repeat' with_reducible first
    | assumption

theorem answerWaits_keep (s) (h_s : Keep o s) :
    Keep o (answerWaits s).1 := by
  unfold answerWaits
  try dsimp only
  repeat' with_reducible first
    | intro _ | assumption

theorem answered_keep (s) (h_s : Keep o s) :
    Keep o (answered s).1 := by
  unfold answered
  try dsimp only
  repeat' with_reducible first
    | assumption

theorem actionDone_keep (s) (h_s : Keep o s) :
    Keep o (actionDone s).1 := by
  unfold actionDone
  try dsimp only
  repeat' with_reducible first
    | assumption

theorem actionPending_keep (s) (h_s : Keep o s) :
    Keep o (actionPending s).1 := by
  unfold actionPending
  try dsimp only
  repeat' with_reducible first
    | assumption

theorem respondRefused_keep (who abort detail s) (h_s : Keep o s) :
    Keep o (respondRefused who abort detail s) := by
  unfold respondRefused
  try dsimp only
  repeat' with_reducible first
    | assumption | apply setReq_keep

theorem respondValue_keep (who value s) (h_s : Keep o s) :
    Keep o (respondValue who value s) := by
  unfold respondValue
  try dsimp only
  repeat' with_reducible first
    | assumption | apply setReq_keep

theorem respondAction_keep (who node ix sub status detail s) (h_s : Keep o s) :
    Keep o (respondAction who node ix sub status detail s) := by
  unfold respondAction
  try dsimp only
  repeat' with_reducible first
    | apply Keep.decom | intro _ | assumption | apply served_keep | apply setReq_keep | apply next_keep
    | apply ite_keep | apply ite_keep1 | (simp only [keep_mk_iff]; refine ⟨fun _ => ⟨?_, ?_⟩, ?_, ?_, ?_, ?_⟩)
    | apply Keep.obj ‹Canon _› | apply Keep.mem ‹Canon _› | apply Keep.queue | apply Keep.free | apply Keep.sent

theorem endAction_keep (who tag status detail s) (h_s : Keep o s) :
    Keep o (endAction who tag status detail s) := by
  unfold endAction
  try dsimp only
  repeat' with_reducible first
    | intro _ | assumption | apply setReq_keep | apply ite_keep | apply ite_keep1
    | refine keep_of_some (by assumption) ?_ | split

theorem rwpCommitted_keep (s) (h_s : Keep o s) :
    Keep o (rwpCommitted s) := by
  unfold rwpCommitted
  try dsimp only
  repeat' with_reducible first
    | assumption | apply setO_keep | apply addO_keep

theorem appear_keep (who s) (h_s : Keep o s) :
    Keep o (appear who s) := by
  unfold appear
  try dsimp only
  repeat' with_reducible first
    | assumption | apply setReq_keep | apply ite_keep
    | (simp only [keep_mk_iff]; refine ⟨fun _ => ⟨?_, ?_⟩, ?_, ?_, ?_, ?_⟩) | apply Keep.obj ‹Canon _›
    | apply Keep.mem ‹Canon _› | apply Keep.queue | apply Keep.free | apply Keep.sent | apply Keep.decom | split

theorem holdRequest_keep (s) (h_s : Keep o s) :
    Keep o (holdRequest s) := by
  unfold holdRequest
  try dsimp only
  repeat' with_reducible first
    | apply Keep.decom | intro _ | assumption
    | (simp only [keep_mk_iff]; refine ⟨fun _ => ⟨?_, ?_⟩, ?_, ?_, ?_, ?_⟩) | apply Keep.obj ‹Canon _›
    | apply Keep.mem ‹Canon _› | apply Keep.queue | apply Keep.free | apply Keep.sent

theorem serveWrite_keep (who node ix sub value rule s) (h_rule : ∀ s, Keep o s → Keep o (rule s).1) (h_s : Keep o s) :
    Keep o (serveWrite who node ix sub value rule s) := by
  unfold serveWrite
  try dsimp only
  repeat' with_reducible first
    | intro _ | assumption | apply h_rule | apply respondRefused_keep | apply setO_keep | apply holdRequest_keep
    | apply respondAction_keep | apply respondValue_keep | apply rwpCommitted_keep | apply ite_keep
    | apply ite_keep1 | refine keep_of_pair (by assumption) ?_ | refine keep_of_some (by assumption) ?_ | split

theorem keepRequest_keep (w s) (h_s : Keep o s) :
    Keep o (keepRequest w s) := by
  unfold keepRequest
  try dsimp only
  repeat' with_reducible first
    | intro _ | assumption | apply setReq_keep | apply ite_keep

theorem serveNow_keep (w serve s) (h_serve : ∀ s, Keep o s → Keep o (serve s)) (h_s : Keep o s) :
    Keep o (serveNow w serve s) := by
  unfold serveNow
  try dsimp only
  repeat' with_reducible first
    | apply Keep.decom | intro _ | assumption | apply h_serve | apply keepRequest_keep | apply ite_keep
    | apply ite_keep1 | (simp only [keep_mk_iff]; refine ⟨fun _ => ⟨?_, ?_⟩, ?_, ?_, ?_, ?_⟩)
    | apply Keep.obj ‹Canon _› | apply Keep.mem ‹Canon _› | apply Keep.queue | apply Keep.free | apply Keep.sent

theorem admitRequest_keep (w serve s) (h_serve : ∀ s, Keep o s → Keep o (serve s)) (h_s : Keep o s) :
    Keep o (admitRequest w serve s) := by
  unfold admitRequest
  try dsimp only
  repeat' with_reducible first
    | apply Keep.decom | intro _ | assumption | apply h_serve | apply keepRequest_keep | apply respondRefused_keep
    | apply serveNow_keep | apply ite_keep | apply ite_keep1 | refine keep_of_some (by assumption) ?_ | split
    | (simp only [keep_mk_iff]; refine ⟨fun _ => ⟨?_, ?_⟩, ?_, ?_, ?_, ?_⟩) | apply Keep.obj ‹Canon _›
    | apply Keep.mem ‹Canon _› | apply Keep.queue | apply Keep.free | apply Keep.sent

theorem servedWith_keep (flash who node ix sub value rule s) (h_rule : ∀ s, Keep o s → Keep o (rule s).1) (h_s : Keep o s) :
    Keep o (servedWith flash who node ix sub value rule s) := by
  unfold servedWith
  try dsimp only
  repeat' with_reducible first
    | intro _ | assumption | apply h_rule | apply admitRequest_keep | apply serveWrite_keep | apply appear_keep
    | apply ite_keep

theorem served_keep (who node ix sub value rule s) (h_rule : ∀ s, Keep o s → Keep o (rule s).1) (h_s : Keep o s) :
    Keep o (served who node ix sub value rule s) := by
  unfold served
  try dsimp only
  repeat' with_reducible first
    | intro _ | assumption | apply h_rule | apply servedWith_keep

theorem plainWrite_keep (node ix sub value s0) (h_s0 : Keep o s0) :
    Keep o (plainWrite node ix sub value s0).1 := by
  unfold plainWrite
  try dsimp only
  repeat' with_reducible first
    | assumption | apply answered_keep | apply setO_keep

theorem dropRequester_keep (who s) (h_s : Keep o s) :
    Keep o (dropRequester who s) := by
  unfold dropRequester
  try dsimp only
  repeat' with_reducible first
    | assumption | apply setReq_keep

/-! Machine/Memory.lean -/

theorem execMemoryRequest_keep (cls src addr op f s) (h_s : Keep o s) :
    KeepN o (execMemoryRequest cls src addr op f s) := by
  unfold execMemoryRequest
  try dsimp only
  repeat' with_reducible first
    | intro _ | assumption | apply ctlRead_keep | apply ctlWrite_keep | apply within_keep | apply ite_keepN
    | apply ite_keep | apply ite_keep1 | refine keep_of_pair (by assumption) ?_ | split

theorem execHbmRefreshDue_keep (pc bank readsPending s) (h_s : Keep o s) :
    KeepN o (execHbmRefreshDue pc bank readsPending s) := by
  unfold execHbmRefreshDue
  try dsimp only
  repeat' with_reducible first
    | apply Keep.decom | intro _ | assumption | apply setWq_keep | apply queueEmptied_keep | apply onlyIf_keep
    | apply pkgEvent_keep | apply maxO_keep | apply within_keep | apply ite_keepN | apply ite_keep | apply ite_keep1
    | refine keep_of_pair (by assumption) ?_ | split
    | (simp only [keep_mk_iff]; refine ⟨fun _ => ⟨?_, ?_⟩, ?_, ?_, ?_, ?_⟩) | apply Keep.obj ‹Canon _›
    | apply Keep.mem ‹Canon _› | apply Keep.queue | apply Keep.free | apply Keep.sent | apply good_mk

theorem execDdr5RefreshDue_keep (channel s) (h_s : Keep o s) :
    KeepN o (execDdr5RefreshDue channel s) := by
  unfold execDdr5RefreshDue
  try dsimp only
  repeat' with_reducible first
    | assumption | apply within_keep

theorem execIdleSelfRefreshEntry_keep (channel s) (h_s : Keep o s) :
    KeepN o (execIdleSelfRefreshEntry channel s) := by
  unfold execIdleSelfRefreshEntry
  try dsimp only
  repeat' with_reducible first
    | apply Keep.decom | intro _ | assumption | apply addO_keep | apply setO_keep | apply queueEmptied_keep
    | apply setWq_keep | apply within_keep | apply ite_keepN | apply ite_keep | apply ite_keep1
    | (simp only [keep_mk_iff]; refine ⟨fun _ => ⟨?_, ?_⟩, ?_, ?_, ?_, ?_⟩) | apply Keep.obj ‹Canon _›
    | apply Keep.mem ‹Canon _› | apply Keep.queue | apply Keep.free | apply Keep.sent | apply good_mk

theorem execDdr5InitComplete_keep (s) (h_s : Keep o s) : KeepN o (execDdr5InitComplete s) :=
  next_keep (ite_keep (setO_keep _ _ _ _ (setO_keep _ _ _ _
    ⟨fun c => ⟨(h_s.canon c).obj, dropDdr_good (h_s.canon c).mem⟩, h_s.queue, h_s.free, h_s.sent, h_s.decom⟩)) h_s)

theorem ruleClearRetirements_keep (s0) (h_s0 : Keep o s0) :
    Keep o (ruleClearRetirements s0).1 := by
  unfold ruleClearRetirements
  try dsimp only
  repeat' with_reducible first
    | intro _ | assumption | apply refused_keep | apply forAll_keep | apply setO_keep | apply actionDone_keep
    | apply ite_keep | apply ite_keep1 | apply ite_rule_keep
    | (simp only [keep_mk_iff]; refine ⟨fun _ => ⟨?_, ?_⟩, ?_, ?_, ?_, ?_⟩) | apply Keep.obj ‹Canon _›
    | apply Keep.mem ‹Canon _› | apply Keep.queue | apply Keep.free | apply Keep.sent | apply Keep.decom
    | apply good_mk

theorem execClearRetirements_keep (who value s) (h_s : Keep o s) :
    KeepN o (execClearRetirements who value s) := by
  unfold execClearRetirements
  try dsimp only
  repeat' with_reducible first
    | intro _ | assumption | apply served_keep | apply ruleClearRetirements_keep | apply next_keep

theorem lapEnd_keep (ch s) (h_s : Keep o s) :
    Keep o (lapEnd ch s) := by
  unfold lapEnd
  try dsimp only
  repeat' with_reducible first
    | apply Keep.decom | intro _ | assumption | apply setO_keep | apply takeFree_keep | apply foldl_keep
    | apply foldl_keep1 | refine keep_of_pair (by assumption) ?_ | split
    | (simp only [keep_mk_iff]; refine ⟨fun _ => ⟨?_, ?_⟩, ?_, ?_, ?_, ?_⟩) | apply Keep.obj ‹Canon _›
    | apply Keep.mem ‹Canon _› | apply Keep.queue | apply Keep.free | apply Keep.sent | apply good_mk

theorem scrubLine_keep (ch f s) (h_s : Keep o s) :
    Keep o (scrubLine ch f s) := by
  unfold scrubLine
  try dsimp only
  repeat' with_reducible first
    | apply Keep.decom | intro _ | assumption | apply readHandled_keep | apply onlyIf_keep | apply lapEnd_keep
    | apply ite_keep | apply ite_keep1 | (simp only [keep_mk_iff]; refine ⟨fun _ => ⟨?_, ?_⟩, ?_, ?_, ?_, ?_⟩)
    | apply Keep.obj ‹Canon _› | apply Keep.mem ‹Canon _› | apply Keep.queue | apply Keep.free | apply Keep.sent
    | apply good_mk

theorem execScrubReadDue_keep (ch f s) (h_s : Keep o s) :
    KeepN o (execScrubReadDue ch f s) := by
  unfold execScrubReadDue
  try dsimp only
  repeat' with_reducible first
    | intro _ | assumption | apply scrubLine_keep | apply queueEmptied_keep | apply within_keep | apply ite_keepN
    | apply ite_keep

theorem execScrubWake_keep (channel findings s) (h_s : Keep o s) :
    KeepN o (execScrubWake channel findings s) := by
  unfold execScrubWake
  try dsimp only
  repeat' with_reducible first
    | apply Keep.decom | intro _ | assumption | apply setO_keep | apply forAll_keep | apply onlyIf_keep
    | apply scrubLine_keep | apply within_keep | apply getD_keep | apply ite_keepN | apply ite_keep
    | apply ite_keep1 | (simp only [keep_mk_iff]; refine ⟨fun _ => ⟨?_, ?_⟩, ?_, ?_, ?_, ?_⟩)
    | apply Keep.obj ‹Canon _› | apply Keep.mem ‹Canon _› | apply Keep.queue | apply Keep.free | apply Keep.sent
    | apply good_mk

theorem testPerformed_keep (s) (h_s : Keep o s) :
    Keep o (testPerformed s).1 := by
  unfold testPerformed
  try dsimp only
  repeat' with_reducible first
    | assumption | apply actionDone_keep | apply setO_keep

theorem setCheck_keep (line c s) (h_s : Keep o s) : Keep o (setCheck line c s) :=
  ⟨fun k => ⟨(h_s.canon k).obj, ((h_s.canon k).mem).of_eq rfl rfl (tblWf_set _ _ _ _ ((h_s.canon k).mem).check)⟩, h_s.queue, h_s.free, h_s.sent,
    h_s.decom⟩

theorem testRequest_keep (write s) (h_s : Keep o s) :
    Keep o (testRequest write s) := by
  unfold testRequest
  try dsimp only
  repeat' with_reducible first
    | intro _ | assumption | apply reachController_keep | apply enterWrite_keep | apply queueForRead_keep
    | apply ite_keep

theorem ruleTestWriteData_keep (who s0) (h_s0 : Keep o s0) : Keep o (ruleTestWriteData who s0).1 := by
  unfold ruleTestWriteData
  refine ite_keep1 (refused_keep _ _ h_s0) ?_
  have h := testRequest_keep true s0 h_s0
  generalize testRequest true s0 = t at h ⊢
  exact testPerformed_keep _ (setCheck_keep _ _ _
    ⟨fun c => ⟨(h.canon c).obj, writeLine_good _ _ _ _ (h.canon c).mem⟩, h.queue, h.free, h.sent, h.decom⟩)

theorem ruleTestWriteCheck_keep (who s0) (h_s0 : Keep o s0) :
    Keep o (ruleTestWriteCheck who s0).1 := by
  unfold ruleTestWriteCheck
  try dsimp only
  repeat' with_reducible first
    | intro _ | assumption | apply refused_keep | apply testRequest_keep | apply testPerformed_keep
    | apply setCheck_keep | apply ite_keep1

theorem ruleTestReadRaw_keep (who s0) (h_s0 : Keep o s0) :
    Keep o (ruleTestReadRaw who s0).1 := by
  unfold ruleTestReadRaw
  try dsimp only
  repeat' with_reducible first
    | intro _ | assumption | apply refused_keep | apply testRequest_keep | apply testPerformed_keep
    | apply setO_keep | apply ite_keep1

theorem ruleTestPoison_keep (who s0) (h_s0 : Keep o s0) :
    Keep o (ruleTestPoison who s0).1 := by
  unfold ruleTestPoison
  try dsimp only
  repeat' with_reducible first
    | intro _ | assumption | apply refused_keep | apply testPerformed_keep | apply storeLine_keep
    | apply testRequest_keep | apply ite_keep1

theorem execTestWriteData_keep (who s) (h_s : Keep o s) :
    KeepN o (execTestWriteData who s) := by
  unfold execTestWriteData
  try dsimp only
  repeat' with_reducible first
    | intro _ | assumption | apply served_keep | apply ruleTestWriteData_keep | apply next_keep

theorem execTestWriteCheck_keep (who s) (h_s : Keep o s) :
    KeepN o (execTestWriteCheck who s) := by
  unfold execTestWriteCheck
  try dsimp only
  repeat' with_reducible first
    | intro _ | assumption | apply served_keep | apply ruleTestWriteCheck_keep | apply next_keep

theorem execTestReadRaw_keep (who s) (h_s : Keep o s) :
    KeepN o (execTestReadRaw who s) := by
  unfold execTestReadRaw
  try dsimp only
  repeat' with_reducible first
    | intro _ | assumption | apply served_keep | apply ruleTestReadRaw_keep | apply next_keep

theorem execTestPoison_keep (who s) (h_s : Keep o s) :
    KeepN o (execTestPoison who s) := by
  unfold execTestPoison
  try dsimp only
  repeat' with_reducible first
    | intro _ | assumption | apply served_keep | apply ruleTestPoison_keep | apply next_keep

theorem execRefreshRateChange_keep (ch hot s) (h_s : Keep o s) :
    KeepN o (execRefreshRateChange ch hot s) := by
  unfold execRefreshRateChange
  try dsimp only
  repeat' with_reducible first
    | assumption | apply within_keep | apply setO_keep | apply ite_keep | apply ite_keepN | apply next_keep
    | apply fault_keep | (simp only [keep_mk_iff]; refine ⟨fun _ => ⟨?_, ?_⟩, ?_, ?_, ?_, ?_⟩)
    | apply Keep.obj ‹Canon _› | apply Keep.mem ‹Canon _› | apply Keep.queue | apply Keep.free | apply Keep.sent
    | apply Keep.decom | apply good_mk | exact Memory.Good.of_empty rfl rfl rfl | split

/-! Machine/Csr.lean -/

theorem hartEvent_keep (hart ev n s) (h_s : Keep o s) :
    Keep o (hartEvent hart ev n s) := by
  unfold hartEvent
  try dsimp only
  repeat' with_reducible first
    | intro _ | assumption | apply setHart_keep | apply ite_keep

theorem complete_keep (hart pc s) (h_s : Keep o s) :
    Keep o (complete hart pc s) := by
  unfold complete
  try dsimp only
  repeat' with_reducible first
    | assumption | apply hartEvent_keep | apply setHart_keep

theorem takeExc_keep (hart e s) (h_s : Keep o s) :
    Keep o (takeExc hart e s) := by
  unfold takeExc
  try dsimp only
  repeat' with_reducible first
    | assumption | apply hartEvent_keep | apply setHart_keep | apply consumeRecord_keep | apply ite_keep | split

theorem illegal_keep (hart s) (h_s : Keep o s) :
    Keep o (illegal hart s) := by
  unfold illegal
  try dsimp only
  repeat' with_reducible first
    | assumption | apply takeFree_keep | apply takeExc_keep

theorem illegalBits_keep (hart bits s) (h_s : Keep o s) :
    Keep o (illegalBits hart bits s) := by
  unfold illegalBits
  try dsimp only
  repeat' with_reducible first
    | assumption | apply takeFree_keep | apply takeExc_keep

theorem csrRead_keep (hart n s) (h_s : Keep o s) :
    Keep o (csrRead hart n s).1 := by
  unfold csrRead
  try dsimp only
  repeat' with_reducible first
    | intro _ | assumption | apply takeFree_keep | apply setHart_keep | apply ite_keep1

theorem csrWrite_keep (hart n v s) (h_s : Keep o s) :
    Keep o (csrWrite hart n v s) := by
  unfold csrWrite
  try dsimp only
  repeat' with_reducible first
    | intro _ | assumption | apply setHart_keep

/-! Machine/Coherence.lean -/

theorem setL2_keep (g line x s) (h_s : Keep o s) :
    Keep o (setL2 g line x s) := by
  unfold setL2
  try dsimp only
  repeat' with_reducible first
    | intro _ | assumption | (simp only [keep_mk_iff]; refine ⟨fun _ => ⟨?_, ?_⟩, ?_, ?_, ?_, ?_⟩)
    | apply Keep.obj ‹Canon _› | apply Keep.mem ‹Canon _› | apply Keep.queue | apply Keep.free | apply Keep.sent
    | apply Keep.decom

theorem setDir_keep (dom line e s) (h_s : Keep o s) :
    Keep o (setDir dom line e s) := by
  unfold setDir
  try dsimp only
  repeat' with_reducible first
    | apply Keep.decom | intro _ | assumption | apply ite_keep | apply ite_keep1
    | (simp only [keep_mk_iff]; refine ⟨fun _ => ⟨?_, ?_⟩, ?_, ?_, ?_, ?_⟩) | apply Keep.obj ‹Canon _›
    | apply Keep.mem ‹Canon _› | apply Keep.queue | apply Keep.free | apply Keep.sent

theorem dropCopies_keep (g line s) (h_s : Keep o s) :
    Keep o (dropCopies g line s) := by
  unfold dropCopies
  try dsimp only
  repeat' with_reducible first
    | intro _ | assumption | apply forAll_keep | apply setHart_keep

theorem breakReservations_keep (hart line s) (h_s : Keep o s) :
    Keep o (breakReservations hart line s) := by
  unfold breakReservations
  try dsimp only
  repeat' with_reducible first
    | intro _ | assumption | apply forAll_keep | apply setHart_keep | apply ite_keep

theorem dropPrivate_keep (g line s) (h_s : Keep o s) :
    Keep o (dropPrivate g line s) := by
  unfold dropPrivate
  try dsimp only
  repeat' with_reducible first
    | intro _ | assumption | apply forAll_keep | apply setHart_keep

theorem removeL2_keep (g line s) (h_s : Keep o s) :
    Keep o (removeL2 g line s) := by
  unfold removeL2
  try dsimp only
  repeat' with_reducible first
    | assumption | apply dropCopies_keep | apply setL2_keep

theorem poisonL2_keep (g line words s) (h_s : Keep o s) :
    Keep o (poisonL2 g line words s) := by
  unfold poisonL2
  exact setL2_keep _ _ _ _ h_s

theorem sliceRead_keep (line f s) (h_s : Keep o s) :
    Keep o (sliceRead line f s).1 := by
  unfold sliceRead
  try dsimp only
  repeat' with_reducible first
    | intro _ | assumption | apply ctlRead_keep

theorem sliceWriteback_keep (g line d s) (h_s : Keep o s) :
    Keep o (sliceWriteback g line d s) := by
  unfold sliceWriteback
  try dsimp only
  repeat' with_reducible first
    | intro _ | assumption | apply ctlWriteback_keep

theorem sliceWrite_keep (g line data mask whole s) (h_s : Keep o s) :
    Keep o (sliceWrite g line data mask whole s) := by
  unfold sliceWrite
  try dsimp only
  repeat' with_reducible first
    | intro _ | assumption | apply ctlWrite_keep

theorem acceptWbd_keep (g dom line d s) (h_s : Keep o s) :
    Keep o (acceptWbd g dom line d s) := by
  unfold acceptWbd
  try dsimp only
  repeat' with_reducible first
    | intro _ | assumption | apply setDir_keep | apply sliceWriteback_keep | apply addO_keep | apply ite_keep

theorem touchWay_keep (g w line s) (h_s : Keep o s) :
    Keep o (touchWay g w line s) := by
  unfold touchWay
  try dsimp only
  repeat' with_reducible first
    | intro _ | assumption | (simp only [keep_mk_iff]; refine ⟨fun _ => ⟨?_, ?_⟩, ?_, ?_, ?_, ?_⟩)
    | apply Keep.obj ‹Canon _› | apply Keep.mem ‹Canon _› | apply Keep.queue | apply Keep.free | apply Keep.sent
    | apply Keep.decom

theorem evictL2_keep (g line s) (h_s : Keep o s) :
    Keep o (evictL2 g line s) := by
  unfold evictL2
  try dsimp only
  repeat' with_reducible first
    | assumption | apply acceptWbd_keep | apply removeL2_keep | apply ite_keep

theorem snoopL2_keep (k g dom line s) (h_s : Keep o s) :
    Keep o (snoopL2 k g dom line s).1 := by
  unfold snoopL2
  try dsimp only
  repeat' with_reducible first
    | assumption | apply removeL2_keep | apply dropCopies_keep | apply setL2_keep | apply ite_keep | apply ite_keep1

theorem staleHolder_keep (g dom line s) (h_s : Keep o s) :
    Keep o (staleHolder g dom line s) := by
  unfold staleHolder
  try dsimp only
  repeat' with_reducible first
    | intro _ | assumption | apply addO_keep | apply setDir_keep | apply pkgEvent_keep
    | (simp only [keep_mk_iff]; refine ⟨fun _ => ⟨?_, ?_⟩, ?_, ?_, ?_, ?_⟩) | apply Keep.obj ‹Canon _›
    | apply Keep.mem ‹Canon _› | apply Keep.queue | apply Keep.free | apply Keep.sent | apply Keep.decom

theorem snoopHolder_keep (k dom line g s) (h_s : Keep o s) :
    Keep o (snoopHolder k dom line g s).1 := by
  unfold snoopHolder
  try dsimp only
  repeat' with_reducible first
    | assumption | apply snoopL2_keep | apply staleHolder_keep | apply setDir_keep | apply ite_keep
    | apply ite_keep1 | apply ite_rule_keep | refine keep_of_pair (by assumption) ?_ | split

theorem invalidateAll_keep (dom line gs s) (h_s : Keep o s) :
    Keep o (invalidateAll dom line gs s) := by
  unfold invalidateAll
  try dsimp only
  repeat' with_reducible first
    | intro _ | assumption | apply forAll_keep | apply snoopHolder_keep

theorem chooseVictim_keep (want line s) (h_s : Keep o s) :
    Keep o (chooseVictim want line s).1 := by
  unfold chooseVictim
  try dsimp only
  repeat' with_reducible first
    | assumption | apply takeFree_keep | refine keep_of_pair (by assumption) ?_ | split

theorem countBackInv_keep (k s) (h_s : Keep o s) :
    Keep o (countBackInv k s) := by
  unfold countBackInv
  try dsimp only
  repeat' with_reducible first
    | intro _ | assumption | apply addO_keep | apply pkgEvent_keep
    | (simp only [keep_mk_iff]; refine ⟨fun _ => ⟨?_, ?_⟩, ?_, ?_, ?_, ?_⟩) | apply Keep.obj ‹Canon _›
    | apply Keep.mem ‹Canon _› | apply Keep.queue | apply Keep.free | apply Keep.sent | apply Keep.decom

theorem backInvalidate_keep (k s) (h_s : Keep o s) :
    Keep o (backInvalidate k s) := by
  unfold backInvalidate
  try dsimp only
  repeat' with_reducible first
    | intro _ | assumption | apply forAll_keep | apply snoopHolder_keep | apply sliceWriteback_keep
    | apply countBackInv_keep | apply setDir_keep | refine keep_of_pair (by assumption) ?_
    | refine keep_of_some (by assumption) ?_ | split

theorem countSetFull_keep (dom line s) (h_s : Keep o s) :
    Keep o (countSetFull dom line s) := by
  unfold countSetFull
  try dsimp only
  repeat' with_reducible first
    | assumption | apply pkgEvent_keep | apply addO_keep

theorem noteFull_keep (g dom line s) (h_s : Keep o s) :
    Keep o (noteFull g dom line s) := by
  unfold noteFull
  try dsimp only
  repeat' with_reducible first
    | apply Keep.decom | intro _ | assumption | apply countSetFull_keep | apply ite_keep | apply ite_keep1
    | (simp only [keep_mk_iff]; refine ⟨fun _ => ⟨?_, ?_⟩, ?_, ?_, ?_, ?_⟩) | apply Keep.obj ‹Canon _›
    | apply Keep.mem ‹Canon _› | apply Keep.queue | apply Keep.free | apply Keep.sent

theorem endFullWait_keep (g dom line s) (h_s : Keep o s) :
    Keep o (endFullWait g dom line s) := by
  unfold endFullWait
  try dsimp only
  repeat' with_reducible first
    | apply Keep.decom | intro _ | assumption
    | (simp only [keep_mk_iff]; refine ⟨fun _ => ⟨?_, ?_⟩, ?_, ?_, ?_, ?_⟩) | apply Keep.obj ‹Canon _›
    | apply Keep.mem ‹Canon _› | apply Keep.queue | apply Keep.free | apply Keep.sent

theorem carryWaits_keep (met s) (h_met : Keep o met) (h_s : Keep o s) :
    Keep o (carryWaits met s) := by
  unfold carryWaits
  try dsimp only
  repeat' with_reducible first
    | intro _ | assumption | apply forAll_keep | apply noteFull_keep

theorem makeRoom_keep (g dom line want s) (h_s : Keep o s) :
    Keep o (makeRoom g dom line want s).1 := by
  unfold makeRoom
  try dsimp only
  repeat' with_reducible first
    | intro _ | assumption | apply endFullWait_keep | apply chooseVictim_keep | apply noteFull_keep
    | apply backInvalidate_keep | apply ite_keep1 | apply ite_keep | refine keep_of_pair (by assumption) ?_
    | refine keep_of_some (by assumption) ?_ | split

theorem countTx_keep (dom line s) (h_s : Keep o s) :
    Keep o (countTx dom line s) := by
  unfold countTx
  try dsimp only
  repeat' with_reducible first
    | assumption | apply pkgEvent_keep

theorem serveRdS_keep (g dom line f s) (h_s : Keep o s) :
    Keep o (serveRdS g dom line f s).1 := by
  unfold serveRdS
  try dsimp only
  repeat' with_reducible first
    | intro _ | assumption | apply sliceRead_keep | apply setDir_keep | apply snoopHolder_keep
    | apply sliceWriteback_keep | apply ite_keep1 | apply ite_keep | refine keep_of_pair (by assumption) ?_
    | refine keep_of_some (by assumption) ?_ | split

theorem loseReservations_keep (line keep s) (h_s : Keep o s) :
    Keep o (loseReservations line keep s) := by
  unfold loseReservations
  try dsimp only
  repeat' with_reducible first
    | intro _ | assumption | apply forAll_keep | apply setHart_keep

theorem serveRdX_keep (g dom line f s) (h_s : Keep o s) :
    Keep o (serveRdX g dom line f s).1 := by
  unfold serveRdX
  try dsimp only
  repeat' with_reducible first
    | intro _ | assumption | apply loseReservations_keep | apply invalidateAll_keep | apply sliceRead_keep
    | apply setDir_keep | apply snoopHolder_keep | apply ite_keep | apply ite_keep1 | apply ite_rule_keep
    | refine keep_of_pair (by assumption) ?_ | split

theorem serveClaim_keep (g dom line s) (h_s : Keep o s) :
    Keep o (serveClaim g dom line s) := by
  unfold serveClaim
  try dsimp only
  repeat' with_reducible first
    | intro _ | assumption | apply setDir_keep | apply invalidateAll_keep | apply loseReservations_keep

theorem cohRead_keep (g dom line f s) (h_s : Keep o s) :
    Keep o (cohRead g dom line f s).1 := by
  unfold cohRead
  try dsimp only
  repeat' with_reducible first
    | intro _ | assumption | apply countTx_keep | apply sliceRead_keep | apply snoopHolder_keep
    | apply sliceWriteback_keep | apply ite_keep1 | apply ite_keep | refine keep_of_pair (by assumption) ?_
    | refine keep_of_some (by assumption) ?_ | split

theorem cohWrite_keep (g dom line full data mask whole s) (h_s : Keep o s) :
    Keep o (cohWrite g dom line full data mask whole s).1 := by
  unfold cohWrite
  try dsimp only
  repeat' with_reducible first
    | intro _ | assumption | apply countTx_keep | apply loseReservations_keep | apply setDir_keep
    | apply sliceWrite_keep | apply invalidateAll_keep | apply snoopHolder_keep | apply sliceWriteback_keep
    | apply ite_keep1 | apply ite_keep | refine keep_of_pair (by assumption) ?_
    | refine keep_of_some (by assumption) ?_ | split

theorem cohMaintain_keep (k g dom line s) (h_s : Keep o s) :
    Keep o (cohMaintain k g dom line s).1 := by
  unfold cohMaintain
  try dsimp only
  repeat' with_reducible first
    | intro _ | assumption | apply countTx_keep | apply snoopHolder_keep | apply sliceWriteback_keep
    | apply setDir_keep | apply invalidateAll_keep | apply ite_keep1 | apply ite_keep
    | refine keep_of_pair (by assumption) ?_ | refine keep_of_some (by assumption) ?_ | split

theorem l2Fill_keep (hart line demand want f s) (h_s : Keep o s) :
    Keep o (l2Fill hart line demand want f s).1 := by
  unfold l2Fill
  try dsimp only
  repeat' with_reducible first
    | intro _ | assumption | apply hartEvent_keep | apply evictL2_keep | apply onlyIf_keep | apply makeRoom_keep
    | apply countTx_keep | apply touchWay_keep | apply setL2_keep | apply serveRdS_keep | apply serveRdX_keep
    | apply serveClaim_keep | apply getD_keep | apply ite_keep1 | apply ite_keep
    | refine keep_of_pair (by assumption) ?_ | refine keep_of_some (by assumption) ?_ | split

theorem l2Read_keep (hart line demand f s) (h_s : Keep o s) :
    Keep o (l2Read hart line demand f s).1 := by
  unfold l2Read
  try dsimp only
  repeat' with_reducible first
    | intro _ | assumption | apply cohRead_keep | apply l2Fill_keep | apply touchWay_keep | apply getD_keep
    | apply ite_keep1 | apply ite_keep | refine keep_of_pair (by assumption) ?_
    | refine keep_of_some (by assumption) ?_ | split

theorem l2Own_keep (hart line f s) (h_s : Keep o s) :
    Keep o (l2Own hart line f s).1 := by
  unfold l2Own
  try dsimp only
  repeat' with_reducible first
    | intro _ | assumption | apply touchWay_keep | apply setL2_keep | apply countTx_keep | apply hartEvent_keep
    | apply serveClaim_keep | apply serveRdX_keep | apply l2Fill_keep | apply ite_keep1 | apply ite_keep
    | refine keep_of_pair (by assumption) ?_ | split

theorem l2Store_keep (hart line data mask whole s) (h_s : Keep o s) :
    Keep o (l2Store hart line data mask whole s).1 := by
  unfold l2Store
  try dsimp only
  repeat' with_reducible first
    | intro _ | assumption | apply cohWrite_keep | apply l2Own_keep | apply breakReservations_keep
    | apply setL2_keep | apply getD_keep | apply ite_keep1 | apply ite_keep | refine keep_of_pair (by assumption) ?_
    | split

theorem zeroLine_keep (hart line s) (h_s : Keep o s) :
    Keep o (zeroLine hart line s) := by
  unfold zeroLine
  try dsimp only
  repeat' with_reducible first
    | intro _ | assumption | apply breakReservations_keep | apply dropPrivate_keep | apply touchWay_keep
    | apply setL2_keep

theorem l2Zero_keep (hart line s) (h_s : Keep o s) :
    Keep o (l2Zero hart line s).1 := by
  unfold l2Zero
  try dsimp only
  repeat' with_reducible first
    | intro _ | assumption | apply cohWrite_keep | apply l2Fill_keep | apply zeroLine_keep | apply serveClaim_keep
    | apply countTx_keep | apply getD_keep | apply ite_keep1 | apply ite_keep
    | refine keep_of_pair (by assumption) ?_ | split

/-! Machine/Translate.lean -/

theorem l2Atomic_keep (hart line f upd s) (h_s : Keep o s) :
    Keep o (l2Atomic hart line f upd s).1 := by
  unfold l2Atomic
  try dsimp only
  repeat' with_reducible first
    | intro _ | assumption | apply cohRead_keep | apply cohWrite_keep | apply l2Own_keep
    | apply breakReservations_keep | apply setL2_keep | apply getD_keep | apply ite_keep1 | apply ite_keep
    | refine keep_of_pair (by assumption) ?_ | refine keep_of_some (by assumption) ?_ | split

theorem setMarks_keep (hart a old new s) (h_s : Keep o s) :
    Keep o (setMarks hart a old new s).1 := by
  unfold setMarks
  try dsimp only
  repeat' with_reducible first
    | intro _ | assumption | apply l2Atomic_keep | apply hartEvent_keep | apply ite_keep | apply ite_keep1
    | apply ite_rule_keep | refine keep_of_pair (by assumption) ?_ | split

theorem walkFrom_keep (hart priv acc va mode asid n a global f path s) (h_s : Keep o s) :
    Keep o (walkFrom hart priv acc va mode asid n a global f path s).1 := by
  induction n generalizing a global f path s with
  | zero => exact h_s
  | succ n ih =>
    unfold walkFrom
    dsimp only
    have h1 := l2Read_keep hart ((a + vpnAt va n % 512 * 8) / 64) false f s h_s
    refine ite_keep1 (setHart_keep _ _ _ h_s) ?_
    split
    · exact keep_of_pair (by assumption) h1
    · rename_i t d e
      have h2 : Keep o t := keep_of_pair e h1
      refine ite_keep1 h2 (ite_keep1 (setHart_keep _ _ _ h2) (ite_keep1 (setHart_keep _ _ _ h2)
        (ite_keep1 (ih _ _ _ _ _ h2) (ite_keep1 (setHart_keep _ _ _ h2)
          (ite_keep1 (setHart_keep _ _ _ h2) ?_)))))
      have h3 := setMarks_keep hart (a + vpnAt va n % 512 * 8) (lineWord d.data ((a + vpnAt va n % 512 * 8) / 8 % 8))
        (lineWord d.data ((a + vpnAt va n % 512 * 8) / 8 % 8) ||| 0x40 ||| (if acc.dirty then 0x80 else 0)) t h2
      split
      · exact setHart_keep _ _ _ (keep_of_pair (by assumption) h3)
      · exact setHart_keep _ _ _ (keep_of_pair (by assumption) h3)
      · exact keep_of_pair (by assumption) h3

theorem walk_keep (hart priv acc va s) (h_s : Keep o s) :
    Keep o (walk hart priv acc va s).1 := by
  unfold walk
  try dsimp only
  repeat' with_reducible first
    | intro _ | assumption | apply hartEvent_keep | apply setHart_keep | apply walkFrom_keep | apply findSome_keepO
    | apply ite_keep1 | apply ite_keep | refine keep_of_pair (by assumption) ?_
    | refine keep_of_some (by assumption) ?_ | split

theorem lookup_keep (hart priv acc va s) (h_s : Keep o s) :
    Keep o (lookup hart priv acc va s).1 := by
  unfold lookup
  try dsimp only
  repeat' with_reducible first
    | intro _ | assumption | apply hartEvent_keep | apply setHart_keep | apply walk_keep | apply ite_keep1
    | apply ite_keep | refine keep_of_pair (by assumption) ?_ | refine keep_of_some (by assumption) ?_ | split

theorem reach_keep (hart acc va len aligned s) (h_s : Keep o s) :
    Keep o (reach hart acc va len aligned s).1 := by
  unfold reach
  try dsimp only
  repeat' with_reducible first
    | assumption | apply lookup_keep | apply ite_keep | apply ite_keep1 | apply ite_rule_keep
    | refine keep_of_pair (by assumption) ?_ | split

/-! Machine/Queues.lean -/

theorem stopQueue_keep (q code s) (h_s : Keep o s) :
    Keep o (stopQueue q code s) := by
  unfold stopQueue
  try dsimp only
  repeat' with_reducible first
    | assumption | apply record_keep | apply setO_keep

theorem releaseGrants_keep (c seq s) (h_s : Keep o s) :
    Keep o (releaseGrants c seq s) := by
  unfold releaseGrants
  try dsimp only
  repeat' with_reducible first
    | assumption | apply rising_filter | (simp only [keep_mk_iff]; refine ⟨fun _ => ⟨?_, ?_⟩, ?_, ?_, ?_, ?_⟩)
    | apply Keep.obj ‹Canon _› | apply Keep.mem ‹Canon _› | apply Keep.queue | apply Keep.free | apply Keep.sent
    | apply Keep.decom

theorem setChan_keep (c x s) (h_s : Keep o s) :
    Keep o (setChan c x s) := by
  unfold setChan
  try dsimp only
  repeat' with_reducible first
    | intro _ | assumption | (simp only [keep_mk_iff]; refine ⟨fun _ => ⟨?_, ?_⟩, ?_, ?_, ?_, ?_⟩)
    | apply Keep.obj ‹Canon _› | apply Keep.mem ‹Canon _› | apply Keep.queue | apply Keep.free | apply Keep.sent
    | apply Keep.decom

theorem chanEnd_keep (c s) (h_s : Keep o s) :
    Keep o (chanEnd c s) := by
  unfold chanEnd
  try dsimp only
  repeat' with_reducible first
    | intro _ | assumption | apply dropWaiters_keep | apply releaseGrants_keep | apply onlyIf_keep | apply setO_keep
    | apply addO_keep | apply setChan_keep

theorem clearQueue_keep (q s) (h_s : Keep o s) :
    Keep o (clearQueue q s) := by
  unfold clearQueue
  try dsimp only
  repeat' with_reducible first
    | intro _ | assumption | apply setO_keep | apply setQueue_keep | apply drainWaiting_keep | apply queueEval_keep
    | apply runAll_cons_keep | apply runAll_nil_keep

theorem advanceC_keep (q n s) (h_s : Keep o s) :
    Keep o (advanceC q n s) := by
  unfold advanceC
  try dsimp only
  repeat' with_reducible first
    | assumption | apply addO_keep | apply setO_keep | apply drainWaiting_keep | apply setQueue_keep
    | apply queueEval_keep

theorem chanReset_keep (c s) (h_s : Keep o s) :
    Keep o (chanReset c s) := by
  unfold chanReset
  try dsimp only
  repeat' with_reducible first
    | intro _ | assumption | apply onlyIf_keep | apply advanceC_keep | apply chanEnd_keep

theorem finishPacket_keep (c id s) (h_s : Keep o s) :
    Keep o (finishPacket c id s) := by
  unfold finishPacket
  try dsimp only
  repeat' with_reducible first
    | assumption | apply setChan_keep | apply advanceC_keep | apply ite_keep

theorem afterPost_keep (p s) (h_s : Keep o s) :
    Keep o (afterPost p s) := by
  unfold afterPost
  try dsimp only
  repeat' with_reducible first
    | intro _ | assumption | apply finishPacket_keep | apply onlyIf_keep | apply advanceC_keep | apply ite_keep

theorem afterPosts_keep (before q s) (h_s : Keep o s) :
    Keep o (afterPosts before q s) := by
  unfold afterPosts
  try dsimp only
  repeat' with_reducible first
    | intro _ | assumption | apply forAll_keep | apply afterPost_keep

theorem resumePosts_keep (q s) (h_s : Keep o s) :
    Keep o (resumePosts q s) := by
  unfold resumePosts
  try dsimp only
  repeat' with_reducible first
    | intro _ | assumption | apply afterPosts_keep | apply drainWaiting_keep

theorem queueReset_keep (q s) (h_s : Keep o s) :
    Keep o (queueReset q s) := by
  unfold queueReset
  try dsimp only
  repeat' with_reducible first
    | intro _ | assumption | apply forAll_keep | apply chanEnd_keep | apply dropWaiting_keep | apply afterPosts_keep
    | apply clearQueue_keep

theorem disableQueue_keep (q s) (h_s : Keep o s) :
    Keep o (disableQueue q s) := by
  unfold disableQueue
  try dsimp only
  repeat' with_reducible first
    | intro _ | assumption | apply forAll_keep | apply chanEnd_keep | apply dropWaiting_keep | apply setO_keep
    | apply setQueue_keep | apply runAll_cons_keep | apply runAll_nil_keep

theorem storePidx_keep (q n s) (h_s : Keep o s) :
    Keep o (storePidx q n s) := by
  unfold storePidx
  try dsimp only
  repeat' with_reducible first
    | assumption | apply queueEval_keep | apply setO_keep | apply stopQueue_keep | apply ite_keep

theorem storeCidx_keep (q n s) (h_s : Keep o s) :
    Keep o (storeCidx q n s) := by
  unfold storeCidx
  try dsimp only
  repeat' with_reducible first
    | intro _ | assumption | apply afterPosts_keep | apply advanceC_keep | apply stopQueue_keep | apply ite_keep

theorem storeArm_keep (q v s) (h_s : Keep o s) :
    Keep o (storeArm q v s) := by
  unfold storeArm
  try dsimp only
  repeat' with_reducible first
    | assumption | apply armQueue_keep | apply ite_keep

theorem doorbellStore_keep (q off size v s) (h_s : Keep o s) :
    Keep o (doorbellStore q off size v s) := by
  unfold doorbellStore
  try dsimp only
  repeat' with_reducible first
    | assumption | apply storePidx_keep | apply storeCidx_keep | apply storeArm_keep | apply ite_keep

theorem hartDeviceStore_keep (hart va addr size f s) (h_f : ∀ s, Keep o s → Keep o (f s)) (h_s : Keep o s) :
    Keep o (hartDeviceStore hart va addr size f s) := by
  unfold hartDeviceStore
  try dsimp only
  repeat' with_reducible first
    | intro _ | assumption | apply h_f | apply reach_keep | apply takeExc_keep | apply ite_keep | apply ite_keep1
    | refine keep_of_pair (by assumption) ?_ | split

theorem execPidxWrite_keep (hart va queue value s) (h_s : Keep o s) :
    KeepN o (execPidxWrite hart va queue value s) := by
  unfold execPidxWrite
  try dsimp only
  repeat' with_reducible first
    | intro _ | assumption | apply hartDeviceStore_keep | apply storePidx_keep | apply within_keep

theorem execCidxWrite_keep (hart va queue value s) (h_s : Keep o s) :
    KeepN o (execCidxWrite hart va queue value s) := by
  unfold execCidxWrite
  try dsimp only
  repeat' with_reducible first
    | intro _ | assumption | apply hartDeviceStore_keep | apply storeCidx_keep | apply within_keep

theorem execArmWrite_keep (hart va queue value s) (h_s : Keep o s) :
    KeepN o (execArmWrite hart va queue value s) := by
  unfold execArmWrite
  try dsimp only
  repeat' with_reducible first
    | intro _ | assumption | apply hartDeviceStore_keep | apply storeArm_keep | apply within_keep

theorem execQueuePost_keep (queue producer entry s) (h_s : Keep o s) :
    KeepN o (execQueuePost queue producer entry s) := by
  unfold execQueuePost
  try dsimp only
  repeat' with_reducible first
    | assumption | apply within_keep | apply post_keep | apply ite_keep

theorem loseContext_keep (q s) (h_s : Keep o s) :
    Keep o (loseContext q s) := by
  unfold loseContext
  try dsimp only
  repeat' with_reducible first
    | intro _ | assumption | apply takeFree_keep | apply stopQueue_keep | apply setO_keep | apply runAll_cons_keep
    | apply runAll_nil_keep

theorem queueAccess_keep (q context source s) (h_s : Keep o s) :
    Keep o (queueAccess q context source s) := by
  unfold queueAccess
  try dsimp only
  repeat' with_reducible first
    | intro _ | assumption | apply onlyIf_keep | apply contextRecord_keep | apply loseContext_keep

theorem execQueueEventDelay_keep (queue context source s) (h_s : Keep o s) :
    KeepN o (execQueueEventDelay queue context source s) := by
  unfold execQueueEventDelay
  try dsimp only
  repeat' with_reducible first
    | intro _ | assumption | apply within_keep | apply queueEval_keep | apply onlyIf_keep | apply queueAccess_keep
    | apply ite_keep

theorem fileStore_keep (h machine off size v s) (h_s : Keep o s) :
    Keep o (fileStore h machine off size v s) := by
  unfold fileStore
  try dsimp only
  repeat' with_reducible first
    | assumption | apply pendIdentity_keep | apply ite_keep

theorem execSeteipnumWrite_keep (hart va target machine value s) (h_s : Keep o s) :
    KeepN o (execSeteipnumWrite hart va target machine value s) := by
  unfold execSeteipnumWrite
  try dsimp only
  repeat' with_reducible first
    | intro _ | assumption | apply hartDeviceStore_keep | apply fileStore_keep | apply within_keep

theorem ringsLoseQueue_keep (s t) (h_s : Keep o s) (h_t : Keep o t) :
    Keep o (ringsLoseQueue s t) := by
  unfold ringsLoseQueue
  try dsimp only
  repeat' with_reducible first
    | intro _ | assumption | apply forAll_keep | apply record_keep

theorem ruleQueueEnable_keep (q value s0) (h_s0 : Keep o s0) :
    Keep o (ruleQueueEnable q value s0).1 := by
  unfold ruleQueueEnable
  try dsimp only
  repeat' with_reducible first
    | intro _ | assumption | apply answered_keep | apply queueReset_keep | apply setO_keep | apply refused_keep
    | apply ringsLoseQueue_keep | apply disableQueue_keep | apply ite_keep1

theorem execQueueEnable_keep (who queue value s) (h_s : Keep o s) :
    KeepN o (execQueueEnable who queue value s) := by
  unfold execQueueEnable
  try dsimp only
  repeat' with_reducible first
    | intro _ | assumption | apply within_keep | apply served_keep | apply ruleQueueEnable_keep

theorem ruleQueueReset_keep (q s0) (h_s0 : Keep o s0) :
    Keep o (ruleQueueReset q s0).1 := by
  unfold ruleQueueReset
  try dsimp only
  repeat' with_reducible first
    | intro _ | assumption | apply actionDone_keep | apply onlyIf_keep | apply queueReset_keep

theorem execQueueReset_keep (who queue value s) (h_s : Keep o s) :
    KeepN o (execQueueReset who queue value s) := by
  unfold execQueueReset
  try dsimp only
  repeat' with_reducible first
    | intro _ | assumption | apply within_keep | apply served_keep | apply ruleQueueReset_keep

theorem ruleQueueConfig_keep (q sub value s0) (h_s0 : Keep o s0) :
    Keep o (ruleQueueConfig q sub value s0).1 := by
  unfold ruleQueueConfig
  try dsimp only
  repeat' with_reducible first
    | assumption | apply refusedBusy_keep | apply answered_keep | apply setO_keep | apply ite_keep | apply ite_keep1

theorem ruleSourceEnable_keep (e value s0) (h_s0 : Keep o s0) :
    Keep o (ruleSourceEnable e value s0).1 := by
  unfold ruleSourceEnable
  try dsimp only
  repeat' with_reducible first
    | assumption | apply answered_keep | apply setO_keep | apply refused_keep | apply ite_keep | apply ite_keep1

theorem execSourceEnable_keep (who source value s) (h_s : Keep o s) :
    KeepN o (execSourceEnable who source value s) := by
  unfold execSourceEnable
  try dsimp only
  repeat' with_reducible first
    | intro _ | assumption | apply within_keep | apply served_keep | apply ruleSourceEnable_keep

theorem dropStraySources_keep (s) (h_s : Keep o s) :
    Keep o (dropStraySources s) := by
  unfold dropStraySources
  try dsimp only
  repeat' with_reducible first
    | intro _ | assumption | apply forAll_keep | apply setO_keep | apply ite_keep

theorem ruleSourceConfig_keep (e sub value s0) (h_s0 : Keep o s0) :
    Keep o (ruleSourceConfig e sub value s0).1 := by
  unfold ruleSourceConfig
  try dsimp only
  repeat' with_reducible first
    | assumption | apply refusedBusy_keep | apply answered_keep | apply setO_keep | apply ite_keep | apply ite_keep1

theorem moveLine_keep (q s0 g n line s) (h_s0 : Keep o s0) (h_s : Keep o s) :
    Keep o (moveLine q s0 g n line s) := by
  unfold moveLine
  try dsimp only
  repeat' with_reducible first
    | intro _ | assumption | apply ctlStore_keep

theorem readSources_keep (p g n s) (h_s : Keep o s) :
    Keep o (readSources p g n s) := by
  unfold readSources
  try dsimp only
  repeat' with_reducible first
    | intro _ | assumption | apply forAll_keep | apply ctlRead_keep | apply consumeRecord_keep | apply ite_keep

theorem turn_keep (q g s) (h_s : Keep o s) :
    Keep o (turn q g s).1 := by
  unfold turn
  try dsimp only
  repeat' with_reducible first
    | intro _ | assumption | apply readSources_keep | apply addO_keep | apply forAll_keep | apply moveLine_keep

theorem endLoad_keep (q status tag bytes cmpl s) (h_s : Keep o s) :
    Keep o (endLoad q status tag bytes cmpl s) := by
  unfold endLoad
  try dsimp only
  repeat' with_reducible first
    | intro _ | assumption | apply addO_keep | apply setQueue_keep | apply stopQueue_keep | apply post_keep
    | apply advanceC_keep | apply ite_keep

theorem recordLost_keep (q s) (h_s : Keep o s) : Keep o (recordLost q s) := by
  unfold recordLost
  try dsimp only
  repeat' with_reducible first
    | assumption | apply stopQueue_keep | apply dropWaiting_keep | apply ite_keep

theorem nowServed_keep (q s) (h_s : Keep o s) :
    Keep o (nowServed q s) := by
  unfold nowServed
  try dsimp only
  repeat' with_reducible first
    | apply Keep.decom | intro _ | assumption | apply ite_keep | apply ite_keep1
    | (simp only [keep_mk_iff]; refine ⟨fun _ => ⟨?_, ?_⟩, ?_, ?_, ?_, ?_⟩) | apply Keep.obj ‹Canon _›
    | apply Keep.mem ‹Canon _› | apply Keep.queue | apply Keep.free | apply Keep.sent

theorem goOnLoad_keep (q g s) (h_s : Keep o s) :
    Keep o (goOnLoad q g s) := by
  unfold goOnLoad
  try dsimp only
  repeat' with_reducible first
    | intro _ | assumption | apply turn_keep | apply endLoad_keep | apply setQueue_keep | apply ite_keep

theorem startLoad_keep (q op l tag cmpl s) (h_s : Keep o s) :
    Keep o (startLoad q op l tag cmpl s) := by
  unfold startLoad
  try dsimp only
  repeat' with_reducible first
    | intro _ | assumption | apply takeFree_keep | apply goOnLoad_keep | apply ite_keep

theorem takeLoad_keep (own q s) (h_s : Keep o s) :
    Keep o (takeLoad own q s) := by
  unfold takeLoad
  try dsimp only
  repeat' with_reducible first
    | intro _ | assumption | apply ioRead_keep | apply stopQueue_keep | apply endLoad_keep | apply nowServed_keep
    | apply startLoad_keep | apply ite_keep | apply ite_keep1 | refine keep_of_pair (by assumption) ?_
    | refine keep_of_some (by assumption) ?_ | split

theorem drayTake_keep (own q s) (h_s : Keep o s) :
    Keep o (drayTake own q s) := by
  unfold drayTake
  try dsimp only
  repeat' with_reducible first
    | intro _ | assumption | apply recordLost_keep | apply onlyIf_keep | apply goOnLoad_keep | apply nowServed_keep
    | apply takeLoad_keep | apply ite_keep | apply ite_keep1 | refine keep_of_some (by assumption) ?_ | split

theorem execCopy_keep (queue s) (h_s : Keep o s) :
    KeepN o (execCopy queue s) := by
  unfold execCopy
  try dsimp only
  repeat' with_reducible first
    | assumption | apply within_keep | apply drayTake_keep

theorem execFill_keep (queue s) (h_s : Keep o s) :
    KeepN o (execFill queue s) := by
  unfold execFill
  try dsimp only
  repeat' with_reducible first
    | assumption | apply within_keep | apply drayTake_keep

theorem execCopy2d_keep (queue s) (h_s : Keep o s) :
    KeepN o (execCopy2d queue s) := by
  unfold execCopy2d
  try dsimp only
  repeat' with_reducible first
    | assumption | apply within_keep | apply drayTake_keep

end Sys2Proof.Machine
end

