-- ==== Sys2Proof/Laws/KeepStream.lean ====
section
/-! SUPPORT. `Keep` is kept by every operation of domains, the Concourse, the Archive, the rings, the Hodometer and Accession. -/

namespace Sys2Proof.Machine

variable {o : State}

/-! Machine/Domain.lean -/

theorem resetVit_keep (v s) (h_s : Keep o s) :
    Keep o (resetVit v s) := by
  unfold resetVit
  try dsimp only
  repeat' with_reducible first
    | assumption | apply setVit_keep | apply dropWaiting_keep

theorem resetHart_keep (h s) (h_s : Keep o s) :
    Keep o (resetHart h s) := by
  unfold resetHart
  try dsimp only
  repeat' with_reducible first
    | assumption | apply setHart_keep

theorem partitionReset_keep (p s) (h_s : Keep o s) :
    Keep o (partitionReset p s) := by
  unfold partitionReset
  try dsimp only
  repeat' with_reducible first
    | intro _ | assumption | apply forAll_keep | apply resetVit_keep | apply resetHart_keep

theorem stopResources_keep (p s) (h_s : Keep o s) :
    Keep o (stopResources p s) := by
  unfold stopResources
  try dsimp only
  repeat' with_reducible first
    | intro _ | assumption | apply forAll_keep | apply queueReset_keep | apply partitionReset_keep
    | (simp only [keep_mk_iff]; refine ⟨fun _ => ⟨?_, ?_⟩, ?_, ?_, ?_, ?_⟩) | apply Keep.obj ‹Canon _›
    | apply Keep.mem ‹Canon _› | apply Keep.queue | apply Keep.free | apply Keep.sent | apply Keep.decom

theorem flushDomain_keep (p s) (h_s : Keep o s) :
    Keep o (flushDomain p s) := by
  unfold flushDomain
  try dsimp only
  repeat' with_reducible first
    | intro _ | assumption | apply forAll_keep | apply ctlWriteback_keep | apply removeL2_keep | apply onlyIf_keep
    | apply ite_keep | apply ite_keep1 | refine keep_of_pair (by assumption) ?_
    | refine keep_of_some (by assumption) ?_ | split

theorem clearDomain_keep (p s) (h_s : Keep o s) :
    Keep o (clearDomain p s) := by
  unfold clearDomain
  try dsimp only
  repeat' with_reducible first
    | apply Keep.decom | intro _ | assumption | apply flushDomain_keep | apply setO_keep
    | (simp only [keep_mk_iff]; refine ⟨fun _ => ⟨?_, ?_⟩, ?_, ?_, ?_, ?_⟩) | apply Keep.obj ‹Canon _›
    | apply Keep.mem ‹Canon _› | apply Keep.queue | apply Keep.free | apply Keep.sent

theorem discardWaiting_keep (p s) (h_s : Keep o s) :
    Keep o (discardWaiting p s) := by
  unfold discardWaiting
  try dsimp only
  repeat' with_reducible first
    | apply Keep.decom | intro _ | assumption
    | (simp only [keep_mk_iff]; refine ⟨fun _ => ⟨?_, ?_⟩, ?_, ?_, ?_, ?_⟩) | apply Keep.obj ‹Canon _›
    | apply Keep.mem ‹Canon _› | apply Keep.queue | apply Keep.free | apply Keep.sent

theorem dropStart_keep (p s) (h_s : Keep o s) :
    Keep o (dropStart p s) := by
  unfold dropStart
  try dsimp only
  repeat' with_reducible first
    | apply Keep.decom | intro _ | assumption
    | (simp only [keep_mk_iff]; refine ⟨fun _ => ⟨?_, ?_⟩, ?_, ?_, ?_, ?_⟩) | apply Keep.obj ‹Canon _›
    | apply Keep.mem ‹Canon _› | apply Keep.queue | apply Keep.free | apply Keep.sent

theorem cancelStart_keep (p s) (h_s : Keep o s) :
    Keep o (cancelStart p s) := by
  unfold cancelStart
  try dsimp only
  repeat' with_reducible first
    | intro _ | assumption | apply dropStart_keep | apply endAction_keep | refine keep_of_pair (by assumption) ?_
    | split

theorem markDown_keep (p s) (h_s : Keep o s) :
    Keep o (markDown p s) := by
  unfold markDown
  try dsimp only
  repeat' with_reducible first
    | apply Keep.decom | intro _ | assumption | apply ite_keep | apply ite_keep1
    | (simp only [keep_mk_iff]; refine ⟨fun _ => ⟨?_, ?_⟩, ?_, ?_, ?_, ?_⟩) | apply Keep.obj ‹Canon _›
    | apply Keep.mem ‹Canon _› | apply Keep.queue | apply Keep.free | apply Keep.sent

theorem domainDown_keep (p cause gallery s) (h_s : Keep o s) :
    Keep o (domainDown p cause gallery s) := by
  unfold domainDown
  try dsimp only
  repeat' with_reducible first
    | apply Keep.decom | intro _ | assumption | apply setO_keep | apply addO_keep | apply markDown_keep
    | apply cancelStart_keep | apply stopResources_keep | apply discardWaiting_keep | apply record_keep
    | apply runAll_cons_keep | apply runAll_nil_keep | apply ite_keep | apply ite_keep1 | split
    | (simp only [keep_mk_iff]; refine ⟨fun _ => ⟨?_, ?_⟩, ?_, ?_, ?_, ?_⟩) | apply Keep.obj ‹Canon _›
    | apply Keep.mem ‹Canon _› | apply Keep.queue | apply Keep.free | apply Keep.sent

theorem sweepFaulty_keep (s) (h_s : Keep o s) :
    Keep o (sweepFaulty s) := by
  unfold sweepFaulty
  try dsimp only
  repeat' with_reducible first
    | intro _ | assumption | apply forAll_keep | apply backInvalidate_keep | apply fault_keep | apply ite_keep

theorem faultyWay_keep (slice way s) (h_s : Keep o s) :
    Keep o (faultyWay slice way s) := by
  unfold faultyWay
  try dsimp only
  repeat' with_reducible first
    | apply Keep.decom | intro _ | assumption | apply record_keep | apply subO_keep | apply sweepFaulty_keep
    | apply fault_keep | apply ite_keep | apply ite_keep1
    | (simp only [keep_mk_iff]; refine ⟨fun _ => ⟨?_, ?_⟩, ?_, ?_, ?_, ?_⟩) | apply Keep.obj ‹Canon _›
    | apply Keep.mem ‹Canon _› | apply Keep.queue | apply Keep.free | apply Keep.sent

theorem execDirectoryEntryError_keep (slice set way err s) (h_s : Keep o s) :
    KeepN o (execDirectoryEntryError slice set way err s) := by
  unfold execDirectoryEntryError
  try dsimp only
  repeat' with_reducible first
    | intro _ | assumption | apply countHit_keep | apply addO_keep | apply onlyIf_keep | apply faultyWay_keep
    | apply record_keep | apply domainDown_keep | apply forAll_keep | apply within_keep | apply fault_keep
    | apply getD_keep | apply ite_keepN | apply ite_keep | apply ite_keep1 | refine keep_of_pair (by assumption) ?_
    | refine keep_of_some (by assumption) ?_ | split

/-! Machine/Concourse.lean -/

theorem sendMsg_keep (m s) (h_s : Keep o s) :
    Keep o (sendMsg m s) := by
  unfold sendMsg
  try dsimp only
  repeat' with_reducible first
    | apply Keep.decom | intro _ | assumption
    | (simp only [keep_mk_iff]; refine ⟨fun _ => ⟨?_, ?_⟩, ?_, ?_, ?_, ?_⟩) | apply Keep.obj ‹Canon _›
    | apply Keep.mem ‹Canon _› | apply Keep.queue | apply Keep.free | apply Keep.sent

theorem takeMsg_keep {p s m t} (e : takeMsg p s = some (m, t)) (h_s : Keep o s) : Keep o t := by
  unfold takeMsg at e
  split at e
  · exact nomatch e
  · split at e
    · simp only [Option.some.injEq, Prod.mk.injEq] at e
      rw [← e.2]
      exact h_s.of_eq rfl rfl rfl rfl rfl rfl
    · exact nomatch e

theorem setTx_keep (dom line t s) (h_s : Keep o s) :
    Keep o (setTx dom line t s) := by
  unfold setTx
  try dsimp only
  repeat' with_reducible first
    | assumption | (simp only [keep_mk_iff]; refine ⟨fun _ => ⟨?_, ?_⟩, ?_, ?_, ?_, ?_⟩) | apply Keep.obj ‹Canon _›
    | apply Keep.mem ‹Canon _› | apply Keep.queue | apply Keep.free | apply Keep.sent | apply Keep.decom

theorem startTx_keep (line r queue kept s) (h_s : Keep o s) :
    Keep o (startTx line r queue kept s).1 := by
  unfold startTx
  try dsimp only
  repeat' with_reducible first
    | intro _ | assumption | apply chooseVictim_keep | apply setTx_keep | apply forAll_keep | apply sendMsg_keep
    | apply ite_keep1 | apply ite_keep | refine keep_of_pair (by assumption) ?_
    | refine keep_of_some (by assumption) ?_ | split

theorem joinWaiting_keep (line r s) (h_s : Keep o s) :
    Keep o (joinWaiting line r s) := by
  unfold joinWaiting
  try dsimp only
  repeat' with_reducible first
    | apply Keep.decom | intro _ | assumption
    | (simp only [keep_mk_iff]; refine ⟨fun _ => ⟨?_, ?_⟩, ?_, ?_, ?_, ?_⟩) | apply Keep.obj ‹Canon _›
    | apply Keep.mem ‹Canon _› | apply Keep.queue | apply Keep.free | apply Keep.sent

theorem closeTx_keep (dom line t s) (h_s : Keep o s) :
    Keep o (closeTx dom line t s) := by
  unfold closeTx
  try dsimp only
  repeat' with_reducible first
    | apply Keep.decom | intro _ | assumption | apply maxO_keep | apply startTx_keep | apply forAll_keep
    | apply joinWaiting_keep | apply onlyIf_keep | apply countSetFull_keep | refine keep_of_pair (by assumption) ?_
    | split | (simp only [keep_mk_iff]; refine ⟨fun _ => ⟨?_, ?_⟩, ?_, ?_, ?_, ?_⟩) | apply Keep.obj ‹Canon _›
    | apply Keep.mem ‹Canon _› | apply Keep.queue | apply Keep.free | apply Keep.sent

theorem finishReq_keep (dom line t s) (h_s : Keep o s) :
    Keep o (finishReq dom line t s).1 := by
  unfold finishReq
  try dsimp only
  repeat' with_reducible first
    | intro _ | assumption | apply sliceRead_keep | apply sendMsg_keep | apply setDir_keep | apply sliceWrite_keep
    | apply sliceWriteback_keep | apply ite_keep1 | apply ite_keep | refine keep_of_pair (by assumption) ?_
    | refine keep_of_some (by assumption) ?_ | split

theorem beginReq_keep (dom line s) (h_s : Keep o s) :
    Keep o (beginReq dom line s) := by
  unfold beginReq
  try dsimp only
  repeat' with_reducible first
    | intro _ | assumption | apply forAll_keep | apply sendMsg_keep | apply setTx_keep | apply finishReq_keep
    | apply closeTx_keep | apply ite_keep | apply ite_keep1 | refine keep_of_pair (by assumption) ?_
    | refine keep_of_some (by assumption) ?_ | split

theorem serveQueue_keep (dom line n s) (h_s : Keep o s) : Keep o (serveQueue dom line n s) := by
  induction n generalizing s with
  | zero => exact h_s
  | succ n ih =>
    unfold serveQueue
    split
    · exact h_s
    · exact ite_keep h_s (ih _ (beginReq_keep _ _ _ h_s))

theorem acceptReq_keep (line r s) (h_s : Keep o s) :
    Keep o (acceptReq line r s).1 := by
  unfold acceptReq
  try dsimp only
  repeat' with_reducible first
    | intro _ | assumption | apply setTx_keep | apply startTx_keep | apply serveQueue_keep | apply countTx_keep
    | apply ite_keep1 | apply ite_keep | refine keep_of_pair (by assumption) ?_
    | refine keep_of_some (by assumption) ?_ | split

theorem sendReq_keep (line r s) (h_s : Keep o s) :
    Keep o (sendReq line r s) := by
  unfold sendReq
  try dsimp only
  repeat' with_reducible first
    | intro _ | assumption | apply acceptReq_keep | apply onlyIf_keep | apply countSetFull_keep
    | apply joinWaiting_keep | refine keep_of_pair (by assumption) ?_ | split

theorem admitWaiting_keep (s) (h_s : Keep o s) :
    Keep o (admitWaiting s) := by
  unfold admitWaiting
  try dsimp only
  repeat' with_reducible first
    | apply Keep.decom | intro _ | assumption | apply sweepFaulty_keep | apply forAll_keep | apply acceptReq_keep
    | refine keep_of_pair (by assumption) ?_ | split
    | (simp only [keep_mk_iff]; refine ⟨fun _ => ⟨?_, ?_⟩, ?_, ?_, ?_, ?_⟩) | apply Keep.obj ‹Canon _›
    | apply Keep.mem ‹Canon _› | apply Keep.queue | apply Keep.free | apply Keep.sent

theorem startFill_keep (g line way r s) (h_s : Keep o s) :
    Keep o (startFill g line way r s) := by
  unfold startFill
  try dsimp only
  repeat' with_reducible first
    | apply Keep.decom | intro _ | assumption | apply setL2_keep | apply sendReq_keep
    | (simp only [keep_mk_iff]; refine ⟨fun _ => ⟨?_, ?_⟩, ?_, ?_, ?_, ?_⟩) | apply Keep.obj ‹Canon _›
    | apply Keep.mem ‹Canon _› | apply Keep.queue | apply Keep.free | apply Keep.sent

theorem writeVictim_keep (g line way v r s) (h_s : Keep o s) :
    Keep o (writeVictim g line way v r s) := by
  unfold writeVictim
  try dsimp only
  repeat' with_reducible first
    | apply Keep.decom | intro _ | assumption | apply sendMsg_keep | apply dropCopies_keep | apply setL2_keep
    | (simp only [keep_mk_iff]; refine ⟨fun _ => ⟨?_, ?_⟩, ?_, ?_, ?_, ?_⟩) | apply Keep.obj ‹Canon _›
    | apply Keep.mem ‹Canon _› | apply Keep.queue | apply Keep.free | apply Keep.sent

theorem missLine_keep (g line core r s) (h_s : Keep o s) :
    Keep o (missLine g line core r s) := by
  unfold missLine
  try dsimp only
  repeat' with_reducible first
    | intro _ | assumption | apply startFill_keep | apply removeL2_keep | apply writeVictim_keep | apply ite_keep
    | apply ite_keep1 | refine keep_of_pair (by assumption) ?_ | refine keep_of_some (by assumption) ?_ | split

theorem l2Ask_keep (g line core r s) (h_s : Keep o s) :
    Keep o (l2Ask g line core r s) := by
  unfold l2Ask
  try dsimp only
  repeat' with_reducible first
    | apply Keep.decom | intro _ | assumption | apply missLine_keep | apply startFill_keep | apply ite_keep
    | apply ite_keep1 | refine keep_of_some (by assumption) ?_ | split
    | (simp only [keep_mk_iff]; refine ⟨fun _ => ⟨?_, ?_⟩, ?_, ?_, ?_, ?_⟩) | apply Keep.obj ‹Canon _›
    | apply Keep.mem ‹Canon _› | apply Keep.queue | apply Keep.free | apply Keep.sent

theorem askL2_keep (g dom line f s) (h_f : ∀ s, Keep o s → Keep o (f s)) (h_s : Keep o s) :
    Keep o (askL2 g dom line f s) := by
  unfold askL2
  try dsimp only
  repeat' with_reducible first
    | intro _ | assumption | apply h_f | apply admitWaiting_keep | apply ite_keep

theorem execRds_keep (gallery domain line core victim s) (h_s : Keep o s) :
    KeepN o (execRds gallery domain line core victim s) := by
  unfold execRds
  try dsimp only
  repeat' with_reducible first
    | intro _ | assumption | apply askL2_keep | apply l2Ask_keep | apply within_keep | apply ite_keepN
    | apply ite_keep

theorem execRdx_keep (gallery domain line core victim s) (h_s : Keep o s) :
    KeepN o (execRdx gallery domain line core victim s) := by
  unfold execRdx
  try dsimp only
  repeat' with_reducible first
    | intro _ | assumption | apply askL2_keep | apply l2Ask_keep | apply within_keep | apply ite_keepN
    | apply ite_keep

theorem l2Upgrade_keep (g line r s) (h_s : Keep o s) :
    Keep o (l2Upgrade g line r s) := by
  unfold l2Upgrade
  try dsimp only
  repeat' with_reducible first
    | intro _ | assumption | apply sendReq_keep | apply setL2_keep | apply ite_keep

theorem execUpg_keep (gallery domain line victim s) (h_s : Keep o s) :
    KeepN o (execUpg gallery domain line victim s) := by
  unfold execUpg
  try dsimp only
  repeat' with_reducible first
    | intro _ | assumption | apply askL2_keep | apply l2Upgrade_keep | apply within_keep

theorem execClaimz_keep (gallery domain line core victim s) (h_s : Keep o s) :
    KeepN o (execClaimz gallery domain line core victim s) := by
  unfold execClaimz
  try dsimp only
  repeat' with_reducible first
    | intro _ | assumption | apply askL2_keep | apply l2Ask_keep | apply l2Upgrade_keep | apply within_keep
    | apply ite_keepN | apply ite_keep

theorem askAgent_keep (line r s) (h_s : Keep o s) :
    Keep o (askAgent line r s) := by
  unfold askAgent
  try dsimp only
  repeat' with_reducible first
    | intro _ | assumption | apply admitWaiting_keep | apply sendReq_keep | apply ite_keep

theorem execCrd_keep (agent domain line s) (h_s : Keep o s) :
    KeepN o (execCrd agent domain line s) := by
  unfold execCrd
  try dsimp only
  repeat' with_reducible first
    | intro _ | assumption | apply askAgent_keep | apply within_keep

theorem execCwr_keep (agent domain line data mask whole s) (h_s : Keep o s) :
    KeepN o (execCwr agent domain line data mask whole s) := by
  unfold execCwr
  try dsimp only
  repeat' with_reducible first
    | intro _ | assumption | apply askAgent_keep | apply within_keep

theorem sendCmo_keep (k g dom line s) (h_s : Keep o s) :
    Keep o (sendCmo k g dom line s) := by
  unfold sendCmo
  try dsimp only
  repeat' with_reducible first
    | intro _ | assumption | apply askL2_keep | apply sendReq_keep | apply ite_keep

theorem execCmoClean_keep (gallery domain line s) (h_s : Keep o s) :
    KeepN o (execCmoClean gallery domain line s) := by
  unfold execCmoClean
  try dsimp only
  repeat' with_reducible first
    | assumption | apply within_keep | apply sendCmo_keep

theorem execCmoFlush_keep (gallery domain line s) (h_s : Keep o s) :
    KeepN o (execCmoFlush gallery domain line s) := by
  unfold execCmoFlush
  try dsimp only
  repeat' with_reducible first
    | assumption | apply within_keep | apply sendCmo_keep

theorem execCmoInval_keep (gallery domain line s) (h_s : Keep o s) :
    KeepN o (execCmoInval gallery domain line s) := by
  unfold execCmoInval
  try dsimp only
  repeat' with_reducible first
    | assumption | apply within_keep | apply sendCmo_keep

theorem takeSnoop_keep (k g line s) (h_s : Keep o s) :
    Keep o (takeSnoop k g line s) := by
  unfold takeSnoop
  try dsimp only
  repeat' with_reducible first
    | refine takeMsg_keep (by assumption) ?_ | intro _ | assumption | apply snoopL2_keep | apply sendMsg_keep
    | apply ite_keep | apply ite_keep1 | refine keep_of_pair (by assumption) ?_ | split

theorem execSnps_keep (gallery line s) (h_s : Keep o s) :
    KeepN o (execSnps gallery line s) := by
  unfold execSnps
  try dsimp only
  repeat' with_reducible first
    | assumption | apply within_keep | apply takeSnoop_keep

theorem execSnpx_keep (gallery line s) (h_s : Keep o s) :
    KeepN o (execSnpx gallery line s) := by
  unfold execSnpx
  try dsimp only
  repeat' with_reducible first
    | assumption | apply within_keep | apply takeSnoop_keep

theorem execSnpinv_keep (gallery line s) (h_s : Keep o s) :
    KeepN o (execSnpinv gallery line s) := by
  unfold execSnpinv
  try dsimp only
  repeat' with_reducible first
    | assumption | apply within_keep | apply takeSnoop_keep

theorem execSnpcln_keep (gallery line s) (h_s : Keep o s) :
    KeepN o (execSnpcln gallery line s) := by
  unfold execSnpcln
  try dsimp only
  repeat' with_reducible first
    | assumption | apply within_keep | apply takeSnoop_keep

theorem advanceTx_keep (k s) (h_s : Keep o s) :
    Keep o (advanceTx k s) := by
  unfold advanceTx
  try dsimp only
  repeat' with_reducible first
    | intro _ | assumption | apply forAll_keep | apply sendReq_keep | apply serveQueue_keep | apply setTx_keep
    | apply countBackInv_keep | apply setDir_keep | apply finishReq_keep | apply closeTx_keep | apply ite_keep
    | apply ite_keep1 | refine keep_of_pair (by assumption) ?_ | refine keep_of_some (by assumption) ?_ | split

theorem leaveHolders_keep (g dom line s) (h_s : Keep o s) :
    Keep o (leaveHolders g dom line s) := by
  unfold leaveHolders
  try dsimp only
  repeat' with_reducible first
    | assumption | apply setDir_keep

theorem badMessage_keep (dom s) (h_s : Keep o s) :
    Keep o (badMessage dom s) := by
  unfold badMessage
  try dsimp only
  repeat' with_reducible first
    | intro _ | assumption | apply domainDown_keep

theorem strayMessage_keep (line s) (h_s : Keep o s) :
    Keep o (strayMessage line s) := by
  unfold strayMessage
  try dsimp only
  repeat' with_reducible first
    | intro _ | assumption | apply onlyIf_keep | apply badMessage_keep | refine keep_of_some (by assumption) ?_
    | split

theorem arrive_keep (line p f s) (h_f : ∀ a0 s, Keep o s → Keep o (f a0 s)) (h_s : Keep o s) :
    Keep o (arrive line p f s) := by
  unfold arrive
  try dsimp only
  repeat' with_reducible first
    | refine takeMsg_keep (by assumption) ?_ | intro _ | assumption | apply h_f | apply strayMessage_keep
    | apply ite_keep | apply ite_keep1 | refine keep_of_pair (by assumption) ?_ | split

theorem takeSnpData_keep (g line dom d s) (h_s : Keep o s) :
    Keep o (takeSnpData g line dom d s) := by
  unfold takeSnpData
  try dsimp only
  repeat' with_reducible first
    | intro _ | assumption | apply leaveHolders_keep | apply sliceWriteback_keep | apply advanceTx_keep
    | apply setTx_keep | apply ite_keep | apply ite_keep1 | refine keep_of_pair (by assumption) ?_
    | refine keep_of_some (by assumption) ?_ | split

theorem takeRsp_keep (r g line dom s) (h_s : Keep o s) :
    Keep o (takeRsp r g line dom s) := by
  unfold takeRsp
  try dsimp only
  repeat' with_reducible first
    | intro _ | assumption | apply badMessage_keep | apply setTx_keep | apply advanceTx_keep | apply onlyIf_keep
    | apply staleHolder_keep | apply leaveHolders_keep | apply takeSnpData_keep | apply ite_keep | apply ite_keep1
    | refine keep_of_pair (by assumption) ?_ | refine keep_of_some (by assumption) ?_ | split

theorem execSnoopResponse_keep (gallery line s) (h_s : Keep o s) :
    KeepN o (execSnoopResponse gallery line s) := by
  unfold execSnoopResponse
  try dsimp only
  repeat' with_reducible first
    | intro _ | assumption | apply arrive_keep | apply admitWaiting_keep | apply takeRsp_keep | apply within_keep
    | split

theorem meetSnpData_keep (g line dom d s) (h_s : Keep o s) :
    Keep o (meetSnpData g line dom d s) := by
  unfold meetSnpData
  try dsimp only
  repeat' with_reducible first
    | intro _ | assumption | apply badMessage_keep | apply takeSnpData_keep | apply setTx_keep | apply ite_keep
    | apply ite_keep1 | refine keep_of_pair (by assumption) ?_ | split

theorem execSnpdata_keep (gallery line s) (h_s : Keep o s) :
    KeepN o (execSnpdata gallery line s) := by
  unfold execSnpdata
  try dsimp only
  repeat' with_reducible first
    | intro _ | assumption | apply arrive_keep | apply admitWaiting_keep | apply meetSnpData_keep
    | apply within_keep | split

theorem takeWbd_keep (g line dom d s) (h_s : Keep o s) :
    Keep o (takeWbd g line dom d s) := by
  unfold takeWbd
  try dsimp only
  repeat' with_reducible first
    | assumption | apply sendMsg_keep | apply acceptWbd_keep | apply advanceTx_keep | apply setTx_keep
    | apply ite_keep | split

theorem execWbd_keep (gallery line s) (h_s : Keep o s) :
    KeepN o (execWbd gallery line s) := by
  unfold execWbd
  try dsimp only
  repeat' with_reducible first
    | intro _ | assumption | apply arrive_keep | apply admitWaiting_keep | apply takeWbd_keep | apply within_keep
    | split

theorem evictLater_keep (g line s) (h_s : Keep o s) :
    Keep o (evictLater g line s) := by
  unfold evictLater
  try dsimp only
  repeat' with_reducible first
    | intro _ | assumption | apply sendMsg_keep | apply dropCopies_keep | apply setL2_keep | apply removeL2_keep
    | apply ite_keep

theorem takeGrant_keep (g line dom gr d s) (h_s : Keep o s) :
    Keep o (takeGrant g line dom gr d s) := by
  unfold takeGrant
  try dsimp only
  repeat' with_reducible first
    | intro _ | assumption | apply sendMsg_keep | apply onlyIf_keep | apply evictLater_keep | apply touchWay_keep
    | apply setL2_keep | apply badMessage_keep | apply getD_keep | apply ite_keep

theorem takeReply_keep (a0 s1) (h_s1 : Keep o s1) :
    Keep o (takeReply a0 s1) := by
  unfold takeReply
  try dsimp only
  repeat' with_reducible first
    | intro _ | assumption | apply badMessage_keep | apply takeGrant_keep | apply onlyIf_keep | apply ite_keep
    | apply ite_keep1 | refine keep_of_some (by assumption) ?_ | split

theorem execData_keep (agent line s) (h_s : Keep o s) :
    KeepN o (execData agent line s) := by
  unfold execData
  try dsimp only
  repeat' with_reducible first
    | intro _ | assumption | apply arrive_keep | apply admitWaiting_keep | apply takeReply_keep | apply within_keep

theorem execCmp_keep (agent line s) (h_s : Keep o s) :
    KeepN o (execCmp agent line s) := by
  unfold execCmp
  try dsimp only
  repeat' with_reducible first
    | intro _ | assumption | apply arrive_keep | apply admitWaiting_keep | apply takeReply_keep | apply within_keep

theorem takeWback_keep (g line dom s) (h_s : Keep o s) :
    Keep o (takeWback g line dom s) := by
  unfold takeWback
  try dsimp only
  repeat' with_reducible first
    | intro _ | assumption | apply removeL2_keep | apply badMessage_keep | apply ite_keep

theorem execWback_keep (gallery line s) (h_s : Keep o s) :
    KeepN o (execWback gallery line s) := by
  unfold execWback
  try dsimp only
  repeat' with_reducible first
    | intro _ | assumption | apply arrive_keep | apply admitWaiting_keep | apply takeWback_keep | apply within_keep

theorem takeAck_keep (g line dom s) (h_s : Keep o s) :
    Keep o (takeAck g line dom s) := by
  unfold takeAck
  try dsimp only
  repeat' with_reducible first
    | intro _ | assumption | apply serveQueue_keep | apply closeTx_keep | apply badMessage_keep | apply ite_keep
    | apply ite_keep1 | refine keep_of_some (by assumption) ?_ | split

theorem execAck_keep (gallery line s) (h_s : Keep o s) :
    KeepN o (execAck gallery line s) := by
  unfold execAck
  try dsimp only
  repeat' with_reducible first
    | intro _ | assumption | apply arrive_keep | apply admitWaiting_keep | apply takeAck_keep | apply within_keep

theorem execTransactionWatchdog_keep (line s) (h_s : Keep o s) :
    KeepN o (execTransactionWatchdog line s) := by
  unfold execTransactionWatchdog
  try dsimp only
  repeat' with_reducible first
    | assumption | apply within_keep | apply domainDown_keep | apply next_keep | apply fault_keep | split

theorem execLrSnoopHoldEnd_keep (gallery line s) (h_s : Keep o s) :
    KeepN o (execLrSnoopHoldEnd gallery line s) := by
  unfold execLrSnoopHoldEnd
  try dsimp only
  repeat' with_reducible first
    | apply Keep.decom | intro _ | assumption | apply admitWaiting_keep | apply within_keep
    | (simp only [keep_mk_iff]; refine ⟨fun _ => ⟨?_, ?_⟩, ?_, ?_, ?_, ?_⟩) | apply Keep.obj ‹Canon _›
    | apply Keep.mem ‹Canon _› | apply Keep.queue | apply Keep.free | apply Keep.sent

theorem endVictims_keep (p s) (h_s : Keep o s) :
    Keep o (endVictims p s) := by
  unfold endVictims
  try dsimp only
  repeat' with_reducible first
    | intro _ | assumption | apply forAll_keep | apply advanceTx_keep | apply setTx_keep
    | refine keep_of_some (by assumption) ?_ | split

theorem clearPhase_keep (p s) (h_s : Keep o s) :
    Keep o (clearPhase p s) := by
  unfold clearPhase
  try dsimp only
  repeat' with_reducible first
    | intro _ | assumption | apply clearDomain_keep | apply endVictims_keep

/-! Machine/Archive.lean -/

theorem setFrame_keep (k f s) (h_s : Keep o s) :
    Keep o (setFrame k f s) := by
  unfold setFrame
  try dsimp only
  repeat' with_reducible first
    | intro _ | assumption | apply ite_keep | (simp only [keep_mk_iff]; refine ⟨fun _ => ⟨?_, ?_⟩, ?_, ?_, ?_, ?_⟩)
    | apply Keep.obj ‹Canon _› | apply Keep.mem ‹Canon _› | apply Keep.queue | apply Keep.free | apply Keep.sent
    | apply Keep.decom

theorem setSlot_keep (key x s) (h_s : Keep o s) :
    Keep o (setSlot key x s) := by
  unfold setSlot
  try dsimp only
  repeat' with_reducible first
    | intro _ | assumption | apply setFrame_keep

theorem startDrain_keep (k s) (h_s : Keep o s) :
    Keep o (startDrain k s) := by
  unfold startDrain
  try dsimp only
  repeat' with_reducible first
    | assumption | apply setFrame_keep | apply ite_keep

theorem setCmd_keep (c m s) (h_s : Keep o s) :
    Keep o (setCmd c m s) := by
  unfold setCmd
  try dsimp only
  repeat' with_reducible first
    | assumption | apply setChan_keep

theorem stopChannel_keep (c code s) (h_s : Keep o s) :
    Keep o (stopChannel c code s) := by
  unfold stopChannel
  try dsimp only
  repeat' with_reducible first
    | intro _ | assumption | apply record_keep | apply setO_keep | apply dropWaiters_keep

theorem pushRecord_keep (c id bytes s) (h_s : Keep o s) :
    Keep o (pushRecord c id bytes s) := by
  unfold pushRecord
  try dsimp only
  repeat' with_reducible first
    | intro _ | assumption | apply stopChannel_keep | apply post_keep | apply onlyIf_keep | apply afterPost_keep
    | apply ite_keep

theorem endCmd_keep (c m status badLba s) (h_s : Keep o s) :
    Keep o (endCmd c m status badLba s) := by
  unfold endCmd
  try dsimp only
  repeat' with_reducible first
    | assumption | apply releaseGrants_keep | apply addO_keep | apply setChan_keep | apply pushRecord_keep

theorem advanceD_keep (c n s) (h_s : Keep o s) : Keep o (advanceD c n s) := by
  induction n generalizing s with
  | zero => exact h_s
  | succ n ih =>
    unfold advanceD
    exact ite_keep (ih _ (setChan_keep _ _ _ h_s)) h_s

theorem makeFrame_keep (d s) (h_s : Keep o s) :
    Keep o (makeFrame d s) := by
  unfold makeFrame
  try dsimp only
  repeat' with_reducible first
    | assumption | apply startDrain_keep | apply ite_keep | split

theorem giveGrant_keep (c m s) (h_s : Keep o s) :
    Keep o (giveGrant c m s) := by
  unfold giveGrant
  try dsimp only
  repeat' with_reducible first
    | intro _ | assumption | apply forAll_keep | apply setSlot_keep | apply setCmd_keep

theorem enterSector_keep (c seq key d s) (h_s : Keep o s) :
    Keep o (enterSector c seq key d s) := by
  unfold enterSector
  try dsimp only
  repeat' with_reducible first
    | intro _ | assumption | apply onlyIf_keep | apply addO_keep | apply setSlot_keep

theorem drainFull_keep (key s) (h_s : Keep o s) :
    Keep o (drainFull key s) := by
  unfold drainFull
  try dsimp only
  repeat' with_reducible first
    | intro _ | assumption | apply onlyIf_keep | apply startDrain_keep

theorem enterNext_keep (c seq d s) (h_s : Keep o s) :
    Keep o (enterNext c seq d s) := by
  unfold enterNext
  try dsimp only
  repeat' with_reducible first
    | assumption | apply drainFull_keep | apply setCmd_keep | apply enterSector_keep | split

theorem badSector_keep (key s) (h_s : Keep o s) :
    Keep o (badSector key s).1 := by
  unfold badSector
  try dsimp only
  repeat' with_reducible first
    | assumption | apply countHit_keep | apply addO_keep | apply record_keep

theorem poisonDest_keep (a s) (h_s : Keep o s) :
    Keep o (poisonDest a s) := by
  unfold poisonDest
  try dsimp only
  repeat' with_reducible first
    | intro _ | assumption | apply forAll_keep | apply ctlPoison_keep

theorem discardFrames_keep (d s) (h_s : Keep o s) :
    Keep o (discardFrames d s) := by
  unfold discardFrames
  try dsimp only
  repeat' with_reducible first
    | intro _ | assumption | apply forAll_keep | apply setChan_keep | apply onlyIf_keep | apply record_keep
    | apply ite_keep | apply rising_filter | apply foldl_keep | apply foldl_keep1
    | (simp only [keep_mk_iff]; refine ⟨fun _ => ⟨?_, ?_⟩, ?_, ?_, ?_, ?_⟩) | apply Keep.obj ‹Canon _›
    | apply Keep.mem ‹Canon _› | apply Keep.queue | apply Keep.free | apply Keep.sent | apply Keep.decom

theorem leaveCopy_keep (d s) (h_s : Keep o s) :
    Keep o (leaveCopy d s) := by
  unfold leaveCopy
  try dsimp only
  repeat' with_reducible first
    | apply Keep.decom | intro _ | assumption | apply ite_keep | apply ite_keep1
    | (simp only [keep_mk_iff]; refine ⟨fun _ => ⟨?_, ?_⟩, ?_, ?_, ?_, ?_⟩) | apply Keep.obj ‹Canon _›
    | apply Keep.mem ‹Canon _› | apply Keep.queue | apply Keep.free | apply Keep.sent

theorem renewCopy_keep (d s) (h_s : Keep o s) :
    Keep o (renewCopy d s) := by
  unfold renewCopy
  try dsimp only
  repeat' with_reducible first
    | apply Keep.decom | intro _ | assumption
    | (simp only [keep_mk_iff]; refine ⟨fun _ => ⟨?_, ?_⟩, ?_, ?_, ?_, ?_⟩) | apply Keep.obj ‹Canon _›
    | apply Keep.mem ‹Canon _› | apply Keep.queue | apply Keep.free | apply Keep.sent

theorem loadCopy_keep (x s) (h_s : Keep o s) : Keep o (loadCopy x s) := by
  have key : ∀ (l : List (Nat × Nat)) (t : List (Nat × Nat)), rising 0 t = true →
      rising 0 (l.foldl (fun l e => tblInsert l e.1 e.2) t) = true := by
    intro l
    induction l with
    | nil => exact fun _ h => h
    | cons e l ih => exact fun t h => ih _ (rising_insert _ _ _ _ (Nat.zero_le _) h)
  exact ⟨fun c => ⟨key _ _ (rising_filter _ _ _ (h_s.canon c).obj), good_mk (h_s.canon c).mem⟩, h_s.queue, h_s.free, h_s.sent,
    h_s.decom⟩

theorem endDieCommands_keep (d s) (h_s : Keep o s) :
    Keep o (endDieCommands d s) := by
  unfold endDieCommands
  try dsimp only
  repeat' with_reducible first
    | intro _ | assumption | apply onlyIf_keep | apply forAll_keep | apply endCmd_keep | apply ite_keep

theorem retireDie_keep (d s) (h_s : Keep o s) :
    Keep o (retireDie d s) := by
  unfold retireDie
  try dsimp only
  repeat' with_reducible first
    | apply Keep.decom | intro _ | assumption | apply discardFrames_keep | apply endDieCommands_keep
    | apply setO_keep | apply leaveCopy_keep | apply record_keep | apply onlyIf_keep | apply enterLimp_keep
    | apply ite_keep | apply ite_keep1 | (simp only [keep_mk_iff]; refine ⟨fun _ => ⟨?_, ?_⟩, ?_, ?_, ?_, ?_⟩)
    | apply Keep.obj ‹Canon _› | apply Keep.mem ‹Canon _› | apply Keep.queue | apply Keep.free | apply Keep.sent

theorem spoilSector_keep (key s) (h_s : Keep o s) :
    Keep o (spoilSector key s) := by
  unfold spoilSector
  try dsimp only
  repeat' with_reducible first
    | apply Keep.decom | intro _ | assumption
    | (simp only [keep_mk_iff]; refine ⟨fun _ => ⟨?_, ?_⟩, ?_, ?_, ?_, ?_⟩) | apply Keep.obj ‹Canon _›
    | apply Keep.mem ‹Canon _› | apply Keep.queue | apply Keep.free | apply Keep.sent

theorem fixedSector_keep (key s) (h_s : Keep o s) :
    Keep o (fixedSector key s) := by
  unfold fixedSector
  try dsimp only
  repeat' with_reducible first
    | intro _ | assumption | apply record_keep | apply addO_keep

theorem retireFrame_keep (k s) (h_s : Keep o s) :
    Keep o (retireFrame k s) := by
  unfold retireFrame
  try dsimp only
  repeat' with_reducible first
    | assumption | apply record_keep | apply ite_keep
    | (simp only [keep_mk_iff]; refine ⟨fun _ => ⟨?_, ?_⟩, ?_, ?_, ?_, ?_⟩) | apply Keep.obj ‹Canon _›
    | apply Keep.mem ‹Canon _› | apply Keep.queue | apply Keep.free | apply Keep.sent | apply Keep.decom

theorem endLostCommand_keep (key c seq s) (h_s : Keep o s) :
    Keep o (endLostCommand key c seq s) := by
  unfold endLostCommand
  try dsimp only
  repeat' with_reducible first
    | assumption | apply endCmd_keep | split

theorem slotLost_keep (k i s) (h_s : Keep o s) :
    Keep o (slotLost k i s) := by
  unfold slotLost
  try dsimp only
  repeat' with_reducible first
    | intro _ | assumption | apply onlyIf_keep | apply retireFrame_keep | apply forAll_keep
    | apply endLostCommand_keep | apply record_keep | apply setSlot_keep | apply countHit_keep

theorem readSector_keep (key light bad s) (h_s : Keep o s) :
    Keep o (readSector key light bad s) := by
  unfold readSector
  try dsimp only
  repeat' with_reducible first
    | intro _ | assumption | apply slotLost_keep | apply onlyIf_keep | apply record_keep | apply spoilSector_keep
    | apply fixedSector_keep | apply ite_keep

theorem readFrame_keep (k corrected uncorrectable s) (h_s : Keep o s) :
    Keep o (readFrame k corrected uncorrectable s) := by
  unfold readFrame
  try dsimp only
  repeat' with_reducible first
    | intro _ | assumption | apply forAll_keep | apply readSector_keep | apply badSector_keep | apply onlyIf_keep
    | apply retireDie_keep | apply ite_keep

theorem performRead_keep (c m s) (h_s : Keep o s) :
    Keep o (performRead c m s) := by
  unfold performRead
  try dsimp only
  repeat' with_reducible first
    | intro _ | assumption | apply endCmd_keep | apply forAll_keep | apply readSector_keep | apply poisonDest_keep
    | apply badSector_keep | apply ioWrite_keep | apply onlyIf_keep | apply retireDie_keep | apply foldl_keep
    | apply foldl_keep1 | apply getD_keep | apply ite_keep | apply ite_keep1
    | refine keep_of_pair (by assumption) ?_ | refine keep_of_some (by assumption) ?_ | split

theorem cmdStep_keep (s c x m) (h_s : Keep o s) :
    KeepO o (cmdStep s c x m) := by
  unfold cmdStep
  try dsimp only
  repeat' with_reducible first
    | intro _ | assumption | apply performRead_keep | apply endCmd_keep | apply forAll_keep | apply startDrain_keep
    | apply some_keep | apply none_keep | apply ite_keepO | apply ite_keep | apply ite_keep1 | split

theorem zeroStep_keep (s d) (h_s : Keep o s) :
    KeepO o (zeroStep s d) := by
  unfold zeroStep
  try dsimp only
  repeat' with_reducible first
    | intro _ | assumption | apply forAll_keep | apply enterNext_keep | apply giveGrant_keep | apply ite_keep
    | apply ite_keepO | apply some_keep | apply none_keep | split

theorem openStep_keep (s) (h_s : Keep o s) : KeepO o (openStep s) :=
  findSome_keepO fun _ => findSome_keepO fun _ => cmdStep_keep _ _ _ _ h_s

theorem goOn_keep (n s) (h_s : Keep o s) : Keep o (goOn n s) := by
  induction n generalizing s with
  | zero => exact h_s
  | succ n ih =>
    unfold goOn
    split
    · rename_i e
      exact ih _ (openStep_keep _ h_s _ e)
    · split
      · rename_i e
        obtain ⟨d, _, e⟩ := List.exists_of_findSome?_eq_some e
        exact ih _ (zeroStep_keep _ _ h_s _ e)
      · exact h_s

theorem wantFrame_keep (d s) (h_s : Keep o s) :
    Keep o (wantFrame d s) := by
  unfold wantFrame
  try dsimp only
  repeat' with_reducible first
    | intro _ | assumption | apply onlyIf_keep | apply makeFrame_keep | split

theorem checkTarget_keep (c s) (h_s : Keep o s) :
    Keep o (checkTarget c s) := by
  unfold checkTarget
  try dsimp only
  repeat' with_reducible first
    | intro _ | assumption | apply onlyIf_keep | apply stopChannel_keep

theorem settle_keep (s) (h_s : Keep o s) :
    Keep o (settle s) := by
  unfold settle
  try dsimp only
  repeat' with_reducible first
    | intro _ | assumption | apply forAll_keep | apply checkTarget_keep | apply onlyIf_keep | apply wantFrame_keep
    | apply goOn_keep | apply advanceD_keep

theorem takePacket_keep (c s) (h_s : Keep o s) :
    Keep o (takePacket c s) := by
  unfold takePacket
  try dsimp only
  repeat' with_reducible first
    | assumption | apply setChan_keep

theorem takeCommand_keep (c b light bad s) (h_s : Keep o s) :
    Keep o (takeCommand c b light bad s) := by
  unfold takeCommand
  try dsimp only
  repeat' with_reducible first
    | intro _ | assumption | apply stopChannel_keep | apply setO_keep | apply takePacket_keep | apply setChan_keep
    | apply endCmd_keep | apply ite_keep

theorem enterData_keep (c seq src n k s) (h_s : Keep o s) : Keep o (enterData c seq src n k s) := by
  induction k generalizing s with
  | zero => exact h_s
  | succ k ih =>
    unfold enterData
    dsimp only
    have h1 : Keep o (ioRead (src + 512 * (n - (k + 1))) 512 s).1 := ioRead_keep _ _ _ h_s
    have h2 : Keep o (forAll (ioRead (src + 512 * (n - (k + 1))) 512 s).2.2
        (fun w s => consumeRecord (8 * w.1) w.2 0xFFFF 4 (channelOwner s c) s) (ioRead (src + 512 * (n - (k + 1))) 512 s).1) :=
      forAll_keep (fun _ _ h => consumeRecord_keep _ _ _ _ _ _ h) h1
    refine ite_keep (ih _ (enterNext_keep _ _ _ _ h1)) ?_
    split
    · exact endCmd_keep _ _ _ _ _ h2
    · exact h2

theorem takeData_keep (c b s) (h_s : Keep o s) :
    Keep o (takeData c b s) := by
  unfold takeData
  try dsimp only
  repeat' with_reducible first
    | intro _ | assumption | apply stopChannel_keep | apply takePacket_keep | apply finishPacket_keep
    | apply endCmd_keep | apply enterData_keep | apply ite_keep | apply ite_keep1
    | refine keep_of_some (by assumption) ?_ | split

theorem takeQuery_keep (c b s) (h_s : Keep o s) :
    Keep o (takeQuery c b s) := by
  unfold takeQuery
  try dsimp only
  repeat' with_reducible first
    | assumption | apply pushRecord_keep | apply takePacket_keep

theorem archiveTake_keep (own c light bad s) (h_s : Keep o s) :
    Keep o (archiveTake own c light bad s) := by
  unfold archiveTake
  try dsimp only
  repeat' with_reducible first
    | intro _ | assumption | apply ioRead_keep | apply stopChannel_keep | apply settle_keep | apply takeData_keep
    | apply takeQuery_keep | apply takeCommand_keep | apply ite_keep

theorem execArchiveWrite_keep (channel s) (h_s : Keep o s) :
    KeepN o (execArchiveWrite channel s) := by
  unfold execArchiveWrite
  try dsimp only
  repeat' with_reducible first
    | intro _ | assumption | apply archiveTake_keep | apply within_keep

theorem execArchiveRead_keep (channel light bad s) (h_s : Keep o s) :
    KeepN o (execArchiveRead channel light bad s) := by
  unfold execArchiveRead
  try dsimp only
  repeat' with_reducible first
    | intro _ | assumption | apply archiveTake_keep | apply within_keep

theorem execArchiveFlush_keep (channel s) (h_s : Keep o s) :
    KeepN o (execArchiveFlush channel s) := by
  unfold execArchiveFlush
  try dsimp only
  repeat' with_reducible first
    | intro _ | assumption | apply archiveTake_keep | apply within_keep

theorem execArchiveZero_keep (channel s) (h_s : Keep o s) :
    KeepN o (execArchiveZero channel s) := by
  unfold execArchiveZero
  try dsimp only
  repeat' with_reducible first
    | intro _ | assumption | apply archiveTake_keep | apply within_keep

theorem execArchiveData_keep (channel s) (h_s : Keep o s) :
    KeepN o (execArchiveData channel s) := by
  unfold execArchiveData
  try dsimp only
  repeat' with_reducible first
    | intro _ | assumption | apply archiveTake_keep | apply within_keep

theorem execArchiveQuery_keep (channel s) (h_s : Keep o s) :
    KeepN o (execArchiveQuery channel s) := by
  unfold execArchiveQuery
  try dsimp only
  repeat' with_reducible first
    | intro _ | assumption | apply archiveTake_keep | apply within_keep

theorem execTransferReady_keep (channel s) (h_s : Keep o s) :
    KeepN o (execTransferReady channel s) := by
  unfold execTransferReady
  try dsimp only
  repeat' with_reducible first
    | assumption | apply within_keep | apply settle_keep | apply pushRecord_keep | apply giveGrant_keep
    | apply ite_keep | apply ite_keepN | apply next_keep | apply fault_keep | split

theorem execGrantTimeout_keep (channel seq s) (h_s : Keep o s) :
    KeepN o (execGrantTimeout channel seq s) := by
  unfold execGrantTimeout
  try dsimp only
  repeat' with_reducible first
    | assumption | apply within_keep | apply settle_keep | apply endCmd_keep | apply ite_keep | apply ite_keepN
    | apply next_keep | apply fault_keep | split

theorem execDrainAgeExpiry_keep (die unit s) (h_s : Keep o s) :
    KeepN o (execDrainAgeExpiry die unit s) := by
  unfold execDrainAgeExpiry
  try dsimp only
  repeat' with_reducible first
    | assumption | apply within_keep | apply startDrain_keep | apply ite_keep | apply ite_keepN | apply next_keep
    | apply fault_keep | split

theorem dropWaits_keep (keys s) (h_s : Keep o s) :
    Keep o (dropWaits keys s) := by
  unfold dropWaits
  try dsimp only
  repeat' with_reducible first
    | intro _ | assumption | apply forAll_keep | apply onlyIf_keep | apply setChan_keep

theorem programUnit_keep (k s) (h_s : Keep o s) :
    Keep o (programUnit k s) := by
  unfold programUnit
  try dsimp only
  repeat' with_reducible first
    | apply Keep.decom | intro _ | assumption | apply setFrame_keep | apply addO_keep | apply dropWaits_keep
    | apply foldl_keep | apply foldl_keep1 | (simp only [keep_mk_iff]; refine ⟨fun _ => ⟨?_, ?_⟩, ?_, ?_, ?_, ?_⟩)
    | apply Keep.obj ‹Canon _› | apply Keep.mem ‹Canon _› | apply Keep.queue | apply Keep.free | apply Keep.sent

theorem commitD_keep (c s) (h_s : Keep o s) :
    Keep o (commitD c s) := by
  unfold commitD
  try dsimp only
  repeat' with_reducible first
    | intro _ | assumption | apply onlyIf_keep | apply setO_keep

theorem commitAll_keep (s) (h_s : Keep o s) :
    Keep o (commitAll s) := by
  unfold commitAll
  try dsimp only
  repeat' with_reducible first
    | intro _ | assumption | apply forAll_keep | apply commitD_keep

theorem execUnitProgramComplete_keep (die unit corrected uncorrectable s) (h_s : Keep o s) :
    KeepN o (execUnitProgramComplete die unit corrected uncorrectable s) := by
  unfold execUnitProgramComplete
  try dsimp only
  repeat' with_reducible first
    | intro _ | assumption | apply commitAll_keep | apply settle_keep | apply programUnit_keep
    | apply readFrame_keep | apply corrected_keep | apply uncorrectable_keep | apply within_keep | apply ite_keepN
    | apply ite_keep

theorem drainFrame_keep (found k s) (h_s : Keep o s) :
    Keep o (drainFrame found k s) := by
  unfold drainFrame
  try dsimp only
  repeat' with_reducible first
    | intro _ | assumption | apply onlyIf_keep | apply programUnit_keep | apply readFrame_keep

theorem drainAll_keep (found s) (h_s : Keep o s) :
    Keep o (drainAll found s) := by
  unfold drainAll
  try dsimp only
  repeat' with_reducible first
    | intro _ | assumption | apply forAll_keep | apply drainFrame_keep

theorem advanceAll_keep (s) (h_s : Keep o s) :
    Keep o (advanceAll s) := by
  unfold advanceAll
  try dsimp only
  repeat' with_reducible first
    | intro _ | assumption | apply forAll_keep | apply advanceD_keep

theorem drainCommit_keep (found s) (h_s : Keep o s) :
    Keep o (drainCommit found s) := by
  unfold drainCommit
  try dsimp only
  repeat' with_reducible first
    | intro _ | assumption | apply commitAll_keep | apply advanceAll_keep | apply drainAll_keep

theorem execDurableSequenceCommit_keep (channel s) (h_s : Keep o s) :
    KeepN o (execDurableSequenceCommit channel s) := by
  unfold execDurableSequenceCommit
  try dsimp only
  repeat' with_reducible first
    | assumption | apply within_keep | apply commitD_keep | apply ite_keep

theorem scanAdvance_keep (d s) (h_s : Keep o s) :
    Keep o (scanAdvance d s) := by
  unfold scanAdvance
  try dsimp only
  repeat' with_reducible first
    | apply Keep.decom | intro _ | assumption | apply setO_keep | apply ite_keep | apply ite_keep1
    | (simp only [keep_mk_iff]; refine ⟨fun _ => ⟨?_, ?_⟩, ?_, ?_, ?_, ?_⟩) | apply Keep.obj ‹Canon _›
    | apply Keep.mem ‹Canon _› | apply Keep.queue | apply Keep.free | apply Keep.sent

theorem scanBad_keep (key s) (h_s : Keep o s) :
    Keep o (scanBad key s) := by
  unfold scanBad
  try dsimp only
  repeat' with_reducible first
    | intro _ | assumption | apply badSector_keep | apply spoilSector_keep | apply onlyIf_keep
    | apply retireDie_keep

theorem execMediumScan_keep (die light heavy uncorrectable s) (h_s : Keep o s) :
    KeepN o (execMediumScan die light heavy uncorrectable s) := by
  unfold execMediumScan
  try dsimp only
  repeat' with_reducible first
    | intro _ | assumption | apply forAll_keep | apply fixedSector_keep | apply scanAdvance_keep | apply onlyIf_keep
    | apply addO_keep | apply settle_keep | apply scanBad_keep | apply within_keep | apply ite_keepN
    | apply ite_keep

theorem dieUnavailable_keep (d s) (h_s : Keep o s) :
    Keep o (dieUnavailable d s) := by
  unfold dieUnavailable
  try dsimp only
  repeat' with_reducible first
    | apply Keep.decom | intro _ | assumption | apply countHit_keep | apply endDieCommands_keep | apply setO_keep
    | apply leaveCopy_keep | apply onlyIf_keep | apply retireDie_keep | apply ite_keep | apply ite_keep1
    | refine keep_of_pair (by assumption) ?_ | split
    | (simp only [keep_mk_iff]; refine ⟨fun _ => ⟨?_, ?_⟩, ?_, ?_, ?_, ?_⟩) | apply Keep.obj ‹Canon _›
    | apply Keep.mem ‹Canon _› | apply Keep.queue | apply Keep.free | apply Keep.sent

theorem execArchiveDieUnavailable_keep (die s) (h_s : Keep o s) :
    KeepN o (execArchiveDieUnavailable die s) := by
  unfold execArchiveDieUnavailable
  try dsimp only
  repeat' with_reducible first
    | assumption | apply within_keep | apply settle_keep | apply dieUnavailable_keep | apply ite_keep

theorem dieBack_keep (d s) (h_s : Keep o s) :
    Keep o (dieBack d s) := by
  unfold dieBack
  try dsimp only
  repeat' with_reducible first
    | intro _ | assumption | apply settle_keep | apply setO_keep | apply renewCopy_keep | apply onlyIf_keep
    | apply discardFrames_keep | apply forAll_keep | apply startDrain_keep | apply ite_keep

theorem execArchiveDieLossTimeout_keep (die s) (h_s : Keep o s) :
    KeepN o (execArchiveDieLossTimeout die s) := by
  unfold execArchiveDieLossTimeout
  try dsimp only
  repeat' with_reducible first
    | assumption | apply within_keep | apply settle_keep | apply discardFrames_keep | apply ite_keep

theorem ruleClearArchive_keep (s0) (h_s0 : Keep o s0) :
    Keep o (ruleClearArchive s0).1 := by
  unfold ruleClearArchive
  try dsimp only
  repeat' with_reducible first
    | assumption | apply refused_keep | apply actionDone_keep | apply ite_keep | apply ite_keep1
    | apply ite_rule_keep | (simp only [keep_mk_iff]; refine ⟨fun _ => ⟨?_, ?_⟩, ?_, ?_, ?_, ?_⟩)
    | apply Keep.obj ‹Canon _› | apply Keep.mem ‹Canon _› | apply Keep.queue | apply Keep.free | apply Keep.sent
    | apply Keep.decom

theorem execClearArchiveRetirements_keep (who value s) (h_s : Keep o s) :
    KeepN o (execClearArchiveRetirements who value s) := by
  unfold execClearArchiveRetirements
  try dsimp only
  repeat' with_reducible first
    | intro _ | assumption | apply served_keep | apply ruleClearArchive_keep | apply next_keep

theorem returnDies_keep (s) (h_s : Keep o s) :
    Keep o (returnDies s) := by
  unfold returnDies
  try dsimp only
  repeat' with_reducible first
    | intro _ | assumption | apply forAll_keep | apply onlyIf_keep | apply setO_keep | apply renewCopy_keep

theorem ruleChannelReset_keep (c s0) (h_s0 : Keep o s0) :
    Keep o (ruleChannelReset c s0).1 := by
  unfold ruleChannelReset
  try dsimp only
  repeat' with_reducible first
    | intro _ | assumption | apply actionDone_keep | apply onlyIf_keep | apply settle_keep | apply chanReset_keep

theorem execArchiveChannelReset_keep (who channel value s) (h_s : Keep o s) :
    KeepN o (execArchiveChannelReset who channel value s) := by
  unfold execArchiveChannelReset
  try dsimp only
  repeat' with_reducible first
    | intro _ | assumption | apply within_keep | apply served_keep | apply ruleChannelReset_keep

theorem channelOff_keep (c s) (h_s : Keep o s) :
    Keep o (channelOff c s) := by
  unfold channelOff
  try dsimp only
  repeat' with_reducible first
    | intro _ | assumption | apply settle_keep | apply setO_keep | apply chanReset_keep

theorem ruleChannelEnable_keep (c value s0) (h_s0 : Keep o s0) :
    Keep o (ruleChannelEnable c value s0).1 := by
  unfold ruleChannelEnable
  try dsimp only
  repeat' with_reducible first
    | intro _ | assumption | apply answered_keep | apply setO_keep | apply setChan_keep | apply refused_keep
    | apply channelOff_keep | apply runAll_cons_keep | apply runAll_nil_keep | apply ite_keep1

theorem execArchiveChannelEnable_keep (who channel value s) (h_s : Keep o s) :
    KeepN o (execArchiveChannelEnable who channel value s) := by
  unfold execArchiveChannelEnable
  try dsimp only
  repeat' with_reducible first
    | intro _ | assumption | apply within_keep | apply served_keep | apply ruleChannelEnable_keep

theorem ruleChannelConfig_keep (c sub value s0) (h_s0 : Keep o s0) :
    Keep o (ruleChannelConfig c sub value s0).1 := by
  unfold ruleChannelConfig
  try dsimp only
  repeat' with_reducible first
    | assumption | apply refusedBusy_keep | apply answered_keep | apply setO_keep | apply ite_keep | apply ite_keep1

theorem ruleNsConfig_keep (n sub value s0) (h_s0 : Keep o s0) :
    Keep o (ruleNsConfig n sub value s0).1 := by
  unfold ruleNsConfig
  try dsimp only
  repeat' with_reducible first
    | intro _ | assumption | apply refusedBusy_keep | apply answered_keep | apply setO_keep | apply ite_keep1

theorem resetChannels_keep (s) (h_s : Keep o s) :
    Keep o (resetChannels s) := by
  unfold resetChannels
  try dsimp only
  repeat' with_reducible first
    | intro _ | assumption | apply forAll_keep | apply chanReset_keep

theorem loseResults_keep (s) (h_s : Keep o s) :
    Keep o (loseResults s) := by
  unfold loseResults
  try dsimp only
  repeat' with_reducible first
    | intro _ | assumption | apply forAll_keep | apply setChan_keep

theorem drainLost_keep (s) (h_s : Keep o s) :
    Keep o (drainLost s) := by
  unfold drainLost
  try dsimp only
  repeat' with_reducible first
    | apply Keep.decom | intro _ | assumption | apply setO_keep
    | (simp only [keep_mk_iff]; refine ⟨fun _ => ⟨?_, ?_⟩, ?_, ?_, ?_, ?_⟩) | apply Keep.obj ‹Canon _›
    | apply Keep.mem ‹Canon _› | apply Keep.queue | apply Keep.free | apply Keep.sent

theorem powerFailDrain_keep (found s) (h_s : Keep o s) :
    Keep o (powerFailDrain found s) := by
  unfold powerFailDrain
  try dsimp only
  repeat' with_reducible first
    | intro _ | assumption | apply setO_keep | apply resetChannels_keep | apply forAll_keep | apply onlyIf_keep
    | apply discardFrames_keep | apply drainAll_keep | apply takeFree_keep | apply commitAll_keep
    | apply advanceAll_keep | apply drainLost_keep | apply addO_keep | apply runAll_cons_keep
    | apply runAll_nil_keep

theorem brokenDrain_keep (found units s) (h_s : Keep o s) :
    Keep o (brokenDrain found units s) := by
  unfold brokenDrain
  try dsimp only
  repeat' with_reducible first
    | intro _ | assumption | apply drainLost_keep | apply forAll_keep | apply drainFrame_keep
    | apply resetChannels_keep

/-! Machine/Mosaic.lean -/

theorem setRing_keep (r x s) (h_s : Keep o s) :
    Keep o (setRing r x s) := by
  unfold setRing
  try dsimp only
  repeat' with_reducible first
    | intro _ | assumption | (simp only [keep_mk_iff]; refine ⟨fun _ => ⟨?_, ?_⟩, ?_, ?_, ?_, ?_⟩)
    | apply Keep.obj ‹Canon _› | apply Keep.mem ‹Canon _› | apply Keep.queue | apply Keep.free | apply Keep.sent
    | apply Keep.decom

theorem setCtx_keep (c x s) (h_s : Keep o s) :
    Keep o (setCtx c x s) := by
  unfold setCtx
  try dsimp only
  repeat' with_reducible first
    | intro _ | assumption | (simp only [keep_mk_iff]; refine ⟨fun _ => ⟨?_, ?_⟩, ?_, ?_, ?_, ?_⟩)
    | apply Keep.obj ‹Canon _› | apply Keep.mem ‹Canon _› | apply Keep.queue | apply Keep.free | apply Keep.sent
    | apply Keep.decom

theorem depositWrite_keep (r a bytes s) (h_s : Keep o s) :
    Keep o (depositWrite r a bytes s).1 := by
  unfold depositWrite
  try dsimp only
  repeat' with_reducible first
    | intro _ | assumption | apply ctlWrite_keep | apply foldl_keep | apply foldl_keep1 | apply ite_keep1

theorem setLine_keep (r h s) (h_s : Keep o s) :
    Keep o (setLine r h s) := by
  unfold setLine
  try dsimp only
  repeat' with_reducible first
    | assumption | apply setRing_keep

theorem lineFailed_keep (r h addr s) (h_s : Keep o s) :
    Keep o (lineFailed r h addr s) := by
  unfold lineFailed
  try dsimp only
  repeat' with_reducible first
    | intro _ | assumption | apply onlyIf_keep | apply record_keep | apply setLine_keep
    | refine keep_of_some (by assumption) ?_ | split

theorem sealFailed_keep (r h addr s) (h_s : Keep o s) :
    Keep o (sealFailed r h addr s) := by
  unfold sealFailed
  try dsimp only
  repeat' with_reducible first
    | intro _ | assumption | apply record_keep | apply setLine_keep | refine keep_of_some (by assumption) ?_ | split

theorem openLine_keep (r t s) (h_s : Keep o s) :
    Keep o (openLine r t s) := by
  unfold openLine
  try dsimp only
  repeat' with_reducible first
    | intro _ | assumption | apply addO_keep | apply setRing_keep | apply setO_keep | apply subO_keep
    | apply depositWrite_keep | apply sealFailed_keep | apply runAll_cons_keep | apply runAll_nil_keep
    | apply ite_keep

theorem openLines_keep (program t s) (h_s : Keep o s) :
    Keep o (openLines program t s) := by
  unfold openLines
  try dsimp only
  repeat' with_reducible first
    | intro _ | assumption | apply forAll_keep | apply openLine_keep | apply ite_keep

theorem meetSeal_keep (r k cause s) (h_s : Keep o s) :
    Keep o (meetSeal r k cause s) := by
  unfold meetSeal
  try dsimp only
  repeat' with_reducible first
    | assumption | apply setLine_keep | apply ite_keep | split

theorem fillMember_keep (r k m s) (h_s : Keep o s) :
    Keep o (fillMember r k m s) := by
  unfold fillMember
  try dsimp only
  repeat' with_reducible first
    | intro _ | assumption | apply forAll_keep | apply depositWrite_keep | apply setLine_keep
    | apply lineFailed_keep | refine keep_of_pair (by assumption) ?_ | refine keep_of_some (by assumption) ?_
    | split

theorem countPieces_keep (h s) (h_s : Keep o s) :
    Keep o (countPieces h s) := by
  unfold countPieces
  try dsimp only
  repeat' with_reducible first
    | intro _ | assumption | apply forAll_keep | apply addO_keep | apply ite_keep | apply ite_keep1
    | refine keep_of_some (by assumption) ?_ | split

theorem writeSeal_keep (r h s) (h_s : Keep o s) :
    Keep o (writeSeal r h s) := by
  unfold writeSeal
  try dsimp only
  repeat' with_reducible first
    | apply Keep.decom | intro _ | assumption | apply depositWrite_keep | apply setLine_keep | apply sealFailed_keep
    | apply countPieces_keep | apply setO_keep | apply setRing_keep | apply post_keep
    | refine keep_of_pair (by assumption) ?_ | refine keep_of_some (by assumption) ?_ | split
    | (simp only [keep_mk_iff]; refine ⟨fun _ => ⟨?_, ?_⟩, ?_, ?_, ?_, ?_⟩) | apply Keep.obj ‹Canon _›
    | apply Keep.mem ‹Canon _› | apply Keep.queue | apply Keep.free | apply Keep.sent

theorem sealNext_keep (r s) (h_s : Keep o s) :
    Keep o (sealNext r s) := by
  unfold sealNext
  try dsimp only
  repeat' with_reducible first
    | intro _ | assumption | apply onlyIf_keep | apply forAll_keep | apply fillMember_keep | apply pkgEvent_keep
    | apply writeSeal_keep | apply ite_keep | split

theorem sealAll_keep (r n s) (h_s : Keep o s) : Keep o (sealAll r n s) := by
  induction n generalizing s with
  | zero => exact h_s
  | succ n ih =>
    unfold sealAll
    split
    · exact ite_keep (ih _ (sealNext_keep _ _ h_s)) h_s
    · exact h_s

theorem ringWaits_keep (r s) (h_s : Keep o s) :
    Keep o (ringWaits r s) := by
  unfold ringWaits
  try dsimp only
  repeat' with_reducible first
    | intro _ | assumption | apply addO_keep | apply setQueue_keep | apply ite_keep

theorem returnSlot_keep (r k s) (h_s : Keep o s) :
    Keep o (returnSlot r k s) := by
  unfold returnSlot
  try dsimp only
  repeat' with_reducible first
    | intro _ | assumption | apply setO_keep | apply addO_keep | apply subO_keep | apply setRing_keep
    | apply runAll_cons_keep | apply runAll_nil_keep | apply getD_keep | split

theorem postNext_keep (r s) (h_s : Keep o s) :
    Keep o (postNext r s) := by
  unfold postNext
  try dsimp only
  repeat' with_reducible first
    | intro _ | assumption | apply postNow_keep | apply dropWaiting_keep | apply setRing_keep | apply post_keep
    | apply resumePosts_keep | apply returnSlot_keep | apply ringWaits_keep | apply addO_keep | apply ite_keep
    | apply ite_keep1 | refine keep_of_some (by assumption) ?_ | split

theorem latePacket_keep (r m k blockId opens s) (h_s : Keep o s) :
    Keep o (latePacket r m k blockId opens s) := by
  unfold latePacket
  try dsimp only
  repeat' with_reducible first
    | assumption | apply addO_keep | apply setRing_keep | apply ite_keep

/-! Machine/Hodometer.lean -/

theorem setEnc_keep (e x s) (h_s : Keep o s) :
    Keep o (setEnc e x s) := by
  unfold setEnc
  try dsimp only
  repeat' with_reducible first
    | intro _ | assumption | (simp only [keep_mk_iff]; refine ⟨fun _ => ⟨?_, ?_⟩, ?_, ?_, ?_, ?_⟩)
    | apply Keep.obj ‹Canon _› | apply Keep.mem ‹Canon _› | apply Keep.queue | apply Keep.free | apply Keep.sent
    | apply Keep.decom

theorem setProg_keep (n x s) (h_s : Keep o s) :
    Keep o (setProg n x s) := by
  unfold setProg
  try dsimp only
  repeat' with_reducible first
    | intro _ | assumption | (simp only [keep_mk_iff]; refine ⟨fun _ => ⟨?_, ?_⟩, ?_, ?_, ?_, ?_⟩)
    | apply Keep.obj ‹Canon _› | apply Keep.mem ‹Canon _› | apply Keep.queue | apply Keep.free | apply Keep.sent
    | apply Keep.decom

theorem showSpeed_keep (e s) (h_s : Keep o s) :
    Keep o (showSpeed e s) := by
  unfold showSpeed
  try dsimp only
  repeat' with_reducible first
    | assumption | apply setI_keep

theorem setProgState_keep (n st s) (h_s : Keep o s) :
    Keep o (setProgState n st s) := by
  unfold setProgState
  try dsimp only
  repeat' with_reducible first
    | assumption | apply fireSource_keep | apply setO_keep | apply ite_keep

theorem firePulse_keep (m instant s) (h_s : Keep o s) :
    Keep o (firePulse m instant s) := by
  unfold firePulse
  try dsimp only
  repeat' with_reducible first
    | intro _ | assumption | apply emit_keep | apply addO_keep
    | (simp only [keep_mk_iff]; refine ⟨fun _ => ⟨?_, ?_⟩, ?_, ?_, ?_, ?_⟩) | apply Keep.obj ‹Canon _›
    | apply Keep.mem ‹Canon _› | apply Keep.queue | apply Keep.free | apply Keep.sent | apply Keep.decom

theorem fireLane_keep (n t l s) (h_s : Keep o s) :
    Keep o (fireLane n t l s) := by
  unfold fireLane
  try dsimp only
  repeat' with_reducible first
    | intro _ | assumption | apply onlyIf_keep | apply setO_keep | apply pkgEvent_keep | apply emit_keep
    | apply addO_keep | apply ite_keep

theorem deliver_keep (n t s) (h_s : Keep o s) :
    Keep o (deliver n t s) := by
  unfold deliver
  try dsimp only
  repeat' with_reducible first
    | intro _ | assumption | apply forAll_keep | apply firePulse_keep | apply fireLane_keep | apply ite_keep

theorem fire_keep (n instant pos extrap s) (h_s : Keep o s) :
    Keep o (fire n instant pos extrap s) := by
  unfold fire
  try dsimp only
  repeat' with_reducible first
    | intro _ | assumption | apply setO_keep | apply addO_keep | apply onlyIf_keep | apply setProg_keep
    | apply openLines_keep | apply deliver_keep | apply setProgState_keep | apply runAll_cons_keep
    | apply runAll_nil_keep | apply ite_keep

theorem firePoint_keep (n instant extrap s) (h_s : Keep o s) :
    Keep o (firePoint n instant extrap s) := by
  unfold firePoint
  try dsimp only
  repeat' with_reducible first
    | assumption | apply fire_keep

theorem reindex_keep (n pos skip s) (h_s : Keep o s) :
    Keep o (reindex n pos skip s) := by
  unfold reindex
  try dsimp only
  repeat' with_reducible first
    | intro _ | assumption | apply onlyIf_keep | apply addO_keep | apply setO_keep | apply ite_keep

theorem crossPoints_keep (n pos edge prev k s) (h_s : Keep o s) : Keep o (crossPoints n pos edge prev k s) := by
  induction k generalizing s with
  | zero => exact h_s
  | succ k ih =>
    unfold crossPoints
    dsimp only
    repeat' with_reducible first
      | assumption | apply ih | apply ite_keep | apply firePoint_keep | apply setProg_keep | split

theorem meetPending_keep (n rising edge s) (h_s : Keep o s) :
    Keep o (meetPending n rising edge s) := by
  unfold meetPending
  try dsimp only
  repeat' with_reducible first
    | assumption | apply setProg_keep | apply firePoint_keep | apply ite_keep | split

theorem flushPending_keep (n due s) (h_s : Keep o s) :
    Keep o (flushPending n due s) := by
  unfold flushPending
  try dsimp only
  repeat' with_reducible first
    | intro _ | assumption | apply onlyIf_keep | apply firePoint_keep | apply setProg_keep
    | refine keep_of_some (by assumption) ?_ | split

theorem progMeets_keep (n rising edge s) (h_s : Keep o s) :
    Keep o (progMeets n rising edge s) := by
  unfold progMeets
  try dsimp only
  repeat' with_reducible first
    | intro _ | assumption | apply onlyIf_keep | apply meetPending_keep

theorem faultAction_keep (n e s) (h_s : Keep o s) :
    Keep o (faultAction n e s) := by
  unfold faultAction
  try dsimp only
  repeat' with_reducible first
    | intro _ | assumption | apply flushPending_keep | apply setProgState_keep | apply setProg_keep | apply ite_keep

theorem programsFault_keep (e s) (h_s : Keep o s) :
    Keep o (programsFault e s) := by
  unfold programsFault
  try dsimp only
  repeat' with_reducible first
    | intro _ | assumption | apply forAll_keep | apply faultAction_keep | apply ite_keep

theorem encoderFault_keep (e bit s) (h_s : Keep o s) :
    Keep o (encoderFault e bit s) := by
  unfold encoderFault
  try dsimp only
  repeat' with_reducible first
    | intro _ | assumption | apply addO_keep | apply setO_keep | apply setEnc_keep | apply fireSource_keep
    | apply record_keep | apply onlyIf_keep | apply programsFault_keep | apply fault_keep | apply ite_keep

theorem countStep_keep (e up edge s) (h_s : Keep o s) :
    Keep o (countStep e up edge s) := by
  unfold countStep
  try dsimp only
  repeat' with_reducible first
    | intro _ | assumption | apply setI_keep | apply setO_keep | apply setEnc_keep | apply onlyIf_keep
    | apply encoderFault_keep | apply forAll_keep | apply progMeets_keep | apply showSpeed_keep
    | apply crossPoints_keep | apply runAll_cons_keep | apply runAll_nil_keep | apply ite_keep

theorem loadPosition_keep (e s) (h_s : Keep o s) :
    Keep o (loadPosition e s) := by
  unfold loadPosition
  try dsimp only
  repeat' with_reducible first
    | intro _ | assumption | apply setI_keep | apply setO_keep | apply setEnc_keep | apply forAll_keep
    | apply reindex_keep | apply onlyIf_keep | apply setProg_keep | apply runAll_cons_keep | apply runAll_nil_keep

theorem indexEdge_keep (e edge s) (h_s : Keep o s) :
    Keep o (indexEdge e edge s) := by
  unfold indexEdge
  try dsimp only
  repeat' with_reducible first
    | intro _ | assumption | apply onlyIf_keep | apply encoderFault_keep | apply setEnc_keep
    | apply loadPosition_keep | apply setO_keep

theorem decodeChange_keep (e ofA a b edge s) (h_s : Keep o s) :
    Keep o (decodeChange e ofA a b edge s) := by
  unfold decodeChange
  try dsimp only
  repeat' with_reducible first
    | assumption | apply countStep_keep | apply ite_keep

theorem acceptAB_keep (e la lb edge s) (h_s : Keep o s) :
    Keep o (acceptAB e la lb edge s) := by
  unfold acceptAB
  try dsimp only
  repeat' with_reducible first
    | assumption | apply setEnc_keep | apply encoderFault_keep | apply decodeChange_keep | apply ite_keep | split

theorem acceptZ_keep (e z edge s) (h_s : Keep o s) :
    Keep o (acceptZ e z edge s) := by
  unfold acceptZ
  try dsimp only
  repeat' with_reducible first
    | intro _ | assumption | apply onlyIf_keep | apply indexEdge_keep | apply setEnc_keep

theorem execEncoderLevelAccepted_keep (encoder change edge s) (h_s : Keep o s) :
    KeepN o (execEncoderLevelAccepted encoder change edge s) := by
  unfold execEncoderLevelAccepted
  try dsimp only
  repeat' with_reducible first
    | intro _ | assumption | apply acceptAB_keep | apply acceptZ_keep | apply within_keep | apply ite_keepN
    | apply ite_keep | apply ite_keep1 | refine keep_of_some (by assumption) ?_ | split

theorem onsets_keep (e s t) (h_s : Keep o s) (h_t : Keep o t) :
    Keep o (onsets e s t) := by
  unfold onsets
  try dsimp only
  repeat' with_reducible first
    | intro _ | assumption | apply onlyIf_keep | apply encoderFault_keep

theorem withOnsets_keep (e f s) (h_f : ∀ s, Keep o s → Keep o (f s)) (h_s : Keep o s) :
    Keep o (withOnsets e f s) := by
  unfold withOnsets
  try dsimp only
  repeat' with_reducible first
    | intro _ | assumption | apply h_f | apply onsets_keep

theorem setReceiver_keep (e line bad s) (h_s : Keep o s) :
    Keep o (setReceiver e line bad s) := by
  unfold setReceiver
  try dsimp only
  repeat' with_reducible first
    | assumption | apply setEnc_keep

theorem execEncoderLineFault_keep (encoder line s) (h_s : Keep o s) :
    KeepN o (execEncoderLineFault encoder line s) := by
  unfold execEncoderLineFault
  try dsimp only
  repeat' with_reducible first
    | intro _ | assumption | apply within_keep | apply withOnsets_keep | apply setReceiver_keep | apply ite_keep

theorem execEncoderLineRestored_keep (encoder line s) (h_s : Keep o s) :
    KeepN o (execEncoderLineRestored encoder line s) := by
  unfold execEncoderLineRestored
  try dsimp only
  repeat' with_reducible first
    | assumption | apply within_keep | apply setReceiver_keep | apply ite_keep

theorem execSpeedTimeout_keep (encoder s) (h_s : Keep o s) :
    KeepN o (execSpeedTimeout encoder s) := by
  unfold execSpeedTimeout
  try dsimp only
  repeat' with_reducible first
    | assumption | apply within_keep | apply showSpeed_keep | apply ite_keep

theorem ruleLoadPreset_keep (e s0) (h_s0 : Keep o s0) :
    Keep o (ruleLoadPreset e s0).1 := by
  unfold ruleLoadPreset
  try dsimp only
  repeat' with_reducible first
    | assumption | apply refusedBusy_keep | apply actionDone_keep | apply loadPosition_keep | apply ite_keep
    | apply ite_keep1

theorem execLoadPresetNow_keep (who encoder s) (h_s : Keep o s) :
    KeepN o (execLoadPresetNow who encoder s) := by
  unfold execLoadPresetNow
  try dsimp only
  repeat' with_reducible first
    | intro _ | assumption | apply within_keep | apply served_keep | apply ruleLoadPreset_keep

theorem ruleHoming_keep (e s0) (h_s0 : Keep o s0) :
    Keep o (ruleHoming e s0).1 := by
  unfold ruleHoming
  try dsimp only
  repeat' with_reducible first
    | assumption | apply refusedBusy_keep | apply actionDone_keep | apply setEnc_keep | apply ite_keep
    | apply ite_keep1

theorem execLoadPresetAtIndex_keep (who encoder s) (h_s : Keep o s) :
    KeepN o (execLoadPresetAtIndex who encoder s) := by
  unfold execLoadPresetAtIndex
  try dsimp only
  repeat' with_reducible first
    | intro _ | assumption | apply within_keep | apply served_keep | apply ruleHoming_keep

theorem ruleFaultClear_keep (e value s0) (h_s0 : Keep o s0) :
    Keep o (ruleFaultClear e value s0).1 := by
  unfold ruleFaultClear
  try dsimp only
  repeat' with_reducible first
    | intro _ | assumption | apply answered_keep | apply onlyIf_keep | apply setEnc_keep | apply setO_keep

theorem execFaultWordClear_keep (who encoder value s) (h_s : Keep o s) :
    KeepN o (execFaultWordClear who encoder value s) := by
  unfold execFaultWordClear
  try dsimp only
  repeat' with_reducible first
    | intro _ | assumption | apply within_keep | apply served_keep | apply ruleFaultClear_keep

theorem ruleEncoderConfig_keep (e sub value s0) (h_s0 : Keep o s0) :
    Keep o (ruleEncoderConfig e sub value s0).1 := by
  unfold ruleEncoderConfig
  try dsimp only
  repeat' with_reducible first
    | intro _ | assumption | apply refusedBusy_keep | apply answered_keep | apply withOnsets_keep | apply setO_keep
    | apply onlyIf_keep | apply setEnc_keep | apply ite_keep | apply ite_keep1

theorem ruleOutputConfig_keep (m sub value s0) (h_s0 : Keep o s0) :
    Keep o (ruleOutputConfig m sub value s0).1 := by
  unfold ruleOutputConfig
  try dsimp only
  repeat' with_reducible first
    | intro _ | assumption | apply refusedBusy_keep | apply answered_keep | apply setO_keep | apply ite_keep1

theorem resetProgram_keep (n s0) (h_s0 : Keep o s0) :
    Keep o (resetProgram n s0) := by
  unfold resetProgram
  try dsimp only
  repeat' with_reducible first
    | apply Keep.decom | intro _ | assumption | apply setProgState_keep | apply setProg_keep | apply setO_keep
    | apply runAll_cons_keep | apply runAll_nil_keep
    | (simp only [keep_mk_iff]; refine ⟨fun _ => ⟨?_, ?_⟩, ?_, ?_, ?_, ?_⟩) | apply Keep.obj ‹Canon _›
    | apply Keep.mem ‹Canon _› | apply Keep.queue | apply Keep.free | apply Keep.sent

theorem ruleProgramConfig_keep (n sub value s0) (h_s0 : Keep o s0) :
    Keep o (ruleProgramConfig n sub value s0).1 := by
  unfold ruleProgramConfig
  try dsimp only
  repeat' with_reducible first
    | assumption | apply refusedBusy_keep | apply refused_keep | apply refusedValue_keep | apply answered_keep
    | apply resetProgram_keep | apply setO_keep | apply ite_keep | apply ite_keep1

theorem execProgramConfigWrite_keep (who program sub value s) (h_s : Keep o s) :
    KeepN o (execProgramConfigWrite who program sub value s) := by
  unfold execProgramConfigWrite
  try dsimp only
  repeat' with_reducible first
    | intro _ | assumption | apply within_keep | apply served_keep | apply ruleProgramConfig_keep

theorem ruleTestFire_keep (n s0) (h_s0 : Keep o s0) :
    Keep o (ruleTestFire n s0).1 := by
  unfold ruleTestFire
  try dsimp only
  repeat' with_reducible first
    | assumption | apply refused_keep | apply actionDone_keep | apply deliver_keep | apply ite_keep
    | apply ite_keep1

theorem execTestFire_keep (who value s) (h_s : Keep o s) :
    KeepN o (execTestFire who value s) := by
  unfold execTestFire
  try dsimp only
  repeat' with_reducible first
    | intro _ | assumption | apply served_keep | apply ruleTestFire_keep | apply next_keep

theorem execInterpolatedTrigger_keep (program s) (h_s : Keep o s) :
    KeepN o (execInterpolatedTrigger program s) := by
  unfold execInterpolatedTrigger
  try dsimp only
  repeat' with_reducible first
    | intro _ | assumption | apply firePoint_keep | apply setProg_keep | apply within_keep | apply ite_keepN
    | apply ite_keep | apply ite_keep1 | refine keep_of_some (by assumption) ?_ | split

theorem fireTime_keep (n due s) (h_s : Keep o s) :
    Keep o (fireTime n due s) := by
  unfold fireTime
  try dsimp only
  repeat' with_reducible first
    | intro _ | assumption | apply fire_keep | apply ite_keep

theorem execTimeTrigger_keep (program s) (h_s : Keep o s) :
    KeepN o (execTimeTrigger program s) := by
  unfold execTimeTrigger
  try dsimp only
  repeat' with_reducible first
    | intro _ | assumption | apply fireTime_keep | apply within_keep

theorem fireExtrapolated_keep (n due s) (h_s : Keep o s) :
    Keep o (fireExtrapolated n due s) := by
  unfold fireExtrapolated
  try dsimp only
  repeat' with_reducible first
    | intro _ | assumption | apply firePoint_keep | apply ite_keep | apply ite_keep1
    | refine keep_of_some (by assumption) ?_ | split

theorem execExtrapolatedTrigger_keep (program s) (h_s : Keep o s) :
    KeepN o (execExtrapolatedTrigger program s) := by
  unfold execExtrapolatedTrigger
  try dsimp only
  repeat' with_reducible first
    | intro _ | assumption | apply fireExtrapolated_keep | apply within_keep

theorem execExtrapolationLimitExpiry_keep (program s) (h_s : Keep o s) :
    KeepN o (execExtrapolationLimitExpiry program s) := by
  unfold execExtrapolationLimitExpiry
  try dsimp only
  repeat' with_reducible first
    | assumption | apply within_keep | apply setProgState_keep | apply setProg_keep | apply ite_keep
    | apply ite_keepN | apply next_keep | apply fault_keep | split

theorem resume_keep (n e s) (h_s : Keep o s) :
    Keep o (resume n e s) := by
  unfold resume
  try dsimp only
  repeat' with_reducible first
    | assumption | apply setProgState_keep | apply reindex_keep | apply setProg_keep

theorem execFaultClearIntervalEnd_keep (encoder s) (h_s : Keep o s) :
    KeepN o (execFaultClearIntervalEnd encoder s) := by
  unfold execFaultClearIntervalEnd
  try dsimp only
  repeat' with_reducible first
    | intro _ | assumption | apply within_keep | apply forAll_keep | apply resume_keep | apply ite_keep
    | apply ite_keepN | apply next_keep | apply fault_keep | split

theorem execOutputPulseEnd_keep (output s) (h_s : Keep o s) :
    KeepN o (execOutputPulseEnd output s) := by
  unfold execOutputPulseEnd
  try dsimp only
  repeat' with_reducible first
    | assumption | apply within_keep | apply ite_keep | apply ite_keepN | apply next_keep | apply fault_keep
    | (simp only [keep_mk_iff]; refine ⟨fun _ => ⟨?_, ?_⟩, ?_, ?_, ?_, ?_⟩) | apply Keep.obj ‹Canon _›
    | apply Keep.mem ‹Canon _› | apply Keep.queue | apply Keep.free | apply Keep.sent | apply Keep.decom

theorem armProgram_keep (n s) (h_s : Keep o s) :
    Keep o (armProgram n s) := by
  unfold armProgram
  try dsimp only
  repeat' with_reducible first
    | intro _ | assumption | apply setProgState_keep | apply setO_keep | apply reindex_keep | apply onlyIf_keep
    | apply faultAction_keep | apply ite_keep

theorem armAll_keep (s) (h_s : Keep o s) :
    Keep o (armAll s) := by
  unfold armAll
  try dsimp only
  repeat' with_reducible first
    | apply Keep.decom | intro _ | assumption | apply forAll_keep | apply setProg_keep | apply armProgram_keep
    | apply setO_keep | apply ite_keep | apply ite_keep1
    | (simp only [keep_mk_iff]; refine ⟨fun _ => ⟨?_, ?_⟩, ?_, ?_, ?_, ?_⟩) | apply Keep.obj ‹Canon _›
    | apply Keep.mem ‹Canon _› | apply Keep.queue | apply Keep.free | apply Keep.sent

theorem deliverDue_keep (n t s) (h_s : Keep o s) :
    Keep o (deliverDue n t s) := by
  unfold deliverDue
  try dsimp only
  repeat' with_reducible first
    | intro _ | assumption | apply flushPending_keep | apply fireTime_keep | apply fireExtrapolated_keep
    | apply foldl_keep | apply foldl_keep1 | apply ite_keep

theorem disarmAll_keep (grace s) (h_s : Keep o s) :
    Keep o (disarmAll grace s) := by
  unfold disarmAll
  try dsimp only
  repeat' with_reducible first
    | apply Keep.decom | intro _ | assumption | apply onlyIf_keep | apply forAll_keep | apply deliverDue_keep
    | apply setProg_keep | apply setProgState_keep | apply setO_keep | apply ite_keep | apply ite_keep1 | split
    | (simp only [keep_mk_iff]; refine ⟨fun _ => ⟨?_, ?_⟩, ?_, ?_, ?_, ?_⟩) | apply Keep.obj ‹Canon _›
    | apply Keep.mem ‹Canon _› | apply Keep.queue | apply Keep.free | apply Keep.sent

theorem hodoRestart_keep (s) (h_s : Keep o s) :
    Keep o (hodoRestart s) := by
  unfold hodoRestart
  try dsimp only
  repeat' with_reducible first
    | intro _ | assumption | apply forAll_keep | apply setI_keep | apply setO_keep | apply setEnc_keep

theorem dropHistories_keep (s) (h_s : Keep o s) :
    Keep o (dropHistories s) := by
  unfold dropHistories
  try dsimp only
  repeat' with_reducible first
    | intro _ | assumption | apply forAll_keep | apply setProg_keep

/-! Machine/Accession.lean -/

theorem setLink_keep (l v s) (h_s : Keep o s) :
    Keep o (setLink l v s) := by
  unfold setLink
  try dsimp only
  repeat' with_reducible first
    | assumption | apply fireSource_keep | apply setO_keep | apply ite_keep

theorem dropFrame_keep (l reason ctx s) (h_s : Keep o s) :
    Keep o (dropFrame l reason ctx s) := by
  unfold dropFrame
  try dsimp only
  repeat' with_reducible first
    | assumption | apply pkgEvent_keep | apply addO_keep | apply setO_keep | split

theorem frameIn_keep (l s) (h_s : Keep o s) :
    Keep o (frameIn l s) := by
  unfold frameIn
  try dsimp only
  repeat' with_reducible first
    | assumption | apply addO_keep

theorem execArpRequest_keep (lane senderMac senderIp targetIp s) (h_s : Keep o s) :
    KeepN o (execArpRequest lane senderMac senderIp targetIp s) := by
  unfold execArpRequest
  try dsimp only
  repeat' with_reducible first
    | intro _ | assumption | apply emit_keep | apply frameIn_keep | apply dropFrame_keep | apply within_keep
    | apply ite_keepN | apply ite_keep

theorem execDelayReq_keep (lane srcIp sequenceId portIdentity arrival s) (h_s : Keep o s) :
    KeepN o (execDelayReq lane srcIp sequenceId portIdentity arrival s) := by
  unfold execDelayReq
  try dsimp only
  repeat' with_reducible first
    | intro _ | assumption | apply dropFrame_keep | apply frameIn_keep | apply emit_keep | apply within_keep
    | apply ite_keepN | apply ite_keep

theorem execPtpSyncTimer_keep (lane s) (h_s : Keep o s) :
    KeepN o (execPtpSyncTimer lane s) := by
  unfold execPtpSyncTimer
  try dsimp only
  repeat' with_reducible first
    | apply Keep.decom | intro _ | assumption | apply emit_keep | apply within_keep | apply ite_keepN
    | apply ite_keep | apply ite_keep1 | (simp only [keep_mk_iff]; refine ⟨fun _ => ⟨?_, ?_⟩, ?_, ?_, ?_, ?_⟩)
    | apply Keep.obj ‹Canon _› | apply Keep.mem ‹Canon _› | apply Keep.queue | apply Keep.free | apply Keep.sent

theorem execPtpAnnounceTimer_keep (lane s) (h_s : Keep o s) :
    KeepN o (execPtpAnnounceTimer lane s) := by
  unfold execPtpAnnounceTimer
  try dsimp only
  repeat' with_reducible first
    | apply Keep.decom | intro _ | assumption | apply emit_keep | apply within_keep | apply ite_keepN
    | apply ite_keep | apply ite_keep1 | (simp only [keep_mk_iff]; refine ⟨fun _ => ⟨?_, ?_⟩, ?_, ?_, ?_, ?_⟩)
    | apply Keep.obj ‹Canon _› | apply Keep.mem ‹Canon _› | apply Keep.queue | apply Keep.free | apply Keep.sent

theorem execControlPacketReceived_keep (lane srcIp srcPort dstPort payload s) (h_s : Keep o s) :
    KeepN o (execControlPacketReceived lane srcIp srcPort dstPort payload s) := by
  unfold execControlPacketReceived
  try dsimp only
  repeat' with_reducible first
    | intro _ | assumption | apply frameIn_keep | apply dropFrame_keep | apply postNow_keep | apply within_keep
    | apply ite_keepN | apply ite_keep

theorem execControlTransmitEntry_keep (lane s) (h_s : Keep o s) :
    KeepN o (execControlTransmitEntry lane s) := by
  unfold execControlTransmitEntry
  try dsimp only
  repeat' with_reducible first
    | intro _ | assumption | apply ioRead_keep | apply stopQueue_keep | apply advanceC_keep | apply addO_keep
    | apply emit_keep | apply within_keep | apply ite_keepN | apply ite_keep | apply ite_keep1
    | refine keep_of_pair (by assumption) ?_ | refine keep_of_some (by assumption) ?_ | split

theorem depositPacket_keep (l c r h p s) (h_s : Keep o s) :
    Keep o (depositPacket l c r h p s) := by
  unfold depositPacket
  try dsimp only
  repeat' with_reducible first
    | intro _ | assumption | apply setO_keep | apply addO_keep | apply setLine_keep | apply depositWrite_keep
    | apply lineFailed_keep | apply pkgEvent_keep | apply meetSeal_keep | apply ite_keep | apply ite_keep1
    | refine keep_of_pair (by assumption) ?_ | refine keep_of_some (by assumption) ?_ | split

theorem lineState_keep (l c k p s) (h_s : Keep o s) :
    Keep o (lineState l c k p s) := by
  unfold lineState
  try dsimp only
  repeat' with_reducible first
    | assumption | apply latePacket_keep | apply dropFrame_keep | apply depositPacket_keep | apply ite_keep | split

theorem refuseBlock_keep (c b s) (h_s : Keep o s) :
    Keep o (refuseBlock c b s) := by
  unfold refuseBlock
  try dsimp only
  repeat' with_reducible first
    | assumption | apply setCtx_keep

theorem keepLeader_keep (c p k s) (h_s : Keep o s) :
    Keep o (keepLeader c p k s) := by
  unfold keepLeader
  try dsimp only
  repeat' with_reducible first
    | assumption | apply setCtx_keep | apply ite_keep

theorem streamCtx_keep (l c p s) (h_s : Keep o s) :
    Keep o (streamCtx l c p s) := by
  unfold streamCtx
  try dsimp only
  repeat' with_reducible first
    | assumption | apply dropFrame_keep | apply refuseBlock_keep | apply keepLeader_keep | apply lineState_keep
    | apply ite_keep | split

theorem execStreamPacket_keep (lane pkt context s) (h_s : Keep o s) :
    KeepN o (execStreamPacket lane pkt context s) := by
  unfold execStreamPacket
  try dsimp only
  repeat' with_reducible first
    | intro _ | assumption | apply frameIn_keep | apply dropFrame_keep | apply streamCtx_keep
    | apply contextRecord_keep | apply within_keep | apply getD_keep | apply ite_keepN | apply ite_keep
    | apply ite_keep1 | refine keep_of_some (by assumption) ?_ | split

theorem execSealTimeout_keep (ring line s) (h_s : Keep o s) :
    KeepN o (execSealTimeout ring line s) := by
  unfold execSealTimeout
  try dsimp only
  repeat' with_reducible first
    | assumption | apply within_keep | apply meetSeal_keep | apply ite_keep | apply ite_keepN | apply next_keep
    | apply fault_keep | split

theorem execLineSeal_keep (ring s) (h_s : Keep o s) :
    KeepN o (execLineSeal ring s) := by
  unfold execLineSeal
  try dsimp only
  repeat' with_reducible first
    | assumption | apply within_keep | apply sealNext_keep | apply ite_keep

theorem execCompletionPost_keep (ring s) (h_s : Keep o s) :
    KeepN o (execCompletionPost ring s) := by
  unfold execCompletionPost
  try dsimp only
  repeat' with_reducible first
    | assumption | apply within_keep | apply postNext_keep | apply ite_keep

theorem disarmSeals_keep (s) (h_s : Keep o s) :
    Keep o (disarmSeals s) := by
  unfold disarmSeals
  try dsimp only
  repeat' with_reducible first
    | intro _ | assumption | apply forAll_keep | apply onlyIf_keep | apply meetSeal_keep

theorem execDisarmSealTimeout_keep (s) (h_s : Keep o s) :
    KeepN o (execDisarmSealTimeout s) := by
  unfold execDisarmSealTimeout
  try dsimp only
  repeat' with_reducible first
    | assumption | apply disarmSeals_keep | apply ite_keep | apply ite_keepN | apply next_keep | apply fault_keep
    | (simp only [keep_mk_iff]; refine ⟨fun _ => ⟨?_, ?_⟩, ?_, ?_, ?_, ?_⟩) | apply Keep.obj ‹Canon _›
    | apply Keep.mem ‹Canon _› | apply Keep.queue | apply Keep.free | apply Keep.sent | apply Keep.decom | split

theorem execLaneLinkLoss_keep (lane s) (h_s : Keep o s) :
    KeepN o (execLaneLinkLoss lane s) := by
  unfold execLaneLinkLoss
  try dsimp only
  repeat' with_reducible first
    | assumption | apply within_keep | apply setLink_keep | apply addO_keep | apply record_keep | apply ite_keep

theorem execLaneLinkReturn_keep (lane s) (h_s : Keep o s) :
    KeepN o (execLaneLinkReturn lane s) := by
  unfold execLaneLinkReturn
  try dsimp only
  repeat' with_reducible first
    | intro _ | assumption | apply setLink_keep | apply onlyIf_keep | apply record_keep | apply within_keep
    | apply ite_keepN | apply ite_keep

theorem dropLaneFrame_keep (lane reason s) (h_s : Keep o s) :
    Keep o (dropLaneFrame lane reason s) := by
  unfold dropLaneFrame
  try dsimp only
  repeat' with_reducible first
    | apply Keep.decom | intro _ | assumption | apply dropFrame_keep | apply onlyIf_keep | apply frameIn_keep
    | apply record_keep | apply ite_keep | apply ite_keep1
    | (simp only [keep_mk_iff]; refine ⟨fun _ => ⟨?_, ?_⟩, ?_, ?_, ?_, ?_⟩) | apply Keep.obj ‹Canon _›
    | apply Keep.mem ‹Canon _› | apply Keep.queue | apply Keep.free | apply Keep.sent

theorem execLaneFrameDropped_keep (lane frame s) (h_s : Keep o s) :
    KeepN o (execLaneFrameDropped lane frame s) := by
  unfold execLaneFrameDropped
  try dsimp only
  repeat' with_reducible first
    | intro _ | assumption | apply dropLaneFrame_keep | apply within_keep | apply ite_keepN | apply ite_keep
    | apply ite_keep1 | refine keep_of_some (by assumption) ?_ | split

theorem ruleLane_keep (l sub value s0) (h_s0 : Keep o s0) :
    Keep o (ruleLane l sub value s0).1 := by
  unfold ruleLane
  try dsimp only
  repeat' with_reducible first
    | intro _ | assumption | apply setO_keep | apply refusedBusy_keep | apply refused_keep | apply answered_keep
    | apply onlyIf_keep | apply setLink_keep | apply dropStraySources_keep | apply ite_keep1 | apply ite_keep

theorem execLaneEnable_keep (who lane value s) (h_s : Keep o s) :
    KeepN o (execLaneEnable who lane value s) := by
  unfold execLaneEnable
  try dsimp only
  repeat' with_reducible first
    | intro _ | assumption | apply within_keep | apply served_keep | apply ruleLane_keep

theorem barMember_keep (r m s) (h_s : Keep o s) :
    Keep o (barMember r m s) := by
  unfold barMember
  try dsimp only
  repeat' with_reducible first
    | intro _ | assumption | apply setRing_keep

theorem ruleCtx_keep (c sub value s0) (h_s0 : Keep o s0) :
    Keep o (ruleCtx c sub value s0).1 := by
  unfold ruleCtx
  try dsimp only
  repeat' with_reducible first
    | intro _ | assumption | apply setO_keep | apply refusedBusy_keep | apply refused_keep | apply refusedValue_keep
    | apply answered_keep | apply forAll_keep | apply onlyIf_keep | apply barMember_keep | apply setCtx_keep
    | apply ite_keep | apply ite_keep1

theorem execStreamContextEnable_keep (who context value s) (h_s : Keep o s) :
    KeepN o (execStreamContextEnable who context value s) := by
  unfold execStreamContextEnable
  try dsimp only
  repeat' with_reducible first
    | intro _ | assumption | apply within_keep | apply served_keep | apply ruleCtx_keep

theorem ruleRing_keep (r sub value s0) (h_s0 : Keep o s0) :
    Keep o (ruleRing r sub value s0).1 := by
  unfold ruleRing
  try dsimp only
  repeat' with_reducible first
    | intro _ | assumption | apply setO_keep | apply refusedBusy_keep | apply refused_keep | apply refusedValue_keep
    | apply answered_keep | apply ite_keep1

theorem execRingEnable_keep (who ring value s) (h_s : Keep o s) :
    KeepN o (execRingEnable who ring value s) := by
  unfold execRingEnable
  try dsimp only
  repeat' with_reducible first
    | intro _ | assumption | apply within_keep | apply served_keep | apply ruleRing_keep

theorem ruleLaneOffset_keep (value s0) (h_s0 : Keep o s0) :
    Keep o (ruleLaneOffset value s0).1 := by
  unfold ruleLaneOffset
  try dsimp only
  repeat' with_reducible first
    | assumption | apply refused_keep | apply answered_keep | apply setO_keep | apply ite_keep | apply ite_keep1

theorem setDeposit_keep (on s) (h_s : Keep o s) :
    Keep o (setDeposit on s) := by
  unfold setDeposit
  try dsimp only
  repeat' with_reducible first
    | assumption | apply setO_keep | apply ite_keep
    | (simp only [keep_mk_iff]; refine ⟨fun _ => ⟨?_, ?_⟩, ?_, ?_, ?_, ?_⟩) | apply Keep.obj ‹Canon _›
    | apply Keep.mem ‹Canon _› | apply Keep.queue | apply Keep.free | apply Keep.sent | apply Keep.decom

theorem beginDisarm_keep (s) (h_s : Keep o s) :
    Keep o (beginDisarm s) := by
  unfold beginDisarm
  try dsimp only
  repeat' with_reducible first
    | assumption | apply disarmAll_keep | (simp only [keep_mk_iff]; refine ⟨fun _ => ⟨?_, ?_⟩, ?_, ?_, ?_, ?_⟩)
    | apply Keep.obj ‹Canon _› | apply Keep.mem ‹Canon _› | apply Keep.queue | apply Keep.free | apply Keep.sent
    | apply Keep.decom

theorem lanesOn_keep (on s) (h_s : Keep o s) :
    Keep o (lanesOn on s) := by
  unfold lanesOn
  try dsimp only
  repeat' with_reducible first
    | intro _ | assumption | apply forAll_keep | apply setLink_keep

theorem stopLines_keep (s) (h_s : Keep o s) :
    Keep o (stopLines s) := by
  unfold stopLines
  try dsimp only
  repeat' with_reducible first
    | intro _ | assumption | apply forAll_keep | apply sealAll_keep | apply disarmSeals_keep
    | (simp only [keep_mk_iff]; refine ⟨fun _ => ⟨?_, ?_⟩, ?_, ?_, ?_, ?_⟩) | apply Keep.obj ‹Canon _›
    | apply Keep.mem ‹Canon _› | apply Keep.queue | apply Keep.free | apply Keep.sent | apply Keep.decom

theorem discardLines_keep (s) (h_s : Keep o s) :
    Keep o (discardLines s) := by
  unfold discardLines
  try dsimp only
  repeat' with_reducible first
    | intro _ | assumption | apply forAll_keep | apply setO_keep
    | (simp only [keep_mk_iff]; refine ⟨fun _ => ⟨?_, ?_⟩, ?_, ?_, ?_, ?_⟩) | apply Keep.obj ‹Canon _›
    | apply Keep.mem ‹Canon _› | apply Keep.queue | apply Keep.free | apply Keep.sent | apply Keep.decom

theorem accessionReset_keep (s) (h_s : Keep o s) :
    Keep o (accessionReset s) := by
  unfold accessionReset
  try dsimp only
  repeat' with_reducible first
    | assumption | apply rising_filter | (simp only [keep_mk_iff]; refine ⟨fun _ => ⟨?_, ?_⟩, ?_, ?_, ?_, ?_⟩)
    | apply Keep.obj ‹Canon _› | apply Keep.mem ‹Canon _› | apply Keep.queue | apply Keep.free | apply Keep.sent
    | apply Keep.decom

end Sys2Proof.Machine
end

