-- ==== Sys2Proof/Laws/KeepSystem.lean ====
section
/-! SUPPORT. `Keep` is kept by every operation of the caches, the Strongroom, partitions, the panel, clocks, power, modes, counters and the object rules. -/

namespace Sys2Proof.Machine

variable {o : State}

/-! Machine/Ways.lean -/

theorem forceWays_keep (g p s) (h_s : Keep o s) :
    Keep o (forceWays g p s) := by
  unfold forceWays
  try dsimp only
  repeat' with_reducible first
    | assumption | apply setO_keep | apply ite_keep

theorem forceGallery_keep (g s) (h_s : Keep o s) :
    Keep o (forceGallery g s) := by
  unfold forceGallery
  try dsimp only
  repeat' with_reducible first
    | intro _ | assumption | apply forAll_keep | apply forceWays_keep | apply setO_keep

theorem showDisabled_keep (g s) (h_s : Keep o s) :
    Keep o (showDisabled g s) := by
  unfold showDisabled
  try dsimp only
  repeat' with_reducible first
    | intro _ | assumption | apply forAll_keep | apply setO_keep | apply ite_keep

theorem leaveWay_keep (g line s) (h_s : Keep o s) :
    Keep o (leaveWay g line s) := by
  unfold leaveWay
  try dsimp only
  repeat' with_reducible first
    | intro _ | assumption | apply setL2_keep | apply evictL2_keep | apply ite_keep

theorem emptyWay_keep (g w s) (h_s : Keep o s) :
    Keep o (emptyWay g w s) := by
  unfold emptyWay
  try dsimp only
  repeat' with_reducible first
    | intro _ | assumption | apply forAll_keep | apply leaveWay_keep

theorem closeWay_keep (g w s) (h_s : Keep o s) :
    Keep o (closeWay g w s) := by
  unfold closeWay
  try dsimp only
  repeat' with_reducible first
    | apply Keep.decom | intro _ | assumption | apply emptyWay_keep | apply showDisabled_keep | apply onlyIf_keep
    | apply enterLimp_keep | apply forAll_keep | apply forceWays_keep | apply setO_keep | apply record_keep
    | apply ite_keep | apply ite_keep1 | refine keep_of_some (by assumption) ?_ | split
    | (simp only [keep_mk_iff]; refine ⟨fun _ => ⟨?_, ?_⟩, ?_, ?_, ?_, ?_⟩) | apply Keep.obj ‹Canon _›
    | apply Keep.mem ‹Canon _› | apply Keep.queue | apply Keep.free | apply Keep.sent

theorem disableWay_keep (g w s) (h_s : Keep o s) :
    Keep o (disableWay g w s) := by
  unfold disableWay
  try dsimp only
  repeat' with_reducible first
    | apply Keep.decom | intro _ | assumption | apply closeWay_keep | apply ite_keep | apply ite_keep1
    | (simp only [keep_mk_iff]; refine ⟨fun _ => ⟨?_, ?_⟩, ?_, ?_, ?_, ?_⟩) | apply Keep.obj ‹Canon _›
    | apply Keep.mem ‹Canon _› | apply Keep.queue | apply Keep.free | apply Keep.sent

theorem endClosing_keep (g s) (h_s : Keep o s) :
    Keep o (endClosing g s) := by
  unfold endClosing
  try dsimp only
  repeat' with_reducible first
    | apply Keep.decom | intro _ | assumption | apply forAll_keep | apply closeWay_keep
    | (simp only [keep_mk_iff]; refine ⟨fun _ => ⟨?_, ?_⟩, ?_, ?_, ?_, ?_⟩) | apply Keep.obj ‹Canon _›
    | apply Keep.mem ‹Canon _› | apply Keep.queue | apply Keep.free | apply Keep.sent

theorem openWay_keep (g w core s) (h_s : Keep o s) :
    Keep o (openWay g w core s).1 := by
  unfold openWay
  try dsimp only
  repeat' with_reducible first
    | apply Keep.decom | intro _ | assumption | apply onlyIf_keep | apply emptyWay_keep | apply actionDone_keep
    | apply setO_keep | apply answerWaits_keep | apply ite_keep1 | apply ite_keep | apply ite_rule_keep
    | (simp only [keep_mk_iff]; refine ⟨fun _ => ⟨?_, ?_⟩, ?_, ?_, ?_, ?_⟩) | apply Keep.obj ‹Canon _›
    | apply Keep.mem ‹Canon _› | apply Keep.queue | apply Keep.free | apply Keep.sent

theorem ruleLock_keep (who g v s0) (h_s0 : Keep o s0) :
    Keep o (ruleLock who g v s0).1 := by
  unfold ruleLock
  try dsimp only
  repeat' with_reducible first
    | intro _ | assumption | apply refused_keep | apply setO_keep | apply openWay_keep | apply actionDone_keep
    | apply ite_keep1

theorem execLockOpen_keep (who gallery value s) (h_s : Keep o s) :
    KeepN o (execLockOpen who gallery value s) := by
  unfold execLockOpen
  try dsimp only
  repeat' with_reducible first
    | intro _ | assumption | apply within_keep | apply served_keep | apply ruleLock_keep

theorem execLockLock_keep (who gallery value s) (h_s : Keep o s) :
    KeepN o (execLockLock who gallery value s) := by
  unfold execLockLock
  try dsimp only
  repeat' with_reducible first
    | intro _ | assumption | apply within_keep | apply served_keep | apply ruleLock_keep

theorem execLockUnlock_keep (who gallery value s) (h_s : Keep o s) :
    KeepN o (execLockUnlock who gallery value s) := by
  unfold execLockUnlock
  try dsimp only
  repeat' with_reducible first
    | intro _ | assumption | apply within_keep | apply served_keep | apply ruleLock_keep

theorem execLockCancel_keep (who gallery value s) (h_s : Keep o s) :
    KeepN o (execLockCancel who gallery value s) := by
  unfold execLockCancel
  try dsimp only
  repeat' with_reducible first
    | intro _ | assumption | apply within_keep | apply served_keep | apply ruleLock_keep

theorem ruleWayMethod_keep (g v s0) (h_s0 : Keep o s0) :
    Keep o (ruleWayMethod g v s0).1 := by
  unfold ruleWayMethod
  try dsimp only
  repeat' with_reducible first
    | intro _ | assumption | apply refused_keep | apply answered_keep | apply forAll_keep | apply onlyIf_keep
    | apply setO_keep | apply forceGallery_keep | apply ite_keep | apply ite_keep1

theorem execWayMethodWrite_keep (who gallery value s) (h_s : Keep o s) :
    KeepN o (execWayMethodWrite who gallery value s) := by
  unfold execWayMethodWrite
  try dsimp only
  repeat' with_reducible first
    | intro _ | assumption | apply within_keep | apply served_keep | apply ruleWayMethod_keep

theorem ruleClearDisabled_keep (g s0) (h_s0 : Keep o s0) :
    Keep o (ruleClearDisabled g s0).1 := by
  unfold ruleClearDisabled
  try dsimp only
  repeat' with_reducible first
    | intro _ | assumption | apply refused_keep | apply actionDone_keep | apply forceGallery_keep
    | apply showDisabled_keep | apply ite_keep | apply ite_keep1 | apply ite_rule_keep
    | (simp only [keep_mk_iff]; refine ⟨fun _ => ⟨?_, ?_⟩, ?_, ?_, ?_, ?_⟩) | apply Keep.obj ‹Canon _›
    | apply Keep.mem ‹Canon _› | apply Keep.queue | apply Keep.free | apply Keep.sent | apply Keep.decom

theorem execClearDisabledWays_keep (who gallery value s) (h_s : Keep o s) :
    KeepN o (execClearDisabledWays who gallery value s) := by
  unfold execClearDisabledWays
  try dsimp only
  repeat' with_reducible first
    | intro _ | assumption | apply within_keep | apply served_keep | apply ruleClearDisabled_keep

/-! Machine/Strongroom.lean -/

theorem eraseFlash_keep (t s) (h_s : Keep o s) :
    Keep o (eraseFlash t s) := by
  unfold eraseFlash
  try dsimp only
  repeat' with_reducible first
    | intro _ | assumption | apply rising_drop
    | (simp only [keep_mk_iff]; refine ⟨fun _ => ⟨?_, ?_⟩, ?_, ?_, ?_, ?_⟩) | apply Keep.obj ‹Canon _›
    | apply Keep.mem ‹Canon _› | apply Keep.queue | apply Keep.free | apply Keep.sent | apply Keep.decom

theorem programFlash_keep (t off bytes s) (h_s : Keep o s) :
    Keep o (programFlash t off bytes s) := by
  unfold programFlash
  try dsimp only
  repeat' with_reducible first
    | intro _ | assumption | apply foldl_keep | apply foldl_keep1
    | (simp only [keep_mk_iff]; refine ⟨fun _ => ⟨?_, ?_⟩, ?_, ?_, ?_, ?_⟩) | apply Keep.obj ‹Canon _›
    | apply Keep.mem ‹Canon _› | apply Keep.queue | apply Keep.free | apply Keep.sent | apply Keep.decom

theorem setSlotState_keep (t v s) (h_s : Keep o s) :
    Keep o (setSlotState t v s) := by
  unfold setSlotState
  try dsimp only
  repeat' with_reducible first
    | assumption | apply setO_keep

theorem showHeader_keep (t s) (h_s : Keep o s) :
    Keep o (showHeader t s) := by
  unfold showHeader
  try dsimp only
  repeat' with_reducible first
    | intro _ | assumption | apply setO_keep | apply runAll_cons_keep | apply runAll_nil_keep

theorem verifyTarget_keep (t s) (h_s : Keep o s) :
    Keep o (verifyTarget t s) := by
  unfold verifyTarget
  try dsimp only
  repeat' with_reducible first
    | assumption | apply setSlotState_keep | apply showHeader_keep

theorem showVerified_keep (s) (h_s : Keep o s) :
    Keep o (showVerified s) := by
  unfold showVerified
  try dsimp only
  repeat' with_reducible first
    | intro _ | assumption | apply setO_keep

theorem execImageVerification_keep (s) (h_s : Keep o s) :
    KeepN o (execImageVerification s) := by
  unfold execImageVerification
  try dsimp only
  repeat' with_reducible first
    | intro _ | assumption | apply setO_keep | apply forAll_keep | apply onlyIf_keep | apply verifyTarget_keep
    | apply ite_keep | apply ite_keepN | apply next_keep

theorem ruleInstallTarget_keep (who v s0) (h_s0 : Keep o s0) :
    Keep o (ruleInstallTarget who v s0).1 := by
  unfold ruleInstallTarget
  try dsimp only
  repeat' with_reducible first
    | apply Keep.decom | intro _ | assumption | apply refused_keep | apply refusedBusy_keep
    | apply setSlotState_keep | apply eraseFlash_keep | apply actionDone_keep | apply setO_keep | apply ite_keep1
    | apply ite_keep | apply ite_rule_keep | refine keep_of_some (by assumption) ?_ | split
    | (simp only [keep_mk_iff]; refine ⟨fun _ => ⟨?_, ?_⟩, ?_, ?_, ?_, ?_⟩) | apply Keep.obj ‹Canon _›
    | apply Keep.mem ‹Canon _› | apply Keep.queue | apply Keep.free | apply Keep.sent

theorem execInstallTarget_keep (who value s) (h_s : Keep o s) :
    KeepN o (execInstallTarget who value s) := by
  unfold execInstallTarget
  try dsimp only
  repeat' with_reducible first
    | intro _ | assumption | apply served_keep | apply ruleInstallTarget_keep | apply next_keep

theorem ruleInstallData_keep (who v s0) (h_s0 : Keep o s0) :
    Keep o (ruleInstallData who v s0).1 := by
  unfold ruleInstallData
  try dsimp only
  repeat' with_reducible first
    | assumption | apply refused_keep | apply programFlash_keep | apply actionDone_keep | apply setO_keep
    | apply ite_keep | apply ite_keep1 | apply ite_rule_keep
    | (simp only [keep_mk_iff]; refine ⟨fun _ => ⟨?_, ?_⟩, ?_, ?_, ?_, ?_⟩) | apply Keep.obj ‹Canon _›
    | apply Keep.mem ‹Canon _› | apply Keep.queue | apply Keep.free | apply Keep.sent | apply Keep.decom
    | refine keep_of_pair (by assumption) ?_ | split

theorem execInstallData_keep (who value s) (h_s : Keep o s) :
    KeepN o (execInstallData who value s) := by
  unfold execInstallData
  try dsimp only
  repeat' with_reducible first
    | intro _ | assumption | apply served_keep | apply ruleInstallData_keep | apply next_keep

theorem ruleInstall_keep (who s0) (h_s0 : Keep o s0) :
    Keep o (ruleInstall who s0).1 := by
  unfold ruleInstall
  try dsimp only
  repeat' with_reducible first
    | intro _ | assumption | apply refused_keep | apply verifyTarget_keep | apply actionDone_keep
    | apply onlyIf_keep | apply setO_keep | apply ite_keep | apply ite_keep1 | apply ite_rule_keep
    | (simp only [keep_mk_iff]; refine ⟨fun _ => ⟨?_, ?_⟩, ?_, ?_, ?_, ?_⟩) | apply Keep.obj ‹Canon _›
    | apply Keep.mem ‹Canon _› | apply Keep.queue | apply Keep.free | apply Keep.sent | apply Keep.decom
    | refine keep_of_pair (by assumption) ?_ | split

theorem execInstall_keep (who value s) (h_s : Keep o s) :
    KeepN o (execInstall who value s) := by
  unfold execInstall
  try dsimp only
  repeat' with_reducible first
    | intro _ | assumption | apply served_keep | apply ruleInstall_keep | apply next_keep

theorem abandonInstall_keep (who s) (h_s : Keep o s) :
    Keep o (abandonInstall who s) := by
  unfold abandonInstall
  try dsimp only
  repeat' with_reducible first
    | assumption | apply ite_keep | (simp only [keep_mk_iff]; refine ⟨fun _ => ⟨?_, ?_⟩, ?_, ?_, ?_, ?_⟩)
    | apply Keep.obj ‹Canon _› | apply Keep.mem ‹Canon _› | apply Keep.queue | apply Keep.free | apply Keep.sent
    | apply Keep.decom | split

theorem closeSession_keep (n s) (h_s : Keep o s) :
    Keep o (closeSession n s) := by
  unfold closeSession
  try dsimp only
  repeat' with_reducible first
    | assumption | apply abandonInstall_keep | apply dropRequester_keep
    | (simp only [keep_mk_iff]; refine ⟨fun _ => ⟨?_, ?_⟩, ?_, ?_, ?_, ?_⟩) | apply Keep.obj ‹Canon _›
    | apply Keep.mem ‹Canon _› | apply Keep.queue | apply Keep.free | apply Keep.sent | apply Keep.decom

theorem closeSessions_keep (s) (h_s : Keep o s) :
    Keep o (closeSessions s) := by
  unfold closeSessions
  try dsimp only
  repeat' with_reducible first
    | intro _ | assumption | apply forAll_keep | apply closeSession_keep

theorem tagRecord_keep (n s) (h_s : Keep o s) :
    Keep o (tagRecord n s) := by
  unfold tagRecord
  try dsimp only
  repeat' with_reducible first
    | apply Keep.decom | intro _ | assumption
    | (simp only [keep_mk_iff]; refine ⟨fun _ => ⟨?_, ?_⟩, ?_, ?_, ?_, ?_⟩) | apply Keep.obj ‹Canon _›
    | apply Keep.mem ‹Canon _› | apply Keep.queue | apply Keep.free | apply Keep.sent

theorem ruleOwnerKey_keep (k sub v s0) (h_s0 : Keep o s0) :
    Keep o (ruleOwnerKey k sub v s0).1 := by
  unfold ruleOwnerKey
  try dsimp only
  repeat' with_reducible first
    | intro _ | assumption | apply refused_keep | apply answered_keep | apply tagRecord_keep | apply setO_keep
    | apply ite_keep1

theorem ruleAnchor_keep (a sub v s0) (h_s0 : Keep o s0) :
    Keep o (ruleAnchor a sub v s0).1 := by
  unfold ruleAnchor
  try dsimp only
  repeat' with_reducible first
    | intro _ | assumption | apply refused_keep | apply setO_keep | apply onlyIf_keep | apply answered_keep
    | apply tagRecord_keep | apply ite_keep1

theorem ruleMinVersion_keep (slot v s0) (h_s0 : Keep o s0) :
    Keep o (ruleMinVersion slot v s0).1 := by
  unfold ruleMinVersion
  try dsimp only
  repeat' with_reducible first
    | assumption | apply refused_keep | apply answered_keep | apply setO_keep | apply ite_keep | apply ite_keep1

theorem ruleRaiseMinimum_keep (s0) (h_s0 : Keep o s0) :
    Keep o (ruleRaiseMinimum s0).1 := by
  unfold ruleRaiseMinimum
  try dsimp only
  repeat' with_reducible first
    | assumption | apply refused_keep | apply actionDone_keep | apply maxO_keep | apply ite_keep | apply ite_keep1

theorem execRaiseMinimum_keep (who value s) (h_s : Keep o s) :
    KeepN o (execRaiseMinimum who value s) := by
  unfold execRaiseMinimum
  try dsimp only
  repeat' with_reducible first
    | intro _ | assumption | apply served_keep | apply ruleRaiseMinimum_keep | apply next_keep

theorem eraseKeys_keep (s) (h_s : Keep o s) :
    Keep o (eraseKeys s) := by
  unfold eraseKeys
  try dsimp only
  repeat' with_reducible first
    | apply Keep.decom | intro _ | assumption | apply forAll_keep | apply setO_keep | split
    | (simp only [keep_mk_iff]; refine ⟨fun _ => ⟨?_, ?_⟩, ?_, ?_, ?_, ?_⟩) | apply Keep.obj ‹Canon _›
    | apply Keep.mem ‹Canon _› | apply Keep.queue | apply Keep.free | apply Keep.sent | apply rising_filter
    | apply rising_drop

theorem ruleZeroise_keep (s0) (h_s0 : Keep o s0) :
    Keep o (ruleZeroise s0).1 := by
  unfold ruleZeroise
  try dsimp only
  repeat' with_reducible first
    | assumption | apply refused_keep | apply eraseKeys_keep | apply actionDone_keep | apply ite_keep
    | apply ite_keep1 | apply ite_rule_keep | (simp only [keep_mk_iff]; refine ⟨fun _ => ⟨?_, ?_⟩, ?_, ?_, ?_, ?_⟩)
    | apply Keep.obj ‹Canon _› | apply Keep.mem ‹Canon _› | apply Keep.queue | apply Keep.free | apply Keep.sent
    | apply Keep.decom

theorem execZeroise_keep (who value s) (h_s : Keep o s) :
    KeepN o (execZeroise who value s) := by
  unfold execZeroise
  try dsimp only
  repeat' with_reducible first
    | intro _ | assumption | apply served_keep | apply ruleZeroise_keep | apply closeSessions_keep | apply ite_keep
    | apply ite_keepN | apply next_keep

theorem ruleDecommission_keep (s0) (h_s0 : Keep o s0) : Keep o (ruleDecommission s0).1 := by
  unfold ruleDecommission
  refine ite_keep1 (refused_keep _ _ h_s0) (actionDone_keep _ ?_)
  have h := setO_keep nS 0x7300 3 0 h_s0
  generalize setO nS 0x7300 3 0 s0 = t at h ⊢
  exact ⟨fun c => ⟨(h.canon c).obj, (h.canon c).mem⟩, h.queue, h.free, h.sent, fun _ => rfl⟩

theorem execDecommission_keep (who value s) (h_s : Keep o s) :
    KeepN o (execDecommission who value s) := by
  unfold execDecommission
  try dsimp only
  repeat' with_reducible first
    | intro _ | assumption | apply served_keep | apply ruleDecommission_keep | apply closeSessions_keep
    | apply ite_keep | apply ite_keepN | apply next_keep

theorem ruleAttest_keep (who nonce s0) (h_s0 : Keep o s0) :
    Keep o (ruleAttest who nonce s0).1 := by
  unfold ruleAttest
  try dsimp only
  repeat' with_reducible first
    | assumption | apply refused_keep | apply actionDone_keep | apply setReq_keep | apply ite_keep | apply ite_keep1

theorem execAttestation_keep (who nonce s) (h_s : Keep o s) :
    KeepN o (execAttestation who nonce s) := by
  unfold execAttestation
  try dsimp only
  repeat' with_reducible first
    | intro _ | assumption | apply served_keep | apply ruleAttest_keep | apply next_keep

/-! Machine/Partitions.lean -/

theorem waitForWork_keep (p s) (h_s : Keep o s) :
    Keep o (waitForWork p s).1 := by
  unfold waitForWork
  try dsimp only
  repeat' with_reducible first
    | apply Keep.decom | intro _ | assumption | apply refusedBusy_keep | apply answerWaits_keep | apply getD_keep
    | apply ite_keep1 | apply ite_keep | apply ite_rule_keep | refine keep_of_some (by assumption) ?_ | split
    | (simp only [keep_mk_iff]; refine ⟨fun _ => ⟨?_, ?_⟩, ?_, ?_, ?_, ?_⟩) | apply Keep.obj ‹Canon _›
    | apply Keep.mem ‹Canon _› | apply Keep.queue | apply Keep.free | apply Keep.sent

theorem verifyAtStart_keep (p s) (h_s : Keep o s) :
    Keep o (verifyAtStart p s) := by
  unfold verifyAtStart
  try dsimp only
  repeat' with_reducible first
    | intro _ | assumption | apply showVerified_keep | apply verifyTarget_keep | apply ite_keep | apply ite_keep1
    | refine keep_of_some (by assumption) ?_ | split

theorem placeImage_keep (p flashError s) (h_s : Keep o s) :
    Keep o (placeImage p flashError s).1 := by
  unfold placeImage
  try dsimp only
  repeat' with_reducible first
    | intro _ | assumption | apply ioWrite_keep | apply ite_keep1 | apply ite_keep
    | refine keep_of_pair (by assumption) ?_ | refine keep_of_some (by assumption) ?_ | split

theorem releaseHart_keep (p pc addr h s) (h_s : Keep o s) :
    Keep o (releaseHart p pc addr h s) := by
  unfold releaseHart
  try dsimp only
  repeat' with_reducible first
    | intro _ | assumption | apply setHart_keep

theorem releasePartition_keep (p s) (h_s : Keep o s) :
    Keep o (releasePartition p s) := by
  unfold releasePartition
  try dsimp only
  repeat' with_reducible first
    | intro _ | assumption | apply setO_keep | apply forAll_keep | apply armQueue_keep | apply releaseHart_keep
    | apply setVit_keep | apply addO_keep | apply runAll_cons_keep | apply runAll_nil_keep | apply rising_filter
    | (simp only [keep_mk_iff]; refine ⟨fun _ => ⟨?_, ?_⟩, ?_, ?_, ?_, ?_⟩) | apply Keep.obj ‹Canon _›
    | apply Keep.mem ‹Canon _› | apply Keep.queue | apply Keep.free | apply Keep.sent | apply Keep.decom

theorem runStart_keep (p flashError s) (h_s : Keep o s) :
    Keep o (runStart p flashError s).1 := by
  unfold runStart
  try dsimp only
  repeat' with_reducible first
    | intro _ | assumption | apply placeImage_keep | apply releasePartition_keep | apply setO_keep
    | refine keep_of_pair (by assumption) ?_ | split

theorem launch_keep (p act flashError s) (h_s : Keep o s) :
    Keep o (launch p act flashError s).1 := by
  unfold launch
  try dsimp only
  repeat' with_reducible first
    | apply Keep.decom | intro _ | assumption | apply setO_keep | apply runStart_keep | apply ite_keep1
    | apply ite_keep | refine keep_of_pair (by assumption) ?_ | split
    | (simp only [keep_mk_iff]; refine ⟨fun _ => ⟨?_, ?_⟩, ?_, ?_, ?_, ?_⟩) | apply Keep.obj ‹Canon _›
    | apply Keep.mem ‹Canon _› | apply Keep.queue | apply Keep.free | apply Keep.sent

theorem endOwned_keep (act status detail s) (h_s : Keep o s) :
    Keep o (endOwned act status detail s) := by
  unfold endOwned
  try dsimp only
  repeat' with_reducible first
    | intro _ | assumption | apply endAction_keep | refine keep_of_pair (by assumption) ?_ | split

theorem resumeStart_keep (p s) (h_s : Keep o s) :
    Keep o (resumeStart p s) := by
  unfold resumeStart
  try dsimp only
  repeat' with_reducible first
    | intro _ | assumption | apply runStart_keep | apply dropStart_keep | apply endOwned_keep | apply ite_keep
    | apply ite_keep1 | refine keep_of_pair (by assumption) ?_ | split

theorem resumeStarts_keep (s) (h_s : Keep o s) :
    Keep o (resumeStarts s) := by
  unfold resumeStarts
  try dsimp only
  repeat' with_reducible first
    | intro _ | assumption | apply forAll_keep | apply resumeStart_keep

theorem ruleStart_keep (who p s0) (h_s0 : Keep o s0) :
    Keep o (ruleStart who p s0).1 := by
  unfold ruleStart
  try dsimp only
  repeat' with_reducible first
    | intro _ | assumption | apply verifyAtStart_keep | apply refused_keep | apply launch_keep | apply next_keep
    | apply ite_keep1 | apply ite_keep

theorem execPartitionStart_keep (who value flashError s) (h_s : Keep o s) :
    KeepN o (execPartitionStart who value flashError s) := by
  unfold execPartitionStart
  try dsimp only
  repeat' with_reducible first
    | intro _ | assumption | apply servedWith_keep | apply ruleStart_keep | apply next_keep

theorem beginStop_keep (p x s) (h_s : Keep o s) :
    Keep o (beginStop p x s).1 := by
  unfold beginStop
  try dsimp only
  repeat' with_reducible first
    | apply Keep.decom | intro _ | assumption | apply stopResources_keep | apply discardWaiting_keep
    | apply cancelStart_keep | apply settle_keep | apply setO_keep | apply ite_keep1 | apply ite_keep
    | (simp only [keep_mk_iff]; refine ⟨fun _ => ⟨?_, ?_⟩, ?_, ?_, ?_, ?_⟩) | apply Keep.obj ‹Canon _›
    | apply Keep.mem ‹Canon _› | apply Keep.queue | apply Keep.free | apply Keep.sent

theorem ruleStop_keep (who p s0) (h_s0 : Keep o s0) :
    Keep o (ruleStop who p s0).1 := by
  unfold ruleStop
  try dsimp only
  repeat' with_reducible first
    | intro _ | assumption | apply beginStop_keep | apply refused_keep | apply next_keep | apply ite_keep1

theorem execPartitionStop_keep (who value s) (h_s : Keep o s) :
    KeepN o (execPartitionStop who value s) := by
  unfold execPartitionStop
  try dsimp only
  repeat' with_reducible first
    | intro _ | assumption | apply served_keep | apply ruleStop_keep | apply next_keep

theorem relaunch_keep (p act flashError s) (h_s : Keep o s) :
    Keep o (relaunch p act flashError s).1 := by
  unfold relaunch
  try dsimp only
  repeat' with_reducible first
    | intro _ | assumption | apply verifyAtStart_keep | apply launch_keep | apply ite_keep1

theorem ruleRestart_keep (who p s0) (h_s0 : Keep o s0) :
    Keep o (ruleRestart who p s0).1 := by
  unfold ruleRestart
  try dsimp only
  repeat' with_reducible first
    | intro _ | assumption | apply refused_keep | apply beginStop_keep | apply relaunch_keep | apply next_keep
    | apply ite_keep1 | apply ite_keep | apply ite_rule_keep | refine keep_of_next (by assumption) ?_
    | refine keep_of_pair (by assumption) ?_ | split

theorem execPartitionRestart_keep (who value flashError s) (h_s : Keep o s) :
    KeepN o (execPartitionRestart who value flashError s) := by
  unfold execPartitionRestart
  try dsimp only
  repeat' with_reducible first
    | intro _ | assumption | apply servedWith_keep | apply ruleRestart_keep | apply next_keep

theorem endStop_keep (p x s) (h_s : Keep o s) :
    Keep o (endStop p x s) := by
  unfold endStop
  try dsimp only
  repeat' with_reducible first
    | apply Keep.decom | intro _ | assumption | apply settle_keep | apply setO_keep | apply onlyIf_keep
    | apply relaunch_keep | apply endOwned_keep | apply ite_keep | apply ite_keep1
    | refine keep_of_pair (by assumption) ?_ | split
    | (simp only [keep_mk_iff]; refine ⟨fun _ => ⟨?_, ?_⟩, ?_, ?_, ?_, ?_⟩) | apply Keep.obj ‹Canon _›
    | apply Keep.mem ‹Canon _› | apply Keep.queue | apply Keep.free | apply Keep.sent

theorem execDomainClear_keep (domain s) (h_s : Keep o s) :
    KeepN o (execDomainClear domain s) := by
  unfold execDomainClear
  try dsimp only
  repeat' with_reducible first
    | intro _ | assumption | apply endStop_keep | apply clearPhase_keep | apply setO_keep | apply within_keep
    | apply ite_keepN | apply ite_keep | apply ite_keep1 | refine keep_of_some (by assumption) ?_ | split

theorem autoStart_keep (p flashError s) (h_s : Keep o s) :
    Keep o (autoStart p flashError s) := by
  unfold autoStart
  try dsimp only
  repeat' with_reducible first
    | apply Keep.decom | intro _ | assumption | apply verifyAtStart_keep | apply launch_keep | apply addO_keep
    | apply ite_keep | apply ite_keep1 | (simp only [keep_mk_iff]; refine ⟨fun _ => ⟨?_, ?_⟩, ?_, ?_, ?_, ?_⟩)
    | apply Keep.obj ‹Canon _› | apply Keep.mem ‹Canon _› | apply Keep.queue | apply Keep.free | apply Keep.sent

theorem execAutomaticStart_keep (partition flashError s) (h_s : Keep o s) :
    KeepN o (execAutomaticStart partition flashError s) := by
  unfold execAutomaticStart
  try dsimp only
  repeat' with_reducible first
    | intro _ | assumption | apply setO_keep | apply autoStart_keep | apply within_keep | apply ite_keepN
    | apply ite_keep

theorem autoStartAll_keep (flash s) (h_s : Keep o s) :
    Keep o (autoStartAll flash s) := by
  unfold autoStartAll
  try dsimp only
  repeat' with_reducible first
    | intro _ | assumption | apply forAll_keep | apply verifyAtStart_keep | apply launch_keep | apply ite_keep

theorem leaveLimp_keep (flash s) (h_s : Keep o s) :
    Keep o (leaveLimp flash s) := by
  unfold leaveLimp
  try dsimp only
  repeat' with_reducible first
    | intro _ | assumption | apply changeMode_keep | apply setO_keep | apply autoStartAll_keep | apply ite_keep

theorem fittedWrite_keep (s) (h_s : Keep o s) :
    Keep o (fittedWrite s) := by
  unfold fittedWrite
  try dsimp only
  repeat' with_reducible first
    | intro _ | assumption | apply leaveLimp_keep | apply ite_keep

theorem ruleLegacyMask_keep (g sub v s0) (h_s0 : Keep o s0) :
    Keep o (ruleLegacyMask g sub v s0).1 := by
  unfold ruleLegacyMask
  try dsimp only
  repeat' with_reducible first
    | assumption | apply answered_keep | apply fittedWrite_keep | apply forceWays_keep | apply setO_keep

theorem ruleNsEnable_keep (n value s0) (h_s0 : Keep o s0) :
    Keep o (ruleNsEnable n value s0).1 := by
  unfold ruleNsEnable
  try dsimp only
  repeat' with_reducible first
    | intro _ | assumption | apply answered_keep | apply fittedWrite_keep | apply setO_keep | apply refused_keep
    | apply ite_keep1

theorem execNamespaceEnable_keep (who ns value s) (h_s : Keep o s) :
    KeepN o (execNamespaceEnable who ns value s) := by
  unfold execNamespaceEnable
  try dsimp only
  repeat' with_reducible first
    | intro _ | assumption | apply within_keep | apply served_keep | apply ruleNsEnable_keep

theorem followDefined_keep (p v s) (h_s : Keep o s) :
    Keep o (followDefined p v s) := by
  unfold followDefined
  try dsimp only
  repeat' with_reducible first
    | assumption | apply setO_keep | apply ite_keep

theorem rulePartition_keep (ix sub v s0) (h_s0 : Keep o s0) :
    Keep o (rulePartition ix sub v s0).1 := by
  unfold rulePartition
  try dsimp only
  repeat' with_reducible first
    | intro _ | assumption | apply setO_keep | apply refusedBusy_keep | apply refused_keep | apply waitForWork_keep
    | apply followDefined_keep | apply dropStraySources_keep | apply forAll_keep | apply forceWays_keep
    | apply answered_keep | apply ringsLoseQueue_keep | apply fittedWrite_keep | apply showVerified_keep
    | apply ite_keep1 | apply ite_keep

theorem execPartitionConfigWrite_keep (who index sub value s) (h_s : Keep o s) :
    KeepN o (execPartitionConfigWrite who index sub value s) := by
  unfold execPartitionConfigWrite
  try dsimp only
  repeat' with_reducible first
    | intro _ | assumption | apply within_keep | apply served_keep | apply rulePartition_keep

/-! Machine/Panel.lean -/

theorem setRef_keep (die v s) (h_s : Keep o s) :
    Keep o (setRef die v s) := by
  unfold setRef
  try dsimp only
  repeat' with_reducible first
    | assumption | apply setO_keep

theorem powerRef_keep (die s) (h_s : Keep o s) :
    Keep o (powerRef die s) := by
  unfold powerRef
  try dsimp only
  repeat' with_reducible first
    | assumption | apply setRef_keep

theorem unpowerRef_keep (die s) (h_s : Keep o s) :
    Keep o (unpowerRef die s) := by
  unfold unpowerRef
  try dsimp only
  repeat' with_reducible first
    | intro _ | assumption | apply setRef_keep
    | (simp only [keep_mk_iff]; refine ⟨fun _ => ⟨?_, ?_⟩, ?_, ?_, ?_, ?_⟩) | apply Keep.obj ‹Canon _›
    | apply Keep.mem ‹Canon _› | apply Keep.queue | apply Keep.free | apply Keep.sent | apply Keep.decom

theorem powerSite_keep (n s) (h_s : Keep o s) :
    Keep o (powerSite n s) := by
  unfold powerSite
  try dsimp only
  repeat' with_reducible first
    | apply Keep.decom | intro _ | assumption | apply powerRef_keep
    | (simp only [keep_mk_iff]; refine ⟨fun _ => ⟨?_, ?_⟩, ?_, ?_, ?_, ?_⟩) | apply Keep.obj ‹Canon _›
    | apply Keep.mem ‹Canon _› | apply Keep.queue | apply Keep.free | apply Keep.sent

theorem unpowerSite_keep (n s) (h_s : Keep o s) :
    Keep o (unpowerSite n s) := by
  unfold unpowerSite
  try dsimp only
  repeat' with_reducible first
    | apply Keep.decom | intro _ | assumption | apply unpowerRef_keep
    | (simp only [keep_mk_iff]; refine ⟨fun _ => ⟨?_, ?_⟩, ?_, ?_, ?_, ?_⟩) | apply Keep.obj ‹Canon _›
    | apply Keep.mem ‹Canon _› | apply Keep.queue | apply Keep.free | apply Keep.sent

theorem setMod_keep (die m sub v s) (h_s : Keep o s) :
    Keep o (setMod die m sub v s) := by
  unfold setMod
  try dsimp only
  repeat' with_reducible first
    | assumption | apply setO_keep

theorem addMod_keep (die m sub s) (h_s : Keep o s) :
    Keep o (addMod die m sub s) := by
  unfold addMod
  try dsimp only
  repeat' with_reducible first
    | assumption | apply addO_keep

theorem showLanes_keep (die s) (h_s : Keep o s) :
    Keep o (showLanes die s) := by
  unfold showLanes
  try dsimp only
  repeat' with_reducible first
    | intro _ | assumption | apply onlyIf_keep | apply setO_keep

theorem trainModule_keep (die keep m bad s) (h_s : Keep o s) :
    Keep o (trainModule die keep m bad s) := by
  unfold trainModule
  try dsimp only
  repeat' with_reducible first
    | intro _ | assumption | apply setMod_keep | apply forAll_keep | apply record_keep | apply onlyIf_keep

theorem setEpoch_keep (die m e seen s) (h_s : Keep o s) :
    Keep o (setEpoch die m e seen s) := by
  unfold setEpoch
  try dsimp only
  repeat' with_reducible first
    | apply Keep.decom | intro _ | assumption | apply setMod_keep | apply ite_keep | apply ite_keep1
    | (simp only [keep_mk_iff]; refine ⟨fun _ => ⟨?_, ?_⟩, ?_, ?_, ?_, ?_⟩) | apply Keep.obj ‹Canon _›
    | apply Keep.mem ‹Canon _› | apply Keep.queue | apply Keep.free | apply Keep.sent

theorem initialTraining_keep (die keep bad s) (h_s : Keep o s) :
    Keep o (initialTraining die keep bad s) := by
  unfold initialTraining
  try dsimp only
  repeat' with_reducible first
    | apply Keep.decom | intro _ | assumption | apply forAll_keep | apply setEpoch_keep | apply trainModule_keep
    | apply showLanes_keep | (simp only [keep_mk_iff]; refine ⟨fun _ => ⟨?_, ?_⟩, ?_, ?_, ?_, ?_⟩)
    | apply Keep.obj ‹Canon _› | apply Keep.mem ‹Canon _› | apply Keep.queue | apply Keep.free | apply Keep.sent

theorem beginTraining_keep (die ms s) (h_s : Keep o s) :
    Keep o (beginTraining die ms s) := by
  unfold beginTraining
  try dsimp only
  repeat' with_reducible first
    | apply Keep.decom | intro _ | assumption | apply setO_keep | apply onlyIf_keep | apply foldl_keep
    | apply foldl_keep1 | apply ite_keep | apply ite_keep1
    | (simp only [keep_mk_iff]; refine ⟨fun _ => ⟨?_, ?_⟩, ?_, ?_, ?_, ?_⟩) | apply Keep.obj ‹Canon _›
    | apply Keep.mem ‹Canon _› | apply Keep.queue | apply Keep.free | apply Keep.sent

theorem retagMessages_keep (g s) (h_s : Keep o s) :
    Keep o (retagMessages g s) := by
  unfold retagMessages
  try dsimp only
  repeat' with_reducible first
    | apply Keep.decom | intro _ | assumption | apply ite_keep | apply ite_keep1
    | (simp only [keep_mk_iff]; refine ⟨fun _ => ⟨?_, ?_⟩, ?_, ?_, ?_, ?_⟩) | apply Keep.obj ‹Canon _›
    | apply Keep.mem ‹Canon _› | apply Keep.queue | apply Keep.free | apply Keep.sent

theorem endFence_keep (g s) (h_s : Keep o s) :
    Keep o (endFence g s) := by
  unfold endFence
  try dsimp only
  repeat' with_reducible first
    | intro _ | assumption | apply endClosing_keep | apply admitWaiting_keep | apply retagMessages_keep
    | apply setO_keep

theorem endTraining_keep (die s) (h_s : Keep o s) :
    Keep o (endTraining die s) := by
  unfold endTraining
  try dsimp only
  repeat' with_reducible first
    | apply Keep.decom | intro _ | assumption | apply onlyIf_keep | apply endFence_keep
    | (simp only [keep_mk_iff]; refine ⟨fun _ => ⟨?_, ?_⟩, ?_, ?_, ?_, ?_⟩) | apply Keep.obj ‹Canon _›
    | apply Keep.mem ‹Canon _› | apply Keep.queue | apply Keep.free | apply Keep.sent

theorem stopTransition_keep (outcome cause s) (h_s : Keep o s) :
    Keep o (stopTransition outcome cause s) := by
  unfold stopTransition
  try dsimp only
  repeat' with_reducible first
    | intro _ | assumption | apply setLastTransition_keep | apply setO_keep | apply endAction_keep
    | apply onlyIf_keep | apply enterLimp_keep | apply ite_keep
    | (simp only [keep_mk_iff]; refine ⟨fun _ => ⟨?_, ?_⟩, ?_, ?_, ?_, ?_⟩) | apply Keep.obj ‹Canon _›
    | apply Keep.mem ‹Canon _› | apply Keep.queue | apply Keep.free | apply Keep.sent | apply Keep.decom | split

theorem abandonTransition_keep (s) (h_s : Keep o s) :
    Keep o (abandonTransition s) := by
  unfold abandonTransition
  try dsimp only
  repeat' with_reducible first
    | assumption | apply stopTransition_keep | apply armAll_keep | apply ite_keep
    | (simp only [keep_mk_iff]; refine ⟨fun _ => ⟨?_, ?_⟩, ?_, ?_, ?_, ?_⟩) | apply Keep.obj ‹Canon _›
    | apply Keep.mem ‹Canon _› | apply Keep.queue | apply Keep.free | apply Keep.sent | apply Keep.decom | split

theorem countReserves_keep (s) (h_s : Keep o s) :
    Keep o (countReserves s) := by
  unfold countReserves
  try dsimp only
  repeat' with_reducible first
    | assumption | apply setO_keep

theorem fenceAndDown_keep (g s) (h_s : Keep o s) :
    Keep o (fenceAndDown g s) := by
  unfold fenceAndDown
  try dsimp only
  repeat' with_reducible first
    | apply Keep.decom | intro _ | assumption | apply forAll_keep | apply domainDown_keep | apply setO_keep
    | (simp only [keep_mk_iff]; refine ⟨fun _ => ⟨?_, ?_⟩, ?_, ?_, ?_, ?_⟩) | apply Keep.obj ‹Canon _›
    | apply Keep.mem ‹Canon _› | apply Keep.queue | apply Keep.free | apply Keep.sent

theorem poisonOwned_keep (g site dom line s) (h_s : Keep o s) :
    Keep o (poisonOwned g site dom line s) := by
  unfold poisonOwned
  try dsimp only
  repeat' with_reducible first
    | intro _ | assumption | apply record_keep | apply ctlWriteback_keep

theorem purgeWbd_keep (g m s) (h_s : Keep o s) :
    Keep o (purgeWbd g m s) := by
  unfold purgeWbd
  try dsimp only
  repeat' with_reducible first
    | intro _ | assumption | apply sendMsg_keep | apply acceptWbd_keep | apply ite_keep | apply ite_keep1 | split

theorem purgeGallery_keep (g site s) (h_s : Keep o s) :
    Keep o (purgeGallery g site s) := by
  unfold purgeGallery
  try dsimp only
  repeat' with_reducible first
    | apply Keep.decom | intro _ | assumption | apply forAll_keep | apply setDir_keep | apply onlyIf_keep
    | apply poisonOwned_keep | apply removeL2_keep | apply purgeWbd_keep
    | (simp only [keep_mk_iff]; refine ⟨fun _ => ⟨?_, ?_⟩, ?_, ?_, ?_, ?_⟩) | apply Keep.obj ‹Canon _›
    | apply Keep.mem ‹Canon _› | apply Keep.queue | apply Keep.free | apply Keep.sent

theorem commitRetired_keep (site reason g s) (h_s : Keep o s) :
    Keep o (commitRetired site reason g s) := by
  unfold commitRetired
  try dsimp only
  repeat' with_reducible first
    | intro _ | assumption | apply record_keep | apply setSite_keep

theorem chooseReserve_keep (s) (h_s : Keep o s) :
    Keep o (chooseReserve s).1 := by
  unfold chooseReserve
  try dsimp only
  repeat' with_reducible first
    | apply Keep.decom | intro _ | assumption | apply powerSite_keep | apply countReserves_keep | apply setSite_keep
    | apply ite_keep1 | apply ite_keep | refine keep_of_pair (by assumption) ?_
    | refine keep_of_some (by assumption) ?_ | split
    | (simp only [keep_mk_iff]; refine ⟨fun _ => ⟨?_, ?_⟩, ?_, ?_, ?_, ?_⟩) | apply Keep.obj ‹Canon _›
    | apply Keep.mem ‹Canon _› | apply Keep.queue | apply Keep.free | apply Keep.sent

theorem promotionRecord_keep (x new outcome s) (h_s : Keep o s) :
    Keep o (promotionRecord x new outcome s) := by
  unfold promotionRecord
  try dsimp only
  repeat' with_reducible first
    | assumption | apply setO_keep

theorem finishPromotion_keep (x new s) (h_s : Keep o s) :
    Keep o (finishPromotion x new s) := by
  unfold finishPromotion
  try dsimp only
  repeat' with_reducible first
    | apply Keep.decom | intro _ | assumption | apply promotionRecord_keep | apply setO_keep | apply endFence_keep
    | apply onlyIf_keep | apply unpowerSite_keep | apply enterLimp_keep | apply resumeStarts_keep | apply foldl_keep
    | apply foldl_keep1 | apply ite_keep | apply ite_keep1 | refine keep_of_some (by assumption) ?_ | split
    | (simp only [keep_mk_iff]; refine ⟨fun _ => ⟨?_, ?_⟩, ?_, ?_, ?_, ?_⟩) | apply Keep.obj ‹Canon _›
    | apply Keep.mem ‹Canon _› | apply Keep.queue | apply Keep.free | apply Keep.sent

theorem beginClears_keep (s) (h_s : Keep o s) :
    Keep o (beginClears s) := by
  unfold beginClears
  try dsimp only
  repeat' with_reducible first
    | intro _ | assumption | apply forAll_keep | apply setO_keep | apply ite_keep

theorem runRetirement_keep (x s) (h_s : Keep o s) :
    Keep o (runRetirement x s).1 := by
  unfold runRetirement
  try dsimp only
  repeat' with_reducible first
    | apply Keep.decom | intro _ | assumption | apply beginClears_keep | apply purgeGallery_keep | apply setO_keep
    | apply commitRetired_keep | apply unpowerSite_keep | apply chooseReserve_keep | apply finishPromotion_keep
    | refine keep_of_pair (by assumption) ?_ | refine keep_of_some (by assumption) ?_ | split
    | (simp only [keep_mk_iff]; refine ⟨fun _ => ⟨?_, ?_⟩, ?_, ?_, ?_, ?_⟩) | apply Keep.obj ‹Canon _›
    | apply Keep.mem ‹Canon _› | apply Keep.queue | apply Keep.free | apply Keep.sent

theorem runQueue_keep (n s) (h_s : Keep o s) : Keep o (runQueue n s) := by
  induction n generalizing s with
  | zero => exact h_s
  | succ n ih =>
    unfold runQueue
    split
    · rename_i x t _ _
      have h1 : Keep o (runRetirement x { s with panel := { s.panel with promoQueue := t } }).1 :=
        runRetirement_keep _ _ (h_s.of_eq rfl rfl rfl rfl rfl rfl)
      split
      · exact keep_of_pair (by assumption) h1
      · exact ih _ (keep_of_pair (by assumption) h1)
    · exact h_s

theorem nextReserve_keep (s) (h_s : Keep o s) :
    Keep o (nextReserve s) := by
  unfold nextReserve
  try dsimp only
  repeat' with_reducible first
    | assumption | apply chooseReserve_keep | apply runQueue_keep | apply finishPromotion_keep
    | refine keep_of_pair (by assumption) ?_ | split

theorem beginRetirement_keep (g reason s) (h_s : Keep o s) :
    Keep o (beginRetirement g reason s) := by
  unfold beginRetirement
  try dsimp only
  repeat' with_reducible first
    | assumption | apply settle_keep | apply fenceAndDown_keep | apply abandonTransition_keep | apply runQueue_keep
    | apply ite_keep | (simp only [keep_mk_iff]; refine ⟨fun _ => ⟨?_, ?_⟩, ?_, ?_, ?_, ?_⟩)
    | apply Keep.obj ‹Canon _› | apply Keep.mem ‹Canon _› | apply Keep.queue | apply Keep.free | apply Keep.sent
    | apply Keep.decom

theorem execGalleryRetirement_keep (gallery reason s) (h_s : Keep o s) :
    KeepN o (execGalleryRetirement gallery reason s) := by
  unfold execGalleryRetirement
  try dsimp only
  repeat' with_reducible first
    | assumption | apply within_keep | apply beginRetirement_keep | apply ite_keep

theorem retireWhenRun_keep (g reason s) (h_s : Keep o s) :
    Keep o (retireWhenRun g reason s) := by
  unfold retireWhenRun
  try dsimp only
  repeat' with_reducible first
    | apply Keep.decom | intro _ | assumption | apply beginRetirement_keep | apply ite_keep | apply ite_keep1
    | (simp only [keep_mk_iff]; refine ⟨fun _ => ⟨?_, ?_⟩, ?_, ?_, ?_, ?_⟩) | apply Keep.obj ‹Canon _›
    | apply Keep.mem ‹Canon _› | apply Keep.queue | apply Keep.free | apply Keep.sent

theorem ruleRetireGallery_keep (g s0) (h_s0 : Keep o s0) :
    Keep o (ruleRetireGallery g s0).1 := by
  unfold ruleRetireGallery
  try dsimp only
  repeat' with_reducible first
    | intro _ | assumption | apply refused_keep | apply actionDone_keep | apply retireWhenRun_keep | apply ite_keep1

theorem execRetireGallery_keep (who value s) (h_s : Keep o s) :
    KeepN o (execRetireGallery who value s) := by
  unfold execRetireGallery
  try dsimp only
  repeat' with_reducible first
    | intro _ | assumption | apply served_keep | apply ruleRetireGallery_keep | apply next_keep

theorem showIdent_keep (site s) (h_s : Keep o s) :
    Keep o (showIdent site s) := by
  unfold showIdent
  try dsimp only
  repeat' with_reducible first
    | assumption | apply setO_keep

theorem handOverWays_keep (g s) (h_s : Keep o s) :
    Keep o (handOverWays g s) := by
  unfold handOverWays
  try dsimp only
  repeat' with_reducible first
    | intro _ | assumption | apply forceGallery_keep | apply showDisabled_keep | apply forAll_keep
    | apply onlyIf_keep | apply setO_keep

theorem clearCouplingObjects_keep (g s) (h_s : Keep o s) :
    Keep o (clearCouplingObjects g s) := by
  unfold clearCouplingObjects
  try dsimp only
  repeat' with_reducible first
    | apply Keep.decom | intro _ | assumption | split
    | (simp only [keep_mk_iff]; refine ⟨fun _ => ⟨?_, ?_⟩, ?_, ?_, ?_, ?_⟩) | apply Keep.obj ‹Canon _›
    | apply Keep.mem ‹Canon _› | apply Keep.queue | apply Keep.free | apply Keep.sent | apply rising_filter
    | apply rising_drop

theorem addBadWays_keep (site ways s) (h_s : Keep o s) :
    Keep o (addBadWays site ways s) := by
  unfold addBadWays
  try dsimp only
  repeat' with_reducible first
    | apply Keep.decom | intro _ | assumption | split
    | (simp only [keep_mk_iff]; refine ⟨fun _ => ⟨?_, ?_⟩, ?_, ?_, ?_, ?_⟩) | apply Keep.obj ‹Canon _›
    | apply Keep.mem ‹Canon _› | apply Keep.queue | apply Keep.free | apply Keep.sent

theorem takeNumber_keep (x r training s) (h_s : Keep o s) :
    Keep o (takeNumber x r training s) := by
  unfold takeNumber
  try dsimp only
  repeat' with_reducible first
    | apply Keep.decom | intro _ | assumption | apply setO_keep | apply setSite_keep
    | apply clearCouplingObjects_keep | apply initialTraining_keep | apply forAll_keep | apply resetHart_keep
    | apply resetVit_keep | apply handOverWays_keep | apply runQueue_keep | apply finishPromotion_keep
    | apply addO_keep | (simp only [keep_mk_iff]; refine ⟨fun _ => ⟨?_, ?_⟩, ?_, ?_, ?_, ?_⟩)
    | apply Keep.obj ‹Canon _› | apply Keep.mem ‹Canon _› | apply Keep.queue | apply Keep.free | apply Keep.sent

theorem reserveFails_keep (x r reason s) (h_s : Keep o s) :
    Keep o (reserveFails x r reason s) := by
  unfold reserveFails
  try dsimp only
  repeat' with_reducible first
    | apply Keep.decom | intro _ | assumption | apply nextReserve_keep | apply unpowerSite_keep
    | apply commitRetired_keep | (simp only [keep_mk_iff]; refine ⟨fun _ => ⟨?_, ?_⟩, ?_, ?_, ?_, ?_⟩)
    | apply Keep.obj ‹Canon _› | apply Keep.mem ‹Canon _› | apply Keep.queue | apply Keep.free | apply Keep.sent

theorem promote_keep (x r training s) (h_s : Keep o s) :
    Keep o (promote x r training s) := by
  unfold promote
  try dsimp only
  repeat' with_reducible first
    | intro _ | assumption | apply reserveFails_keep | apply takeNumber_keep | apply ite_keep

theorem retestDone_keep (site verdict ways s) (h_s : Keep o s) :
    Keep o (retestDone site verdict ways s) := by
  unfold retestDone
  try dsimp only
  repeat' with_reducible first
    | apply Keep.decom | intro _ | assumption | apply unpowerSite_keep | apply showIdent_keep
    | apply countReserves_keep | apply setSite_keep | apply forAll_keep | apply endAction_keep | apply ite_keep
    | apply ite_keep1 | refine keep_of_pair (by assumption) ?_ | split
    | (simp only [keep_mk_iff]; refine ⟨fun _ => ⟨?_, ?_⟩, ?_, ?_, ?_, ?_⟩) | apply Keep.obj ‹Canon _›
    | apply Keep.mem ‹Canon _› | apply Keep.queue | apply Keep.free | apply Keep.sent

theorem ruleRetestSite_keep (who n s0) (h_s0 : Keep o s0) :
    Keep o (ruleRetestSite who n s0).1 := by
  unfold ruleRetestSite
  try dsimp only
  repeat' with_reducible first
    | apply Keep.decom | intro _ | assumption | apply refused_keep | apply actionPending_keep | apply powerSite_keep
    | apply next_keep | apply ite_keep1 | apply ite_keep | apply ite_rule_keep
    | (simp only [keep_mk_iff]; refine ⟨fun _ => ⟨?_, ?_⟩, ?_, ?_, ?_, ?_⟩) | apply Keep.obj ‹Canon _›
    | apply Keep.mem ‹Canon _› | apply Keep.queue | apply Keep.free | apply Keep.sent

theorem execRetestSite_keep (who value s) (h_s : Keep o s) :
    KeepN o (execRetestSite who value s) := by
  unfold execRetestSite
  try dsimp only
  repeat' with_reducible first
    | intro _ | assumption | apply served_keep | apply ruleRetestSite_keep | apply next_keep

theorem execFlitCrcError_keep (die module again s) (h_s : Keep o s) :
    KeepN o (execFlitCrcError die module again s) := by
  unfold execFlitCrcError
  try dsimp only
  repeat' with_reducible first
    | apply Keep.decom | intro _ | assumption | apply addMod_keep | apply within_keep | apply ite_keepN
    | apply ite_keep | apply ite_keep1 | (simp only [keep_mk_iff]; refine ⟨fun _ => ⟨?_, ?_⟩, ?_, ?_, ?_, ?_⟩)
    | apply Keep.obj ‹Canon _› | apply Keep.mem ‹Canon _› | apply Keep.queue | apply Keep.free | apply Keep.sent

theorem execRecoveryRetraining_keep (die module s) (h_s : Keep o s) :
    KeepN o (execRecoveryRetraining die module s) := by
  unfold execRecoveryRetraining
  try dsimp only
  repeat' with_reducible first
    | apply Keep.decom | intro _ | assumption | apply beginTraining_keep | apply within_keep | apply ite_keepN
    | apply ite_keep | apply ite_keep1 | (simp only [keep_mk_iff]; refine ⟨fun _ => ⟨?_, ?_⟩, ?_, ?_, ?_, ?_⟩)
    | apply Keep.obj ‹Canon _› | apply Keep.mem ‹Canon _› | apply Keep.queue | apply Keep.free | apply Keep.sent

theorem couplingsFail_keep (die reason s) (h_s : Keep o s) :
    Keep o (couplingsFail die reason s) := by
  unfold couplingsFail
  try dsimp only
  repeat' with_reducible first
    | assumption | apply beginRetirement_keep | apply settle_keep | apply dieUnavailable_keep
    | apply endTraining_keep | apply ite_keep

theorem mismatch_keep (die s) (h_s : Keep o s) :
    Keep o (mismatch die s) := by
  unfold mismatch
  try dsimp only
  repeat' with_reducible first
    | intro _ | assumption | apply beginTraining_keep | apply countHit_keep | apply record_keep | apply onlyIf_keep
    | apply couplingsFail_keep | apply ite_keep | apply rising_filter | apply foldl_keep | apply foldl_keep1
    | (simp only [keep_mk_iff]; refine ⟨fun _ => ⟨?_, ?_⟩, ?_, ?_, ?_, ?_⟩) | apply Keep.obj ‹Canon _›
    | apply Keep.mem ‹Canon _› | apply Keep.queue | apply Keep.free | apply Keep.sent | apply Keep.decom

theorem settleTraining_keep (die s) (h_s : Keep o s) :
    Keep o (settleTraining die s) := by
  unfold settleTraining
  try dsimp only
  repeat' with_reducible first
    | intro _ | assumption | apply showLanes_keep | apply couplingsFail_keep | apply onlyIf_keep
    | apply dieBack_keep | apply resumeStarts_keep | apply endTraining_keep | apply ite_keep

theorem fullDone_keep (die bad seen s) (h_s : Keep o s) :
    Keep o (fullDone die bad seen s) := by
  unfold fullDone
  try dsimp only
  repeat' with_reducible first
    | intro _ | assumption | apply settleTraining_keep | apply forAll_keep | apply addMod_keep | apply setEpoch_keep
    | apply trainModule_keep

theorem retestResult_keep (die m bad s) (h_s : Keep o s) :
    Keep o (retestResult die m bad s) := by
  unfold retestResult
  try dsimp only
  repeat' with_reducible first
    | assumption | apply record_keep | apply setMod_keep | apply trainModule_keep | apply ite_keep

theorem recoveryDone_keep (die bad seen s) (h_s : Keep o s) :
    Keep o (recoveryDone die bad seen s) := by
  unfold recoveryDone
  try dsimp only
  repeat' with_reducible first
    | apply Keep.decom | intro _ | assumption | apply forAll_keep | apply addMod_keep | apply setEpoch_keep
    | apply retestResult_keep | apply countHit_keep | apply record_keep | apply settleTraining_keep
    | apply endTraining_keep | apply showLanes_keep | apply beginTraining_keep | apply foldl_keep
    | apply foldl_keep1 | apply ite_keep | apply ite_keep1 | refine keep_of_pair (by assumption) ?_ | split
    | (simp only [keep_mk_iff]; refine ⟨fun _ => ⟨?_, ?_⟩, ?_, ?_, ?_, ?_⟩) | apply Keep.obj ‹Canon _›
    | apply Keep.mem ‹Canon _› | apply Keep.queue | apply Keep.free | apply Keep.sent

theorem execTrainingComplete_keep (die result s) (h_s : Keep o s) :
    KeepN o (execTrainingComplete die result s) := by
  unfold execTrainingComplete
  try dsimp only
  repeat' with_reducible first
    | intro _ | assumption | apply couplingsFail_keep | apply fullDone_keep | apply settleTraining_keep
    | apply initialTraining_keep | apply recoveryDone_keep | apply mismatch_keep | apply within_keep
    | apply ite_keepN | apply ite_keep | apply ite_keep1 | split

theorem execArchiveDieRetrain_keep (die failed s) (h_s : Keep o s) :
    KeepN o (execArchiveDieRetrain die failed s) := by
  unfold execArchiveDieRetrain
  try dsimp only
  repeat' with_reducible first
    | apply Keep.decom | intro _ | assumption | apply settleTraining_keep | apply initialTraining_keep
    | apply setEpoch_keep | apply trainModule_keep | apply mismatch_keep | apply within_keep | apply ite_keepN
    | apply ite_keep | apply ite_keep1 | refine keep_of_some (by assumption) ?_ | split
    | (simp only [keep_mk_iff]; refine ⟨fun _ => ⟨?_, ?_⟩, ?_, ?_, ?_, ?_⟩) | apply Keep.obj ‹Canon _›
    | apply Keep.mem ‹Canon _› | apply Keep.queue | apply Keep.free | apply Keep.sent

theorem execTrainingTimeout_keep (die s) (h_s : Keep o s) :
    KeepN o (execTrainingTimeout die s) := by
  unfold execTrainingTimeout
  try dsimp only
  repeat' with_reducible first
    | assumption | apply within_keep | apply couplingsFail_keep | apply ite_keep

theorem execCouplingEndReset_keep (die rotundaEnd s) (h_s : Keep o s) :
    KeepN o (execCouplingEndReset die rotundaEnd s) := by
  unfold execCouplingEndReset
  try dsimp only
  repeat' with_reducible first
    | intro _ | assumption | apply within_keep | apply beginTraining_keep | apply forAll_keep | apply setMod_keep
    | apply ite_keep | apply ite_keepN | apply next_keep | apply fault_keep
    | (simp only [keep_mk_iff]; refine ⟨fun _ => ⟨?_, ?_⟩, ?_, ?_, ?_, ?_⟩) | apply Keep.obj ‹Canon _›
    | apply Keep.mem ‹Canon _› | apply Keep.queue | apply Keep.free | apply Keep.sent | apply Keep.decom

/-! Machine/Arrays.lean -/

theorem retireWorn_keep (g s) (h_s : Keep o s) :
    Keep o (retireWorn g s) := by
  unfold retireWorn
  try dsimp only
  repeat' with_reducible first
    | intro _ | assumption | apply retireWhenRun_keep

theorem clusterError_keep (v fatal r s) (h_s : Keep o s) :
    Keep o (clusterError v fatal r s) := by
  unfold clusterError
  try dsimp only
  repeat' with_reducible first
    | intro _ | assumption | apply onlyIf_keep | apply retireWorn_keep | apply record_keep | apply clusterHit_keep

theorem coreArrayError_keep (hart array entry words fatal s) (h_s : Keep o s) :
    Keep o (coreArrayError hart array entry words fatal s) := by
  unfold coreArrayError
  try dsimp only
  repeat' with_reducible first
    | intro _ | assumption | apply clusterError_keep | apply onlyIf_keep | apply setHart_keep

theorem wayError_keep (g w sub action form addr fatal s) (h_s : Keep o s) :
    Keep o (wayError g w sub action form addr fatal s) := by
  unfold wayError
  try dsimp only
  repeat' with_reducible first
    | intro _ | assumption | apply onlyIf_keep | apply retireWorn_keep | apply disableWay_keep | apply record_keep
    | apply countHit_keep | apply addO_keep | apply ite_keep

theorem loseData_keep (g line words s) (h_s : Keep o s) :
    Keep o (loseData g line words s) := by
  unfold loseData
  try dsimp only
  repeat' with_reducible first
    | assumption | apply poisonL2_keep | apply removeL2_keep | split

theorem l2DataError_keep (g w line words fatal s) (h_s : Keep o s) :
    Keep o (l2DataError g w line words fatal s) := by
  unfold l2DataError
  try dsimp only
  repeat' with_reducible first
    | intro _ | assumption | apply wayError_keep | apply onlyIf_keep | apply loseData_keep

theorem l2TagError_keep (g w line fatal s) (h_s : Keep o s) :
    Keep o (l2TagError g w line fatal s) := by
  unfold l2TagError
  try dsimp only
  repeat' with_reducible first
    | assumption | apply wayError_keep | apply domainDown_keep | apply removeL2_keep | apply ite_keep | split

theorem meetArrayError_keep (hart e s) (h_s : Keep o s) :
    Keep o (meetArrayError hart e s) := by
  unfold meetArrayError
  try dsimp only
  repeat' with_reducible first
    | assumption | apply coreArrayError_keep | apply l2TagError_keep | apply l2DataError_keep | apply ite_keep
    | split

/-! Machine/Clocks.lean -/

theorem tick_keep (s) (h_s : Keep o s) :
    Keep o (tick s) := by
  unfold tick
  try dsimp only
  repeat' with_reducible first
    | assumption | apply ite_keep | (simp only [keep_mk_iff]; refine ⟨fun _ => ⟨?_, ?_⟩, ?_, ?_, ?_, ?_⟩)
    | apply Keep.obj ‹Canon _› | apply Keep.mem ‹Canon _› | apply Keep.queue | apply Keep.free | apply Keep.sent
    | apply Keep.decom

theorem newRate_keep (s) (h_s : Keep o s) :
    Keep o (newRate s) := by
  unfold newRate
  try dsimp only
  repeat' with_reducible first
    | assumption | apply takeFree_keep | apply setI_keep

theorem forwardStep_keep (offset s) (h_s : Keep o s) :
    Keep o (forwardStep offset s) := by
  unfold forwardStep
  try dsimp only
  repeat' with_reducible first
    | apply Keep.decom | intro _ | assumption | apply addO_keep | apply ite_keep | apply ite_keep1
    | (simp only [keep_mk_iff]; refine ⟨fun _ => ⟨?_, ?_⟩, ?_, ?_, ?_, ?_⟩) | apply Keep.obj ‹Canon _›
    | apply Keep.mem ‹Canon _› | apply Keep.queue | apply Keep.free | apply Keep.sent

theorem lockAfter_keep (offset s) (h_s : Keep o s) :
    Keep o (lockAfter offset s) := by
  unfold lockAfter
  try dsimp only
  repeat' with_reducible first
    | assumption | apply setO_keep | apply ite_keep
    | (simp only [keep_mk_iff]; refine ⟨fun _ => ⟨?_, ?_⟩, ?_, ?_, ?_, ?_⟩) | apply Keep.obj ‹Canon _›
    | apply Keep.mem ‹Canon _› | apply Keep.queue | apply Keep.free | apply Keep.sent | apply Keep.decom

theorem execSyncMessageReceived_keep (port ieee1588 offset s) (h_s : Keep o s) :
    KeepN o (execSyncMessageReceived port ieee1588 offset s) := by
  unfold execSyncMessageReceived
  try dsimp only
  repeat' with_reducible first
    | intro _ | assumption | apply lockAfter_keep | apply forwardStep_keep | apply newRate_keep | apply setI_keep
    | apply within_keep | apply ite_keepN | apply ite_keep

theorem execHoldoverEntry_keep (s) (h_s : Keep o s) :
    KeepN o (execHoldoverEntry s) := by
  unfold execHoldoverEntry
  try dsimp only
  repeat' with_reducible first
    | assumption | apply addO_keep | apply setO_keep | apply ite_keep | apply ite_keepN | apply next_keep
    | apply fault_keep | (simp only [keep_mk_iff]; refine ⟨fun _ => ⟨?_, ?_⟩, ?_, ?_, ?_, ?_⟩)
    | apply Keep.obj ‹Canon _› | apply Keep.mem ‹Canon _› | apply Keep.queue | apply Keep.free | apply Keep.sent
    | apply Keep.decom

theorem ruleDiscipline_keep (v s0) (h_s0 : Keep o s0) :
    Keep o (ruleDiscipline v s0).1 := by
  unfold ruleDiscipline
  try dsimp only
  repeat' with_reducible first
    | assumption | apply refused_keep | apply answered_keep | apply setO_keep | apply ite_keep | apply ite_keep1
    | apply ite_rule_keep | (simp only [keep_mk_iff]; refine ⟨fun _ => ⟨?_, ?_⟩, ?_, ?_, ?_, ?_⟩)
    | apply Keep.obj ‹Canon _› | apply Keep.mem ‹Canon _› | apply Keep.queue | apply Keep.free | apply Keep.sent
    | apply Keep.decom

theorem countOptical_keep (die s) (h_s : Keep o s) :
    Keep o (countOptical die s) := by
  unfold countOptical
  try dsimp only
  repeat' with_reducible first
    | apply Keep.decom | intro _ | assumption | apply countHit_keep | apply record_keep | apply ite_keep
    | apply ite_keep1 | refine keep_of_pair (by assumption) ?_ | split
    | (simp only [keep_mk_iff]; refine ⟨fun _ => ⟨?_, ?_⟩, ?_, ?_, ?_, ?_⟩) | apply Keep.obj ‹Canon _›
    | apply Keep.mem ‹Canon _› | apply Keep.queue | apply Keep.free | apply Keep.sent

theorem loseReference_keep (die optical s) (h_s : Keep o s) :
    Keep o (loseReference die optical s) := by
  unfold loseReference
  try dsimp only
  repeat' with_reducible first
    | intro _ | assumption | apply setRef_keep | apply record_keep | apply addO_keep | apply countOptical_keep
    | apply ite_keep | (simp only [keep_mk_iff]; refine ⟨fun _ => ⟨?_, ?_⟩, ?_, ?_, ?_, ?_⟩)
    | apply Keep.obj ‹Canon _› | apply Keep.mem ‹Canon _› | apply Keep.queue | apply Keep.free | apply Keep.sent
    | apply Keep.decom

theorem execDieReferenceLoss_keep (die optical engine s) (h_s : Keep o s) :
    KeepN o (execDieReferenceLoss die optical engine s) := by
  unfold execDieReferenceLoss
  try dsimp only
  repeat' with_reducible first
    | apply Keep.decom | intro _ | assumption | apply loseReference_keep | apply within_keep | apply ite_keepN
    | apply ite_keep | apply ite_keep1 | (simp only [keep_mk_iff]; refine ⟨fun _ => ⟨?_, ?_⟩, ?_, ?_, ?_, ?_⟩)
    | apply Keep.obj ‹Canon _› | apply Keep.mem ‹Canon _› | apply Keep.queue | apply Keep.free | apply Keep.sent

theorem execDieReferenceReturn_keep (die optical s) (h_s : Keep o s) :
    KeepN o (execDieReferenceReturn die optical s) := by
  unfold execDieReferenceReturn
  try dsimp only
  repeat' with_reducible first
    | apply Keep.decom | intro _ | assumption | apply onlyIf_keep | apply addO_keep | apply setRef_keep
    | apply within_keep | apply ite_keepN | apply ite_keep | apply ite_keep1
    | (simp only [keep_mk_iff]; refine ⟨fun _ => ⟨?_, ?_⟩, ?_, ?_, ?_, ?_⟩) | apply Keep.obj ‹Canon _›
    | apply Keep.mem ‹Canon _› | apply Keep.queue | apply Keep.free | apply Keep.sent

theorem execReferenceHoldoverExpiry_keep (die s) (h_s : Keep o s) :
    KeepN o (execReferenceHoldoverExpiry die s) := by
  unfold execReferenceHoldoverExpiry
  try dsimp only
  repeat' with_reducible first
    | assumption | apply within_keep | apply beginRetirement_keep | apply settle_keep | apply dieUnavailable_keep
    | apply ite_keep

theorem ruleRevertOptical_keep (s0) (h_s0 : Keep o s0) :
    Keep o (ruleRevertOptical s0).1 := by
  unfold ruleRevertOptical
  try dsimp only
  repeat' with_reducible first
    | intro _ | assumption | apply refused_keep | apply actionDone_keep | apply forAll_keep | apply addO_keep
    | apply setRef_keep | apply ite_keep | apply ite_keep1

theorem execRevertToOptical_keep (who value s) (h_s : Keep o s) :
    KeepN o (execRevertToOptical who value s) := by
  unfold execRevertToOptical
  try dsimp only
  repeat' with_reducible first
    | intro _ | assumption | apply served_keep | apply ruleRevertOptical_keep | apply next_keep

/-! Machine/Power.lean -/

theorem dropTrial_keep (s) (h_s : Keep o s) :
    Keep o (dropTrial s) := by
  unfold dropTrial
  try dsimp only
  repeat' with_reducible first
    | assumption | apply setSite_keep | split

theorem powerLoss_keep (s0) (h_s0 : Keep o s0) : Keep o (powerLoss s0) := by
  have h := dropTrial_keep s0 h_s0
  exact ⟨fun k => ⟨rising_filter _ _ _ ((h.canon k).obj), Memory.Good.of_empty rfl rfl rfl⟩, h.queue, h.free, h.sent, h.decom⟩

theorem enterOff_keep (cause stat held s) (h_s : Keep o s) :
    Keep o (enterOff cause stat held s) := by
  unfold enterOff
  try dsimp only
  repeat' with_reducible first
    | apply Keep.decom | intro _ | assumption | apply powerLoss_keep
    | (simp only [keep_mk_iff]; refine ⟨fun _ => ⟨?_, ?_⟩, ?_, ?_, ?_, ?_⟩) | apply Keep.obj ‹Canon _›
    | apply Keep.mem ‹Canon _› | apply Keep.queue | apply Keep.free | apply Keep.sent

theorem cutTransition_keep (cause s) (h_s : Keep o s) :
    Keep o (cutTransition cause s) := by
  unfold cutTransition
  try dsimp only
  repeat' with_reducible first
    | assumption | apply setLastTransition_keep | split

theorem showStat_keep (code s) (h_s : Keep o s) :
    Keep o (showStat code s) := by
  unfold showStat
  try dsimp only
  repeat' with_reducible first
    | apply Keep.decom | intro _ | assumption | apply emit_keep
    | (simp only [keep_mk_iff]; refine ⟨fun _ => ⟨?_, ?_⟩, ?_, ?_, ?_, ?_⟩) | apply Keep.obj ‹Canon _›
    | apply Keep.mem ‹Canon _› | apply Keep.queue | apply Keep.free | apply Keep.sent

theorem stopAndDrain_keep (abandon cause found s) (h_s : Keep o s) :
    Keep o (stopAndDrain abandon cause found s) := by
  unfold stopAndDrain
  try dsimp only
  repeat' with_reducible first
    | apply Keep.decom | intro _ | assumption | apply powerFailDrain_keep | apply showStat_keep
    | apply setDeposit_keep | apply disarmAll_keep | apply cutTransition_keep
    | (simp only [keep_mk_iff]; refine ⟨fun _ => ⟨?_, ?_⟩, ?_, ?_, ?_, ?_⟩) | apply Keep.obj ‹Canon _›
    | apply Keep.mem ‹Canon _› | apply Keep.queue | apply Keep.free | apply Keep.sent

theorem cutDrain_keep (found c s) (h_s : Keep o s) :
    Keep o (cutDrain found c s) := by
  unfold cutDrain
  try dsimp only
  repeat' with_reducible first
    | apply Keep.decom | intro _ | assumption | apply enterOff_keep | apply brokenDrain_keep | apply showStat_keep
    | apply setDeposit_keep | apply disarmAll_keep | apply ite_keep | apply ite_keep1
    | (simp only [keep_mk_iff]; refine ⟨fun _ => ⟨?_, ?_⟩, ?_, ?_, ?_, ?_⟩) | apply Keep.obj ‹Canon _›
    | apply Keep.mem ‹Canon _› | apply Keep.queue | apply Keep.free | apply Keep.sent

theorem execPowerFail_keep (rises found cut s) (h_s : Keep o s) :
    KeepN o (execPowerFail rises found cut s) := by
  unfold execPowerFail
  try dsimp only
  repeat' with_reducible first
    | apply Keep.decom | intro _ | assumption | apply enterOff_keep | apply stopAndDrain_keep | apply cutDrain_keep
    | apply within_keep | apply ite_keepN | apply ite_keep | apply ite_keep1
    | refine keep_of_some (by assumption) ?_ | split
    | (simp only [keep_mk_iff]; refine ⟨fun _ => ⟨?_, ?_⟩, ?_, ?_, ?_, ?_⟩) | apply Keep.obj ‹Canon _›
    | apply Keep.mem ‹Canon _› | apply Keep.queue | apply Keep.free | apply Keep.sent

theorem execRailOutOfLimits_keep (rail s) (h_s : Keep o s) :
    KeepN o (execRailOutOfLimits rail s) := by
  unfold execRailOutOfLimits
  try dsimp only
  repeat' with_reducible first
    | apply Keep.decom | intro _ | assumption | apply onlyIf_keep | apply enterOff_keep | apply setO_keep
    | apply within_keep | apply ite_keepN | apply ite_keep | apply ite_keep1 | split
    | (simp only [keep_mk_iff]; refine ⟨fun _ => ⟨?_, ?_⟩, ?_, ?_, ?_, ?_⟩) | apply Keep.obj ‹Canon _›
    | apply Keep.mem ‹Canon _› | apply Keep.queue | apply Keep.free | apply Keep.sent

theorem execPoresetNAsserted_keep (s) (h_s : Keep o s) :
    KeepN o (execPoresetNAsserted s) := by
  unfold execPoresetNAsserted
  try dsimp only
  repeat' with_reducible first
    | apply Keep.decom | intro _ | assumption | apply enterOff_keep | apply next_keep | apply ite_keepN
    | apply ite_keep | apply ite_keep1 | (simp only [keep_mk_iff]; refine ⟨fun _ => ⟨?_, ?_⟩, ?_, ?_, ?_, ?_⟩)
    | apply Keep.obj ‹Canon _› | apply Keep.mem ‹Canon _› | apply Keep.queue | apply Keep.free | apply Keep.sent

theorem rulePackageReset_keep (s0) (h_s0 : Keep o s0) :
    Keep o (rulePackageReset s0).1 := by
  unfold rulePackageReset
  try dsimp only
  repeat' with_reducible first
    | apply Keep.decom | intro _ | assumption | apply refused_keep | apply actionDone_keep | apply ite_keep1
    | apply ite_keep | apply ite_rule_keep | (simp only [keep_mk_iff]; refine ⟨fun _ => ⟨?_, ?_⟩, ?_, ?_, ?_, ?_⟩)
    | apply Keep.obj ‹Canon _› | apply Keep.mem ‹Canon _› | apply Keep.queue | apply Keep.free | apply Keep.sent

theorem execPackageReset_keep (who value s) (h_s : Keep o s) :
    KeepN o (execPackageReset who value s) := by
  unfold execPackageReset
  try dsimp only
  repeat' with_reducible first
    | intro _ | assumption | apply served_keep | apply rulePackageReset_keep | apply enterOff_keep | apply emit_keep
    | apply next_keep | apply ite_keepN | apply ite_keep

theorem execRefclkLoss_keep (s) (h_s : Keep o s) :
    KeepN o (execRefclkLoss s) := by
  unfold execRefclkLoss
  try dsimp only
  repeat' with_reducible first
    | apply Keep.decom | intro _ | assumption | apply record_keep | apply setO_keep | apply next_keep
    | apply ite_keepN | apply ite_keep | apply ite_keep1
    | (simp only [keep_mk_iff]; refine ⟨fun _ => ⟨?_, ?_⟩, ?_, ?_, ?_, ?_⟩) | apply Keep.obj ‹Canon _›
    | apply Keep.mem ‹Canon _› | apply Keep.queue | apply Keep.free | apply Keep.sent

theorem execRefclkReturn_keep (s) (h_s : Keep o s) :
    KeepN o (execRefclkReturn s) := by
  unfold execRefclkReturn
  try dsimp only
  repeat' with_reducible first
    | apply Keep.decom | intro _ | assumption | apply onlyIf_keep | apply setO_keep | apply next_keep
    | apply ite_keepN | apply ite_keep | apply ite_keep1
    | (simp only [keep_mk_iff]; refine ⟨fun _ => ⟨?_, ?_⟩, ?_, ?_, ?_, ?_⟩) | apply Keep.obj ‹Canon _›
    | apply Keep.mem ‹Canon _› | apply Keep.queue | apply Keep.free | apply Keep.sent

theorem execReferenceLossStop_keep (found cut s) (h_s : Keep o s) :
    KeepN o (execReferenceLossStop found cut s) := by
  unfold execReferenceLossStop
  try dsimp only
  repeat' with_reducible first
    | intro _ | assumption | apply enterOff_keep | apply addO_keep | apply stopAndDrain_keep | apply cutDrain_keep
    | apply within_keep | apply ite_keepN | apply ite_keep | apply ite_keep1
    | refine keep_of_some (by assumption) ?_ | split

theorem execThermalTrip_keep (sensor s) (h_s : Keep o s) :
    KeepN o (execThermalTrip sensor s) := by
  unfold execThermalTrip
  try dsimp only
  repeat' with_reducible first
    | apply Keep.decom | intro _ | assumption | apply addO_keep | apply within_keep | apply ite_keepN
    | apply ite_keep | apply ite_keep1 | (simp only [keep_mk_iff]; refine ⟨fun _ => ⟨?_, ?_⟩, ?_, ?_, ?_, ?_⟩)
    | apply Keep.obj ‹Canon _› | apply Keep.mem ‹Canon _› | apply Keep.queue | apply Keep.free | apply Keep.sent

theorem execThermalThrottleEntry_keep (site s) (h_s : Keep o s) :
    KeepN o (execThermalThrottleEntry site s) := by
  unfold execThermalThrottleEntry
  try dsimp only
  repeat' with_reducible first
    | assumption | apply within_keep | apply addO_keep | apply ite_keep | apply ite_keepN | apply next_keep
    | apply fault_keep | (simp only [keep_mk_iff]; refine ⟨fun _ => ⟨?_, ?_⟩, ?_, ?_, ?_, ?_⟩)
    | apply Keep.obj ‹Canon _› | apply Keep.mem ‹Canon _› | apply Keep.queue | apply Keep.free | apply Keep.sent
    | apply Keep.decom

theorem execThermalThrottleExit_keep (site s) (h_s : Keep o s) :
    KeepN o (execThermalThrottleExit site s) := by
  unfold execThermalThrottleExit
  try dsimp only
  repeat' with_reducible first
    | assumption | apply within_keep | apply next_keep | apply fault_keep
    | (simp only [keep_mk_iff]; refine ⟨fun _ => ⟨?_, ?_⟩, ?_, ?_, ?_, ?_⟩) | apply Keep.obj ‹Canon _›
    | apply Keep.mem ‹Canon _› | apply Keep.queue | apply Keep.free | apply Keep.sent | apply Keep.decom

theorem factoryFlash_keep (env s) (h_s : Keep o s) :
    Keep o (factoryFlash env s) := by
  unfold factoryFlash
  try dsimp only
  repeat' with_reducible first
    | apply Keep.decom | intro _ | assumption | apply forAll_keep | apply programFlash_keep | apply ite_keep
    | apply ite_keep1 | (simp only [keep_mk_iff]; refine ⟨fun _ => ⟨?_, ?_⟩, ?_, ?_, ?_, ?_⟩)
    | apply Keep.obj ‹Canon _› | apply Keep.mem ‹Canon _› | apply Keep.queue | apply Keep.free | apply Keep.sent

theorem bootStrong_keep (bank s) (h_s : Keep o s) :
    Keep o (bootStrong bank s) := by
  unfold bootStrong
  try dsimp only
  repeat' with_reducible first
    | apply Keep.decom | intro _ | assumption | apply forAll_keep | apply onlyIf_keep | apply setSlotState_keep
    | apply showHeader_keep | apply setO_keep | split
    | (simp only [keep_mk_iff]; refine ⟨fun _ => ⟨?_, ?_⟩, ?_, ?_, ?_, ?_⟩) | apply Keep.obj ‹Canon _›
    | apply Keep.mem ‹Canon _› | apply Keep.queue | apply Keep.free | apply Keep.sent

theorem bootDie_keep (env d s) (h_s : Keep o s) :
    Keep o (bootDie env d s) := by
  unfold bootDie
  try dsimp only
  repeat' with_reducible first
    | intro _ | assumption | apply initialTraining_keep | apply setMod_keep | apply ite_keep

theorem settleDie_keep (d s) (h_s : Keep o s) :
    Keep o (settleDie d s) := by
  unfold settleDie
  try dsimp only
  repeat' with_reducible first
    | intro _ | assumption | apply setO_keep | apply renewCopy_keep | apply leaveCopy_keep | apply ite_keep

theorem loadSystem_keep (env s) (h_s : Keep o s) :
    Keep o (loadSystem env s) := by
  unfold loadSystem
  try dsimp only
  repeat' with_reducible first
    | intro _ | assumption | apply forAll_keep | apply bootDie_keep | apply settleDie_keep | apply loadCopy_keep
    | refine keep_of_some (by assumption) ?_ | split

theorem bootArchive_keep (env s) (h_s : Keep o s) :
    Keep o (bootArchive env s) := by
  unfold bootArchive
  try dsimp only
  repeat' with_reducible first
    | apply Keep.decom | intro _ | assumption | apply forAll_keep | apply onlyIf_keep | apply setO_keep
    | apply setChan_keep | apply foldl_keep | apply foldl_keep1 | apply ite_keep | apply ite_keep1
    | (simp only [keep_mk_iff]; refine ⟨fun _ => ⟨?_, ?_⟩, ?_, ?_, ?_, ?_⟩) | apply Keep.obj ‹Canon _›
    | apply Keep.mem ‹Canon _› | apply Keep.queue | apply Keep.free | apply Keep.sent | apply good_mk

theorem bootTags_keep (env s) (h_s : Keep o s) :
    Keep o (bootTags env s) := by
  unfold bootTags
  try dsimp only
  repeat' with_reducible first
    | apply Keep.decom | intro _ | assumption | apply forAll_keep | apply record_keep
    | (simp only [keep_mk_iff]; refine ⟨fun _ => ⟨?_, ?_⟩, ?_, ?_, ?_, ?_⟩) | apply Keep.obj ‹Canon _›
    | apply Keep.mem ‹Canon _› | apply Keep.queue | apply Keep.free | apply Keep.sent | apply rising_filter
    | apply rising_drop

theorem bootCause_keep (s) (h_s : Keep o s) :
    Keep o (bootCause s) := by
  unfold bootCause
  try dsimp only
  repeat' with_reducible first
    | assumption | apply addO_keep | apply setO_keep | apply ite_keep
    | (simp only [keep_mk_iff]; refine ⟨fun _ => ⟨?_, ?_⟩, ?_, ?_, ?_, ?_⟩) | apply Keep.obj ‹Canon _›
    | apply Keep.mem ‹Canon _› | apply Keep.queue | apply Keep.free | apply Keep.sent | apply Keep.decom

theorem bootLostBuffer_keep (s) (h_s : Keep o s) :
    Keep o (bootLostBuffer s) := by
  unfold bootLostBuffer
  try dsimp only
  repeat' with_reducible first
    | assumption | apply record_keep | apply ite_keep
    | (simp only [keep_mk_iff]; refine ⟨fun _ => ⟨?_, ?_⟩, ?_, ?_, ?_, ?_⟩) | apply Keep.obj ‹Canon _›
    | apply Keep.mem ‹Canon _› | apply Keep.queue | apply Keep.free | apply Keep.sent | apply Keep.decom

theorem bootReferences_keep (env s) (h_s : Keep o s) :
    Keep o (bootReferences env s) := by
  unfold bootReferences
  try dsimp only
  repeat' with_reducible first
    | intro _ | assumption | apply forAll_keep | apply powerRef_keep | apply setO_keep | apply setRef_keep

theorem showFeatures_keep (s) (h_s : Keep o s) :
    Keep o (showFeatures s) := by
  unfold showFeatures
  try dsimp only
  repeat' with_reducible first
    | intro _ | assumption | apply setO_keep

theorem resumePromotion_keep (x s) (h_s : Keep o s) :
    Keep o (resumePromotion x s) := by
  unfold resumePromotion
  try dsimp only
  repeat' with_reducible first
    | apply Keep.decom | intro _ | assumption | apply nextReserve_keep | apply record_keep | apply setO_keep
    | apply promotionRecord_keep | (simp only [keep_mk_iff]; refine ⟨fun _ => ⟨?_, ?_⟩, ?_, ?_, ?_, ?_⟩)
    | apply Keep.obj ‹Canon _› | apply Keep.mem ‹Canon _› | apply Keep.queue | apply Keep.free | apply Keep.sent

theorem bootSites_keep (idents s) (h_s : Keep o s) :
    Keep o (bootSites idents s) := by
  unfold bootSites
  try dsimp only
  repeat' with_reducible first
    | apply Keep.decom | intro _ | assumption | apply forAll_keep | apply showIdent_keep | apply onlyIf_keep
    | apply commitRetired_keep | apply showFeatures_keep | apply countReserves_keep | apply resumePromotion_keep
    | apply beginRetirement_keep | apply foldl_keep | apply foldl_keep1 | refine keep_of_pair (by assumption) ?_
    | refine keep_of_some (by assumption) ?_ | split
    | (simp only [keep_mk_iff]; refine ⟨fun _ => ⟨?_, ?_⟩, ?_, ?_, ?_, ?_⟩) | apply Keep.obj ‹Canon _›
    | apply Keep.mem ‹Canon _› | apply Keep.queue | apply Keep.free | apply Keep.sent

theorem bootUnits_keep (s) (h_s : Keep o s) :
    Keep o (bootUnits s) := by
  unfold bootUnits
  try dsimp only
  repeat' with_reducible first
    | apply Keep.decom | intro _ | assumption | apply forAll_keep | apply setReq_keep | apply setO_keep
    | apply forceGallery_keep | apply showDisabled_keep | apply onlyIf_keep | apply emit_keep | apply bootUp_keep
    | apply ite_keep | apply ite_keep1 | (simp only [keep_mk_iff]; refine ⟨fun _ => ⟨?_, ?_⟩, ?_, ?_, ?_, ?_⟩)
    | apply Keep.obj ‹Canon _› | apply Keep.mem ‹Canon _› | apply Keep.queue | apply Keep.free | apply Keep.sent

theorem bootServo_keep (s) (h_s : Keep o s) :
    Keep o (bootServo s) := by
  unfold bootServo
  try dsimp only
  repeat' with_reducible first
    | intro _ | assumption | apply onlyIf_keep | apply setO_keep

theorem finishBoot_keep (s) (h_s : Keep o s) :
    Keep o (finishBoot s) := by
  unfold finishBoot
  try dsimp only
  repeat' with_reducible first
    | apply Keep.decom | intro _ | assumption | apply setO_keep | apply hodoRestart_keep | apply bootUnits_keep
    | (simp only [keep_mk_iff]; refine ⟨fun _ => ⟨?_, ?_⟩, ?_, ?_, ?_, ?_⟩) | apply Keep.obj ‹Canon _›
    | apply Keep.mem ‹Canon _› | apply Keep.queue | apply Keep.free | apply Keep.sent

theorem bootOn_keep (s) (h_s : Keep o s) :
    Keep o (bootOn s) := by
  unfold bootOn
  try dsimp only
  repeat' with_reducible first
    | intro _ | assumption | apply finishBoot_keep | apply ite_keep

theorem powerUp_keep (bank env s) (h_s : Keep o s) :
    Keep o (powerUp bank env s) := by
  unfold powerUp
  try dsimp only
  repeat' with_reducible first
    | apply Keep.decom | intro _ | assumption | apply bootReferences_keep | apply bootServo_keep
    | apply bootTags_keep | apply bootArchive_keep | apply bootCause_keep | apply loadSystem_keep
    | apply bootStrong_keep | apply bootOn_keep | apply bootSites_keep | apply bootLostBuffer_keep
    | (simp only [keep_mk_iff]; refine ⟨fun _ => ⟨?_, ?_⟩, ?_, ?_, ?_, ?_⟩) | apply Keep.obj ‹Canon _›
    | apply Keep.mem ‹Canon _› | apply Keep.queue | apply Keep.free | apply Keep.sent

theorem execPowerOnReset_keep (boot env s) (h_s : Keep o s) :
    KeepN o (execPowerOnReset boot env s) := by
  unfold execPowerOnReset
  try dsimp only
  repeat' with_reducible first
    | apply Keep.decom | intro _ | assumption | apply factoryFlash_keep | apply powerUp_keep | apply within_keep
    | apply ite_keepN | apply ite_keep | apply ite_keep1 | refine keep_of_pair (by assumption) ?_
    | refine keep_of_some (by assumption) ?_ | split
    | (simp only [keep_mk_iff]; refine ⟨fun _ => ⟨?_, ?_⟩, ?_, ?_, ?_, ?_⟩) | apply Keep.obj ‹Canon _›
    | apply Keep.mem ‹Canon _› | apply Keep.queue | apply Keep.free | apply Keep.sent

theorem execSiteSelfTestComplete_keep (site pass training ways s) (h_s : Keep o s) :
    KeepN o (execSiteSelfTestComplete site pass training ways s) := by
  unfold execSiteSelfTestComplete
  try dsimp only
  repeat' with_reducible first
    | intro _ | assumption | apply bootOn_keep | apply promote_keep | apply addBadWays_keep | apply showIdent_keep
    | apply reserveFails_keep | apply retestDone_keep | apply within_keep | apply ite_keepN | apply ite_keep
    | apply ite_keep1 | refine keep_of_pair (by assumption) ?_ | refine keep_of_some (by assumption) ?_ | split

/-! Machine/Modes.lean -/

theorem beginTransition_keep (dst cause owner s) (h_s : Keep o s) :
    Keep o (beginTransition dst cause owner s) := by
  unfold beginTransition
  try dsimp only
  repeat' with_reducible first
    | intro _ | assumption | apply onlyIf_keep | apply beginDisarm_keep | apply setO_keep
    | (simp only [keep_mk_iff]; refine ⟨fun _ => ⟨?_, ?_⟩, ?_, ?_, ?_, ?_⟩) | apply Keep.obj ‹Canon _›
    | apply Keep.mem ‹Canon _› | apply Keep.queue | apply Keep.free | apply Keep.sent | apply Keep.decom

theorem ruleMode_keep (who v s0) (h_s0 : Keep o s0) :
    Keep o (ruleMode who v s0).1 := by
  unfold ruleMode
  try dsimp only
  repeat' with_reducible first
    | assumption | apply refused_keep | apply setO_keep | apply actionPending_keep | apply beginTransition_keep
    | apply ite_keep | apply ite_keep1 | apply ite_rule_keep | refine keep_of_pair (by assumption) ?_ | split

theorem execModeRequest_keep (who value s) (h_s : Keep o s) :
    KeepN o (execModeRequest who value s) := by
  unfold execModeRequest
  try dsimp only
  repeat' with_reducible first
    | intro _ | assumption | apply served_keep | apply ruleMode_keep | apply next_keep

theorem execPowerUpModeRequest_keep (s) (h_s : Keep o s) :
    KeepN o (execPowerUpModeRequest s) := by
  unfold execPowerUpModeRequest
  try dsimp only
  repeat' with_reducible first
    | assumption | apply setO_keep | apply beginTransition_keep | apply ite_keep | apply ite_keepN | apply next_keep
    | apply fault_keep | (simp only [keep_mk_iff]; refine ⟨fun _ => ⟨?_, ?_⟩, ?_, ?_, ?_, ?_⟩)
    | apply Keep.obj ‹Canon _› | apply Keep.mem ‹Canon _› | apply Keep.queue | apply Keep.free | apply Keep.sent
    | apply Keep.decom

theorem ruleAcknowledge_keep (flash s0) (h_s0 : Keep o s0) :
    Keep o (ruleAcknowledge flash s0).1 := by
  unfold ruleAcknowledge
  try dsimp only
  repeat' with_reducible first
    | intro _ | assumption | apply refused_keep | apply setO_keep | apply actionDone_keep | apply leaveLimp_keep
    | apply ite_keep1

theorem execAcknowledgeLoss_keep (who value flash s) (h_s : Keep o s) :
    KeepN o (execAcknowledgeLoss who value flash s) := by
  unfold execAcknowledgeLoss
  try dsimp only
  repeat' with_reducible first
    | intro _ | assumption | apply served_keep | apply ruleAcknowledge_keep | apply within_keep

theorem writeBackAll_keep (s) (h_s : Keep o s) :
    Keep o (writeBackAll s) := by
  unfold writeBackAll
  try dsimp only
  repeat' with_reducible first
    | intro _ | assumption | apply forAll_keep | apply ctlWriteback_keep | refine keep_of_pair (by assumption) ?_
    | refine keep_of_some (by assumption) ?_ | split

theorem waysNormal_keep (st s) (h_s : Keep o s) :
    Keep o (waysNormal st s) := by
  unfold waysNormal
  try dsimp only
  repeat' with_reducible first
    | intro _ | assumption | apply forAll_keep | apply onlyIf_keep | apply setO_keep

theorem stopFabric_keep (archive s) (h_s : Keep o s) :
    Keep o (stopFabric archive s) := by
  unfold stopFabric
  try dsimp only
  repeat' with_reducible first
    | apply Keep.decom | intro _ | assumption | apply forAll_keep | apply setO_keep | apply unpowerRef_keep
    | apply lanesOn_keep | apply fault_keep | (simp only [keep_mk_iff]; refine ⟨fun _ => ⟨?_, ?_⟩, ?_, ?_, ?_, ?_⟩)
    | apply Keep.obj ‹Canon _› | apply Keep.mem ‹Canon _› | apply Keep.queue | apply Keep.free | apply Keep.sent

theorem dropMailboxes_keep (s) (h_s : Keep o s) :
    Keep o (dropMailboxes s) := by
  unfold dropMailboxes
  try dsimp only
  repeat' with_reducible first
    | intro _ | assumption | apply forAll_keep | apply setReq_keep

theorem dropQueueRuntime_keep (s) (h_s : Keep o s) :
    Keep o (dropQueueRuntime s) := by
  unfold dropQueueRuntime
  try dsimp only
  repeat' with_reducible first
    | apply Keep.decom | intro _ | assumption
    | (simp only [keep_mk_iff]; refine ⟨fun _ => ⟨?_, ?_⟩, ?_, ?_, ?_, ?_⟩) | apply Keep.obj ‹Canon _›
    | apply Keep.mem ‹Canon _› | apply Keep.queue | apply Keep.free | apply Keep.sent | apply rising_filter
    | apply rising_drop

theorem keepErrors_keep (env s) (h_s : Keep o s) :
    Keep o (keepErrors env s) := by
  unfold keepErrors
  try dsimp only
  repeat' with_reducible first
    | intro _ | assumption | apply forAll_keep | apply onlyIf_keep | apply l2DataError_keep
    | refine keep_of_pair (by assumption) ?_ | refine keep_of_some (by assumption) ?_ | split

theorem enterKeep_keep (env s) (h_s : Keep o s) :
    Keep o (enterKeep env s) := by
  unfold enterKeep
  try dsimp only
  repeat' with_reducible first
    | apply Keep.decom | intro _ | assumption | apply keepErrors_keep | apply discardLines_keep
    | apply loseResults_keep | apply drainCommit_keep | apply writeBackAll_keep | apply waysNormal_keep
    | apply forAll_keep | apply unpowerRef_keep | apply dropQueueRuntime_keep | apply dropMailboxes_keep
    | apply stopFabric_keep | apply keepMemory_keep
    | (simp only [keep_mk_iff]; refine ⟨fun _ => ⟨?_, ?_⟩, ?_, ?_, ?_, ?_⟩) | apply Keep.obj ‹Canon _›
    | apply Keep.mem ‹Canon _› | apply Keep.queue | apply Keep.free | apply Keep.sent

theorem startArchive_keep (env s) (h_s : Keep o s) :
    Keep o (startArchive env s) := by
  unfold startArchive
  try dsimp only
  repeat' with_reducible first
    | intro _ | assumption | apply forAll_keep | apply setO_keep | apply initialTraining_keep | apply onlyIf_keep
    | apply dieUnavailable_keep | apply powerRef_keep | apply ite_keep

theorem enterService_keep (env s) (h_s : Keep o s) :
    Keep o (enterService env s) := by
  unfold enterService
  try dsimp only
  repeat' with_reducible first
    | apply Keep.decom | intro _ | assumption | apply accessionReset_keep | apply startArchive_keep
    | apply resetChannels_keep | apply drainCommit_keep | apply stopLines_keep | apply waysNormal_keep
    | apply stopFabric_keep | apply stopMemory_keep | apply disarmAll_keep | apply setDeposit_keep
    | apply showVerified_keep | apply dropHistories_keep | apply setO_keep | apply ite_keep | apply ite_keep1
    | (simp only [keep_mk_iff]; refine ⟨fun _ => ⟨?_, ?_⟩, ?_, ?_, ?_, ?_⟩) | apply Keep.obj ‹Canon _›
    | apply Keep.mem ‹Canon _› | apply Keep.queue | apply Keep.free | apply Keep.sent

theorem startSites_keep (env s) (h_s : Keep o s) :
    Keep o (startSites env s) := by
  unfold startSites
  try dsimp only
  repeat' with_reducible first
    | intro _ | assumption | apply forAll_keep | apply initialTraining_keep | apply powerSite_keep

theorem startUnits_keep (s) (h_s : Keep o s) :
    Keep o (startUnits s) := by
  unfold startUnits
  try dsimp only
  repeat' with_reducible first
    | intro _ | assumption | apply forAll_keep | apply queueReset_keep | apply chanReset_keep | apply lanesOn_keep
    | apply accessionReset_keep | apply settle_keep

theorem reenterLine_keep (e s) (h_s : Keep o s) :
    Keep o (reenterLine e s) := by
  unfold reenterLine
  try dsimp only
  repeat' with_reducible first
    | intro _ | assumption | apply addO_keep | apply forAll_keep | apply removeL2_keep | apply setDir_keep
    | apply ite_keep

theorem disableBad_keep (env test s) (h_s : Keep o s) :
    Keep o (disableBad env test s) := by
  unfold disableBad
  try dsimp only
  repeat' with_reducible first
    | intro _ | assumption | apply forAll_keep | apply onlyIf_keep | apply disableWay_keep | apply ite_keep

theorem leaveKeep_keep (env s) (h_s : Keep o s) :
    Keep o (leaveKeep env s) := by
  unfold leaveKeep
  try dsimp only
  repeat' with_reducible first
    | intro _ | assumption | apply keepMemory_keep | apply accessionReset_keep | apply forAll_keep
    | apply retireChannel_keep | apply retirePc_keep | apply startUnits_keep | apply disableBad_keep
    | apply startSites_keep | apply reenterLine_keep

theorem leaveService_keep (env s) (h_s : Keep o s) :
    Keep o (leaveService env s) := by
  unfold leaveService
  try dsimp only
  repeat' with_reducible first
    | intro _ | assumption | apply returnDies_keep | apply startSites_keep | apply trainMemory_keep
    | apply hodoRestart_keep | apply abandonInstall_keep | apply forAll_keep | apply forceGallery_keep
    | apply startUnits_keep | apply disableBad_keep

theorem transitionWork_keep (env src dst s) (h_s : Keep o s) :
    Keep o (transitionWork env src dst s) := by
  unfold transitionWork
  try dsimp only
  repeat' with_reducible first
    | intro _ | assumption | apply enterKeep_keep | apply enterService_keep | apply leaveService_keep
    | apply leaveKeep_keep | apply setDeposit_keep | apply armAll_keep | apply ite_keep | apply ite_keep1 | split

theorem endTransition_keep (t s) (h_s : Keep o s) :
    Keep o (endTransition t s) := by
  unfold endTransition
  try dsimp only
  repeat' with_reducible first
    | assumption | apply setO_keep | apply changeMode_keep | apply endAction_keep
    | (simp only [keep_mk_iff]; refine ⟨fun _ => ⟨?_, ?_⟩, ?_, ?_, ?_, ?_⟩) | apply Keep.obj ‹Canon _›
    | apply Keep.mem ‹Canon _› | apply Keep.queue | apply Keep.free | apply Keep.sent | apply Keep.decom | split

theorem retireFaulty_keep (env s) (h_s : Keep o s) :
    Keep o (retireFaulty env s) := by
  unfold retireFaulty
  try dsimp only
  repeat' with_reducible first
    | intro _ | assumption | apply forAll_keep | apply onlyIf_keep | apply beginRetirement_keep

theorem retireDue_keep (s) (h_s : Keep o s) :
    Keep o (retireDue s) := by
  unfold retireDue
  try dsimp only
  repeat' with_reducible first
    | apply Keep.decom | intro _ | assumption | apply forAll_keep | apply beginRetirement_keep
    | (simp only [keep_mk_iff]; refine ⟨fun _ => ⟨?_, ?_⟩, ?_, ?_, ?_, ?_⟩) | apply Keep.obj ‹Canon _›
    | apply Keep.mem ‹Canon _› | apply Keep.queue | apply Keep.free | apply Keep.sent

theorem enterRun_keep (env s) (h_s : Keep o s) :
    Keep o (enterRun env s) := by
  unfold enterRun
  try dsimp only
  repeat' with_reducible first
    | intro _ | assumption | apply retireDue_keep | apply retireFaulty_keep | apply autoStartAll_keep
    | apply enterLimp_keep | apply ite_keep

theorem retireMemories_keep (env s) (h_s : Keep o s) :
    Keep o (retireMemories env s) := by
  unfold retireMemories
  try dsimp only
  repeat' with_reducible first
    | intro _ | assumption | apply forAll_keep | apply retireChannel_keep | apply retirePc_keep

theorem tryArchive_keep (env t s) (h_s : Keep o s) :
    Keep o (tryArchive env t s) := by
  unfold tryArchive
  try dsimp only
  repeat' with_reducible first
    | intro _ | assumption | apply startArchive_keep | apply resetChannels_keep | apply ite_keep

theorem archiveStays_keep (t s) (h_s : Keep o s) :
    Keep o (archiveStays t s) := by
  unfold archiveStays
  try dsimp only
  repeat' with_reducible first
    | intro _ | assumption | apply onlyIf_keep | apply forAll_keep | apply unpowerRef_keep

theorem relaunched_keep (env s) (h_s : Keep o s) :
    Keep o (relaunched env s) := by
  unfold relaunched
  try dsimp only
  repeat' with_reducible first
    | intro _ | assumption | apply autoStartAll_keep | apply onlyIf_keep | apply enterLimp_keep

theorem execModeTransitionComplete_keep (env s) (h_s : Keep o s) :
    KeepN o (execModeTransitionComplete env s) := by
  unfold execModeTransitionComplete
  try dsimp only
  repeat' with_reducible first
    | apply Keep.decom | intro _ | assumption | apply tryArchive_keep | apply stopTransition_keep
    | apply archiveStays_keep | apply retireMemories_keep | apply endTransition_keep | apply transitionWork_keep
    | apply onlyIf_keep | apply forAll_keep | apply onsets_keep | apply enterRun_keep | apply relaunched_keep
    | apply enterLimp_keep | apply within_keep | apply ite_keepN | apply ite_keep | apply ite_keep1
    | refine keep_of_some (by assumption) ?_ | split
    | (simp only [keep_mk_iff]; refine ⟨fun _ => ⟨?_, ?_⟩, ?_, ?_, ?_, ?_⟩) | apply Keep.obj ‹Canon _›
    | apply Keep.mem ‹Canon _› | apply Keep.queue | apply Keep.free | apply Keep.sent

/-! Machine/Counters.lean -/

theorem poolMismatch_keep (pool instance_ action s) (h_s : Keep o s) :
    Keep o (poolMismatch pool instance_ action s) := by
  unfold poolMismatch
  try dsimp only
  repeat' with_reducible first
    | assumption | apply record_keep | apply addO_keep

theorem notQuiescent_keep (pool s) (h_s : Keep o s) :
    Keep o (notQuiescent pool s) := by
  unfold notQuiescent
  try dsimp only
  repeat' with_reducible first
    | assumption | apply addO_keep

theorem auditCredits_keep (k s) (h_s : Keep o s) :
    Keep o (auditCredits k s) := by
  unfold auditCredits
  try dsimp only
  repeat' with_reducible first
    | intro _ | assumption | apply onlyIf_keep | apply mismatch_keep | apply poolMismatch_keep | apply ite_keep

theorem auditLines_keep (s) (h_s : Keep o s) :
    Keep o (auditLines s) := by
  unfold auditLines
  try dsimp only
  repeat' with_reducible first
    | assumption | apply poolMismatch_keep | apply setO_keep | apply ite_keep

theorem auditQueue_keep (q s) (h_s : Keep o s) :
    Keep o (auditQueue q s) := by
  unfold auditQueue
  try dsimp only
  repeat' with_reducible first
    | intro _ | assumption | apply stopQueue_keep | apply poolMismatch_keep | apply ite_keep

theorem auditRing_keep (r s) (h_s : Keep o s) :
    Keep o (auditRing r s) := by
  unfold auditRing
  try dsimp only
  repeat' with_reducible first
    | intro _ | assumption | apply record_keep | apply setO_keep | apply runAll_cons_keep | apply runAll_nil_keep
    | apply ite_keep

theorem sample_keep (i s) (h_s : Keep o s) :
    Keep o (sample i s) := by
  unfold sample
  try dsimp only
  repeat' with_reducible first
    | assumption | apply auditCredits_keep | apply auditLines_keep | apply auditQueue_keep | apply auditRing_keep | split

theorem endAudit_keep (a s) (h_s : Keep o s) :
    Keep o (endAudit a s) := by
  unfold endAudit
  try dsimp only
  repeat' with_reducible first
    | intro _ | assumption | apply setO_keep | apply forAll_keep | apply endAction_keep
    | apply Keep.decom
    | (simp only [keep_mk_iff]; refine ⟨fun _ => ⟨?_, ?_⟩, ?_, ?_, ?_, ?_⟩) | apply Keep.obj ‹Canon _›
    | apply Keep.mem ‹Canon _› | apply Keep.queue | apply Keep.free | apply Keep.sent

theorem continueAudit_keep (s) (h_s : Keep o s) :
    Keep o (continueAudit s) := by
  unfold continueAudit
  try dsimp only
  repeat' with_reducible first
    | intro _ | assumption | apply endAudit_keep | apply forAll_keep | apply notQuiescent_keep | apply sample_keep
    | apply ite_keep | split
    | apply Keep.decom
    | (simp only [keep_mk_iff]; refine ⟨fun _ => ⟨?_, ?_⟩, ?_, ?_, ?_, ?_⟩) | apply Keep.obj ‹Canon _›
    | apply Keep.mem ‹Canon _› | apply Keep.queue | apply Keep.free | apply Keep.sent

theorem audit_keep (s) (h_s : Keep o s) :
    Keep o (audit s) := by
  unfold audit
  try dsimp only
  repeat' with_reducible first
    | intro _ | assumption | apply continueAudit_keep | apply ite_keep
    | apply Keep.decom
    | (simp only [keep_mk_iff]; refine ⟨fun _ => ⟨?_, ?_⟩, ?_, ?_, ?_, ?_⟩) | apply Keep.obj ‹Canon _›
    | apply Keep.mem ‹Canon _› | apply Keep.queue | apply Keep.free | apply Keep.sent

theorem execAuditTimer_keep (s) (h_s : Keep o s) :
    KeepN o (execAuditTimer s) := by
  unfold execAuditTimer
  try dsimp only
  repeat' with_reducible first
    | assumption | apply audit_keep | apply ite_keep | apply ite_keepN | apply next_keep

theorem ruleAudit_keep (who s0) (h_s0 : Keep o s0) :
    Keep o (ruleAudit who s0).1 := by
  unfold ruleAudit
  try dsimp only
  have h := audit_keep s0 h_s0
  repeat' with_reducible first
    | assumption | apply actionDone_keep | apply actionPending_keep | split
    | apply Keep.decom
    | (simp only [keep_mk_iff]; refine ⟨fun _ => ⟨?_, ?_⟩, ?_, ?_, ?_, ?_⟩) | apply Keep.obj ‹Canon _›
    | apply Keep.mem ‹Canon _› | apply Keep.queue | apply Keep.free | apply Keep.sent

theorem execAuditNow_keep (who value s) (h_s : Keep o s) :
    KeepN o (execAuditNow who value s) := by
  unfold execAuditNow
  try dsimp only
  repeat' with_reducible first
    | intro _ | assumption | apply served_keep | apply ruleAudit_keep | apply next_keep

theorem ruleClearCounters_keep (s0) (h_s0 : Keep o s0) :
    Keep o (ruleClearCounters s0).1 := by
  unfold ruleClearCounters
  try dsimp only
  repeat' with_reducible first
    | intro _ | assumption | apply actionDone_keep | apply forAll_keep | apply setO_keep

theorem execCountersClearAll_keep (who value s) (h_s : Keep o s) :
    KeepN o (execCountersClearAll who value s) := by
  unfold execCountersClearAll
  try dsimp only
  repeat' with_reducible first
    | intro _ | assumption | apply served_keep | apply ruleClearCounters_keep | apply next_keep

theorem ruleCounter_keep (i sub value s0) (h_s0 : Keep o s0) :
    Keep o (ruleCounter i sub value s0).1 := by
  unfold ruleCounter
  try dsimp only
  repeat' with_reducible first
    | assumption | apply refusedBusy_keep | apply answered_keep | apply setO_keep | apply refusedValue_keep
    | apply ite_keep | apply ite_keep1

theorem execPackageCounterEventWrite_keep (who counter value s) (h_s : Keep o s) :
    KeepN o (execPackageCounterEventWrite who counter value s) := by
  unfold execPackageCounterEventWrite
  try dsimp only
  repeat' with_reducible first
    | intro _ | assumption | apply within_keep | apply served_keep | apply ruleCounter_keep

theorem execHartCounterWrap_keep (hart counter s) (h_s : Keep o s) :
    KeepN o (execHartCounterWrap hart counter s) := by
  unfold execHartCounterWrap
  try dsimp only
  repeat' with_reducible first
    | assumption | apply within_keep | apply setHart_keep | apply ite_keep

/-! Machine/Registry.lean -/

theorem haltHart_keep (hart cause s) (h_s : Keep o s) :
    Keep o (haltHart hart cause s) := by
  unfold haltHart
  try dsimp only
  repeat' with_reducible first
    | assumption | apply setHart_keep

theorem resumeHart_keep (hart s) (h_s : Keep o s) :
    Keep o (resumeHart hart s) := by
  unfold resumeHart
  try dsimp only
  repeat' with_reducible first
    | assumption | apply setHart_keep | apply ite_keep

theorem ruleDebug_keep (sub v s0) (h_s0 : Keep o s0) :
    Keep o (ruleDebug sub v s0).1 := by
  unfold ruleDebug
  try dsimp only
  repeat' with_reducible first
    | intro _ | assumption | apply setO_keep | apply answered_keep | apply forAll_keep | apply onlyIf_keep
    | apply resumeHart_keep

theorem ruleWatermark_keep (ix sub v s0) (h_s0 : Keep o s0) :
    Keep o (ruleWatermark ix sub v s0).1 := by
  unfold ruleWatermark
  try dsimp only
  repeat' with_reducible first
    | assumption | apply setO_keep | apply answered_keep | apply refused_keep | apply ite_keep | apply ite_keep1

theorem ruleTest_keep (who sub v s0) (h_s0 : Keep o s0) :
    Keep o (ruleTest who sub v s0).1 := by
  unfold ruleTest
  try dsimp only
  repeat' with_reducible first
    | assumption | apply ruleTestWriteData_keep | apply ruleTestWriteCheck_keep | apply ruleTestReadRaw_keep
    | apply ruleTestPoison_keep | apply plainWrite_keep | apply ite_keep | apply ite_keep1 | apply ite_rule_keep
    | refine keep_of_pair (by assumption) ?_ | split

theorem ruleRestore_keep (s0) (h_s0 : Keep o s0) :
    Keep o (ruleRestore s0).1 := by
  unfold ruleRestore
  try dsimp only
  repeat' with_reducible first
    | apply Keep.decom | intro _ | assumption | apply refused_keep | apply forAll_keep | apply onlyIf_keep
    | apply channelOff_keep | apply setO_keep | apply followDefined_keep | apply actionDone_keep
    | apply rwpCommitted_keep | apply forceGallery_keep | apply runAll_cons_keep | apply runAll_nil_keep
    | apply ite_keep1 | apply ite_keep | apply ite_rule_keep | refine keep_of_pair (by assumption) ?_
    | refine keep_of_some (by assumption) ?_ | split
    | (simp only [keep_mk_iff]; refine ⟨fun _ => ⟨?_, ?_⟩, ?_, ?_, ?_, ?_⟩) | apply Keep.obj ‹Canon _›
    | apply Keep.mem ‹Canon _› | apply Keep.queue | apply Keep.free | apply Keep.sent | apply rising_filter
    | apply rising_drop

theorem ruleP_keep (who ix sub v s0) (h_s0 : Keep o s0) :
    Keep o (ruleP who ix sub v s0).1 := by
  unfold ruleP
  try dsimp only
  repeat' with_reducible first
    | intro _ | assumption | apply ruleMode_keep | apply ruleAcknowledge_keep | apply plainWrite_keep
    | apply ruleDiscipline_keep | apply ruleRevertOptical_keep | apply rulePackageReset_keep
    | apply ruleRestore_keep | apply ruleRetireGallery_keep | apply ruleRetestSite_keep
    | apply ruleClearRetirements_keep | apply ruleWatermark_keep | apply ruleTest_keep | apply answered_keep
    | apply setReq_keep | apply ruleClearArchive_keep | apply ruleAudit_keep | apply ruleClearCounters_keep
    | apply setO_keep | apply ruleCounter_keep | apply ruleNsEnable_keep | apply ruleNsConfig_keep
    | apply ruleChannelEnable_keep | apply ruleChannelReset_keep | apply ruleChannelConfig_keep | apply ite_keep1
    | apply ite_keep | apply ite_rule_keep

theorem rulePortEnable_keep (ix v s0) (h_s0 : Keep o s0) :
    Keep o (rulePortEnable ix v s0).1 := by
  unfold rulePortEnable
  try dsimp only
  repeat' with_reducible first
    | intro _ | assumption | apply refused_keep | apply answered_keep | apply onlyIf_keep | apply setO_keep
    | apply ite_keep1

theorem ruleV_keep (who ix sub v s0) (h_s0 : Keep o s0) :
    Keep o (ruleV who ix sub v s0).1 := by
  unfold ruleV
  try dsimp only
  repeat' with_reducible first
    | assumption | apply answered_keep | apply setReq_keep | apply rulePortEnable_keep | apply setO_keep
    | apply plainWrite_keep | apply ite_keep | apply ite_keep1 | apply ite_rule_keep

theorem ruleS_keep (who ix sub v s0) (h_s0 : Keep o s0) :
    Keep o (ruleS who ix sub v s0).1 := by
  unfold ruleS
  try dsimp only
  repeat' with_reducible first
    | intro _ | assumption | apply rulePartition_keep | apply ruleStart_keep | apply ruleStop_keep
    | apply ruleRestart_keep | apply ruleRaiseMinimum_keep | apply ruleZeroise_keep | apply ruleDecommission_keep
    | apply ruleInstallTarget_keep | apply ruleInstallData_keep | apply ruleInstall_keep | apply ruleMinVersion_keep
    | apply ruleOwnerKey_keep | apply ruleAnchor_keep | apply ruleAttest_keep | apply ruleDebug_keep
    | apply plainWrite_keep | apply ite_keep1 | apply ite_keep | apply ite_rule_keep

theorem ruleH_keep (ix sub v s0) (h_s0 : Keep o s0) :
    Keep o (ruleH ix sub v s0).1 := by
  unfold ruleH
  try dsimp only
  repeat' with_reducible first
    | assumption | apply ruleTestFire_keep | apply ruleLoadPreset_keep | apply ruleHoming_keep
    | apply ruleEncoderConfig_keep | apply ruleFaultClear_keep | apply ruleProgramConfig_keep
    | apply ruleOutputConfig_keep | apply ite_keep | apply ite_keep1 | apply ite_rule_keep

theorem ruleFor_keep (who node ix sub v s) (h_s : Keep o s) : Keep o (ruleFor who node ix sub v s).1 := by
  suffices h : ∀ r : Rule, ruleFor who node ix sub v = r → Keep o (r s).1 from h _ rfl
  intro r e
  unfold ruleFor at e
  dsimp only at e
  split at e
  all_goals subst e
  all_goals first
    | exact ruleP_keep _ _ _ _ _ h_s | exact ruleV_keep _ _ _ _ _ h_s | exact ruleS_keep _ _ _ _ _ h_s
    | exact ruleH_keep _ _ _ _ h_s | exact ruleLaneOffset_keep _ _ h_s | exact ruleLane_keep _ _ _ _ h_s
    | exact ruleCtx_keep _ _ _ _ h_s | exact ruleRing_keep _ _ _ _ h_s
    | exact ite_rule_keep (ruleQueueEnable_keep _ _ _ h_s)
        (ite_rule_keep (ruleQueueReset_keep _ _ h_s) (ruleQueueConfig_keep _ _ _ _ h_s))
    | exact ite_rule_keep (ruleSourceEnable_keep _ _ _ h_s) (ruleSourceConfig_keep _ _ _ _ h_s)
    | exact ite_rule_keep (ruleLock_keep _ _ _ _ h_s) (ite_rule_keep (ruleLegacyMask_keep _ _ _ _ h_s)
        (ite_rule_keep (ruleClearDisabled_keep _ _ h_s) (ruleWayMethod_keep _ _ _ h_s)))
    | exact plainWrite_keep _ _ _ _ _ h_s

end Sys2Proof.Machine
end

