-- ==== Sys2Proof/Laws/KeepHart.lean ====
section
/-! SUPPORT. `Keep` is kept by every operation of the Catalogue, the harts, the Vitrines and the debug module. -/

namespace Sys2Proof.Machine

variable {o : State}

/-! Machine/Catalogue.lean -/

theorem closePort_keep (port s) (h_s : Keep o s) :
    Keep o (closePort port s) := by
  unfold closePort
  try dsimp only
  repeat' with_reducible first
    | intro _ | assumption | apply forAll_keep | apply closeSession_keep

theorem afterWrite_keep (who node ix sub s t) (h_s : Keep o s) (h_t : Keep o t) :
    Keep o (afterWrite who node ix sub s t) := by
  unfold afterWrite
  try dsimp only
  repeat' with_reducible first
    | intro _ | assumption | apply enterOff_keep | apply emit_keep | apply closeSessions_keep | apply closePort_keep
    | apply ite_keep

theorem serveObjectWrite_keep (who node ix sub v s) (h_s : Keep o s) :
    Keep o (serveObjectWrite who node ix sub v s) := by
  unfold serveObjectWrite
  try dsimp only
  repeat' with_reducible first
    | intro _ | assumption | apply afterWrite_keep | apply serveWrite_keep | apply ruleFor_keep

theorem writeObject_keep (who node ix sub v s) (h_s : Keep o s) :
    Keep o (writeObject who node ix sub v s) := by
  unfold writeObject
  try dsimp only
  repeat' with_reducible first
    | intro _ | assumption | apply admitRequest_keep | apply serveObjectWrite_keep | apply appear_keep
    | apply ite_keep

theorem takeItem_keep {who ix s b t} (e : takeItem who ix s = some (b, t)) (h_s : Keep o s) : Keep o t := by
  unfold takeItem at e
  dsimp only at e
  have key : ∀ {b' : List Byte} {x : ReqState}, some (b', setReq who x s) = some (b, t) → Keep o t := fun e => by
    simp only [Option.some.injEq, Prod.mk.injEq] at e
    rw [← e.2]
    exact setReq_keep _ _ _ h_s
  repeat' split at e
  all_goals first
    | exact key e | exact absurd e (by simp)

theorem serveTake_keep (who node ix sub row s) (h_s : Keep o s) :
    Keep o (serveTake who node ix sub row s) := by
  unfold serveTake
  try dsimp only
  repeat' with_reducible first
    | assumption | apply respondRefused_keep | refine takeItem_keep (by assumption) ?_ | apply respondValue_keep
    | apply ite_keep | refine keep_of_some (by assumption) ?_ | split

theorem serveRead_keep (who node ix sub row s) (h_s : Keep o s) :
    Keep o (serveRead who node ix sub row s) := by
  unfold serveRead
  try dsimp only
  repeat' with_reducible first
    | intro _ | assumption | apply respondRefused_keep | apply serveTake_keep | apply respondValue_keep
    | apply ite_keep

theorem serveObject_keep (who op node ix sub value row s) (h_s : Keep o s) :
    Keep o (serveObject who op node ix sub value row s) := by
  unfold serveObject
  try dsimp only
  repeat' with_reducible first
    | intro _ | assumption | apply serveRead_keep | apply serveTake_keep | apply respondRefused_keep
    | apply serveObjectWrite_keep | apply ite_keep | apply ite_keep1 | split

theorem serveRequest_keep (who op r s) (h_s : Keep o s) :
    Keep o (serveRequest who op r s) := by
  unfold serveRequest
  try dsimp only
  repeat' with_reducible first
    | assumption | apply respondRefused_keep | apply serveObject_keep | apply ite_keep | split

theorem requestUnit_keep (who op r unit s) (h_s : Keep o s) :
    Keep o (requestUnit who op r unit s) := by
  unfold requestUnit
  try dsimp only
  repeat' with_reducible first
    | intro _ | assumption | apply appear_keep | apply admitRequest_keep | apply serveRequest_keep | apply ite_keep

theorem request_keep (who op r s) (h_s : Keep o s) :
    Keep o (request who op r s) := by
  unfold request
  try dsimp only
  repeat' with_reducible first
    | intro _ | assumption | apply requestUnit_keep

theorem execCatalogueRead_keep (who req s) (h_s : Keep o s) :
    KeepN o (execCatalogueRead who req s) := by
  unfold execCatalogueRead
  try dsimp only
  repeat' with_reducible first
    | assumption | apply request_keep | apply next_keep

theorem execCatalogueWrite_keep (who req s) (h_s : Keep o s) :
    KeepN o (execCatalogueWrite who req s) := by
  unfold execCatalogueWrite
  try dsimp only
  repeat' with_reducible first
    | assumption | apply request_keep | apply next_keep

theorem execCatalogueTake_keep (who req s) (h_s : Keep o s) :
    KeepN o (execCatalogueTake who req s) := by
  unfold execCatalogueTake
  try dsimp only
  repeat' with_reducible first
    | assumption | apply request_keep | apply next_keep

theorem execRestoreDefaults_keep (who value s) (h_s : Keep o s) :
    KeepN o (execRestoreDefaults who value s) := by
  unfold execRestoreDefaults
  try dsimp only
  repeat' with_reducible first
    | intro _ | assumption | apply served_keep | apply ruleRestore_keep | apply next_keep

theorem setMbox_keep (p m s) (h_s : Keep o s) :
    Keep o (setMbox p m s) := by
  unfold setMbox
  try dsimp only
  repeat' with_reducible first
    | intro _ | assumption | (simp only [keep_mk_iff]; refine ⟨fun _ => ⟨?_, ?_⟩, ?_, ?_, ?_, ?_⟩)
    | apply Keep.obj ‹Canon _› | apply Keep.mem ‹Canon _› | apply Keep.queue | apply Keep.free | apply Keep.sent
    | apply Keep.decom

theorem respondMailbox_keep (p b s) (h_s : Keep o s) :
    Keep o (respondMailbox p b s) := by
  unfold respondMailbox
  try dsimp only
  repeat' with_reducible first
    | intro _ | assumption | apply fireSource_keep | apply setMbox_keep | apply ite_keep

theorem submit_keep (p s) (h_s : Keep o s) :
    Keep o (submit p s) := by
  unfold submit
  try dsimp only
  repeat' with_reducible first
    | intro _ | assumption | apply setMbox_keep | apply respondMailbox_keep | apply respondRefused_keep
    | apply appear_keep | apply requestUnit_keep | apply onlyIf_keep | apply addO_keep | apply ite_keep
    | apply ite_keep1 | refine keep_of_pair (by assumption) ?_ | split

theorem serveWaiting_keep (s) (h_s : Keep o s) :
    Keep o (serveWaiting s) := by
  unfold serveWaiting
  try dsimp only
  repeat' with_reducible first
    | apply Keep.decom | intro _ | assumption | apply serveNow_keep | apply serveRequest_keep
    | apply respondMailbox_keep | apply ite_keep | apply ite_keep1 | split
    | (simp only [keep_mk_iff]; refine ⟨fun _ => ⟨?_, ?_⟩, ?_, ?_, ?_, ?_⟩) | apply Keep.obj ‹Canon _›
    | apply Keep.mem ‹Canon _› | apply Keep.queue | apply Keep.free | apply Keep.sent

theorem idle_keep (s) (h_s : Keep o s) :
    Keep o (idle s) := by
  unfold idle
  try dsimp only
  repeat' with_reducible first
    | intro _ | assumption | apply continueAudit_keep | apply serveWaiting_keep | apply tick_keep

theorem mailboxStore_keep (p off size v s) (h_s : Keep o s) :
    Keep o (mailboxStore p off size v s) := by
  unfold mailboxStore
  try dsimp only
  repeat' with_reducible first
    | intro _ | assumption | apply submit_keep | apply setMbox_keep | apply ite_keep

theorem deviceStore_keep (a size v s) (h_s : Keep o s) :
    KeepO o (deviceStore a size v s) := by
  unfold deviceStore
  try dsimp only
  repeat' with_reducible first
    | assumption | apply fileStore_keep | apply doorbellStore_keep | apply mailboxStore_keep | apply some_keep
    | apply none_keep | split

theorem execMailboxSubmit_keep (hart va page value s) (h_s : Keep o s) :
    KeepN o (execMailboxSubmit hart va page value s) := by
  unfold execMailboxSubmit
  try dsimp only
  repeat' with_reducible first
    | intro _ | assumption | apply hartDeviceStore_keep | apply mailboxStore_keep | apply within_keep

theorem csrStore_keep (hart num v s) (h_s : Keep o s) :
    Keep o (csrStore hart num v s) := by
  unfold csrStore
  try dsimp only
  repeat' with_reducible first
    | intro _ | assumption | apply csrWrite_keep | apply complete_keep | apply illegal_keep | apply ite_keep

theorem deviceWordStore_keep (hart va addr v size s) (h_s : Keep o s) :
    Keep o (deviceWordStore hart va addr v size s) := by
  unfold deviceWordStore
  try dsimp only
  repeat' with_reducible first
    | intro _ | assumption | apply hartDeviceStore_keep | apply deviceStore_keep | apply takeExc_keep
    | refine keep_of_some (by assumption) ?_ | split

theorem writeNamed_keep (who node ix sub value s) (h_s : Keep o s) : Keep o (writeNamed who node ix sub value s) := by
  unfold writeNamed
  dsimp only
  repeat' with_reducible first
    | assumption | apply writeObject_keep | apply respondRefused_keep | apply appear_keep | apply ite_keep | split

theorem execRegisterWrite_keep (target s) (h_s : Keep o s) :
    KeepN o (execRegisterWrite target s) := by
  unfold execRegisterWrite
  try dsimp only
  repeat' with_reducible first
    | intro _ | assumption | apply writeNamed_keep | apply csrStore_keep | apply hartDeviceStore_keep
    | apply mailboxStore_keep | apply deviceWordStore_keep | apply within_keep | apply next_keep
    | refine keep_of_next (by assumption) ?_ | split

theorem execDtlsHandshake_keep (port chain s) (h_s : Keep o s) :
    KeepN o (execDtlsHandshake port chain s) := by
  unfold execDtlsHandshake
  try dsimp only
  repeat' with_reducible first
    | apply Keep.decom | intro _ | assumption | apply emit_keep | apply appear_keep | apply addO_keep
    | apply within_keep | apply ite_keepN | apply ite_keep | apply ite_keep1
    | refine keep_of_some (by assumption) ?_ | split
    | (simp only [keep_mk_iff]; refine ⟨fun _ => ⟨?_, ?_⟩, ?_, ?_, ?_, ?_⟩) | apply Keep.obj ‹Canon _›
    | apply Keep.mem ‹Canon _› | apply Keep.queue | apply Keep.free | apply Keep.sent

theorem execSessionIdleClose_keep (session s) (h_s : Keep o s) :
    KeepN o (execSessionIdleClose session s) := by
  unfold execSessionIdleClose
  try dsimp only
  repeat' with_reducible first
    | assumption | apply within_keep | apply closeSession_keep | apply ite_keep | apply ite_keepN | apply next_keep
    | apply fault_keep | split

theorem execFieldPortConfigWrite_keep (who port sub value s) (h_s : Keep o s) :
    KeepN o (execFieldPortConfigWrite who port sub value s) := by
  unfold execFieldPortConfigWrite
  try dsimp only
  repeat' with_reducible first
    | assumption | apply within_keep | apply writeNamed_keep

theorem execFieldPortLinkLoss_keep (port s) (h_s : Keep o s) :
    KeepN o (execFieldPortLinkLoss port s) := by
  unfold execFieldPortLinkLoss
  try dsimp only
  repeat' with_reducible first
    | assumption | apply within_keep | apply setO_keep | apply ite_keep

theorem execFieldPortLinkReturn_keep (port s) (h_s : Keep o s) :
    KeepN o (execFieldPortLinkReturn port s) := by
  unfold execFieldPortLinkReturn
  try dsimp only
  repeat' with_reducible first
    | assumption | apply within_keep | apply setO_keep | apply ite_keep

theorem sessionUnit_keep (n b s) (h_s : Keep o s) :
    Keep o (sessionUnit n b s) := by
  unfold sessionUnit
  try dsimp only
  repeat' with_reducible first
    | intro _ | assumption | apply request_keep | apply respondRefused_keep | apply appear_keep | apply ite_keep
    | apply ite_keep1 | refine keep_of_pair (by assumption) ?_ | split

theorem execFieldPortFrameReceived_keep (port frame s) (h_s : Keep o s) :
    KeepN o (execFieldPortFrameReceived port frame s) := by
  unfold execFieldPortFrameReceived
  try dsimp only
  repeat' with_reducible first
    | intro _ | assumption | apply addO_keep | apply emit_keep | apply sessionUnit_keep | apply closeSession_keep
    | apply within_keep | apply ite_keepN | apply ite_keep | apply ite_keep1
    | refine keep_of_some (by assumption) ?_ | split

theorem setNmt_keep (x s) (h_s : Keep o s) :
    Keep o (setNmt x s) := by
  unfold setNmt
  try dsimp only
  repeat' with_reducible first
    | assumption | (simp only [keep_mk_iff]; refine ⟨fun _ => ⟨?_, ?_⟩, ?_, ?_, ?_, ?_⟩) | apply Keep.obj ‹Canon _›
    | apply Keep.mem ‹Canon _› | apply Keep.queue | apply Keep.free | apply Keep.sent | apply Keep.decom

theorem canFrame_keep (f act s) (h_act : ∀ s, Keep o s → Keep o (act s)) (h_s : Keep o s) :
    Keep o (canFrame f act s) := by
  unfold canFrame
  try dsimp only
  repeat' with_reducible first
    | intro _ | assumption | apply h_act | apply addO_keep | apply ite_keep

theorem execNmtStart_keep (f s) (h_s : Keep o s) :
    KeepN o (execNmtStart f s) := by
  unfold execNmtStart
  try dsimp only
  repeat' with_reducible first
    | intro _ | assumption | apply canFrame_keep | apply setNmt_keep | apply next_keep

theorem execNmtStop_keep (f s) (h_s : Keep o s) :
    KeepN o (execNmtStop f s) := by
  unfold execNmtStop
  try dsimp only
  repeat' with_reducible first
    | intro _ | assumption | apply canFrame_keep | apply setNmt_keep | apply next_keep

theorem execNmtEnterPreoperational_keep (f s) (h_s : Keep o s) :
    KeepN o (execNmtEnterPreoperational f s) := by
  unfold execNmtEnterPreoperational
  try dsimp only
  repeat' with_reducible first
    | intro _ | assumption | apply canFrame_keep | apply setNmt_keep | apply next_keep

theorem bootUp_keep (s) (h_s : Keep o s) :
    Keep o (bootUp s) := by
  unfold bootUp
  try dsimp only
  repeat' with_reducible first
    | assumption | apply setNmt_keep | apply emit_keep

theorem resetCommunication_keep (s) (h_s : Keep o s) :
    Keep o (resetCommunication s) := by
  unfold resetCommunication
  try dsimp only
  repeat' with_reducible first
    | apply Keep.decom | intro _ | assumption | apply bootUp_keep
    | (simp only [keep_mk_iff]; refine ⟨fun _ => ⟨?_, ?_⟩, ?_, ?_, ?_, ?_⟩) | apply Keep.obj ‹Canon _›
    | apply Keep.mem ‹Canon _› | apply Keep.queue | apply Keep.free | apply Keep.sent

theorem execNmtResetCommunication_keep (f s) (h_s : Keep o s) :
    KeepN o (execNmtResetCommunication f s) := by
  unfold execNmtResetCommunication
  try dsimp only
  repeat' with_reducible first
    | intro _ | assumption | apply canFrame_keep | apply resetCommunication_keep | apply next_keep

theorem execUsdoAbort_keep (client s) (h_s : Keep o s) :
    KeepN o (execUsdoAbort client s) := by
  unfold execUsdoAbort
  try dsimp only
  repeat' with_reducible first
    | assumption | apply within_keep

theorem execUsdoTransferTimeout_keep (client s) (h_s : Keep o s) :
    KeepN o (execUsdoTransferTimeout client s) := by
  unfold execUsdoTransferTimeout
  try dsimp only
  repeat' with_reducible first
    | assumption | apply within_keep | apply emit_keep | apply respondRefused_keep | apply ite_keep

theorem execHeartbeatTimer_keep (s) (h_s : Keep o s) :
    KeepN o (execHeartbeatTimer s) := by
  unfold execHeartbeatTimer
  try dsimp only
  repeat' with_reducible first
    | apply Keep.decom | intro _ | assumption | apply emit_keep | apply next_keep | apply ite_keepN | apply ite_keep
    | apply ite_keep1 | (simp only [keep_mk_iff]; refine ⟨fun _ => ⟨?_, ?_⟩, ?_, ?_, ?_, ?_⟩)
    | apply Keep.obj ‹Canon _› | apply Keep.mem ‹Canon _› | apply Keep.queue | apply Keep.free | apply Keep.sent

theorem execCanBusOff_keep (change s) (h_s : Keep o s) :
    KeepN o (execCanBusOff change s) := by
  unfold execCanBusOff
  try dsimp only
  repeat' with_reducible first
    | intro _ | assumption | apply setO_keep | apply addO_keep | apply bootUp_keep | apply next_keep
    | apply ite_keepN | apply ite_keep | apply ite_keep1 | refine keep_of_next (by assumption) ?_ | split

/-! Machine/HartMem.lean -/

theorem planPart_keep (hart acc va off len aligned s) (h_s : Keep o s) :
    Keep o (planPart hart acc va off len aligned s).1 := by
  unfold planPart
  try dsimp only
  repeat' with_reducible first
    | assumption | apply reach_keep | refine keep_of_pair (by assumption) ?_ | split

theorem plan_keep (hart acc va size s) (h_s : Keep o s) :
    Keep o (plan hart acc va size s).1 := by
  unfold plan
  try dsimp only
  repeat' with_reducible first
    | assumption | apply planPart_keep | apply ite_keep | apply ite_keep1 | apply ite_rule_keep
    | refine keep_of_pair (by assumption) ?_ | split

theorem lostWords_keep (hart e s) (h_s : Keep o s) :
    Keep o (lostWords hart e s) := by
  unfold lostWords
  try dsimp only
  repeat' with_reducible first
    | intro _ | assumption | apply poisonL2_keep | apply ctlPoison_keep | apply ite_keep

theorem drainEntry_keep (hart e s) (h_s : Keep o s) :
    Keep o (drainEntry hart e s).1 := by
  unfold drainEntry
  try dsimp only
  repeat' with_reducible first
    | intro _ | assumption | apply deviceStore_keep | apply lostWords_keep | apply sliceWrite_keep
    | apply l2Store_keep | apply getD_keep | apply ite_keep1 | apply ite_keep
    | refine keep_of_pair (by assumption) ?_ | split

theorem drainOldest_keep (hart s) (h_s : Keep o s) :
    Keep o (drainOldest hart s).1 := by
  unfold drainOldest
  try dsimp only
  repeat' with_reducible first
    | intro _ | assumption | apply drainEntry_keep | apply setHart_keep | apply carryWaits_keep
    | refine keep_of_pair (by assumption) ?_ | split

theorem execStoreBufferDrain_keep (hart s) (h_s : Keep o s) :
    KeepN o (execStoreBufferDrain hart s) := by
  unfold execStoreBufferDrain
  try dsimp only
  repeat' with_reducible first
    | assumption | apply within_keep | apply drainOldest_keep | apply ite_keep

theorem fillL1d_keep (hart line s) (h_s : Keep o s) :
    Keep o (fillL1d hart line s) := by
  unfold fillL1d
  try dsimp only
  repeat' with_reducible first
    | intro _ | assumption | apply setHart_keep | apply ite_keep

theorem readPart_keep (hart p f s) (h_s : Keep o s) :
    Keep o (readPart hart p f s).1 := by
  unfold readPart
  try dsimp only
  repeat' with_reducible first
    | intro _ | assumption | apply sliceRead_keep | apply l2Read_keep | apply hartEvent_keep | apply fillL1d_keep
    | apply ite_keep1 | apply ite_keep | refine keep_of_pair (by assumption) ?_
    | refine keep_of_some (by assumption) ?_ | split

theorem readParts_keep (hart l f s) (h_s : Keep o s) : Keep o (readParts hart l f s).1 := by
  induction l generalizing f s with
  | nil => exact h_s
  | cons p l ih =>
    unfold readParts
    have h1 := readPart_keep hart p f s h_s
    split
    · exact keep_of_pair (by assumption) h1
    · rename_i t d e
      have h2 := ih .clean t (keep_of_pair e h1)
      split <;> exact keep_of_pair (by assumption) h2

theorem readAccess_keep (hart acc va size f s) (h_s : Keep o s) :
    Keep o (readAccess hart acc va size f s).1 := by
  unfold readAccess
  try dsimp only
  repeat' with_reducible first
    | intro _ | assumption | apply plan_keep | apply readParts_keep | apply findSome_keepO | apply ite_keep1
    | apply ite_keep | refine keep_of_pair (by assumption) ?_ | refine keep_of_some (by assumption) ?_ | split

theorem settleAccess_keep (hart src va use s a) (h_use : ∀ x s, Keep o s → Keep o (use x s)) (h_s : Keep o s) (h_a : Keep o a.1) :
    Keep o (settleAccess hart src va use s a) := by
  unfold settleAccess
  try dsimp only
  repeat' with_reducible first
    | assumption | apply takeExc_keep | apply carryWaits_keep | apply haltHart_keep
    | refine keep_of_pair (by assumption) ?_ | split | apply h_use

theorem retire_keep (hart len s) (h_s : Keep o s) :
    Keep o (retire hart len s) := by
  unfold retire
  try dsimp only
  repeat' with_reducible first
    | assumption | apply complete_keep

theorem stridePrefetch_keep (hart pa k s) (h_s : Keep o s) :
    Keep o (stridePrefetch hart pa k s) := by
  unfold stridePrefetch
  try dsimp only
  repeat' with_reducible first
    | assumption | apply l2Read_keep | apply hartEvent_keep | apply fillL1d_keep | apply ite_keep
    | refine keep_of_pair (by assumption) ?_ | split

theorem trackStream_keep (hart page s) (h_s : Keep o s) :
    Keep o (trackStream hart page s) := by
  unfold trackStream
  try dsimp only
  repeat' with_reducible first
    | intro _ | assumption | apply setHart_keep

theorem stridePrefetches_keep (hart va ks before after) (h_before : Keep o before) (h_after : Keep o after) :
    Keep o (stridePrefetches hart va ks before after) := by
  unfold stridePrefetches
  try dsimp only
  repeat' with_reducible first
    | intro _ | assumption | apply forAll_keep | apply stridePrefetch_keep | apply trackStream_keep | apply ite_keep
    | apply ite_keep1 | refine keep_of_some (by assumption) ?_ | split

theorem execLoad_keep (hart rd rs1 offset size isSigned fp len f walk prefetch s) (h_s : Keep o s) :
    KeepN o (execLoad hart rd rs1 offset size isSigned fp len f walk prefetch s) := by
  unfold execLoad
  try dsimp only
  repeat' with_reducible first
    | intro _ | assumption | apply walk_keep | apply illegal_keep | apply stridePrefetches_keep | apply retire_keep
    | apply onlyIf_keep | apply hartEvent_keep | apply setHart_keep | apply settleAccess_keep
    | apply readAccess_keep | apply within_keep | apply ite_keepN | apply ite_keep

theorem storeEntries_keep (va bytes s a) (h_s : Keep o s) (h_a : Keep o a.1) :
    Keep o (storeEntries va bytes s a).1 := by
  unfold storeEntries
  try dsimp only
  repeat' with_reducible first
    | assumption | apply deviceStore_keep | apply ite_keep | apply ite_keep1 | apply ite_rule_keep
    | refine keep_of_pair (by assumption) ?_ | refine keep_of_some (by assumption) ?_ | split

theorem writeAccess_keep (hart va size v walk s) (h_s : Keep o s) :
    Keep o (writeAccess hart va size v walk s).1 := by
  unfold writeAccess
  try dsimp only
  repeat' with_reducible first
    | intro _ | assumption | apply storeEntries_keep | apply plan_keep | apply walk_keep | apply setHart_keep
    | refine keep_of_pair (by assumption) ?_ | refine keep_of_some (by assumption) ?_ | split

theorem execStore_keep (hart rs1 rs2 offset size fp len walk s) (h_s : Keep o s) :
    KeepN o (execStore hart rs1 rs2 offset size fp len walk s) := by
  unfold execStore
  try dsimp only
  repeat' with_reducible first
    | intro _ | assumption | apply walk_keep | apply illegal_keep | apply settleAccess_keep | apply retire_keep
    | apply onlyIf_keep | apply hartEvent_keep | apply writeAccess_keep | apply within_keep | apply ite_keepN
    | apply ite_keep

theorem atomicAccess_keep (hart acc va size consumes upd s) (h_s : Keep o s) :
    Keep o (atomicAccess hart acc va size consumes upd s).1 := by
  unfold atomicAccess
  try dsimp only
  repeat' with_reducible first
    | intro _ | assumption | apply plan_keep | apply l2Atomic_keep | apply ite_keep | apply ite_keep1
    | apply ite_rule_keep | refine keep_of_pair (by assumption) ?_ | split

theorem execAmo_keep (hart op size rd rs1 rs2 s) (h_s : Keep o s) :
    KeepN o (execAmo hart op size rd rs1 rs2 s) := by
  unfold execAmo
  try dsimp only
  repeat' with_reducible first
    | intro _ | assumption | apply atomicAccess_keep | apply settleAccess_keep | apply retire_keep
    | apply setHart_keep | apply within_keep | apply ite_keepN | apply ite_keep

theorem execLr_keep (hart size rd rs1 s) (h_s : Keep o s) :
    KeepN o (execLr hart size rd rs1 s) := by
  unfold execLr
  try dsimp only
  repeat' with_reducible first
    | intro _ | assumption | apply within_keep | apply atomicAccess_keep | apply settleAccess_keep
    | apply onlyIf_keep | apply retire_keep | apply setHart_keep | apply ite_keep | apply ite_keepN
    | apply next_keep | apply fault_keep | (simp only [keep_mk_iff]; refine ⟨fun _ => ⟨?_, ?_⟩, ?_, ?_, ?_, ?_⟩)
    | apply Keep.obj ‹Canon _› | apply Keep.mem ‹Canon _› | apply Keep.queue | apply Keep.free | apply Keep.sent
    | apply Keep.decom

theorem execSc_keep (hart size rd rs1 rs2 s) (h_s : Keep o s) :
    KeepN o (execSc hart size rd rs1 rs2 s) := by
  unfold execSc
  try dsimp only
  repeat' with_reducible first
    | intro _ | assumption | apply retire_keep | apply setHart_keep | apply takeExc_keep | apply plan_keep
    | apply atomicAccess_keep | apply settleAccess_keep | apply haltHart_keep | apply carryWaits_keep
    | apply within_keep | apply ite_keepN | apply ite_keep | apply ite_keep1
    | refine keep_of_pair (by assumption) ?_ | refine keep_of_some (by assumption) ?_ | split

theorem afterDrain_keep (hart f s) (h_f : ∀ s, Keep o s → Keep o (f s)) (h_s : Keep o s) :
    Keep o (afterDrain hart f s) := by
  unfold afterDrain
  try dsimp only
  repeat' with_reducible first
    | assumption | apply retire_keep | apply ite_keep | apply h_f

theorem execFence_keep (hart pred succ tso s) (h_s : Keep o s) :
    KeepN o (execFence hart pred succ tso s) :=
  within_keep (ite_keep h_s (ite_keep (afterDrain_keep _ _ _ (fun _ h => h) h_s) (retire_keep _ _ _ h_s)))

theorem execFenceI_keep (hart s) (h_s : Keep o s) :
    KeepN o (execFenceI hart s) := by
  unfold execFenceI
  try dsimp only
  repeat' with_reducible first
    | intro _ | assumption | apply within_keep | apply afterDrain_keep | apply setHart_keep | apply ite_keep

theorem execSfenceVma_keep (hart rs1 rs2 s) (h_s : Keep o s) :
    KeepN o (execSfenceVma hart rs1 rs2 s) := by
  unfold execSfenceVma
  try dsimp only
  repeat' with_reducible first
    | intro _ | assumption | apply within_keep | apply illegal_keep | apply afterDrain_keep | apply setHart_keep
    | apply ite_keep

theorem blockOp_keep (hart acc rs1 op s) (h_op : ∀ a0 a1 s, Keep o s → Keep o (op a0 a1 s).1) (h_s : Keep o s) :
    Keep o (blockOp hart acc rs1 op s) := by
  unfold blockOp
  try dsimp only
  repeat' with_reducible first
    | intro _ | assumption | apply h_op | apply planPart_keep | apply retire_keep | apply hartEvent_keep
    | apply carryWaits_keep | apply takeExc_keep | apply haltHart_keep | apply ite_keep | apply ite_keep1
    | refine keep_of_pair (by assumption) ?_ | split

theorem maintain_keep (hart rs1 kind s) (h_s : Keep o s) :
    Keep o (maintain hart rs1 kind s) := by
  unfold maintain
  try dsimp only
  repeat' with_reducible first
    | intro _ | assumption | apply illegal_keep | apply blockOp_keep | apply cohMaintain_keep | apply getD_keep
    | apply ite_keep | apply ite_keep1 | refine keep_of_some (by assumption) ?_ | split

theorem execCboClean_keep (hart rs1 s) (h_s : Keep o s) :
    KeepN o (execCboClean hart rs1 s) := by
  unfold execCboClean
  try dsimp only
  repeat' with_reducible first
    | assumption | apply within_keep | apply maintain_keep

theorem execCboFlush_keep (hart rs1 s) (h_s : Keep o s) :
    KeepN o (execCboFlush hart rs1 s) := by
  unfold execCboFlush
  try dsimp only
  repeat' with_reducible first
    | assumption | apply within_keep | apply maintain_keep

theorem execCboInval_keep (hart rs1 s) (h_s : Keep o s) :
    KeepN o (execCboInval hart rs1 s) := by
  unfold execCboInval
  try dsimp only
  repeat' with_reducible first
    | assumption | apply within_keep | apply maintain_keep

theorem execCboZero_keep (hart rs1 s) (h_s : Keep o s) :
    KeepN o (execCboZero hart rs1 s) := by
  unfold execCboZero
  try dsimp only
  repeat' with_reducible first
    | intro _ | assumption | apply illegal_keep | apply blockOp_keep | apply l2Zero_keep | apply cohWrite_keep
    | apply within_keep | apply getD_keep | apply ite_keepN | apply ite_keep | apply ite_keep1

theorem fillL1i_keep (hart line d s) (h_s : Keep o s) :
    Keep o (fillL1i hart line d s) := by
  unfold fillL1i
  try dsimp only
  repeat' with_reducible first
    | intro _ | assumption | apply setHart_keep | apply ite_keep

theorem hintFill_keep (hart line kind s) (h_s : Keep o s) :
    KeepO o (hintFill hart line kind s) := by
  unfold hintFill
  try dsimp only
  repeat' with_reducible first
    | assumption | apply l2Own_keep | apply l2Read_keep | apply fillL1d_keep | apply fillL1i_keep | apply some_keep
    | apply none_keep | refine keep_of_pair (by assumption) ?_ | split

theorem execPrefetchHint_keep (hart kind rs1 offset s) (h_s : Keep o s) :
    KeepN o (execPrefetchHint hart kind rs1 offset s) := by
  unfold execPrefetchHint
  refine within_keep (ite_keep h_s ?_)
  extract_lets h env s1 restore
  refine retire_keep _ _ _ ?_
  have h1 : Keep o s1 := setHart_keep _ _ _ h_s
  have h2 := reach_keep hart lrAccess (h.getX rs1 + offset) 1 true s1 h1
  split
  · rename_i t pa e
    have h3 : Keep o t := keep_of_pair e h2
    refine ite_keep h_s (getD_keep (fun u eu => ?_) h_s)
    obtain ⟨v, ev, rfl⟩ := Option.map_eq_some_iff.mp eu
    exact setHart_keep _ _ _ (hintFill_keep _ _ _ _ h3 v ev)
  · exact h_s

theorem vecDone_keep (hart dirty s) (h_s : Keep o s) :
    Keep o (vecDone hart dirty s) := by
  unfold vecDone
  try dsimp only
  repeat' with_reducible first
    | assumption | apply retire_keep | apply setHart_keep

theorem vecFault_keep (hart i va s a) (h_s : Keep o s) :
    Keep o (vecFault hart i va s a) := by
  unfold vecFault
  try dsimp only
  repeat' with_reducible first
    | assumption | apply takeExc_keep | apply setHart_keep | apply haltHart_keep | split

theorem vecFields_keep (hart h0 m prefetch i n k s) (h_s : Keep o s) :
    Keep o (vecFields hart h0 m prefetch i n k s).1 := by
  induction n generalizing k s with
  | zero => exact h_s
  | succ n ih =>
    unfold vecFields
    dsimp only
    have h1 := readAccess_keep hart vecLoadAccess (m.addr h0 i k) m.width .clean s h_s
    split
    · have h2 := ih (k + 1) _ (stridePrefetches_keep hart (m.addr h0 i k)
        ((prefetch.filter (·.1 == i * m.fields + k)).map (·.2)) s _ h_s (keep_of_pair (by assumption) h1))
      split
      · exact keep_of_pair (by assumption) h2
      · exact h2
    · exact keep_of_pair (by assumption) h1

theorem vecLoadFrom_keep (hart h0 m prefetch n i s) (h_s : Keep o s) :
    Keep o (vecLoadFrom hart h0 m prefetch n i s).1 := by
  induction n generalizing i s with
  | zero => exact h_s
  | succ n ih =>
    unfold vecLoadFrom
    refine ite_keep1 (ih _ _ h_s) ?_
    have h1 := vecFields_keep hart h0 m prefetch i m.fields 0 s h_s
    dsimp only
    split
    · exact ih _ _ (setHart_keep _ _ _ (keep_of_pair (by assumption) h1))
    · exact keep_of_pair (by assumption) h1

theorem execVectorLoad_keep (hart vd eew rs1 fields addrs masked faultFirst prefetch s) (h_s : Keep o s) :
    KeepN o (execVectorLoad hart vd eew rs1 fields addrs masked faultFirst prefetch s) := by
  unfold execVectorLoad
  try dsimp only
  repeat' with_reducible first
    | intro _ | assumption | apply illegal_keep | apply vecLoadFrom_keep | apply vecDone_keep
    | apply carryWaits_keep | apply setHart_keep | apply vecFault_keep | apply within_keep | apply ite_keepN
    | apply ite_keep | apply ite_keep1 | refine keep_of_pair (by assumption) ?_ | split

theorem vecPutFields_keep (hart h0 m i n k es s) (h_s : Keep o s) :
    Keep o (vecPutFields hart h0 m i n k es s).1 := by
  induction n generalizing k es s with
  | zero => exact h_s
  | succ n ih =>
    unfold vecPutFields
    dsimp only
    have h1 := storeEntries_keep (m.addr h0 i k) (leBytes m.width (h0.elem (m.group h0 k) m.width i).toNat) s
      (plan hart vecStoreAccess (m.addr h0 i k) m.width s) h_s (plan_keep _ _ _ _ _ h_s)
    split
    · exact ih _ _ _ (keep_of_pair (by assumption) h1)
    · exact keep_of_pair (by assumption) h1

theorem vecStoreFrom_keep (hart h0 m n i es s) (h_s : Keep o s) :
    Keep o (vecStoreFrom hart h0 m n i es s).1 := by
  induction n generalizing i es s with
  | zero => exact h_s
  | succ n ih =>
    unfold vecStoreFrom
    refine ite_keep1 (ih _ _ _ h_s) ?_
    have h1 := vecPutFields_keep hart h0 m i m.fields 0 es s h_s
    split
    · exact ih _ _ _ (keep_of_pair (by assumption) h1)
    · exact keep_of_pair (by assumption) h1

theorem vecBuffer_keep (hart l s) (h_s : Keep o s) : Keep o (vecBuffer hart l s).1 := by
  induction l generalizing s with
  | nil => exact h_s
  | cons e l ih =>
    unfold vecBuffer
    dsimp only
    refine ite_keep1 (ih _ (setHart_keep _ _ _ h_s)) ?_
    have h1 := drainOldest_keep hart s h_s
    split
    · exact ih _ (setHart_keep _ _ _ (keep_of_pair (by assumption) h1))
    · exact keep_of_pair (by assumption) h1

theorem execVectorStore_keep (hart vs eew rs1 fields addrs masked s) (h_s : Keep o s) :
    KeepN o (execVectorStore hart vs eew rs1 fields addrs masked s) := by
  unfold execVectorStore
  try dsimp only
  repeat' with_reducible first
    | intro _ | assumption | apply illegal_keep | apply vecStoreFrom_keep | apply carryWaits_keep
    | apply vecBuffer_keep | apply vecDone_keep | apply vecFault_keep | apply within_keep | apply ite_keepN
    | apply ite_keep | apply ite_keep1 | refine keep_of_pair (by assumption) ?_ | split

/-! Machine/Vitrine.lean -/

theorem cohBytes_keep (g dom a n s) (h_s : Keep o s) :
    Keep o (cohBytes g dom a n s).1 := by
  unfold cohBytes
  try dsimp only
  repeat' with_reducible first
    | intro _ | assumption | apply cohRead_keep | apply foldl_keep | apply foldl_keep1 | apply getD_keep
    | apply ite_keep1 | apply ite_keep | refine keep_of_pair (by assumption) ?_
    | refine keep_of_some (by assumption) ?_ | split

theorem cohLines_keep (g dom a bytes s) (h_s : Keep o s) :
    Keep o (cohLines g dom a bytes s).1 := by
  unfold cohLines
  try dsimp only
  repeat' with_reducible first
    | intro _ | assumption | apply cohWrite_keep | apply foldl_keep | apply foldl_keep1 | apply ite_keep1

theorem vitFault_keep (v slot code s) (h_s : Keep o s) :
    Keep o (vitFault v slot code s) := by
  unfold vitFault
  try dsimp only
  repeat' with_reducible first
    | assumption | apply clusterHit_keep | apply ite_keep1 | apply record_keep | apply setO_keep | apply addO_keep
    | apply setVit_keep

theorem lineCorrected_keep (v slot s) (h_s : Keep o s) :
    Keep o (lineCorrected v slot s) := by
  unfold lineCorrected
  try dsimp only
  repeat' with_reducible first
    | assumption | apply record_keep | apply addO_keep | apply clusterHit_keep

theorem thenRetire_keep (v found before after) (h_after : Keep o after) : Keep o (thenRetire v found before after) := by
  unfold thenRetire
  exact onlyIf_keep (fun _ h => retireWorn_keep _ _ h) h_after

theorem vitPoison_keep (v slot bad s) (h_s : Keep o s) :
    Keep o (vitPoison v slot bad s) := by
  unfold vitPoison
  try dsimp only
  repeat' with_reducible first
    | assumption | apply vitFault_keep | apply consumeRecord_keep

theorem performedTime_keep (t s) (h_s : Keep o s) :
    Keep o (performedTime t s).1 := by
  unfold performedTime
  try dsimp only
  repeat' with_reducible first
    | assumption | apply takeFree_keep | refine keep_of_pair (by assumption) ?_ | split

theorem vitPost_keep (v slot type flags code line out performed s) (h_s : Keep o s) :
    Keep o (vitPost v slot type flags code line out performed s) := by
  unfold vitPost
  try dsimp only
  repeat' with_reducible first
    | assumption | apply performedTime_keep | apply post_keep | apply ite_keep

theorem vitDone_keep (hart rd v s) (h_s : Keep o s) :
    Keep o (vitDone hart rd v s) := by
  unfold vitDone
  try dsimp only
  repeat' with_reducible first
    | assumption | apply retire_keep | apply hartEvent_keep | apply setHart_keep

theorem vitInsn_keep (hart ok f s) (h_f : ∀ x s, Keep o s → Keep o (f x s)) (h_s : Keep o s) :
    KeepN o (vitInsn hart ok f s) := by
  unfold vitInsn
  try dsimp only
  repeat' with_reducible first
    | assumption | apply within_keep | apply illegal_keep | apply ite_keep | apply ite_keepN | apply next_keep
    | apply fault_keep | apply h_f

theorem execVitLoad_keep (hart rd rs1 rs2 s) (h_s : Keep o s) :
    KeepN o (execVitLoad hart rd rs1 rs2 s) := by
  unfold execVitLoad
  try dsimp only
  repeat' with_reducible first
    | intro _ | assumption | apply vitInsn_keep | apply vitDone_keep | apply cohBytes_keep | apply vitPoison_keep
    | apply setVit_keep | apply fault_keep | apply ite_keepN | apply ite_keep | apply ite_keep1
    | refine keep_of_pair (by assumption) ?_ | split

theorem execVitArm_keep (hart rd rs1 s) (h_s : Keep o s) :
    KeepN o (execVitArm hart rd rs1 s) := by
  unfold execVitArm
  try dsimp only
  repeat' with_reducible first
    | intro _ | assumption | apply vitInsn_keep | apply vitDone_keep | apply setVit_keep | apply ite_keep

theorem execVitDisarm_keep (hart rd rs1 s) (h_s : Keep o s) :
    KeepN o (execVitDisarm hart rd rs1 s) := by
  unfold execVitDisarm
  try dsimp only
  repeat' with_reducible first
    | intro _ | assumption | apply vitInsn_keep | apply vitDone_keep | apply setVit_keep | apply ite_keepN
    | apply ite_keep

theorem execVitRun_keep (hart rd rs1 rs2 s) (h_s : Keep o s) :
    KeepN o (execVitRun hart rd rs1 rs2 s) := by
  unfold execVitRun
  try dsimp only
  repeat' with_reducible first
    | intro _ | assumption | apply vitInsn_keep | apply vitDone_keep | apply cohBytes_keep | apply vitPoison_keep
    | apply setVit_keep | apply ite_keepN | apply ite_keep | apply ite_keep1
    | refine keep_of_pair (by assumption) ?_ | split

theorem execVitWait_keep (hart rd rs1 s) (h_s : Keep o s) :
    KeepN o (execVitWait hart rd rs1 s) := by
  unfold execVitWait
  try dsimp only
  repeat' with_reducible first
    | intro _ | assumption | apply vitInsn_keep | apply vitDone_keep | apply ite_keepN | apply ite_keep
    | apply ite_keep1 | refine keep_of_some (by assumption) ?_ | split

theorem execVitStat_keep (hart rd rs1 s) (h_s : Keep o s) :
    KeepN o (execVitStat hart rd rs1 s) := by
  unfold execVitStat
  try dsimp only
  repeat' with_reducible first
    | intro _ | assumption | apply vitInsn_keep | apply vitDone_keep | apply ite_keep

theorem runCustom0_keep (hart word s) (h_s : Keep o s) :
    Keep o (runCustom0 hart word s) := by
  unfold runCustom0
  try dsimp only
  repeat' with_reducible first
    | intro _ | assumption | apply execVitLoad_keep | apply execVitArm_keep | apply execVitDisarm_keep
    | apply execVitRun_keep | apply execVitWait_keep | apply execVitStat_keep | apply illegalBits_keep
    | apply next_keep | refine keep_of_next (by assumption) ?_ | split

theorem execSealNotice_keep (vitrine ring line cover s) (h_s : Keep o s) :
    KeepN o (execSealNotice vitrine ring line cover s) := by
  unfold execSealNotice
  try dsimp only
  repeat' with_reducible first
    | apply Keep.decom | intro _ | assumption | apply addO_keep | apply setVit_keep | apply within_keep
    | apply ite_keepN | apply ite_keep | apply ite_keep1
    | (simp only [keep_mk_iff]; refine ⟨fun _ => ⟨?_, ?_⟩, ?_, ?_, ?_, ?_⟩) | apply Keep.obj ‹Canon _›
    | apply Keep.mem ‹Canon _› | apply Keep.queue | apply Keep.free | apply Keep.sent

theorem writeOut_keep (g dom ro s) (h_s : Keep o s) :
    Keep o (writeOut g dom ro s).1 := by
  unfold writeOut
  try dsimp only
  repeat' with_reducible first
    | intro _ | assumption | apply cohLines_keep | refine keep_of_pair (by assumption) ?_ | split

theorem putSlot_keep (v slot y s) (h_s : Keep o s) :
    Keep o (putSlot v slot y s) := by
  unfold putSlot
  try dsimp only
  repeat' with_reducible first
    | assumption | apply setVit_keep

theorem stepFault_keep (v slot k code bad y s) (h_s : Keep o s) :
    Keep o (stepFault v slot k code bad y s) := by
  unfold stepFault
  try dsimp only
  repeat' with_reducible first
    | assumption | apply putSlot_keep | apply vitPoison_keep | apply vitFault_keep | apply vitPost_keep
    | apply setVit_keep | apply ite_keep | split

theorem stepRecord_keep (v slot k flags out performed s) (h_s : Keep o s) :
    Keep o (stepRecord v slot k flags out performed s) := by
  unfold stepRecord
  try dsimp only
  repeat' with_reducible first
    | intro _ | assumption | apply vitPost_keep

theorem stepOutput_keep (v slot k y s) (h_s : Keep o s) :
    KeepO o (stepOutput v slot k y s) := by
  unfold stepOutput
  try dsimp only
  repeat' with_reducible first
    | intro _ | assumption | apply stepRecord_keep | apply putSlot_keep | apply stepFault_keep | apply writeOut_keep
    | apply onlyIf_keep | apply addO_keep | apply some_keep | apply none_keep | apply ite_keepO | apply ite_keep
    | apply ite_keep1 | refine keep_of_pair (by assumption) ?_ | split

theorem stepRow_keep (v slot n y row s) (h_s : Keep o s) :
    KeepO o (stepRow v slot n y row s) := by
  unfold stepRow
  try dsimp only
  repeat' with_reducible first
    | assumption | apply ioRead_keep | apply stepFault_keep | apply addO_keep | apply stepRecord_keep
    | apply putSlot_keep | apply stepOutput_keep | apply ite_keep | apply ite_keepO | apply some_keep
    | apply none_keep | refine keep_of_pair (by assumption) ?_ | refine keep_of_some (by assumption) ?_ | split

theorem stepSlot_keep (v slot n s) (h_s : Keep o s) :
    KeepO o (stepSlot v slot n s) := by
  unfold stepSlot
  try dsimp only
  repeat' with_reducible first
    | assumption | apply stepFault_keep | apply stepRow_keep | apply ioRead_keep | apply ite_keep | apply ite_keepO
    | apply some_keep | apply none_keep | refine keep_of_pair (by assumption) ?_
    | refine keep_of_some (by assumption) ?_ | split

theorem recordFault_keep (v s) (h_s : Keep o s) :
    Keep o (recordFault v s) := by
  unfold recordFault
  try dsimp only
  repeat' with_reducible first
    | intro _ | assumption | apply dropWaiting_keep | apply vitFault_keep | apply setVit_keep | apply stepFault_keep
    | apply ite_keep | apply ite_keep1 | refine keep_of_pair (by assumption) ?_ | split

theorem stepFound_keep (v slot n found s) (h_s : Keep o s) :
    KeepO o (stepFound v slot n found s) := by
  unfold stepFound
  dsimp only
  split
  · exact stepSlot_keep v slot n s h_s
  · intro t e
    obtain ⟨u, e1, rfl⟩ := Option.map_eq_some_iff.1 e
    exact thenRetire_keep _ _ _ _ (stepSlot_keep _ _ _ _ (lineCorrected_keep _ _ _ h_s) _ e1)
  · exact some_keep (thenRetire_keep _ _ _ _ (stepFault_keep _ _ _ _ _ _ _ h_s))

theorem execVitrineStep_keep (vitrine lineBuffer s) (h_s : Keep o s) :
    KeepN o (execVitrineStep vitrine lineBuffer s) := by
  unfold execVitrineStep
  try dsimp only
  repeat' with_reducible first
    | assumption | apply within_keep | apply recordFault_keep | apply stepFound_keep | apply setVit_keep
    | apply ite_keep | apply ite_keepN | apply next_keep | apply fault_keep | apply getD_keep
    | refine keep_of_some (by assumption) ?_ | split

theorem endJob_keep (v j code type performed s) (h_s : Keep o s) :
    Keep o (endJob v j code type performed s) := by
  unfold endJob
  try dsimp only
  repeat' with_reducible first
    | intro _ | assumption | apply setVit_keep | apply onlyIf_keep | apply addO_keep | apply vitPost_keep
    | apply ite_keep

theorem jobFault_keep (v j code bad s) (h_s : Keep o s) :
    Keep o (jobFault v j code bad s) := by
  unfold jobFault
  try dsimp only
  repeat' with_reducible first
    | assumption | apply endJob_keep | apply vitPoison_keep | apply vitFault_keep | split

theorem jobRows_keep (g dom b n j s) (h_s : Keep o s) : Keep o (jobRows g dom b n j s).1 := by
  induction n generalizing j s with
  | zero => exact h_s
  | succ n ih =>
    unfold jobRows
    have h1 := cohBytes_keep g dom (leAt j.desc 0 8 + j.nextRow * leAt j.desc 8 4) (blkWidth b * blkInSize b) s h_s
    split
    · exact keep_of_pair (by assumption) h1
    · exact keep_of_pair (by assumption) h1
    · exact ih _ _ (keep_of_pair (by assumption) h1)

theorem jobRow_keep (v j s) (h_s : Keep o s) :
    KeepO o (jobRow v j s) := by
  unfold jobRow
  try dsimp only
  repeat' with_reducible first
    | intro _ | assumption | apply jobFault_keep | apply jobRows_keep | apply writeOut_keep | apply setVit_keep
    | apply endJob_keep | apply next_keep | apply some_keep | apply none_keep | apply ite_keepO | apply ite_keep
    | apply ite_keep1 | refine keep_of_next (by assumption) ?_ | refine keep_of_pair (by assumption) ?_
    | refine keep_of_some (by assumption) ?_ | split

theorem jobFound_keep (v j found s) (h_s : Keep o s) :
    KeepO o (jobFound v j found s) := by
  unfold jobFound
  split
  · exact jobRow_keep v j s h_s
  · intro t e
    obtain ⟨u, e1, rfl⟩ := Option.map_eq_some_iff.1 e
    exact thenRetire_keep _ _ _ _ (jobRow_keep _ _ _ (lineCorrected_keep _ _ _ h_s) _ e1)
  · exact some_keep (thenRetire_keep _ _ _ _ (jobFault_keep _ _ _ _ _ h_s))

theorem execVitrineJobRow_keep (vitrine lineBuffer s) (h_s : Keep o s) :
    KeepN o (execVitrineJobRow vitrine lineBuffer s) := by
  unfold execVitrineJobRow
  try dsimp only
  repeat' with_reducible first
    | assumption | apply within_keep | apply recordFault_keep | apply jobFound_keep | apply ite_keep
    | apply ite_keepN | apply next_keep | apply fault_keep | apply getD_keep
    | refine keep_of_some (by assumption) ?_ | split

/-! Machine/Hart.lean -/

theorem writeX_keep (hart rd v next s) (h_s : Keep o s) :
    Keep o (writeX hart rd v next s) := by
  unfold writeX
  try dsimp only
  repeat' with_reducible first
    | assumption | apply complete_keep | apply setHart_keep

theorem fpInsn_keep (hart len rm rounds f s) (h_s : Keep o s) :
    Keep o (fpInsn hart len rm rounds f s) := by
  unfold fpInsn
  try dsimp only
  repeat' with_reducible first
    | assumption | apply illegal_keep | apply retire_keep | apply setHart_keep | apply ite_keep

theorem doFp_keep (hart len op dbl rd rs1 rs2 rs3 rm s) (h_s : Keep o s) :
    Keep o (doFp hart len op dbl rd rs1 rs2 rs3 rm s) := by
  unfold doFp
  try dsimp only
  repeat' with_reducible first
    | intro _ | assumption | apply fpInsn_keep

theorem doFpToInt_keep (hart len op dbl rd rs1 rs2 rm s) (h_s : Keep o s) :
    Keep o (doFpToInt hart len op dbl rd rs1 rs2 rm s) := by
  unfold doFpToInt
  try dsimp only
  repeat' with_reducible first
    | intro _ | assumption | apply fpInsn_keep

theorem doIntToFp_keep (hart len op dbl rd rs1 rm s) (h_s : Keep o s) :
    Keep o (doIntToFp hart len op dbl rd rs1 rm s) := by
  unfold doIntToFp
  try dsimp only
  repeat' with_reducible first
    | intro _ | assumption | apply fpInsn_keep

theorem doCsr_keep (hart len op rd num src s) (h_s : Keep o s) :
    Keep o (doCsr hart len op rd num src s) := by
  unfold doCsr
  try dsimp only
  repeat' with_reducible first
    | intro _ | assumption | apply illegal_keep | apply csrRead_keep | apply onlyIf_keep | apply csrWrite_keep
    | apply retire_keep | apply setHart_keep | apply ite_keep | apply ite_keep1

theorem doEbreak_keep (hart s) (h_s : Keep o s) :
    Keep o (doEbreak hart s) := by
  unfold doEbreak
  try dsimp only
  repeat' with_reducible first
    | assumption | apply haltHart_keep | apply takeFree_keep | apply takeExc_keep | apply ite_keep

theorem doEcall_keep (hart s) (h_s : Keep o s) :
    Keep o (doEcall hart s) := by
  unfold doEcall
  try dsimp only
  repeat' with_reducible first
    | assumption | apply takeExc_keep

theorem doMret_keep (hart s) (h_s : Keep o s) :
    Keep o (doMret hart s) := by
  unfold doMret
  try dsimp only
  repeat' with_reducible first
    | assumption | apply illegal_keep | apply complete_keep | apply setHart_keep | apply ite_keep

theorem doSret_keep (hart s) (h_s : Keep o s) :
    Keep o (doSret hart s) := by
  unfold doSret
  try dsimp only
  repeat' with_reducible first
    | assumption | apply illegal_keep | apply complete_keep | apply setHart_keep | apply ite_keep

theorem fillLineBuf_keep (hart line d s) (h_s : Keep o s) :
    Keep o (fillLineBuf hart line d s) := by
  unfold fillLineBuf
  try dsimp only
  repeat' with_reducible first
    | intro _ | assumption | apply setHart_keep | apply ite_keep

theorem fetchPart_keep (hart p f s) (h_s : Keep o s) :
    Keep o (fetchPart hart p f s).1 := by
  unfold fetchPart
  try dsimp only
  repeat' with_reducible first
    | intro _ | assumption | apply sliceRead_keep | apply hartEvent_keep | apply fillLineBuf_keep
    | apply fillL1i_keep | apply l2Read_keep | apply ite_keep1 | apply ite_keep
    | refine keep_of_pair (by assumption) ?_ | refine keep_of_some (by assumption) ?_ | split

theorem fetchParts_keep (hart l f s) (h_s : Keep o s) : Keep o (fetchParts hart l f s).1 := by
  induction l generalizing f s with
  | nil => exact h_s
  | cons p l ih =>
    unfold fetchParts
    have h1 := fetchPart_keep hart p f s h_s
    split
    · exact keep_of_pair (by assumption) h1
    · rename_i t d e
      have h2 := ih .clean t (keep_of_pair e h1)
      split <;> exact keep_of_pair (by assumption) h2

theorem doFetch_keep (hart len f walk s) (h_s : Keep o s) :
    Keep o (doFetch hart len f walk s) := by
  unfold doFetch
  try dsimp only
  repeat' with_reducible first
    | intro _ | assumption | apply plan_keep | apply walk_keep | apply takeExc_keep | apply haltHart_keep
    | apply carryWaits_keep | apply fetchParts_keep | refine keep_of_pair (by assumption) ?_
    | refine keep_of_some (by assumption) ?_ | split

theorem runScalar_keep (hart insn len s) (h_s : Keep o s) :
    Keep o (runScalar hart insn len s) := by
  unfold runScalar
  try dsimp only
  repeat' with_reducible first
    | intro _ | assumption | apply writeX_keep | apply complete_keep | apply doFp_keep | apply doFpToInt_keep
    | apply doIntToFp_keep | apply doCsr_keep | apply doEcall_keep | apply doEbreak_keep | apply doMret_keep
    | apply doSret_keep | apply walk_keep | apply doFetch_keep | apply runCustom0_keep | apply illegal_keep
    | apply illegalBits_keep | apply meetArrayError_keep | apply setHart_keep | apply ite_keep | apply ite_keep1
    | split

theorem execScalarInstruction_keep (hart insn len s) (h_s : Keep o s) :
    KeepN o (execScalarInstruction hart insn len s) := by
  unfold execScalarInstruction
  try dsimp only
  repeat' with_reducible first
    | assumption | apply within_keep | apply runScalar_keep | apply ite_keep

theorem leaveWfi_keep (hart s) (h_s : Keep o s) :
    Keep o (leaveWfi hart s) := by
  unfold leaveWfi
  try dsimp only
  repeat' with_reducible first
    | assumption | apply retire_keep | apply setHart_keep

theorem wakeHart_keep (hart s) (h_s : Keep o s) :
    Keep o (wakeHart hart s) := by
  unfold wakeHart
  try dsimp only
  repeat' with_reducible first
    | intro _ | assumption | apply leaveWfi_keep | apply ite_keep

theorem execWfi_keep (hart s) (h_s : Keep o s) :
    KeepN o (execWfi hart s) := by
  unfold execWfi
  try dsimp only
  repeat' with_reducible first
    | intro _ | assumption | apply wakeHart_keep | apply illegal_keep | apply leaveWfi_keep | apply setHart_keep
    | apply within_keep | apply ite_keepN | apply ite_keep | apply ite_keep1 | split

theorem takeInterrupt_keep (hart s) (h_s : Keep o s) :
    Keep o (takeInterrupt hart s) := by
  unfold takeInterrupt
  try dsimp only
  repeat' with_reducible first
    | intro _ | assumption | apply hartEvent_keep | apply setHart_keep | refine keep_of_pair (by assumption) ?_
    | split

theorem execInterruptTake_keep (hart s) (h_s : Keep o s) :
    KeepN o (execInterruptTake hart s) := by
  unfold execInterruptTake
  try dsimp only
  repeat' with_reducible first
    | assumption | apply within_keep | apply wakeHart_keep | apply takeInterrupt_keep | apply ite_keep

theorem execTimerCompareReached_keep (hart supervisor s) (h_s : Keep o s) :
    KeepN o (execTimerCompareReached hart supervisor s) := by
  unfold execTimerCompareReached
  try dsimp only
  repeat' with_reducible first
    | assumption | apply within_keep | apply wakeHart_keep | apply ite_keep

theorem execSatpWrite_keep (hart value s) (h_s : Keep o s) :
    KeepN o (execSatpWrite hart value s) := by
  unfold execSatpWrite
  try dsimp only
  repeat' with_reducible first
    | assumption | apply within_keep | apply csrStore_keep

theorem execMntimecmpWrite_keep (hart value s) (h_s : Keep o s) :
    KeepN o (execMntimecmpWrite hart value s) := by
  unfold execMntimecmpWrite
  try dsimp only
  repeat' with_reducible first
    | assumption | apply within_keep | apply csrStore_keep

theorem execMnerrWrite_keep (hart addrReg value s) (h_s : Keep o s) :
    KeepN o (execMnerrWrite hart addrReg value s) := by
  unfold execMnerrWrite
  try dsimp only
  repeat' with_reducible first
    | assumption | apply within_keep | apply csrStore_keep

theorem execMncfgWrite_keep (hart value s) (h_s : Keep o s) :
    KeepN o (execMncfgWrite hart value s) := by
  unfold execMncfgWrite
  try dsimp only
  repeat' with_reducible first
    | assumption | apply within_keep | apply csrStore_keep

/-! Machine/Vector.lean -/

theorem vecInsn_keep (hart ok f s) (h_s : Keep o s) :
    Keep o (vecInsn hart ok f s) := by
  unfold vecInsn
  try dsimp only
  repeat' with_reducible first
    | assumption | apply vecDone_keep | apply setHart_keep | apply illegal_keep | apply ite_keep

theorem doArith_keep (hart op vd src vs2 masked s) (h_s : Keep o s) :
    Keep o (doArith hart op vd src vs2 masked s) := by
  unfold doArith
  try dsimp only
  repeat' with_reducible first
    | intro _ | assumption | apply vecInsn_keep

theorem doCarry_keep (hart subtract toMask carryIn vd src vs2 s) (h_s : Keep o s) :
    Keep o (doCarry hart subtract toMask carryIn vd src vs2 s) := by
  unfold doCarry
  try dsimp only
  repeat' with_reducible first
    | intro _ | assumption | apply vecInsn_keep

theorem doWiden_keep (hart op wide vd src vs2 masked s) (h_s : Keep o s) :
    Keep o (doWiden hart op wide vd src vs2 masked s) := by
  unfold doWiden
  try dsimp only
  repeat' with_reducible first
    | intro _ | assumption | apply vecInsn_keep

theorem doWmacc_keep (hart signed1 signed2 vd src vs2 masked s) (h_s : Keep o s) :
    Keep o (doWmacc hart signed1 signed2 vd src vs2 masked s) := by
  unfold doWmacc
  try dsimp only
  repeat' with_reducible first
    | intro _ | assumption | apply vecInsn_keep

theorem doNarrow_keep (hart op vd src vs2 masked s) (h_s : Keep o s) :
    Keep o (doNarrow hart op vd src vs2 masked s) := by
  unfold doNarrow
  try dsimp only
  repeat' with_reducible first
    | intro _ | assumption | apply vecInsn_keep

theorem doExtend_keep (hart sg factor vd vs2 masked s) (h_s : Keep o s) :
    Keep o (doExtend hart sg factor vd vs2 masked s) := by
  unfold doExtend
  try dsimp only
  repeat' with_reducible first
    | intro _ | assumption | apply vecInsn_keep

theorem doReduce_keep (hart op vd vs1 vs2 masked s) (h_s : Keep o s) :
    Keep o (doReduce hart op vd vs1 vs2 masked s) := by
  unfold doReduce
  try dsimp only
  repeat' with_reducible first
    | intro _ | assumption | apply vecInsn_keep

theorem doWreduce_keep (hart sg vd vs1 vs2 masked s) (h_s : Keep o s) :
    Keep o (doWreduce hart sg vd vs1 vs2 masked s) := by
  unfold doWreduce
  try dsimp only
  repeat' with_reducible first
    | intro _ | assumption | apply vecInsn_keep

theorem doMask_keep (hart op vd vs1 vs2 s) (h_s : Keep o s) :
    Keep o (doMask hart op vd vs1 vs2 s) := by
  unfold doMask
  try dsimp only
  repeat' with_reducible first
    | intro _ | assumption | apply vecInsn_keep

theorem doSetFirst_keep (hart op vd vs2 masked s) (h_s : Keep o s) :
    Keep o (doSetFirst hart op vd vs2 masked s) := by
  unfold doSetFirst
  try dsimp only
  repeat' with_reducible first
    | intro _ | assumption | apply vecInsn_keep

theorem doIota_keep (hart vd vs2 masked s) (h_s : Keep o s) :
    Keep o (doIota hart vd vs2 masked s) := by
  unfold doIota
  try dsimp only
  repeat' with_reducible first
    | intro _ | assumption | apply vecInsn_keep

theorem doVid_keep (hart vd masked s) (h_s : Keep o s) :
    Keep o (doVid hart vd masked s) := by
  unfold doVid
  try dsimp only
  repeat' with_reducible first
    | intro _ | assumption | apply vecInsn_keep

theorem doSlide_keep (hart up vd src vs2 masked s) (h_s : Keep o s) :
    Keep o (doSlide hart up vd src vs2 masked s) := by
  unfold doSlide
  try dsimp only
  repeat' with_reducible first
    | intro _ | assumption | apply vecInsn_keep

theorem doSlide1_keep (hart up vd src vs2 masked s) (h_s : Keep o s) :
    Keep o (doSlide1 hart up vd src vs2 masked s) := by
  unfold doSlide1
  try dsimp only
  repeat' with_reducible first
    | intro _ | assumption | apply vecInsn_keep

theorem doGather_keep (hart index16 vd src vs2 masked s) (h_s : Keep o s) :
    Keep o (doGather hart index16 vd src vs2 masked s) := by
  unfold doGather
  try dsimp only
  repeat' with_reducible first
    | intro _ | assumption | apply vecInsn_keep

theorem doCompress_keep (hart vd vs1 vs2 s) (h_s : Keep o s) :
    Keep o (doCompress hart vd vs1 vs2 s) := by
  unfold doCompress
  try dsimp only
  repeat' with_reducible first
    | intro _ | assumption | apply vecInsn_keep

theorem doMoveRegs_keep (hart regs vd vs2 s) (h_s : Keep o s) :
    Keep o (doMoveRegs hart regs vd vs2 s) := by
  unfold doMoveRegs
  try dsimp only
  repeat' with_reducible first
    | intro _ | assumption | apply vecInsn_keep

theorem doSetvl_keep (hart rd avl vtype s) (h_s : Keep o s) :
    Keep o (doSetvl hart rd avl vtype s) := by
  unfold doSetvl
  try dsimp only
  repeat' with_reducible first
    | intro _ | assumption | apply vecInsn_keep

/-! Machine/VecFp.lean -/

theorem doVfp_keep (hart op wideD wide2 vd src vs2 masked s) (h_s : Keep o s) :
    Keep o (doVfp hart op wideD wide2 vd src vs2 masked s) := by
  unfold doVfp
  try dsimp only
  repeat' with_reducible first
    | intro _ | assumption | apply vecInsn_keep

theorem doVfp1_keep (hart op vd vs2 masked s) (h_s : Keep o s) :
    Keep o (doVfp1 hart op vd vs2 masked s) := by
  unfold doVfp1
  try dsimp only
  repeat' with_reducible first
    | intro _ | assumption | apply vecInsn_keep

theorem doVfpCompare_keep (hart op vd src vs2 masked s) (h_s : Keep o s) :
    Keep o (doVfpCompare hart op vd src vs2 masked s) := by
  unfold doVfpCompare
  try dsimp only
  repeat' with_reducible first
    | intro _ | assumption | apply vecInsn_keep

theorem doVfpMerge_keep (hart vd fs1 vs2 masked s) (h_s : Keep o s) :
    Keep o (doVfpMerge hart vd fs1 vs2 masked s) := by
  unfold doVfpMerge
  try dsimp only
  repeat' with_reducible first
    | intro _ | assumption | apply vecInsn_keep

theorem doVfpConvert_keep (hart op width vd vs2 masked s) (h_s : Keep o s) :
    Keep o (doVfpConvert hart op width vd vs2 masked s) := by
  unfold doVfpConvert
  try dsimp only
  repeat' with_reducible first
    | intro _ | assumption | apply vecInsn_keep

theorem doVfpReduce_keep (hart op widen vd vs1 vs2 masked s) (h_s : Keep o s) :
    Keep o (doVfpReduce hart op widen vd vs1 vs2 masked s) := by
  unfold doVfpReduce
  try dsimp only
  repeat' with_reducible first
    | intro _ | assumption | apply vecInsn_keep

theorem runVector_keep (hart op s) (h_s : Keep o s) :
    Keep o (runVector hart op s) := by
  unfold runVector
  try dsimp only
  repeat' with_reducible first
    | intro _ | assumption | apply doArith_keep | apply doCarry_keep | apply doWiden_keep | apply doWmacc_keep
    | apply doNarrow_keep | apply doExtend_keep | apply doReduce_keep | apply doWreduce_keep | apply doMask_keep
    | apply doSetFirst_keep | apply doIota_keep | apply doVid_keep | apply doSlide_keep | apply doSlide1_keep
    | apply doGather_keep | apply doCompress_keep | apply doMoveRegs_keep | apply doVfp_keep | apply doVfp1_keep
    | apply doVfpCompare_keep | apply doVfpMerge_keep | apply doVfpConvert_keep | apply doVfpReduce_keep
    | apply doSetvl_keep | apply vecInsn_keep | apply ite_keep | apply ite_keep1
    | refine keep_of_some (by assumption) ?_ | split

theorem execVectorArithmetic_keep (hart op s) (h_s : Keep o s) :
    KeepN o (execVectorArithmetic hart op s) := by
  unfold execVectorArithmetic
  try dsimp only
  repeat' with_reducible first
    | assumption | apply within_keep | apply runVector_keep | apply ite_keep

/-! Machine/Debug.lean -/

theorem haltRequest_keep (hart s) (h_s : Keep o s) :
    Keep o (haltRequest hart s) := by
  unfold haltRequest
  try dsimp only
  repeat' with_reducible first
    | assumption | apply haltHart_keep | apply leaveWfi_keep | apply ite_keep | split

theorem ackReset_keep (ack hart s) (h_s : Keep o s) :
    Keep o (ackReset ack hart s) := by
  unfold ackReset
  try dsimp only
  repeat' with_reducible first
    | intro _ | assumption | apply setHart_keep | apply ite_keep

theorem execDebugHalt_keep (hart others ack s) (h_s : Keep o s) :
    KeepN o (execDebugHalt hart others ack s) := by
  unfold execDebugHalt
  try dsimp only
  repeat' with_reducible first
    | intro _ | assumption | apply forAll_keep | apply haltRequest_keep | apply ackReset_keep | apply within_keep

theorem resumeRequest_keep (hart s) (h_s : Keep o s) :
    Keep o (resumeRequest hart s) := by
  unfold resumeRequest
  try dsimp only
  repeat' with_reducible first
    | assumption | apply resumeHart_keep | apply ite_keep

theorem execDebugResume_keep (hart others ack s) (h_s : Keep o s) :
    KeepN o (execDebugResume hart others ack s) := by
  unfold execDebugResume
  try dsimp only
  repeat' with_reducible first
    | intro _ | assumption | apply forAll_keep | apply resumeRequest_keep | apply ackReset_keep | apply within_keep

theorem execDebugStep_keep (hart insn len s) (h_s : Keep o s) :
    KeepN o (execDebugStep hart insn len s) := by
  unfold execDebugStep
  try dsimp only
  repeat' with_reducible first
    | intro _ | assumption | apply resumeHart_keep | apply takeInterrupt_keep | apply runScalar_keep
    | apply haltHart_keep | apply within_keep | apply ite_keepN | apply ite_keep

theorem hartReset_keep (hart s) (h_s : Keep o s) :
    Keep o (hartReset hart s) := by
  unfold hartReset
  try dsimp only
  repeat' with_reducible first
    | intro _ | assumption | apply releaseHart_keep | apply setHart_keep

theorem resetRequest_keep (hart s) (h_s : Keep o s) :
    Keep o (resetRequest hart s) := by
  unfold resetRequest
  try dsimp only
  repeat' with_reducible first
    | assumption | apply hartReset_keep | apply ite_keep

theorem execDebugHartreset_keep (hart others s) (h_s : Keep o s) :
    KeepN o (execDebugHartreset hart others s) := by
  unfold execDebugHartreset
  try dsimp only
  repeat' with_reducible first
    | intro _ | assumption | apply within_keep | apply forAll_keep | apply resetRequest_keep

theorem setCmderr_keep (e s) (h_s : Keep o s) :
    Keep o (setCmderr e s) := by
  unfold setCmderr
  try dsimp only
  repeat' with_reducible first
    | assumption | (simp only [keep_mk_iff]; refine ⟨fun _ => ⟨?_, ?_⟩, ?_, ?_, ?_, ?_⟩) | apply Keep.obj ‹Canon _›
    | apply Keep.mem ‹Canon _› | apply Keep.queue | apply Keep.free | apply Keep.sent | apply Keep.decom

theorem setData0_keep (v s) (h_s : Keep o s) :
    Keep o (setData0 v s) := by
  unfold setData0
  try dsimp only
  repeat' with_reducible first
    | assumption | (simp only [keep_mk_iff]; refine ⟨fun _ => ⟨?_, ?_⟩, ?_, ?_, ?_, ?_⟩) | apply Keep.obj ‹Canon _›
    | apply Keep.mem ‹Canon _› | apply Keep.queue | apply Keep.free | apply Keep.sent | apply Keep.decom

theorem debugRead_keep (hart r s) (h_s : Keep o s) :
    Keep o (debugRead hart r s).1 := by
  unfold debugRead
  try dsimp only
  repeat' with_reducible first
    | assumption | apply csrRead_keep | apply ite_keep | apply ite_keep1 | apply ite_rule_keep
    | refine keep_of_pair (by assumption) ?_ | split

theorem debugWrite_keep (hart r v s) (h_s : Keep o s) :
    Keep o (debugWrite hart r v s) := by
  unfold debugWrite
  try dsimp only
  repeat' with_reducible first
    | assumption | apply setCmderr_keep | apply setHart_keep | apply csrWrite_keep | apply ite_keep | split

theorem runLent_keep (hart f s) (h_f : ∀ s, Keep o s → KeepN o (f s)) (h_s : Keep o s) : Keep o (runLent hart f s) := by
  unfold runLent
  dsimp only
  split
  · exact setHart_keep _ _ _ (h_f _ (setHart_keep _ _ _ h_s) _ (by assumption))
  · exact h_s

theorem runProgInsn_keep (hart i s) (h_s : Keep o s) :
    Keep o (runProgInsn hart i s) := by
  unfold runProgInsn
  try dsimp only
  repeat' with_reducible first
    | intro _ | assumption | apply runScalar_keep | apply runLent_keep | apply execLoad_keep | apply execStore_keep
    | apply execVectorArithmetic_keep | apply execVectorLoad_keep | apply execVectorStore_keep | split

theorem runProgram_keep (hart l s) (h_s : Keep o s) (x) (h : runProgram hart l s = some x) : Keep o x.1 := by
  induction l generalizing s with
  | nil => cases h; exact h_s
  | cons i l ih =>
    unfold runProgram at h
    have h1 := runProgInsn_keep hart i _ (setHart_keep hart { s.hart hart with pc := progPc } s h_s)
    dsimp only at h
    split at h
    · cases h; exact h_s
    · split at h
      · exact ih _ (setHart_keep _ _ _ h1) h
      · split at h
        · cases h
        · cases h; exact setHart_keep _ _ _ h1

theorem transfer_keep (hart reg write size s) (h_s : Keep o s) :
    Keep o (transfer hart reg write size s) := by
  unfold transfer
  try dsimp only
  repeat' with_reducible first
    | assumption | apply setCmderr_keep | apply debugRead_keep | apply setData0_keep | apply debugWrite_keep
    | apply ite_keep | refine keep_of_pair (by assumption) ?_ | split

theorem postExec_keep (hart program before s) (h_before : Keep o before) (h_s : Keep o s) :
    Keep o (postExec hart program before s) := by
  unfold postExec
  split
  · exact h_s
  · split
    · exact h_before
    · exact setCmderr_keep _ _ (runProgram_keep hart program s h_s _ (by assumption))

theorem execAccessRegister_keep (hart reg write size program s) (h_s : Keep o s) :
    KeepN o (execAccessRegister hart reg write size program s) := by
  unfold execAccessRegister
  try dsimp only
  repeat' with_reducible first
    | assumption | apply within_keep | apply postExec_keep | apply transfer_keep | apply setCmderr_keep
    | apply ite_keep

theorem execSystemBusAccess_keep (addr size write s) (h_s : Keep o s) :
    KeepN o (execSystemBusAccess addr size write s) := by
  unfold execSystemBusAccess
  try dsimp only
  repeat' with_reducible first
    | apply Keep.decom | intro _ | assumption | apply ioWrite_keep | apply ioRead_keep | apply next_keep
    | apply ite_keepN | apply ite_keep | apply ite_keep1 | refine keep_of_next (by assumption) ?_
    | refine keep_of_pair (by assumption) ?_ | refine keep_of_some (by assumption) ?_ | split
    | (simp only [keep_mk_iff]; refine ⟨fun _ => ⟨?_, ?_⟩, ?_, ?_, ?_, ?_⟩) | apply Keep.obj ‹Canon _›
    | apply Keep.mem ‹Canon _› | apply Keep.queue | apply Keep.free | apply Keep.sent

theorem execDebugEnableWrite_keep (who sub value s) (h_s : Keep o s) :
    KeepN o (execDebugEnableWrite who sub value s) := by
  unfold execDebugEnableWrite
  try dsimp only
  repeat' with_reducible first
    | assumption | apply within_keep | apply writeObject_keep

theorem execJtagIrSelect_keep (ir s) (h_s : Keep o s) :
    KeepN o (execJtagIrSelect ir s) := by
  unfold execJtagIrSelect
  try dsimp only
  repeat' with_reducible first
    | assumption | apply within_keep | apply ite_keep | apply ite_keepN | apply next_keep | apply fault_keep
    | (simp only [keep_mk_iff]; refine ⟨fun _ => ⟨?_, ?_⟩, ?_, ?_, ?_, ?_⟩) | apply Keep.obj ‹Canon _›
    | apply Keep.mem ‹Canon _› | apply Keep.queue | apply Keep.free | apply Keep.sent | apply Keep.decom

end Sys2Proof.Machine
end

