-- ==== Sys2Proof/Laws/Updates.lean ====
section
/-! SUPPORT. What each update of one encoder, program, ring, stream context, channel, frame, L2 line, transaction, mailbox or write
queue leaves alone, field by field. -/

namespace Sys2Proof.Machine

variable (s : State)

/-! setEnc changes `hodo` only. -/

@[simp] theorem setEnc_obj (e : Nat) (x : Encoder) : (setEnc e x s).obj = s.obj := rfl
@[simp] theorem setEnc_power (e : Nat) (x : Encoder) : (setEnc e x s).power = s.power := rfl
@[simp] theorem setEnc_modes (e : Nat) (x : Encoder) : (setEnc e x s).modes = s.modes := rfl
@[simp] theorem setEnc_clock (e : Nat) (x : Encoder) : (setEnc e x s).clock = s.clock := rfl
@[simp] theorem setEnc_panel (e : Nat) (x : Encoder) : (setEnc e x s).panel = s.panel := rfl
@[simp] theorem setEnc_acc (e : Nat) (x : Encoder) : (setEnc e x s).acc = s.acc := rfl
@[simp] theorem setEnc_mem (e : Nat) (x : Encoder) : (setEnc e x s).mem = s.mem := rfl
@[simp] theorem setEnc_harts (e : Nat) (x : Encoder) : (setEnc e x s).harts = s.harts := rfl
@[simp] theorem setEnc_caches (e : Nat) (x : Encoder) : (setEnc e x s).caches = s.caches := rfl
@[simp] theorem setEnc_conc (e : Nat) (x : Encoder) : (setEnc e x s).conc = s.conc := rfl
@[simp] theorem setEnc_vits (e : Nat) (x : Encoder) : (setEnc e x s).vits = s.vits := rfl
@[simp] theorem setEnc_queues (e : Nat) (x : Encoder) : (setEnc e x s).queues = s.queues := rfl
@[simp] theorem setEnc_arch (e : Nat) (x : Encoder) : (setEnc e x s).arch = s.arch := rfl
@[simp] theorem setEnc_cat (e : Nat) (x : Encoder) : (setEnc e x s).cat = s.cat := rfl
@[simp] theorem setEnc_strong (e : Nat) (x : Encoder) : (setEnc e x s).strong = s.strong := rfl
@[simp] theorem setEnc_parts (e : Nat) (x : Encoder) : (setEnc e x s).parts = s.parts := rfl
@[simp] theorem setEnc_errs (e : Nat) (x : Encoder) : (setEnc e x s).errs = s.errs := rfl
@[simp] theorem setEnc_dbg (e : Nat) (x : Encoder) : (setEnc e x s).dbg = s.dbg := rfl
@[simp] theorem setEnc_free (e : Nat) (x : Encoder) : (setEnc e x s).free = s.free := rfl
@[simp] theorem setEnc_emitted (e : Nat) (x : Encoder) : (setEnc e x s).emitted = s.emitted := rfl
@[simp] theorem setEnc_pending (e : Nat) (x : Encoder) : (setEnc e x s).pending = s.pending := rfl

/-! setProg changes `hodo` only. -/

@[simp] theorem setProg_obj (n : Nat) (x : Program) : (setProg n x s).obj = s.obj := rfl
@[simp] theorem setProg_power (n : Nat) (x : Program) : (setProg n x s).power = s.power := rfl
@[simp] theorem setProg_modes (n : Nat) (x : Program) : (setProg n x s).modes = s.modes := rfl
@[simp] theorem setProg_clock (n : Nat) (x : Program) : (setProg n x s).clock = s.clock := rfl
@[simp] theorem setProg_panel (n : Nat) (x : Program) : (setProg n x s).panel = s.panel := rfl
@[simp] theorem setProg_acc (n : Nat) (x : Program) : (setProg n x s).acc = s.acc := rfl
@[simp] theorem setProg_mem (n : Nat) (x : Program) : (setProg n x s).mem = s.mem := rfl
@[simp] theorem setProg_harts (n : Nat) (x : Program) : (setProg n x s).harts = s.harts := rfl
@[simp] theorem setProg_caches (n : Nat) (x : Program) : (setProg n x s).caches = s.caches := rfl
@[simp] theorem setProg_conc (n : Nat) (x : Program) : (setProg n x s).conc = s.conc := rfl
@[simp] theorem setProg_vits (n : Nat) (x : Program) : (setProg n x s).vits = s.vits := rfl
@[simp] theorem setProg_queues (n : Nat) (x : Program) : (setProg n x s).queues = s.queues := rfl
@[simp] theorem setProg_arch (n : Nat) (x : Program) : (setProg n x s).arch = s.arch := rfl
@[simp] theorem setProg_cat (n : Nat) (x : Program) : (setProg n x s).cat = s.cat := rfl
@[simp] theorem setProg_strong (n : Nat) (x : Program) : (setProg n x s).strong = s.strong := rfl
@[simp] theorem setProg_parts (n : Nat) (x : Program) : (setProg n x s).parts = s.parts := rfl
@[simp] theorem setProg_errs (n : Nat) (x : Program) : (setProg n x s).errs = s.errs := rfl
@[simp] theorem setProg_dbg (n : Nat) (x : Program) : (setProg n x s).dbg = s.dbg := rfl
@[simp] theorem setProg_free (n : Nat) (x : Program) : (setProg n x s).free = s.free := rfl
@[simp] theorem setProg_emitted (n : Nat) (x : Program) : (setProg n x s).emitted = s.emitted := rfl
@[simp] theorem setProg_pending (n : Nat) (x : Program) : (setProg n x s).pending = s.pending := rfl

/-! setRing changes `acc` only. -/

@[simp] theorem setRing_obj (r : Nat) (x : Ring) : (setRing r x s).obj = s.obj := rfl
@[simp] theorem setRing_power (r : Nat) (x : Ring) : (setRing r x s).power = s.power := rfl
@[simp] theorem setRing_modes (r : Nat) (x : Ring) : (setRing r x s).modes = s.modes := rfl
@[simp] theorem setRing_clock (r : Nat) (x : Ring) : (setRing r x s).clock = s.clock := rfl
@[simp] theorem setRing_panel (r : Nat) (x : Ring) : (setRing r x s).panel = s.panel := rfl
@[simp] theorem setRing_hodo (r : Nat) (x : Ring) : (setRing r x s).hodo = s.hodo := rfl
@[simp] theorem setRing_mem (r : Nat) (x : Ring) : (setRing r x s).mem = s.mem := rfl
@[simp] theorem setRing_harts (r : Nat) (x : Ring) : (setRing r x s).harts = s.harts := rfl
@[simp] theorem setRing_caches (r : Nat) (x : Ring) : (setRing r x s).caches = s.caches := rfl
@[simp] theorem setRing_conc (r : Nat) (x : Ring) : (setRing r x s).conc = s.conc := rfl
@[simp] theorem setRing_vits (r : Nat) (x : Ring) : (setRing r x s).vits = s.vits := rfl
@[simp] theorem setRing_queues (r : Nat) (x : Ring) : (setRing r x s).queues = s.queues := rfl
@[simp] theorem setRing_arch (r : Nat) (x : Ring) : (setRing r x s).arch = s.arch := rfl
@[simp] theorem setRing_cat (r : Nat) (x : Ring) : (setRing r x s).cat = s.cat := rfl
@[simp] theorem setRing_strong (r : Nat) (x : Ring) : (setRing r x s).strong = s.strong := rfl
@[simp] theorem setRing_parts (r : Nat) (x : Ring) : (setRing r x s).parts = s.parts := rfl
@[simp] theorem setRing_errs (r : Nat) (x : Ring) : (setRing r x s).errs = s.errs := rfl
@[simp] theorem setRing_dbg (r : Nat) (x : Ring) : (setRing r x s).dbg = s.dbg := rfl
@[simp] theorem setRing_free (r : Nat) (x : Ring) : (setRing r x s).free = s.free := rfl
@[simp] theorem setRing_emitted (r : Nat) (x : Ring) : (setRing r x s).emitted = s.emitted := rfl
@[simp] theorem setRing_pending (r : Nat) (x : Ring) : (setRing r x s).pending = s.pending := rfl

/-! setCtx changes `acc` only. -/

@[simp] theorem setCtx_obj (c : Nat) (x : Ctx) : (setCtx c x s).obj = s.obj := rfl
@[simp] theorem setCtx_power (c : Nat) (x : Ctx) : (setCtx c x s).power = s.power := rfl
@[simp] theorem setCtx_modes (c : Nat) (x : Ctx) : (setCtx c x s).modes = s.modes := rfl
@[simp] theorem setCtx_clock (c : Nat) (x : Ctx) : (setCtx c x s).clock = s.clock := rfl
@[simp] theorem setCtx_panel (c : Nat) (x : Ctx) : (setCtx c x s).panel = s.panel := rfl
@[simp] theorem setCtx_hodo (c : Nat) (x : Ctx) : (setCtx c x s).hodo = s.hodo := rfl
@[simp] theorem setCtx_mem (c : Nat) (x : Ctx) : (setCtx c x s).mem = s.mem := rfl
@[simp] theorem setCtx_harts (c : Nat) (x : Ctx) : (setCtx c x s).harts = s.harts := rfl
@[simp] theorem setCtx_caches (c : Nat) (x : Ctx) : (setCtx c x s).caches = s.caches := rfl
@[simp] theorem setCtx_conc (c : Nat) (x : Ctx) : (setCtx c x s).conc = s.conc := rfl
@[simp] theorem setCtx_vits (c : Nat) (x : Ctx) : (setCtx c x s).vits = s.vits := rfl
@[simp] theorem setCtx_queues (c : Nat) (x : Ctx) : (setCtx c x s).queues = s.queues := rfl
@[simp] theorem setCtx_arch (c : Nat) (x : Ctx) : (setCtx c x s).arch = s.arch := rfl
@[simp] theorem setCtx_cat (c : Nat) (x : Ctx) : (setCtx c x s).cat = s.cat := rfl
@[simp] theorem setCtx_strong (c : Nat) (x : Ctx) : (setCtx c x s).strong = s.strong := rfl
@[simp] theorem setCtx_parts (c : Nat) (x : Ctx) : (setCtx c x s).parts = s.parts := rfl
@[simp] theorem setCtx_errs (c : Nat) (x : Ctx) : (setCtx c x s).errs = s.errs := rfl
@[simp] theorem setCtx_dbg (c : Nat) (x : Ctx) : (setCtx c x s).dbg = s.dbg := rfl
@[simp] theorem setCtx_free (c : Nat) (x : Ctx) : (setCtx c x s).free = s.free := rfl
@[simp] theorem setCtx_emitted (c : Nat) (x : Ctx) : (setCtx c x s).emitted = s.emitted := rfl
@[simp] theorem setCtx_pending (c : Nat) (x : Ctx) : (setCtx c x s).pending = s.pending := rfl

/-! setChan changes `arch` only. -/

@[simp] theorem setChan_obj (c : Nat) (x : Chan) : (setChan c x s).obj = s.obj := rfl
@[simp] theorem setChan_power (c : Nat) (x : Chan) : (setChan c x s).power = s.power := rfl
@[simp] theorem setChan_modes (c : Nat) (x : Chan) : (setChan c x s).modes = s.modes := rfl
@[simp] theorem setChan_clock (c : Nat) (x : Chan) : (setChan c x s).clock = s.clock := rfl
@[simp] theorem setChan_panel (c : Nat) (x : Chan) : (setChan c x s).panel = s.panel := rfl
@[simp] theorem setChan_hodo (c : Nat) (x : Chan) : (setChan c x s).hodo = s.hodo := rfl
@[simp] theorem setChan_acc (c : Nat) (x : Chan) : (setChan c x s).acc = s.acc := rfl
@[simp] theorem setChan_mem (c : Nat) (x : Chan) : (setChan c x s).mem = s.mem := rfl
@[simp] theorem setChan_harts (c : Nat) (x : Chan) : (setChan c x s).harts = s.harts := rfl
@[simp] theorem setChan_caches (c : Nat) (x : Chan) : (setChan c x s).caches = s.caches := rfl
@[simp] theorem setChan_conc (c : Nat) (x : Chan) : (setChan c x s).conc = s.conc := rfl
@[simp] theorem setChan_vits (c : Nat) (x : Chan) : (setChan c x s).vits = s.vits := rfl
@[simp] theorem setChan_queues (c : Nat) (x : Chan) : (setChan c x s).queues = s.queues := rfl
@[simp] theorem setChan_cat (c : Nat) (x : Chan) : (setChan c x s).cat = s.cat := rfl
@[simp] theorem setChan_strong (c : Nat) (x : Chan) : (setChan c x s).strong = s.strong := rfl
@[simp] theorem setChan_parts (c : Nat) (x : Chan) : (setChan c x s).parts = s.parts := rfl
@[simp] theorem setChan_errs (c : Nat) (x : Chan) : (setChan c x s).errs = s.errs := rfl
@[simp] theorem setChan_dbg (c : Nat) (x : Chan) : (setChan c x s).dbg = s.dbg := rfl
@[simp] theorem setChan_free (c : Nat) (x : Chan) : (setChan c x s).free = s.free := rfl
@[simp] theorem setChan_emitted (c : Nat) (x : Chan) : (setChan c x s).emitted = s.emitted := rfl
@[simp] theorem setChan_pending (c : Nat) (x : Chan) : (setChan c x s).pending = s.pending := rfl

/-! setFrame changes `arch` only. -/

@[simp] theorem setFrame_obj (k : Nat) (f : Frame) : (setFrame k f s).obj = s.obj := rfl
@[simp] theorem setFrame_power (k : Nat) (f : Frame) : (setFrame k f s).power = s.power := rfl
@[simp] theorem setFrame_modes (k : Nat) (f : Frame) : (setFrame k f s).modes = s.modes := rfl
@[simp] theorem setFrame_clock (k : Nat) (f : Frame) : (setFrame k f s).clock = s.clock := rfl
@[simp] theorem setFrame_panel (k : Nat) (f : Frame) : (setFrame k f s).panel = s.panel := rfl
@[simp] theorem setFrame_hodo (k : Nat) (f : Frame) : (setFrame k f s).hodo = s.hodo := rfl
@[simp] theorem setFrame_acc (k : Nat) (f : Frame) : (setFrame k f s).acc = s.acc := rfl
@[simp] theorem setFrame_mem (k : Nat) (f : Frame) : (setFrame k f s).mem = s.mem := rfl
@[simp] theorem setFrame_harts (k : Nat) (f : Frame) : (setFrame k f s).harts = s.harts := rfl
@[simp] theorem setFrame_caches (k : Nat) (f : Frame) : (setFrame k f s).caches = s.caches := rfl
@[simp] theorem setFrame_conc (k : Nat) (f : Frame) : (setFrame k f s).conc = s.conc := rfl
@[simp] theorem setFrame_vits (k : Nat) (f : Frame) : (setFrame k f s).vits = s.vits := rfl
@[simp] theorem setFrame_queues (k : Nat) (f : Frame) : (setFrame k f s).queues = s.queues := rfl
@[simp] theorem setFrame_cat (k : Nat) (f : Frame) : (setFrame k f s).cat = s.cat := rfl
@[simp] theorem setFrame_strong (k : Nat) (f : Frame) : (setFrame k f s).strong = s.strong := rfl
@[simp] theorem setFrame_parts (k : Nat) (f : Frame) : (setFrame k f s).parts = s.parts := rfl
@[simp] theorem setFrame_errs (k : Nat) (f : Frame) : (setFrame k f s).errs = s.errs := rfl
@[simp] theorem setFrame_dbg (k : Nat) (f : Frame) : (setFrame k f s).dbg = s.dbg := rfl
@[simp] theorem setFrame_free (k : Nat) (f : Frame) : (setFrame k f s).free = s.free := rfl
@[simp] theorem setFrame_emitted (k : Nat) (f : Frame) : (setFrame k f s).emitted = s.emitted := rfl
@[simp] theorem setFrame_pending (k : Nat) (f : Frame) : (setFrame k f s).pending = s.pending := rfl

/-! setL2 changes `caches` only. -/

@[simp] theorem setL2_obj (g line : Nat) (x : L2Line) : (setL2 g line x s).obj = s.obj := rfl
@[simp] theorem setL2_power (g line : Nat) (x : L2Line) : (setL2 g line x s).power = s.power := rfl
@[simp] theorem setL2_modes (g line : Nat) (x : L2Line) : (setL2 g line x s).modes = s.modes := rfl
@[simp] theorem setL2_clock (g line : Nat) (x : L2Line) : (setL2 g line x s).clock = s.clock := rfl
@[simp] theorem setL2_panel (g line : Nat) (x : L2Line) : (setL2 g line x s).panel = s.panel := rfl
@[simp] theorem setL2_hodo (g line : Nat) (x : L2Line) : (setL2 g line x s).hodo = s.hodo := rfl
@[simp] theorem setL2_acc (g line : Nat) (x : L2Line) : (setL2 g line x s).acc = s.acc := rfl
@[simp] theorem setL2_mem (g line : Nat) (x : L2Line) : (setL2 g line x s).mem = s.mem := rfl
@[simp] theorem setL2_harts (g line : Nat) (x : L2Line) : (setL2 g line x s).harts = s.harts := rfl
@[simp] theorem setL2_conc (g line : Nat) (x : L2Line) : (setL2 g line x s).conc = s.conc := rfl
@[simp] theorem setL2_vits (g line : Nat) (x : L2Line) : (setL2 g line x s).vits = s.vits := rfl
@[simp] theorem setL2_queues (g line : Nat) (x : L2Line) : (setL2 g line x s).queues = s.queues := rfl
@[simp] theorem setL2_arch (g line : Nat) (x : L2Line) : (setL2 g line x s).arch = s.arch := rfl
@[simp] theorem setL2_cat (g line : Nat) (x : L2Line) : (setL2 g line x s).cat = s.cat := rfl
@[simp] theorem setL2_strong (g line : Nat) (x : L2Line) : (setL2 g line x s).strong = s.strong := rfl
@[simp] theorem setL2_parts (g line : Nat) (x : L2Line) : (setL2 g line x s).parts = s.parts := rfl
@[simp] theorem setL2_errs (g line : Nat) (x : L2Line) : (setL2 g line x s).errs = s.errs := rfl
@[simp] theorem setL2_dbg (g line : Nat) (x : L2Line) : (setL2 g line x s).dbg = s.dbg := rfl
@[simp] theorem setL2_free (g line : Nat) (x : L2Line) : (setL2 g line x s).free = s.free := rfl
@[simp] theorem setL2_emitted (g line : Nat) (x : L2Line) : (setL2 g line x s).emitted = s.emitted := rfl
@[simp] theorem setL2_pending (g line : Nat) (x : L2Line) : (setL2 g line x s).pending = s.pending := rfl

/-! setTx changes `conc` only. -/

@[simp] theorem setTx_obj (dom line : Nat) (t : Tx) : (setTx dom line t s).obj = s.obj := rfl
@[simp] theorem setTx_power (dom line : Nat) (t : Tx) : (setTx dom line t s).power = s.power := rfl
@[simp] theorem setTx_modes (dom line : Nat) (t : Tx) : (setTx dom line t s).modes = s.modes := rfl
@[simp] theorem setTx_clock (dom line : Nat) (t : Tx) : (setTx dom line t s).clock = s.clock := rfl
@[simp] theorem setTx_panel (dom line : Nat) (t : Tx) : (setTx dom line t s).panel = s.panel := rfl
@[simp] theorem setTx_hodo (dom line : Nat) (t : Tx) : (setTx dom line t s).hodo = s.hodo := rfl
@[simp] theorem setTx_acc (dom line : Nat) (t : Tx) : (setTx dom line t s).acc = s.acc := rfl
@[simp] theorem setTx_mem (dom line : Nat) (t : Tx) : (setTx dom line t s).mem = s.mem := rfl
@[simp] theorem setTx_harts (dom line : Nat) (t : Tx) : (setTx dom line t s).harts = s.harts := rfl
@[simp] theorem setTx_caches (dom line : Nat) (t : Tx) : (setTx dom line t s).caches = s.caches := rfl
@[simp] theorem setTx_vits (dom line : Nat) (t : Tx) : (setTx dom line t s).vits = s.vits := rfl
@[simp] theorem setTx_queues (dom line : Nat) (t : Tx) : (setTx dom line t s).queues = s.queues := rfl
@[simp] theorem setTx_arch (dom line : Nat) (t : Tx) : (setTx dom line t s).arch = s.arch := rfl
@[simp] theorem setTx_cat (dom line : Nat) (t : Tx) : (setTx dom line t s).cat = s.cat := rfl
@[simp] theorem setTx_strong (dom line : Nat) (t : Tx) : (setTx dom line t s).strong = s.strong := rfl
@[simp] theorem setTx_parts (dom line : Nat) (t : Tx) : (setTx dom line t s).parts = s.parts := rfl
@[simp] theorem setTx_errs (dom line : Nat) (t : Tx) : (setTx dom line t s).errs = s.errs := rfl
@[simp] theorem setTx_dbg (dom line : Nat) (t : Tx) : (setTx dom line t s).dbg = s.dbg := rfl
@[simp] theorem setTx_free (dom line : Nat) (t : Tx) : (setTx dom line t s).free = s.free := rfl
@[simp] theorem setTx_emitted (dom line : Nat) (t : Tx) : (setTx dom line t s).emitted = s.emitted := rfl
@[simp] theorem setTx_pending (dom line : Nat) (t : Tx) : (setTx dom line t s).pending = s.pending := rfl

/-! setMbox changes `cat` only. -/

@[simp] theorem setMbox_obj (p : Nat) (m : Mailbox) : (setMbox p m s).obj = s.obj := rfl
@[simp] theorem setMbox_power (p : Nat) (m : Mailbox) : (setMbox p m s).power = s.power := rfl
@[simp] theorem setMbox_modes (p : Nat) (m : Mailbox) : (setMbox p m s).modes = s.modes := rfl
@[simp] theorem setMbox_clock (p : Nat) (m : Mailbox) : (setMbox p m s).clock = s.clock := rfl
@[simp] theorem setMbox_panel (p : Nat) (m : Mailbox) : (setMbox p m s).panel = s.panel := rfl
@[simp] theorem setMbox_hodo (p : Nat) (m : Mailbox) : (setMbox p m s).hodo = s.hodo := rfl
@[simp] theorem setMbox_acc (p : Nat) (m : Mailbox) : (setMbox p m s).acc = s.acc := rfl
@[simp] theorem setMbox_mem (p : Nat) (m : Mailbox) : (setMbox p m s).mem = s.mem := rfl
@[simp] theorem setMbox_harts (p : Nat) (m : Mailbox) : (setMbox p m s).harts = s.harts := rfl
@[simp] theorem setMbox_caches (p : Nat) (m : Mailbox) : (setMbox p m s).caches = s.caches := rfl
@[simp] theorem setMbox_conc (p : Nat) (m : Mailbox) : (setMbox p m s).conc = s.conc := rfl
@[simp] theorem setMbox_vits (p : Nat) (m : Mailbox) : (setMbox p m s).vits = s.vits := rfl
@[simp] theorem setMbox_queues (p : Nat) (m : Mailbox) : (setMbox p m s).queues = s.queues := rfl
@[simp] theorem setMbox_arch (p : Nat) (m : Mailbox) : (setMbox p m s).arch = s.arch := rfl
@[simp] theorem setMbox_strong (p : Nat) (m : Mailbox) : (setMbox p m s).strong = s.strong := rfl
@[simp] theorem setMbox_parts (p : Nat) (m : Mailbox) : (setMbox p m s).parts = s.parts := rfl
@[simp] theorem setMbox_errs (p : Nat) (m : Mailbox) : (setMbox p m s).errs = s.errs := rfl
@[simp] theorem setMbox_dbg (p : Nat) (m : Mailbox) : (setMbox p m s).dbg = s.dbg := rfl
@[simp] theorem setMbox_free (p : Nat) (m : Mailbox) : (setMbox p m s).free = s.free := rfl
@[simp] theorem setMbox_emitted (p : Nat) (m : Mailbox) : (setMbox p m s).emitted = s.emitted := rfl
@[simp] theorem setMbox_pending (p : Nat) (m : Mailbox) : (setMbox p m s).pending = s.pending := rfl

/-! setNmt changes `cat` only. -/

@[simp] theorem setNmt_obj (x : Nmt) : (setNmt x s).obj = s.obj := rfl
@[simp] theorem setNmt_power (x : Nmt) : (setNmt x s).power = s.power := rfl
@[simp] theorem setNmt_modes (x : Nmt) : (setNmt x s).modes = s.modes := rfl
@[simp] theorem setNmt_clock (x : Nmt) : (setNmt x s).clock = s.clock := rfl
@[simp] theorem setNmt_panel (x : Nmt) : (setNmt x s).panel = s.panel := rfl
@[simp] theorem setNmt_hodo (x : Nmt) : (setNmt x s).hodo = s.hodo := rfl
@[simp] theorem setNmt_acc (x : Nmt) : (setNmt x s).acc = s.acc := rfl
@[simp] theorem setNmt_mem (x : Nmt) : (setNmt x s).mem = s.mem := rfl
@[simp] theorem setNmt_harts (x : Nmt) : (setNmt x s).harts = s.harts := rfl
@[simp] theorem setNmt_caches (x : Nmt) : (setNmt x s).caches = s.caches := rfl
@[simp] theorem setNmt_conc (x : Nmt) : (setNmt x s).conc = s.conc := rfl
@[simp] theorem setNmt_vits (x : Nmt) : (setNmt x s).vits = s.vits := rfl
@[simp] theorem setNmt_queues (x : Nmt) : (setNmt x s).queues = s.queues := rfl
@[simp] theorem setNmt_arch (x : Nmt) : (setNmt x s).arch = s.arch := rfl
@[simp] theorem setNmt_strong (x : Nmt) : (setNmt x s).strong = s.strong := rfl
@[simp] theorem setNmt_parts (x : Nmt) : (setNmt x s).parts = s.parts := rfl
@[simp] theorem setNmt_errs (x : Nmt) : (setNmt x s).errs = s.errs := rfl
@[simp] theorem setNmt_dbg (x : Nmt) : (setNmt x s).dbg = s.dbg := rfl
@[simp] theorem setNmt_free (x : Nmt) : (setNmt x s).free = s.free := rfl
@[simp] theorem setNmt_emitted (x : Nmt) : (setNmt x s).emitted = s.emitted := rfl
@[simp] theorem setNmt_pending (x : Nmt) : (setNmt x s).pending = s.pending := rfl

/-! setWq changes `mem` and `free` only. -/

@[simp] theorem setWq_obj (ch : MemCh) (x : WriteQueue × Nat) : (setWq ch x s).obj = s.obj := rfl
@[simp] theorem setWq_power (ch : MemCh) (x : WriteQueue × Nat) : (setWq ch x s).power = s.power := rfl
@[simp] theorem setWq_modes (ch : MemCh) (x : WriteQueue × Nat) : (setWq ch x s).modes = s.modes := rfl
@[simp] theorem setWq_clock (ch : MemCh) (x : WriteQueue × Nat) : (setWq ch x s).clock = s.clock := rfl
@[simp] theorem setWq_panel (ch : MemCh) (x : WriteQueue × Nat) : (setWq ch x s).panel = s.panel := rfl
@[simp] theorem setWq_hodo (ch : MemCh) (x : WriteQueue × Nat) : (setWq ch x s).hodo = s.hodo := rfl
@[simp] theorem setWq_acc (ch : MemCh) (x : WriteQueue × Nat) : (setWq ch x s).acc = s.acc := rfl
@[simp] theorem setWq_harts (ch : MemCh) (x : WriteQueue × Nat) : (setWq ch x s).harts = s.harts := rfl
@[simp] theorem setWq_caches (ch : MemCh) (x : WriteQueue × Nat) : (setWq ch x s).caches = s.caches := rfl
@[simp] theorem setWq_conc (ch : MemCh) (x : WriteQueue × Nat) : (setWq ch x s).conc = s.conc := rfl
@[simp] theorem setWq_vits (ch : MemCh) (x : WriteQueue × Nat) : (setWq ch x s).vits = s.vits := rfl
@[simp] theorem setWq_queues (ch : MemCh) (x : WriteQueue × Nat) : (setWq ch x s).queues = s.queues := rfl
@[simp] theorem setWq_arch (ch : MemCh) (x : WriteQueue × Nat) : (setWq ch x s).arch = s.arch := rfl
@[simp] theorem setWq_cat (ch : MemCh) (x : WriteQueue × Nat) : (setWq ch x s).cat = s.cat := rfl
@[simp] theorem setWq_strong (ch : MemCh) (x : WriteQueue × Nat) : (setWq ch x s).strong = s.strong := rfl
@[simp] theorem setWq_parts (ch : MemCh) (x : WriteQueue × Nat) : (setWq ch x s).parts = s.parts := rfl
@[simp] theorem setWq_errs (ch : MemCh) (x : WriteQueue × Nat) : (setWq ch x s).errs = s.errs := rfl
@[simp] theorem setWq_dbg (ch : MemCh) (x : WriteQueue × Nat) : (setWq ch x s).dbg = s.dbg := rfl
@[simp] theorem setWq_emitted (ch : MemCh) (x : WriteQueue × Nat) : (setWq ch x s).emitted = s.emitted := rfl
@[simp] theorem setWq_pending (ch : MemCh) (x : WriteQueue × Nat) : (setWq ch x s).pending = s.pending := rfl

/-! Reads after writes. -/

@[simp] theorem setEnc_enc (e : Nat) (x : Encoder) : (setEnc e x s).enc e = x := by simp [State.enc, setEnc]
theorem setEnc_enc_ne {e j : Nat} (x : Encoder) (h : j ≠ e) : (setEnc e x s).enc j = s.enc j := by
  simpa [State.enc, setEnc] using tblGet_set_ne _ _ _ h
@[simp] theorem setProg_prog (n : Nat) (x : Program) : (setProg n x s).prog n = x := by simp [State.prog, setProg]
theorem setProg_prog_ne {n j : Nat} (x : Program) (h : j ≠ n) : (setProg n x s).prog j = s.prog j := by
  simpa [State.prog, setProg] using tblGet_set_ne _ _ _ h
@[simp] theorem setRing_ring (r : Nat) (x : Ring) : (setRing r x s).ring r = x := by simp [State.ring, setRing]
theorem setRing_ring_ne {r j : Nat} (x : Ring) (h : j ≠ r) : (setRing r x s).ring j = s.ring j := by
  simpa [State.ring, setRing] using tblGet_set_ne _ _ _ h
@[simp] theorem setCtx_ctx (c : Nat) (x : Ctx) : (setCtx c x s).ctx c = x := by simp [State.ctx, setCtx]
theorem setCtx_ctx_ne {c j : Nat} (x : Ctx) (h : j ≠ c) : (setCtx c x s).ctx j = s.ctx j := by
  simpa [State.ctx, setCtx] using tblGet_set_ne _ _ _ h
@[simp] theorem setChan_chan (c : Nat) (x : Chan) : (setChan c x s).chan c = x := by simp [State.chan, setChan]
theorem setChan_chan_ne {c j : Nat} (x : Chan) (h : j ≠ c) : (setChan c x s).chan j = s.chan j := by
  simpa [State.chan, setChan] using tblGet_set_ne _ _ _ h
@[simp] theorem setMbox_mbox (p : Nat) (x : Mailbox) : (setMbox p x s).mbox p = x := by simp [State.mbox, setMbox]
theorem setMbox_mbox_ne {p j : Nat} (x : Mailbox) (h : j ≠ p) : (setMbox p x s).mbox j = s.mbox j := by
  simpa [State.mbox, setMbox] using tblGet_set_ne _ _ _ h
@[simp] theorem setL2_l2 (g line : Nat) (x : L2Line) : (setL2 g line x s).l2 g line = x := by simp [State.l2, setL2]

end Sys2Proof.Machine
end

