-- ==== Sys2Proof/Tests/Slice0.lean ====
section
/-! SUPPORT. Tests of the model on small states: a command that each check of well-formedness refuses, single steps whose
results the spec gives, and for each obligation a state and operands that meet the hypotheses of each of its clauses. -/

open Sys2Proof Sys2Proof.Machine

set_option Elab.async false

namespace Sys2Proof.Tests

/-! Small states. -/

/-- The requester of field session 0. -/
def w0 : Requester := .session 0

/-- Objects set in order: node, index, subindex, value. -/
def put (l : List (Nat × Nat × Nat × Nat)) (s : State) : State := l.foldl (fun s x => setO x.1 x.2.1 x.2.2.1 x.2.2.2 s) s

/-- A package in a mode at time 10^12 ns, with session 0 under a role and hart 0 running. -/
def st (m : Mode) (role : Nat) : State :=
  { modes := { mode := m }, clock := { timebase := 1000000000000, running := true },
    cat := { sessions := [(0, { port := 0, role := role, lastUse := 0 })] }, harts := [(0, { run := .running })] }

/-- Partition 0 runs: cluster 0, queue block 0, event source 0 and the first 2 MiB of memory are its own. Gallery 0 has one module
in use, so that no module of a line is an open value. -/
def own (m : Mode) (role : Nat) : State :=
  put [(nGal 0, 0x6010, 1, 8), (nGal 0, 0x6011, 1, 0), (nGal 0, 0x6012, 1, 0), (nGal 0, 0x6013, 1, 0), (nS, 0x7000, 1, 1), (nS, 0x7000, 2, 1), (nS, 0x7010, 1, 2 ^ 85), (nS, 0x7030, 1, 1), (nS, 0x7030, 2, 1),
    (nS, 0x7040, 1, 3), (nP, 0x5000, 8, 1)] (st m role)

/-- Hart 0 changed. -/
def on0 (f : Hart → Hart) (s : State) : State := setHart 0 (f (s.hart 0)) s

/-- The first 640 bytes of memory good: these bytes, the rest zero. -/
def ram (l : List Host.Cell) (s : State) : State :=
  { s with mem := { s.mem with marks := (List.range 80).map fun w => (w, 0), bytes := l } }

/-- Partition 0 runs and its first 640 bytes of memory are good. -/
def loaded : State := ram [] (own .run 4)

/-- The same, hart 0 in M with FS and VS on. -/
def loadedF : State := on0 (fun h => h.withCsr 0x300 0xA00006600) loaded

/-- Line 0 is in state M in the L2 of gallery 0. -/
def inL2 : State := { own .run 4 with caches := { l2 := [(0, { st := .m })] } }

/-- The same, and hart 0 reserved it. -/
def inL2R : State := on0 (fun h => { h with reserved := some 0 }) inL2

/-- The parts of a plan. -/
def partsOf : Plan → List Part
  | .parts l => l
  | _ => []

/-- A part where there is none. -/
def noPart : Part := { pa := 0, off := 0, len := 0, pbmt := 0 }

/-- Hart 0 holds a vector of one element of eight bits. -/
def vecState : State := on0 (fun h => (h.withCsr 0xC20 1).withCsr 0xC21 0) loadedF

/-- Gallery 0 in RUN with every way of it in the mask of partition 0. -/
def locks : State := put [(nS, 0x7020, 1, 0xFFFF), (nGal 0, 0x6101, 1, 0xFFFF)] (own .run 4)

/-- A valid program: one stage that copies one pixel, ring 255, output at 1 KiB, completion queue 5, as the nonzero bytes. -/
def program : List Host.Cell :=
  [(0, 1), (1, 1), (6, 255), (20, 1), (25, 4), (32, 64), (36, 1), (52, 5), (128, 2), (129, 1), (130, 1), (160, 1)]

/-- Its block as bytes. -/
def block : List Byte := (List.range 640).map fun i => (program.lookup i).getD 0

/-- Vitrine 0 runs for partition 0, its program's bytes in memory from 0, with x1 = 0, x2 = 3 in hart 0. -/
def vitState : State :=
  { on0 (fun h => { h with x := [(2, 3)] }) (ram program (own .run 4)) with vits := [(0, { running := true })] }

/-- Slot 3 of Vitrine 0 in a state with the program, and queue 5 of partition 0 enabled for Vitrine records. -/
def vitSlot (k : Nat) (s : State) : State :=
  put [(nQueue 5, 0xB100, 1, 1), (nQueue 5, 0xB100, 3, 2), (nQueue 5, 0xB100, 5, 64), (nQueue 5, 0xB100, 6, 4), (nQueue 5, 0xB110, 1, 1)]
    { s with vits := [(0, { running := true, slot := [(3, { state := k, block := block })], tickets := 1, ended := [(1, 0)] })] }

/-- Ring 255 belongs to partition 0 and notifies Vitrine 0. -/
def ring (s : State) : State :=
  put [(nRing 255, 0x4200, 1, 1), (nRing 255, 0x4200, 2, 0), (nRing 255, 0x4200, 3, 0x10000), (nRing 255, 0x4200, 4, 64),
    (nRing 255, 0x4200, 5, 4), (nRing 255, 0x4200, 7, 0x11000), (nRing 255, 0x4200, 0x0E, 1)] s

/-- A running Vitrine with the program in slot 3 in a state, and notices and jobs. -/
def busy (k : Nat) (n : List Notice) (j : List Job) : Vit :=
  { running := true, slot := [(3, { state := k, block := block })], notices := n, jobs := j }

/-- A notice of ring r is under way to Vitrine 65, which holds n of them. -/
def noticed (r n : Nat) : State :=
  { st .run 4 with acc := { notices := [(65, r, 7, 1)] },
                   vits := [(65, busy 2 (List.replicate n { ring := r, line := 0, cover := 1, slots := [3] }) [])] }

/-- Lane 63's transmit queue 5 holds one control message. -/
def txq : State :=
  put [(nLane 63, 0x4010, 1, 1), (nLane 63, 0x4010, 0x0C, 2), (nLane 63, 0x4010, 9, 5), (nLane 63, 0x4010, 2, 0),
    (nQueue 5, 0xB100, 1, 1), (nQueue 5, 0xB100, 3, 3), (nQueue 5, 0xB100, 5, 16), (nQueue 5, 0xB100, 6, 4), (nQueue 5, 0xB110, 1, 1),
    (nQueue 5, 0xB110, 2, 1)] (ram [(0, 8), (8, 1), (12, 1)] (own .run 4))

/-- Vitrine 0 has one notice for slot 3, whose queue is disabled. -/
def stepping : State := { own .run 4 with vits := [(0, busy 2 [{ ring := 255, line := 0, cover := 1, slots := [3] }] [])] }

/-- Vitrine 0 has one job in slot 3, whose queue is disabled. -/
def working : State := { own .run 4 with vits := [(0, busy 1 [] [{ slot := 3, ticket := 2, desc := [] }])] }

/-- Whether a translation reaches a memory tier. -/
def isTier : Reach → Bool
  | .tier _ _ => true
  | _ => false

/-- Line 0 in the L2 of gallery 0, whose ways are in force for partition 0; hart 0's environment configuration is written. -/
def hinted : State := on0 (fun h => h.withCsr 0x30A 0) (put [(nGal 0, 0x6101, 1, 0xFFFF)] inL2)

/-! Ill-formed commands: one for each kind of operand. -/

/-- A list of commands that name an instance, size or code that does not exist. -/
def illFormed : List Instr :=
  [.powerOnReset (.banks true true) { diesUp := 15, optical := 0, electrical := 0, dimms := [], idents := [], factory := [(9, [])] },
    .modeTransitionComplete { badSites := [(24, 3)], badWays := [], badPcs := [], badChannels := [], available := true },
    .railOutOfLimits 15, .thermalTrip (.stack 4), .thermalThrottleEntry 24, .dieReferenceLoss 28 true false,
    .syncMessageReceived 2 true 0, .syncMessageReceived 0 true (2 ^ 63), .flitCrcError 27 1 false, .trainingTimeout 28,
    .galleryRetirement 22 1, .galleryRetirement 0 7, .speedTimeout 8, .timeTrigger 32, .outputPulseEnd 16, .ptpSyncTimer 64,
    .controlPacketReceived 0 (2 ^ 32) 0 0 [], .controlPacketReceived 0 0 65536 0 [],
    .streamPacket 0 { srcIp := 0, dstPort := 0, extendedId := true, status := 0, blockId := 2 ^ 64, packetId := 0, form := .trailer } .clean,
    .lineSeal 256, .memoryRequest .io .archive 0 .read (.correctable 8), .memoryRequest .io (.ring 256) 0 .read .clean, .hbmRefreshDue 128 0 true, .hbmRefreshDue 0 1024 true,
    .ddr5RefreshDue 8, .scrubReadDue (.hbm 128) .clean, .scrubWake 0 [.correctable 10],
    .load 0 0 0 0 3 true false 4 .clean .clean [], .load 0 0 0 0 1 true true 4 .clean .clean [],
    .load 0 0 0 0 8 true false 3 .clean .clean [], .load 0 0 0 0 8 true false 4 .clean (.correctable 10) [],
    .store 0 0 0 0 8 false 4 (.correctable 10), .amo 0 .add 2 1 1 1, .vectorLoad 0 32 8 1 1 .unit false false [],
    .vectorLoad 0 1 8 1 1 (.strided 2) false true [], .lockOpen w0 22 0, .sealNotice 66 0 0 0, .vitrineStep 66 .clean,
    .rds 22 0 0 none none, .rds 0 16 0 none none, .rds 0 0 (2 ^ 46) none none, .crd (.hart 264) 0 0, .cmp (.vitrine 66) 0,
    .transactionWatchdog (2 ^ 46), .domainClear 16, .directoryEntryError 0 16384 0 .correctable,
    .directoryEntryError 0 0 0 (.partA 16 0 0), .pidxWrite 0 0 65536 0, .queuePost 0 16 [], .seteipnumWrite 0 0 264 true 0,
    .sourceEnable w0 1536 1, .copy 65536, .archiveWrite 64, .grantTimeout 0 (2 ^ 32), .drainAgeExpiry 4 0, .drainAgeExpiry 0 16384,
    .namespaceEnable w0 32 1, .registerWrite (.csr 0 4096 0), .registerWrite (.mailboxWord 0 0 16 0 0),
    .registerWrite (.mailboxWord 0 0 0 2 0), .registerWrite (.deviceWord 0 0 0 0 4), .dtlsHandshake 2 ⟨1, true, none⟩,
    .sessionIdleClose 8, .usdoAbort 0, .usdoTransferTimeout 128, .partitionConfigWrite w0 0x7040 1 1, .automaticStart 16 false,
    .packageCounterEventWrite w0 32 0, .hartCounterWrap 0 2, .debugHalt 0 [1048576] false, .debugStep 0 (.lui 1 0) 3,
    .scalarInstruction 0 (.csr .rw 0 4096 (.reg 0)) 4, .scalarInstruction 264 .ecall 4, .debugEnableWrite w0 3 0, .jtagIrSelect 32,
    .siteSelfTestComplete 24 true (.done 0 0 0 0 0) 0, .refreshRateChange (.ddr 8) true]

theorem test_ill_formed : illFormed.all (fun i => !i.wf) = true := by decide +kernel

theorem test_ill_formed_faults : exec (.railOutOfLimits 15) State.reset = .fault .noSuchResource := rfl

/-! No word spells a command. -/

theorem test_no_words : decodeTableWord 32 0x13 = none := rfl

theorem test_withFetchWord : State.reset.withFetchWord 32 0x13 = State.reset := rfl

/-! Single steps. -/

/-- The state after a command. -/
def after (i : Instr) (s : State) : State := match exec i s with
  | .next t => t
  | _ => s

theorem test_reset_off : (State.reset.modes.mode, State.reset.power.stat) = (.off, 0) := by decide +kernel

theorem test_idle_ticks : (match step (st .run 4) with
    | .next t => now t
    | _ => 0) = 1000000000001 := by decide +kernel

theorem test_add_wraps : ((after (.scalarInstruction 0 (.alu .add 3 1 (.reg 2)) 4)
    (on0 (fun h => { h with x := [(1, BitVec.allOnes 64), (2, 2)] }) (st .run 4))).hart 0).getX 3 = 1 := by decide +kernel

theorem test_x0_stays_zero : ((after (.scalarInstruction 0 (.lui 0 0x1000) 4) (st .run 4)).hart 0).getX 0 = 0 := by decide +kernel

theorem test_ecall_cause : ((after (.scalarInstruction 0 .ecall 4) (on0 (fun h => { h with priv := .u }) (st .run 4))).hart 0).csrOf 0x342 = 8 := by
  decide +kernel

theorem test_load_sign : ((after (.load 0 5 0 0 1 true false 4 .clean .clean []) (ram [(0, 0x80)] loaded)).hart 0).getX 5 =
    0xFFFFFFFFFFFFFF80 := by decide +kernel

theorem test_store_forwarded : ((after (.load 0 5 0 0 8 false false 4 .clean .clean []) (after (.store 0 0 2 0 8 false 4 .clean)
    (on0 (fun h => { h with x := [(2, 0x1122334455667788)] }) loaded))).hart 0).getX 5 = 0x1122334455667788 := by decide +kernel

theorem test_load_unmapped : ((after (.load 0 5 0 0x1000000000 8 true false 4 .clean .clean []) loaded).hart 0).csrOf 0x342 = 5 := by decide +kernel

theorem test_sc_without_lr : ((after (.sc 0 8 5 0 0) inL2).hart 0).getX 5 = 1 := by decide +kernel

theorem test_sc_after_lr : ((after (.sc 0 8 5 0 0) (after (.lr 0 8 6 0) inL2)).hart 0).getX 5 = 0 := by decide +kernel

theorem test_amo_misaligned : ((after (.amo 0 .add 8 5 1 0) (on0 (fun h => { h with x := [(1, 4)] }) inL2)).hart 0).csrOf 0x342 = 6 := by
  decide +kernel

theorem test_vitrine_load : ((after (.vitLoad 0 5 1 2) vitState).vit 0 |>.slotAt 3).state = 1 := by decide +kernel

theorem test_vitrine_arm_queue : ((after (.vitArm 0 5 2) (ring vitState)).hart 0).getX 5 = 0x8000000000000006 := by decide +kernel

theorem test_arp : (after (.arpRequest 63 5 9 7) (put [(nLane 63, 0x4010, 1, 1), (nLane 63, 0x4010, 4, 7), (nLane 63, 0x4010, 0x0C, 2)] (st .run 4))).emitted =
    [.arpReply 63 9 5] := by decide +kernel

theorem test_write_read_only : ((after (.registerWrite (.object w0 nP 0x2000 1 0)) (st .run 4)).req w0).abort = 0x06010002 := by decide +kernel

theorem test_write_no_object : ((after (.registerWrite (.object w0 nP 0x2000 0xFF 0)) (st .run 4)).req w0).abort = 0x06090011 := by decide +kernel

theorem test_partition_start : (((after (.partitionStart w0 0 false) (put [(nS, 0x7040, 1, 1)] (own .run 4))).hart 0).run,
    partState (after (.partitionStart w0 0 false) (put [(nS, 0x7040, 1, 1)] (own .run 4))) 0) = (.running, 3) := by decide +kernel

/-- R475 and R492: the examples of the spec; R473: 9,216 lands. -/
theorem test_lands : (controlLand 87 48, controlLand 89 51, controlLand 90 56, fibreOf 21, (landGroups.map (·.2)).sum) =
    (.pair "ENC_Z" 3 false, .pair "TRG" 13 true, .single "CAN_STBY", (2, 6, 11), 9216) := by decide +kernel

/-- R464: the value written to a counter stands. -/
theorem test_counter_write : ((after (.scalarInstruction 0 (.csr .rw 0 0xB02 (.reg 1)) 4)
    (on0 (fun h => { h with x := [(1, 7)] }) (st .run 4))).hart 0).csrOf 0xB02 = 7 := by decide +kernel

/-- R471: a halt request that acknowledges the reset. -/
theorem test_ack_reset : ((after (.debugHalt 0 [] true) (put [(nS, 0x7500, 1, 1), (nS, 0x7500, 2, 1)] (own .run 4))).hart 0).resetAcked = true := by
  decide +kernel

theorem test_jtag_idcode : (after (.jtagIrSelect 1) (st .keep 4)).dbg.ir = 1 := by decide +kernel

theorem test_decommissioned : (after (.decommission w0 1) { st .service 5 with strong := { zeroised := true } }).strong.decommissioned = true := by
  decide +kernel

/-- R176, R274: an uncorrectable error in a clean L2 line drops it, and 6131h counts it. -/
theorem test_l2_clean_error :
    (fun t : State => ((t.l2 0 0).st, getO t (nGal 0) 0x6131 1))
      (after (.scalarInstruction 0 (.arrayError (.l2 false 0 0 1 true)) 4)
        { own .run 4 with caches := { l2 := [(0, { st := .e })] } }) = (.i, 1) := by decide +kernel
/-- R176: an uncorrectable L2 tag takes the way's partition down, cause 02h. -/
theorem test_l2_tag_error :
    (fun t : State => (getO t nC 0x6810 1, getO t nC 0x6812 1))
      (after (.scalarInstruction 0 (.arrayError (.l2 true 0 0 0 true)) 4) (put [(nGal 0, 0x6101, 1, 0xFFFF), (nC, 0x6810, 1, 0)] inL2)) = (2, 2) := by
  decide +kernel
/-- R217: a load forwarded from a word that the store buffer lost is a machine error with SRC 5. -/
theorem test_store_buffer_error :
    (((after (.load 0 5 0 0 8 false false 4 .clean .clean []) (after (.scalarInstruction 0 (.arrayError (.core 3 0 1 true)) 4)
      (after (.store 0 0 2 0 8 false 4 .clean) loaded))).hart 0).csrOf 0x7C1).toNat % 65536 = 0x205 := by decide +kernel
/-- R469: the program buffer reads a vector register. -/
theorem test_program_buffer :
    ((after (.accessRegister 0 (.gpr 0) none 8 [.vector (.mvXS 5 2)])
      (put [(nS, 0x7500, 1, 1), (nS, 0x7500, 2, 1)] (on0 (fun h => { h with run := .debug, v := [(2, 0x7F)] }) vecState))).hart 0).getX 5 =
      0x7F := by decide +kernel

/-- The state in which a hint translates. -/
def noUpdate (s : State) : State := setHart 0 ((s.hart 0).withCsr 0x30A ((s.hart 0).csrOf 0x30A &&& 0xDFFFFFFFFFFFFFFF)) s

theorem test_hint_dropped : isTier (reach 0 lrAccess (((st .run 4).hart 0).getX 31 + 0x1000000000000000) 1 true
    (noUpdate (st .run 4))).2 = false := by decide +kernel

/-- A descriptor's 64 bytes from its nonzero ones. -/
def slotBytes (l : List Host.Cell) : List Byte := (List.range 64).map fun i => (l.lookup i).getD 0

/-- Queue 5 of a kind, for partition 0, holds one slot of 64 bytes at address 0. -/
def oneSlot (kind : Nat) (l : List Host.Cell) : State :=
  put [(nQueue 5, 0xB100, 1, 1), (nQueue 5, 0xB100, 3, kind), (nQueue 5, 0xB100, 5, 64), (nQueue 5, 0xB100, 6, 4),
    (nQueue 5, 0xB110, 1, 1), (nQueue 5, 0xB110, 2, 1)] (ram l (own .run 4))

/-- A load of 64 bytes from 100h to 200h: copied, filled with 100h, copied as one row. -/
def loadCells : Nat → List Host.Cell
  | 3 => [(0, 3), (9, 1), (17, 2), (24, 64), (32, 1), (36, 64), (40, 64)]
  | k => [(0, BitVec.ofNat 8 k), (9, 1), (17, 2), (24, 64)]

/-- The load of those cells. -/
def loadOf (k : Nat) : Load := (parseLoad (slotBytes (loadCells k))).getD
  { src := 0, dst := 0, row := 0, rows := 0, srcPitch := 0, dstPitch := 0, pattern := none }

/-- Archive channel 0 takes its commands from queue 5, which holds one packet of these cells. -/
def channel0 (l : List Host.Cell) : State := put [(nP, 0xA200, 1, 1), (nP, 0xA200, 2, 5), (nP, 0xA200, 7, 1)] (oneSlot 4 l)

/-- A pair by its second component. -/
theorem pair_of {α β : Type} {p : α × β} {b : β} (h : p.2 = b) : p = (p.1, b) := by
  cases p
  cases h
  rfl

/-- What VIT_LOAD reads of the program's block, and the code of the load. -/
theorem read_block {g d a : Nat} (hg : g = 0) (hd : d = 0) (ha : a = 0) :
    cohBytes g d a 640 vitState = ((cohBytes 0 0 0 640 vitState).1, some (block, [])) := by
  subst hg hd ha
  exact pair_of (by decide +kernel)

theorem block_loads {v k : Nat} (hv : v = 0) (hk : k = 3) : loadCode (cohBytes 0 0 0 640 vitState).1 v k block = 0 := by
  subst hv hk
  decide +kernel

/-- The same of a block of the wrong version. -/
theorem read_bad_block {g d a : Nat} (hg : g = 0) (hd : d = 0) (ha : a = 0) : cohBytes g d a 640 (ram [(0, 2)] vitState) =
    ((cohBytes 0 0 0 640 (ram [(0, 2)] vitState)).1, some (2 :: List.replicate 639 0, [])) := by
  subst hg hd ha
  exact pair_of (by decide +kernel)

theorem bad_block_code {v k : Nat} (hv : v = 0) (hk : k = 3) :
    loadCode (cohBytes 0 0 0 640 (ram [(0, 2)] vitState)).1 v k (2 :: List.replicate 639 0) ≠ 0 := by
  subst hv hk
  decide +kernel


/-- A Curator image's header: magic, format, type, version 0, 64 bytes long, entry at 0. -/
def bankHeader : List Byte := [0x4E, 0x32, 0x34, 0x49, 1, 1] ++ List.replicate 10 0 ++ [64] ++ List.replicate 143 0

/-- A power-up that finds four Archive dies and such an image in one bank. -/
def bootWith (bank : Nat) : BootEnv :=
  { diesUp := 15, optical := 0, electrical := 0, dimms := [], idents := [], factory := [(bank, bankHeader)] }

/-- Lane 63 is up, with the addresses 77 and 9 and the control ports 100 and 101. -/
def laneOn : State :=
  put [(nLane 63, 0x4010, 1, 1), (nLane 63, 0x4010, 0x0C, 2), (nLane 63, 0x4010, 3, 77), (nLane 63, 0x4010, 4, 9),
    (nLane 63, 0x4010, 7, 100), (nLane 63, 0x4010, 8, 101)] (own .run 4)

/-- The same with queue 5 for its control packets. -/
def laneQ : State :=
  put [(nLane 63, 0x4010, 2, 0), (nLane 63, 0x4010, 0x0A, 5), (nQueue 5, 0xB100, 1, 1), (nQueue 5, 0xB100, 3, 2),
    (nQueue 5, 0xB100, 5, 64), (nQueue 5, 0xB100, 6, 4), (nQueue 5, 0xB110, 1, 1)] laneOn

/-- A frame of 100 bytes at lane 63 with good checks. -/
def frameOf (mac : Nat) (p : LanePacket) : LaneFrame := { waiting := 0, length := 100, checksGood := true, dstMac := mac, packet := p }

/-- A load in progress, nothing of it moved yet. -/
def goingOf (k : Nat) : Going := { op := k, load := loadOf k, tag := 0, cmpl := false }

/-- Queue 5 with that load in progress. -/
def midLoad (k : Nat) : State :=
  let s := oneSlot 1 (loadCells k)
  setQueue 5 { s.queue 5 with load := some (goingOf k) } s

/-- A transaction of RDS by gallery 0. -/
def tx0 : Tx := { req := { kind := .rdS, agent := .l2 0, dom := 0 }, start := 0 }

/-- Partition 0 with its domain UP. -/
def openDom : State := put [(nC, 0x6810, 1, 0)] (own .run 4)

/-! For each statement with hypotheses: a state and operands that meet them, clause by clause. -/

theorem witness_StepRunsFrontCommand :
    (∃ (s : State) (c : Instr) (rest : List Instr),
    s.pending = c :: rest) ∧
    (∃ (s : State),
    s.pending = []) ∧
    (∃ (s : State),
    s.pending = [] ∧
    s.cat.queue = []) :=
  ⟨⟨{ st .run 4 with pending := [.powerFail false [] none, .holdoverEntry] }, .powerFail false [] none, [.holdoverEntry], by decide +kernel⟩,
   ⟨st .run 4, by decide +kernel⟩,
   ⟨st .run 4, by decide +kernel⟩⟩

theorem witness_StepKeepsCanon :
    (∃ (s t : State),
    Canon s ∧
    step s = .next t) :=
  ⟨State.reset, _, ⟨by decide, by decide, fun _ _ => rfl⟩, rfl⟩

theorem witness_CommandsComplete :
    (∃ (i : Instr) (s : State),
    i.wf = false) :=
  ⟨.load 264 0 0 0 8 true false 4 .clean .clean [], State.reset, by decide +kernel⟩

theorem witness_ExecLeavesQueueAndRecord :
    (∃ (i : Instr) (s t : State),
    exec i s = .next t) :=
  ⟨.holdoverEntry, st .run 4, st .run 4, rfl⟩

theorem witness_DecommissionIsFinal :
    (∃ (s t : State),
    s.strong.decommissioned = true ∧
    step s = .next t) :=
  ⟨{ strong := { decommissioned := true } }, { strong := { decommissioned := true } }, rfl, rfl⟩

theorem witness_OpenValuesAreFresh :
    (∃ (s t : State),
    step s = .next t) :=
  ⟨State.reset, State.reset, rfl⟩

theorem witness_LossesOfPower :
    (∃ (found : List (Nat × Bool)) (s : State),
    foundOk found = true ∧
    running s = true ∧
    s.power.pwrfailN = true) ∧
    (∃ (found : List (Nat × Bool)) (s : State), ∃ (c : DrainCut),
    foundOk found = true ∧
    running s = true ∧
    s.power.pwrfailN = true ∧
    (c.rail.all fun r => decide (r < 5)) = true) ∧
    (∃ (found : List (Nat × Bool)) (s : State), ∃ (c : DrainCut), ∃ r,
    foundOk found = true ∧
    running s = true ∧
    s.power.pwrfailN = true ∧
    c.rail = some r ∧
    5 ≤ r) ∧
    (∃ (rises : Bool) (found : List (Nat × Bool)) (cut : Option DrainCut) (s : State),
    foundOk found = true ∧
    (rises = true ∨ s.power.pwrfailN = false)) ∧
    (∃ (found : List (Nat × Bool)) (cut : Option DrainCut) (s : State),
    foundOk found = true ∧
    running s = false ∧
    s.power.pwrfailN = true ∧
    s.power.poresetN = true ∧
    s.power.offHeld = false) ∧
    (∃ (s : State) (rail : Nat),
    rail < 15 ∧
    s.power.aonOut = false ∧
    (s.power.poresetN = true ∨ running s = true) ∧
    (s.power.pwrfailN = true ∨ rail < 5)) ∧
    (∃ (s : State) (rail : Nat),
    rail < 15 ∧
    s.power.aonOut = false ∧
    (s.power.poresetN = true ∨ running s = true) ∧
    s.power.pwrfailN = false ∧
    5 ≤ rail) ∧
    (∃ (s : State) (rail : Nat),
    rail < 15 ∧
    s.power.aonOut = true) ∧
    (∃ (s : State) (rail : Nat),
    rail < 15 ∧
    s.power.aonOut = false ∧
    s.power.poresetN = false ∧
    running s = false) ∧
    (∃ (found : List (Nat × Bool)) (s : State) (since : Nat),
    foundOk found = true ∧
    s.power.refclkLost = some since ∧
    running s = true ∧
    since + 10000000 ≤ now s) ∧
    (∃ (found : List (Nat × Bool)) (s : State) (since : Nat), ∃ (c : DrainCut),
    foundOk found = true ∧
    s.power.refclkLost = some since ∧
    running s = true ∧
    since + 10000000 ≤ now s ∧
    c.rail.all (railWatched s) = true) ∧
    (∃ (who : Requester) (s : State),
    reaches .wo who nP 0x2030 1 1 s = true ∧
    (s.modes.mode = .service ∨ s.modes.mode = .run ∨ s.modes.mode = .limp) ∧
    s.modes.trans = none ∧
    promoting (arrived who nP 0x2030 1 1 s) = false) :=
  ⟨⟨[(0, true)], st .keep 4, by decide +kernel⟩,
   ⟨[], st .run 4, { rail := none, units := [3] }, by decide +kernel⟩,
   ⟨[], st .run 4, { rail := some 5, units := [] }, 5, by decide +kernel⟩,
   ⟨false, [], none, { st .run 4 with power := { pwrfailN := false } }, by decide +kernel⟩,
   ⟨[], none, { power := { poresetN := true } }, by decide +kernel⟩,
   ⟨st .run 4, 4, by decide +kernel⟩,
   ⟨{ st .run 4 with power := { pwrfailN := false } }, 5, by decide +kernel⟩,
   ⟨{ power := { aonOut := true } }, 14, by decide +kernel⟩,
   ⟨{ power := { poresetN := false } }, 0, by decide +kernel⟩,
   ⟨[(2097151, false)], { st .run 4 with power := { refclkLost := some 990000000000 } }, 990000000000, by decide +kernel⟩,
   ⟨[], { st .run 4 with power := { refclkLost := some 990000000000 } }, 990000000000, { rail := some 4, units := [] }, by decide +kernel⟩,
   ⟨w0, st .limp 4, by decide +kernel⟩⟩

theorem witness_PowerUp :
    (∃ (good0 good1 : Bool) (env : BootEnv) (s : State),
    running s = false ∧
    s.power.offHeld = false ∧
    s.power.refclk = true ∧
    (env.factory.all fun e => flashTargetOk e.1 && decide (e.2.length ≤ flashRoom e.1)) = true) ∧
    (∃ (good0 good1 : Bool) (env : BootEnv) (s : State),
    running s = false ∧
    s.power.offHeld = false ∧
    s.power.refclk = true ∧
    (env.factory.all fun e => flashTargetOk e.1 && decide (e.2.length ≤ flashRoom e.1)) = true ∧
    canBoot (factoryFlash env s) (getO (factoryFlash env s) nS 0x7100 7 % 2) ((fun b => if b = 0 then good0 else good1) (getO (factoryFlash env s) nS 0x7100 7 % 2)) = true) ∧
    (∃ (good0 good1 : Bool) (env : BootEnv) (s : State),
    running s = false ∧
    s.power.offHeld = false ∧
    s.power.refclk = true ∧
    (env.factory.all fun e => flashTargetOk e.1 && decide (e.2.length ≤ flashRoom e.1)) = true ∧
    canBoot (factoryFlash env s) (getO (factoryFlash env s) nS 0x7100 7 % 2) ((fun b => if b = 0 then good0 else good1) (getO (factoryFlash env s) nS 0x7100 7 % 2)) = false ∧
    canBoot (factoryFlash env s) (1 - (getO (factoryFlash env s) nS 0x7100 7 % 2)) ((fun b => if b = 0 then good0 else good1) (1 - (getO (factoryFlash env s) nS 0x7100 7 % 2))) = true) ∧
    (∃ (good0 good1 : Bool) (env : BootEnv) (s : State),
    running s = false ∧
    s.power.offHeld = false ∧
    s.power.refclk = true ∧
    (env.factory.all fun e => flashTargetOk e.1 && decide (e.2.length ≤ flashRoom e.1)) = true ∧
    canBoot (factoryFlash env s) (getO (factoryFlash env s) nS 0x7100 7 % 2) ((fun b => if b = 0 then good0 else good1) (getO (factoryFlash env s) nS 0x7100 7 % 2)) = false ∧
    canBoot (factoryFlash env s) (1 - (getO (factoryFlash env s) nS 0x7100 7 % 2)) ((fun b => if b = 0 then good0 else good1) (1 - (getO (factoryFlash env s) nS 0x7100 7 % 2))) = false) ∧
    (∃ (s : State),
    s.modes.booting = true ∧
    s.panel.promo = none ∧
    s.panel.promoQueue = []) ∧
    (∃ (s : State),
    s.power.refclk = true ∧
    running s = true) ∧
    (∃ (s : State),
    s.power.refclk = false ∧
    running s = true) ∧
    (∃ (s : State),
    running s = false) ∧
    (∃ (s : State),
    s.modes.mode = .service ∧
    s.modes.waitImages = true ∧
    getO s nP 0x2000 3 ≠ 2 ∧
    (namedSlots s = [] ∨ getO s nS 0x7100 3 ≠ 0) ∧
    modeRefusal (setO nP 0x2000 6 0 { s with modes := { s.modes with waitImages := false } }) .run = 0) ∧
    (∃ (s : State),
    s.modes.mode = .service ∧
    getO s nS 0x7100 3 = 0) :=
  ⟨⟨true, false, bootWith 0, State.reset, by decide +kernel⟩,
   ⟨true, false, bootWith 0, State.reset, by decide +kernel⟩,
   ⟨false, true, bootWith 1, State.reset, by decide +kernel⟩,
   ⟨true, true, { bootWith 1 with factory := [] }, State.reset, by decide +kernel⟩,
   ⟨{ st .off 4 with modes := { mode := .off, booting := true } }, by decide +kernel⟩,
   ⟨st .keep 4, by decide +kernel⟩,
   ⟨{ st .run 4 with power := { refclk := false } }, by decide +kernel⟩,
   ⟨State.reset, by decide +kernel⟩,
   ⟨put [(nS, 0x7100, 3, 1)] { st .service 4 with modes := { mode := .service, waitImages := true } }, by decide +kernel⟩,
   ⟨st .service 4, by decide +kernel⟩⟩

theorem witness_ThermalProtection :
    (∃ (s : State) (x : Sensor),
    sensorOk x = true ∧
    s.modes.mode.on = true ∧
    s.power.thermtrip = false) ∧
    (∃ (s : State) (n : Nat),
    n < 24 ∧
    s.panel.powered.contains n = true ∧
    s.power.throttled.contains n = false) ∧
    (∃ (s : State) (n : Nat),
    n < 24) :=
  ⟨⟨st .run 4, .stack 3, by decide +kernel⟩,
   ⟨{ st .run 4 with panel := { powered := [23] } }, 23, by decide +kernel⟩,
   ⟨st .run 4, 23, by decide +kernel⟩⟩

theorem witness_ModeTransitions :
    (∃ (who : Requester) (v : Nat) (dst : Mode) (s : State),
    reaches .wo who nP 0x2000 2 v s = true ∧
    modeOf v = some dst ∧
    s.modes.waitImages = false) ∧
    (∃ (who : Requester) (flash : List Nat) (s : State),
    (∀ p ∈ flash, p < 16) ∧
    reaches .wo who nP 0x2000 8 1 s = true ∧
    s.modes.mode = .limp ∧
    s.modes.trans = none) ∧
    (∃ (env : TransEnv) (x : Transition) (s : State),
    TransEnv.ok env = true ∧
    s.modes.trans = some x ∧
    s.power.refclk = true ∧
    x.src ≠ .service ∧
    x.src ≠ .keep ∧
    ((x.src = .lockstep → allSealed s = true))) ∧
    (∃ (env : TransEnv) (x : Transition) (s : State),
    TransEnv.ok env = true ∧
    s.modes.trans = some x ∧
    s.power.refclk = true ∧
    x.dst = .run ∧
    (x.src = .service ∨ x.src = .keep)) ∧
    (∃ (x : Transition) (s : State),
    x.owner = none) :=
  ⟨⟨w0, 1, .keep, own .run 4, by decide +kernel⟩,
   ⟨w0, [15], st .limp 4, by decide +kernel⟩,
   ⟨{ badSites := [(23, 6)], badWays := [], badPcs := [], badChannels := [], available := true }, { src := .run, dst := .service, cause := 0, start := 0 }, { st .run 4 with modes := { mode := .run, trans := some { src := .run, dst := .service, cause := 0, start := 0 } } }, by decide +kernel⟩,
   ⟨{ badSites := [], badWays := [], badPcs := [127], badChannels := [7], available := true }, { src := .keep, dst := .run, cause := 0, start := 0 }, { st .keep 4 with modes := { mode := .keep, trans := some { src := .keep, dst := .run, cause := 0, start := 0 } } }, by decide +kernel⟩,
   ⟨{ src := .run, dst := .service, cause := 0, start := 0 }, st .run 4, by decide +kernel⟩⟩

theorem witness_TimebaseTicks :
    (∃ (s : State),
    s.pending = [] ∧
    s.cat.queue = [] ∧
    s.errs.audit = none ∧
    s.clock.running = false) ∧
    (∃ (s : State),
    s.pending = [] ∧
    s.cat.queue = [] ∧
    s.errs.audit = none ∧
    s.clock.running = true) :=
  ⟨⟨State.reset, by decide +kernel⟩,
   ⟨st .run 4, by decide +kernel⟩⟩

theorem witness_ClockEvents :
    (∃ (die : Nat) (opt : Bool) (s : State),
    die < 28 ∧
    running s = true ∧
    (refBits s die).testBit (presBit opt) = true) ∧
    (∃ (die : Nat) (opt : Bool) (s : State),
    die < 28 ∧
    running s = true ∧
    (refBits s die).testBit (presBit opt) = false ∧
    (refBits s die).testBit 3 = false) ∧
    (∃ (die : Nat) (s : State),
    die < 24 ∧
    (refBits s die).testBit 3 = true ∧
    0 < tblGet 0 s.clock.holdSince die ∧
    tblGet 0 s.clock.holdSince die - 1 + 100000 ≤ now s ∧
    siteStateOf s die = 0 ∧
    mayRetire s = true) ∧
    (∃ (die : Nat) (s : State),
    24 ≤ die ∧
    die < 28 ∧
    (refBits s die).testBit 3 = true ∧
    0 < tblGet 0 s.clock.holdSince die ∧
    tblGet 0 s.clock.holdSince die - 1 + 100000 ≤ now s) ∧
    (∃ (who : Requester) (s : State),
    reaches .wo who nP 0x2020 3 1 s = true ∧
    s.hodo.armed = false ∧
    promoting (arrived who nP 0x2020 3 1 s) = false) ∧
    (∃ (port : Nat) (ptp : Bool) (offset : Int) (s : State),
    port < 2 ∧
    -2 ^ 63 ≤ offset ∧
    offset < 2 ^ 63 ∧
    s.clock.running = true ∧
    getO s nP 0x2010 2 = sourceOf port ptp) ∧
    (∃ (s : State),
    s.clock.running = true ∧
    getO s nP 0x2010 2 ≠ 0 ∧
    (getO s nP 0x2010 3 = 1 ∨ getO s nP 0x2010 3 = 2)) :=
  ⟨⟨27, false, put [(nP, 0x2021, 28, 3)] (st .run 4), by decide +kernel⟩,
   ⟨0, true, st .run 4, by decide +kernel⟩,
   ⟨23, { put [(nP, 0x2021, 24, 8)] (put [(nP, 0x2100, 24, 0)] (st .run 4)) with clock := { timebase := 1000000000000, holdSince := [(23, 1)] } }, by decide +kernel⟩,
   ⟨24, { put [(nP, 0x2021, 25, 8)] (st .run 4) with clock := { timebase := 1000000000000, holdSince := [(24, 1)] } }, by decide +kernel⟩,
   ⟨w0, st .run 4, by decide +kernel⟩,
   ⟨1, true, -2 ^ 63, put [(nP, 0x2010, 2, 4)] (st .run 4), by decide +kernel⟩,
   ⟨put [(nP, 0x2010, 2, 1), (nP, 0x2010, 3, 2)] (st .run 4), by decide +kernel⟩⟩

theorem witness_CouplingEvents :
    (∃ (die m : Nat) (again : Bool) (s : State),
    die < 28 ∧
    (modulesOf die).contains m = true ∧
    dieServes s die = true ∧
    tblGet 0 s.panel.training (die * 4 + m) = 0 ∧
    getMod s die m 1 ≠ 0) ∧
    (∃ (die m : Nat) (s : State),
    die < 28 ∧
    (modulesOf die).contains m = true ∧
    dieServes s die = true ∧
    4 ≤ tblGet 0 s.panel.replays (die * 4 + m) ∧
    tblGet 0 s.panel.training (die * 4 + m) = 0 ∧
    s.panel.full.contains die = false) ∧
    (∃ (die : Nat) (a b c d : BitVec 16) (u : BitVec 4) (s : State),
    die < 28 ∧
    trainingMods s die ≠ []) ∧
    (∃ (die : Nat) (s : State),
    die < 28 ∧
    trainingMods s die ≠ [] ∧
    fenceTime s die + 2000000 ≤ now s) ∧
    (∃ (die : Nat) (s : State),
    die < 28 ∧
    dieServes s die = true) :=
  ⟨⟨21, 3, true, st .run 4, by decide +kernel⟩,
   ⟨27, 0, { st .run 4 with panel := { replays := [(108, 4)] } }, by decide +kernel⟩,
   ⟨23, 0, 0, 0, 0, 0xF, { panel := { training := [(92, 1)], full := [23] }, clock := { timebase := 3000000 } }, by decide +kernel⟩,
   ⟨23, { panel := { training := [(92, 1)] , full := [] }, clock := { timebase := 3000000 } }, by decide +kernel⟩,
   ⟨24, st .run 4, by decide +kernel⟩⟩

theorem witness_GalleriesRetire :
    (∃ (who : Requester) (g : Nat) (s : State),
    reaches .wo who nP 0x2102 1 g s = true ∧
    siteOf s g ≠ 0xFF ∧
    promoting (arrived who nP 0x2102 1 g s) = false) ∧
    (∃ (g reason : Nat) (s : State),
    g < 22 ∧
    1 ≤ reason ∧
    reason ≤ 6 ∧
    mayRetire s = true) ∧
    (∃ (who : Requester) (n : Nat) (s : State),
    reaches .wo who nP 0x2102 7 n s = true ∧
    s.modes.mode = .service ∧
    siteStateOf s n = 3 ∧
    siteReasonOf s n ∈ [1, 2, 4, 6]) ∧
    (∃ (site : Nat) (pass : Bool) (tr : Training) (ways : BitVec 16) (x : Promotion) (s : State),
    site < 24 ∧
    s.panel.promo = some x ∧
    x.trying = some site) ∧
    (∃ (site : Nat) (pass : Bool) (tr : Training) (ways : BitVec 16) (s : State),
    site < 24 ∧
    ((∀ x, s.panel.promo = some x → x.trying ≠ some site)) ∧
    (s.panel.retest.any fun e => e.1 == site) = true) :=
  ⟨⟨w0, 21, st .run 4, by decide +kernel⟩,
   ⟨21, 6, st .service 4, by decide +kernel⟩,
   ⟨w0, 23, put [(nP, 0x2100, 24, 0x63FF)] (st .service 4), by decide +kernel⟩,
   ⟨23, true, .done 0 0 0 0 0, 0, { gallery := 0, oldSite := 0, reason := 5, fenceTime := 0, trying := some 23 }, { st .run 4 with panel := { promo := some { gallery := 0, oldSite := 0, reason := 5, fenceTime := 0, trying := some 23 } } }, by decide +kernel⟩,
   ⟨23, true, .done 0 0 0 0 0, 0xFFFF, { st .service 4 with panel := { retest := [(23, w0, 7)] } }, by decide, fun x h => absurd (show none = some x from h) (by simp), by decide⟩⟩

theorem witness_EncoderEvents :
    (∃ (e edge : Nat) (l : Bool) (s : State),
    e < 8 ∧
    counting s e = true ∧
    filtered s e edge = true) ∧
    (∃ (e edge : Nat) (la lb : Bool) (s : State),
    e < 8 ∧
    counting s e = true ∧
    filtered s e edge = true) ∧
    (∃ (e : Nat) (l : EncLine) (s : State),
    e < 8 ∧
    s.modes.mode.on = true) ∧
    (∃ (e : Nat) (s : State),
    e < 8 ∧
    (s.modes.mode = .keep ∨ s.modes.mode.active = true)) :=
  ⟨⟨7, 0, true, put [(nH, 0x3107, 1, 1)] (st .keep 4), by decide +kernel⟩,
   ⟨0, 5, true, true, put [(nH, 0x3100, 1, 1)] (st .run 4), by decide +kernel⟩,
   ⟨7, .z, st .service 4, by decide +kernel⟩,
   ⟨7, st .keep 4, by decide +kernel⟩⟩

theorem witness_HodometerWrites :
    (∃ (who : Requester) (e : Nat) (s : State),
    e < 8 ∧
    reaches .wo who nH (0x3100 + e) 8 1 s = true ∧
    encoderInUse (arrived who nH (0x3100 + e) 8 1 s) e = false) ∧
    (∃ (who : Requester) (e : Nat) (s : State),
    e < 8 ∧
    reaches .wo who nH (0x3100 + e) 8 2 s = true ∧
    encoderInUse (arrived who nH (0x3100 + e) 8 2 s) e = false) ∧
    (∃ (who : Requester) (e v : Nat) (s : State),
    e < 8 ∧
    reaches .w1c who nH (0x3200 + e) 6 v s = true) ∧
    (∃ (who : Requester) (n sub v : Nat) (acc : Acc) (s : State),
    n < 32 ∧
    acc ≠ .wo ∧
    reaches acc who nH (0x3300 + n) sub v s = true ∧
    s.hodo.armed = false ∧
    progWriteBad (arrived who nH (0x3300 + n) sub v s) n sub v = false) ∧
    (∃ (who : Requester) (n : Nat) (s : State),
    reaches .wo who nH 0x3000 8 n s = true ∧
    s.modes.mode = .run) :=
  ⟨⟨w0, 7, st .run 4, by decide +kernel⟩,
   ⟨w0, 0, st .run 4, by decide +kernel⟩,
   ⟨w0, 7, 1, st .run 4, by decide +kernel⟩,
   ⟨w0, 31, 6, 200, .rwp, st .run 4, by decide +kernel⟩,
   ⟨w0, 31, st .run 4, by decide +kernel⟩⟩

theorem witness_TriggersFire :
    (∃ (n t : Nat) (s : State),
    n < 32 ∧
    (s.prog n).pendingAt = some t ∧
    live s n t = true ∧
    t ≤ now s) ∧
    (∃ (n : Nat) (s : State),
    n < 32 ∧
    s.hodo.armed = true ∧
    progCfg s n 1 = 2 ∧
    progO s n 8 = 1 ∧
    timeOf s n (progO s n 1) ≤ now s) ∧
    (∃ (n t : Nat) (x : Extrap) (s : State),
    n < 32 ∧
    (s.prog n).extra = some x ∧
    extrapInstant s n x = some t ∧
    s.hodo.armed = true ∧
    progO s n 8 = 2 ∧
    t ≤ now s ∧
    t ≤ x.start + progCfg s n 8 * 1000) ∧
    (∃ (n : Nat) (x : Extrap) (s : State),
    n < 32 ∧
    (s.prog n).extra = some x ∧
    s.hodo.armed = true ∧
    progO s n 8 = 2 ∧
    x.start + progCfg s n 8 * 1000 ≤ now s) ∧
    (∃ (e t : Nat) (s : State),
    e < 8 ∧
    (s.enc e).clearSince = some t ∧
    s.hodo.armed = true ∧
    encFault s e = false ∧
    t + 1000000 ≤ now s) ∧
    (∃ (o : Nat) (s : State),
    o < 16 ∧
    tblGet 0 s.hodo.pulse o ≤ now s * 10) :=
  ⟨⟨31, 5, put [(nH, 0x341F, 8, 1)] ({ st .run 4 with hodo := { armed := true, prog := [(31, { pendingAt := some 5 })] } }), by decide +kernel⟩,
   ⟨0, put [(nH, 0x3300, 1, 2), (nH, 0x3400, 8, 1)] ({ st .run 4 with hodo := { armed := true, enc := [] } }), by decide +kernel⟩,
   ⟨31, 1000000000, { start := 1000000000, position := 0, speed := 1 }, put [(nH, 0x341F, 8, 2), (nH, 0x331F, 8, 1000000)] ({ st .run 4 with hodo := { armed := true, prog := [(31, { extra := some { start := 1000000000, position := 0, speed := 1 } })] } }), by decide +kernel⟩,
   ⟨0, { start := 0, position := 0, speed := 1 }, put [(nH, 0x3400, 8, 2)] ({ st .run 4 with hodo := { armed := true, prog := [(0, { extra := some { start := 0, position := 0, speed := 1 } })] } }), by decide +kernel⟩,
   ⟨7, 0, { st .run 4 with hodo := { armed := true, enc := [(7, { clearSince := some 0 })] } }, by decide +kernel⟩,
   ⟨15, st .run 4, by decide +kernel⟩⟩

theorem witness_LaneFrames :
    (∃ (l mac ip : Nat) (s : State),
    l < 64 ∧
    laneUp s l = true) ∧
    (∃ (l ip seq ident arrival : Nat) (s : State),
    l < 64 ∧
    laneUp s l = true ∧
    arrival ≤ now s ∧
    wrongSource s l ip = false) ∧
    (∃ (l : Nat) (s : State),
    l < 64 ∧
    laneUp s l = true ∧
    elapsed s.acc.syncAt l (1000000000 / 2 ^ laneO s l 0x0B) s = true) ∧
    (∃ (l : Nat) (s : State),
    l < 64 ∧
    laneUp s l = true ∧
    elapsed s.acc.announceAt l 1000000000 s = true) ∧
    (∃ (l ip sp dp : Nat) (bytes : List Byte) (s : State),
    l < 64 ∧
    ip < 2 ^ 32 ∧
    sp < 65536 ∧
    dp < 65536 ∧
    laneUp s l = true ∧
    (dp = laneO s l 7 ∨ dp = laneO s l 8) ∧
    dp ≠ 319 ∧
    dp ≠ 320 ∧
    bytes.length ≤ 8972 ∧
    wrongSource s l ip = false ∧
    controlRoom s l (16 + bytes.length) = true ∧
    isActionAck bytes = false) ∧
    (∃ (l : Nat) (b : List Byte) (s t : State) (slot : List Byte),
    l < 64 ∧
    laneUp s l = true ∧
    laneO s l 9 < 65536 ∧
    qRunning s (laneO s l 9) = true ∧
    qKind s (laneO s l 9) = 3 ∧
    queueOwner s (laneO s l 9) = laneO s l 2 ∧
    qHeld s (laneO s l 9) ≠ 0 ∧
    mappedRange s (slotAddr s (laneO s l 9) (qC s (laneO s l 9))) 8 = true ∧
    mappedRange s (slotAddr s (laneO s l 9) (qC s (laneO s l 9))) (transmitSpan s (laneO s l 9)) = true ∧
    ioRead (slotAddr s (laneO s l 9) (qC s (laneO s l 9))) (transmitSpan s (laneO s l 9)) s = (t, slot, []) ∧
    transmitEntry (qElem s (laneO s l 9)) slot = some b ∧
    leAt b 0 4 ≠ 0 ∧
    leAt b 0 4 ≠ 0xFFFFFFFF) :=
  ⟨⟨63, 1, 2, put [(nLane 63, 0x4010, 1, 1), (nLane 63, 0x4010, 0x0C, 2)] (st .run 4), by decide +kernel⟩,
   ⟨63, 0, 1, 2, 1000000000000, put [(nLane 63, 0x4010, 1, 1), (nLane 63, 0x4010, 0x0C, 2)] (st .run 4), by decide +kernel⟩,
   ⟨63, put [(nLane 63, 0x4010, 1, 1), (nLane 63, 0x4010, 0x0C, 2)] (st .run 4), by decide +kernel⟩,
   ⟨63, put [(nLane 63, 0x4010, 1, 1), (nLane 63, 0x4010, 0x0C, 2)] (st .run 4), by decide +kernel⟩,
   ⟨63, 0, 65535, 49152, [], put [(nLane 63, 0x4010, 1, 1), (nLane 63, 0x4010, 0x0C, 2), (nLane 63, 0x4010, 2, 0), (nLane 63, 0x4010, 0x0A, 5), (nQueue 5, 0xB100, 1, 1), (nQueue 5, 0xB100, 3, 2), (nQueue 5, 0xB100, 5, 2048), (nQueue 5, 0xB100, 6, 4), (nQueue 5, 0xB110, 1, 1)] (own .run 4), by decide +kernel⟩,
   ⟨63, [8, 0, 0, 0, 0, 0, 0, 0, 1, 0, 0, 0, 1, 0, 0, 0].drop 8, txq, (ioRead 0 16 txq).1, [8, 0, 0, 0, 0, 0, 0, 0, 1, 0, 0, 0, 1, 0, 0, 0], by decide +kernel⟩⟩

theorem witness_LinesSealAndPost :
    (∃ (r k : Nat) (h : HeldLine) (s : State),
    r < 256 ∧
    (s.ring r).held.find? (·.k == k) = some h ∧
    s.modes.mode.active = true ∧
    h.trigger + ringO s r 0x4200 9 ≤ now s) ∧
    (∃ (r : Nat) (s : State),
    r < 256 ∧
    s.modes.mode.active = true) ∧
    (∃ (t : Nat) (s : State),
    s.acc.disarmAt = some t ∧
    t ≤ now s) :=
  ⟨⟨255, 7, { k := 7, trigger := 0, position := 0, extrap := false, uncert := false, expected := 0 }, { st .run 4 with acc := { ring := [(255, { held := [{ k := 7, trigger := 0, position := 0, extrap := false, uncert := false, expected := 0 }] })] } }, by decide +kernel⟩,
   ⟨255, st .run 4, by decide +kernel⟩,
   ⟨1000000000000, { st .run 4 with acc := { disarmAt := some 1000000000000 } }, by decide +kernel⟩⟩

theorem witness_StreamEnables :
    (∃ (who : Requester) (l : Nat) (s : State),
    l < 64 ∧
    reaches .rwp who (nLane l) 0x4010 1 1 s = true ∧
    laneO s l 1 ≠ 1 ∧
    laneO (setO (nLane l) 0x4010 1 1 (arrived who (nLane l) 0x4010 1 1 s)) l 1 = 1 ∧
    laneOk (setO (nLane l) 0x4010 1 1 (arrived who (nLane l) 0x4010 1 1 s)) l = true) ∧
    (∃ (who : Requester) (c : Nat) (s : State),
    c < 16384 ∧
    reaches .rwp who (nCtx c) 0x4100 1 1 s = true ∧
    ctxO s c 1 ≠ 1 ∧
    ctxOk (setO (nCtx c) 0x4100 1 1 (arrived who (nCtx c) 0x4100 1 1 s)) c = true) ∧
    (∃ (who : Requester) (r : Nat) (s : State),
    r < 256 ∧
    reaches .rwp who (nRing r) 0x4200 1 1 s = true ∧
    ringO s r 0x4200 1 ≠ 1 ∧
    ringOk (setO (nRing r) 0x4200 1 1 (arrived who (nRing r) 0x4200 1 1 s)) r = true) ∧
    (∃ (l : Nat) (s : State),
    l < 64 ∧
    laneUp s l = true) ∧
    (∃ (l : Nat) (s : State),
    l < 64 ∧
    s.modes.mode.active = true ∧
    laneO s l 1 = 1 ∧
    laneO s l 0x0C = 1) ∧
    (∃ (l c : Nat) (p : StreamPkt) (f : ArrayFinding) (s : State),
    l < 64 ∧
    p.blockId < 2 ^ 64 ∧
    p.dstPort < 65536 ∧
    laneUp s l = true ∧
    p.dstPort ∉ [319, 320, laneO s l 7, laneO s l 8] ∧
    tooLong (66 + ((gvspImage p.form).getD []).length) = false ∧
    wrongSource s l p.srcIp = false ∧
    contextOf s l p.dstPort = some c) ∧
    (∃ (l : Nat) (f : LaneFrame) (s : State),
    l < 64 ∧
    laneUp s l = true ∧
    getO s nX 0x4000 6 < f.waiting + f.length) ∧
    (∃ (l : Nat) (f : LaneFrame) (s : State),
    l < 64 ∧
    laneUp s l = true ∧
    f.waiting + f.length ≤ getO s nX 0x4000 6 ∧
    (f.checksGood = false ∨ tooLong f.length = true)) ∧
    (∃ (l : Nat) (f : LaneFrame) (s : State),
    l < 64 ∧
    laneUp s l = true ∧
    f.waiting + f.length ≤ getO s nX 0x4000 6 ∧
    f.checksGood = true ∧
    tooLong f.length = false ∧
    (f.dstMac ∉ [laneO s l 3, broadcastMac, ptpMac] ∨ f.packet = .other)) ∧
    (∃ (l : Nat) (f : LaneFrame) (s : State), ∃ (request : Bool) (ip : Nat),
    l < 64 ∧
    laneUp s l = true ∧
    f.waiting + f.length ≤ getO s nX 0x4000 6 ∧
    f.checksGood = true ∧
    tooLong f.length = false ∧
    f.dstMac ∈ [laneO s l 3, broadcastMac, ptpMac] ∧
    f.packet = .arp request ip ∧
    (request = false ∨ ip ≠ laneO s l 4)) ∧
    (∃ (l : Nat) (f : LaneFrame) (s : State), ∃ (src dst port n : Nat) (time ack : Bool),
    l < 64 ∧
    laneUp s l = true ∧
    f.waiting + f.length ≤ getO s nX 0x4000 6 ∧
    f.checksGood = true ∧
    tooLong f.length = false ∧
    f.dstMac ∈ [laneO s l 3, broadcastMac, ptpMac] ∧
    f.packet = .udp src dst port n time ack ∧
    dst ∉ [laneO s l 4, ptpIp]) ∧
    (∃ (l : Nat) (f : LaneFrame) (s : State), ∃ (src dst port n : Nat) (time ack : Bool),
    l < 64 ∧
    laneUp s l = true ∧
    f.waiting + f.length ≤ getO s nX 0x4000 6 ∧
    f.checksGood = true ∧
    tooLong f.length = false ∧
    f.dstMac ∈ [laneO s l 3, broadcastMac, ptpMac] ∧
    f.packet = .udp src dst port n time ack ∧
    dst ∈ [laneO s l 4, ptpIp] ∧
    wrongSource s l src = true) ∧
    (∃ (l : Nat) (f : LaneFrame) (s : State), ∃ (src dst port n : Nat) (time ack : Bool),
    l < 64 ∧
    laneUp s l = true ∧
    f.waiting + f.length ≤ getO s nX 0x4000 6 ∧
    f.checksGood = true ∧
    tooLong f.length = false ∧
    f.dstMac ∈ [laneO s l 3, broadcastMac, ptpMac] ∧
    f.packet = .udp src dst port n time ack ∧
    dst ∈ [laneO s l 4, ptpIp] ∧
    wrongSource s l src = false ∧
    (port = 319 ∨ port = 320) ∧
    time = false) ∧
    (∃ (l : Nat) (f : LaneFrame) (s : State), ∃ (src dst port n : Nat) (time ack : Bool),
    l < 64 ∧
    laneUp s l = true ∧
    f.waiting + f.length ≤ getO s nX 0x4000 6 ∧
    f.checksGood = true ∧
    tooLong f.length = false ∧
    f.dstMac ∈ [laneO s l 3, broadcastMac, ptpMac] ∧
    f.packet = .udp src dst port n time ack ∧
    dst = laneO s l 4 ∧
    dst ≠ ptpIp ∧
    wrongSource s l src = false ∧
    port ∉ [319, 320] ∧
    port ∈ [laneO s l 7, laneO s l 8] ∧
    controlRoom s l (16 + n) = false) ∧
    (∃ (l : Nat) (f : LaneFrame) (s : State), ∃ (src dst port n : Nat) (time ack : Bool),
    l < 64 ∧
    laneUp s l = true ∧
    f.waiting + f.length ≤ getO s nX 0x4000 6 ∧
    f.checksGood = true ∧
    tooLong f.length = false ∧
    f.dstMac ∈ [laneO s l 3, broadcastMac, ptpMac] ∧
    f.packet = .udp src dst port n time ack ∧
    dst = laneO s l 4 ∧
    dst ≠ ptpIp ∧
    wrongSource s l src = false ∧
    port ∉ [319, 320] ∧
    port ∈ [laneO s l 7, laneO s l 8] ∧
    controlRoom s l (16 + n) = true ∧
    ack = true) ∧
    (∃ (l : Nat) (f : LaneFrame) (s : State), ∃ (src dst port n : Nat) (time ack : Bool),
    l < 64 ∧
    laneUp s l = true ∧
    f.waiting + f.length ≤ getO s nX 0x4000 6 ∧
    f.checksGood = true ∧
    tooLong f.length = false ∧
    f.dstMac ∈ [laneO s l 3, broadcastMac, ptpMac] ∧
    f.packet = .udp src dst port n time ack ∧
    dst = laneO s l 4 ∧
    dst ≠ ptpIp ∧
    wrongSource s l src = false ∧
    port ∉ [319, 320] ∧
    port ∈ [laneO s l 7, laneO s l 8] ∧
    controlRoom s l (16 + n) = true ∧
    ack = false) ∧
    (∃ (l : Nat) (f : LaneFrame) (s : State), ∃ (src dst port n : Nat) (time ack : Bool),
    l < 64 ∧
    laneUp s l = true ∧
    f.waiting + f.length ≤ getO s nX 0x4000 6 ∧
    f.checksGood = true ∧
    tooLong f.length = false ∧
    f.dstMac ∈ [laneO s l 3, broadcastMac, ptpMac] ∧
    f.packet = .udp src dst port n time ack ∧
    dst = laneO s l 4 ∧
    dst ≠ ptpIp ∧
    wrongSource s l src = false ∧
    port ∉ [319, 320] ∧
    port ∉ [laneO s l 7, laneO s l 8] ∧
    contextOf s l port = none) ∧
    (∃ (l : Nat) (f : LaneFrame) (s : State), ∃ (src dst port n : Nat) (time ack : Bool),
    l < 64 ∧
    laneUp s l = true ∧
    f.waiting + f.length ≤ getO s nX 0x4000 6 ∧
    f.checksGood = true ∧
    tooLong f.length = false ∧
    f.dstMac ∈ [laneO s l 3, broadcastMac, ptpMac] ∧
    f.packet = .udp src dst port n time ack ∧
    dst = ptpIp ∧
    wrongSource s l src = false ∧
    port ∉ [319, 320]) :=
  ⟨⟨w0, 63, put [(nLane 63, 0x4010, 2, 0), (nLane 63, 0x4010, 4, 9)] (st .run 4), by decide +kernel⟩,
   ⟨w0, 16383, put [(nLane 63, 0x4010, 1, 1), (nLane 63, 0x4010, 2, 0), (nRing 255, 0x4200, 1, 1), (nRing 255, 0x4200, 2, 0), (nRing 255, 0x4200, 4, 8192), (nCtx 16383, 0x4100, 2, 63), (nCtx 16383, 0x4100, 3, 7), (nCtx 16383, 0x4100, 4, 255), (nCtx 16383, 0x4100, 5, 63), (nCtx 16383, 0x4100, 8, 64)] (st .run 4), by decide +kernel⟩,
   ⟨w0, 255, put [(nH, 0x3300, 1, 2), (nRing 255, 0x4200, 2, 0), (nRing 255, 0x4200, 3, 0), (nRing 255, 0x4200, 4, 64), (nRing 255, 0x4200, 5, 65), (nRing 255, 0x4200, 7, 65536), (nRing 255, 0x4200, 8, 0), (nRing 255, 0x4200, 0x0B, 5)] (own .run 4), by decide +kernel⟩,
   ⟨63, put [(nLane 63, 0x4010, 1, 1), (nLane 63, 0x4010, 0x0C, 2)] (st .run 4), by decide +kernel⟩,
   ⟨63, put [(nLane 63, 0x4010, 1, 1), (nLane 63, 0x4010, 0x0C, 1)] (st .run 4), by decide +kernel⟩,
   ⟨63, 0, { srcIp := 0, dstPort := 7, extendedId := true, status := 0, blockId := 0, packetId := 0, form := .trailer }, .clean, put [(nLane 63, 0x4010, 1, 1), (nLane 63, 0x4010, 0x0C, 2), (nCtx 0, 0x4100, 1, 1), (nCtx 0, 0x4100, 2, 63), (nCtx 0, 0x4100, 3, 7)] (st .run 4), by decide +kernel⟩,
   ⟨63, { waiting := 262144, length := 64, checksGood := true, dstMac := 77, packet := .other }, laneOn, by decide +kernel⟩,
   ⟨63, { waiting := 0, length := 64, checksGood := false, dstMac := 77, packet := .other }, laneOn, by decide +kernel⟩,
   ⟨63, frameOf 5 (.arp true 9), laneOn, by decide +kernel⟩,
   ⟨63, frameOf broadcastMac (.arp true 8), laneOn, true, 8, by decide +kernel⟩,
   ⟨63, frameOf 77 (.udp 1 8 100 8 false false), laneOn, 1, 8, 100, 8, false, false, by decide +kernel⟩,
   ⟨63, frameOf 77 (.udp 1 9 100 8 false false), put [(nLane 63, 0x4010, 6, 2)] laneOn, 1, 9, 100, 8, false, false, by decide +kernel⟩,
   ⟨63, frameOf 77 (.udp 1 9 319 8 false false), laneOn, 1, 9, 319, 8, false, false, by decide +kernel⟩,
   ⟨63, frameOf 77 (.udp 1 9 101 8 false false), laneOn, 1, 9, 101, 8, false, false, by decide +kernel⟩,
   ⟨63, frameOf 77 (.udp 1 9 100 8 false true), laneQ, 1, 9, 100, 8, false, true, by decide +kernel⟩,
   ⟨63, frameOf 77 (.udp 1 9 100 8 false false), laneQ, 1, 9, 100, 8, false, false, by decide +kernel⟩,
   ⟨63, frameOf 77 (.udp 1 9 7 8 false false), laneOn, 1, 9, 7, 8, false, false, by decide +kernel⟩,
   ⟨63, frameOf ptpMac (.udp 1 ptpIp 100 8 false false), laneOn, 1, ptpIp, 100, 8, false, false, by decide +kernel⟩⟩

theorem witness_MemoryRequests :
    (∃ (cls : SvcClass) (src : MemSource) (a : Nat) (f : Finding) (s : State),
    sourceOk src = true ∧
    findingOk (inHbm a) f = true ∧
    mapped s a = true) ∧
    (∃ (cls : SvcClass) (src : MemSource) (a : Nat) (d : Line) (k : BitVec 64) (f : Finding) (s : State),
    sourceOk src = true ∧
    findingOk (inHbm a) f = true ∧
    mapped s a = true) ∧
    (∃ (cls : SvcClass) (src : MemSource) (a : Nat) (d : Line) (f : Finding) (s : State),
    sourceOk src = true ∧
    findingOk (inHbm a) f = true ∧
    mapped s a = true ∧
    resourceRetired s (resourceOf s (64 * (a / 64))) = false) ∧
    (∃ (hart : Nat) (e : SbEntry) (rest : List SbEntry) (s t : State),
    hart < 264 ∧
    s.modes.mode.active = true ∧
    (s.hart hart).run ≠ .inReset ∧
    (s.hart hart).sb = e :: rest ∧
    drainEntry hart e (setHart hart { s.hart hart with sb := rest } s) = (t, true)) ∧
    (∃ (hart rs1 : Nat) (kind : HintKind) (off : Word) (s : State),
    goes s hart ∧
    (∀ t pa, reach hart lrAccess ((s.hart hart).getX rs1 + off) 1 true (setHart hart ((s.hart hart).withCsr 0x30A ((s.hart hart).csrOf 0x30A &&& 0xDFFFFFFFFFFFFFFF)) s) ≠ (t, .tier pa 0))) ∧
    (∃ (hart rs1 : Nat) (kind : HintKind) (off : Word) (s : State), ∃ t pa u,
    goes s hart ∧
    reach hart lrAccess ((s.hart hart).getX rs1 + off) 1 true (setHart hart ((s.hart hart).withCsr 0x30A ((s.hart hart).csrOf 0x30A &&& 0xDFFFFFFFFFFFFFFF)) s) = (t, .tier pa 0) ∧
    noAllocate t (hart / 12) ((partOfHart t hart).getD 0) = false ∧
    hintFill hart (pa / 64) kind t = some u) :=
  ⟨⟨.io, .package, 2 ^ 21 - 1, .correctable 7, own .run 4, by decide +kernel⟩,
   ⟨.ingest, .ring 255, 0, 0, 0, .clean, own .run 4, by decide +kernel⟩,
   ⟨.demand, .l2 21, 2 ^ 21 - 1, 0, .uncorrectable 0xFF, own .run 4, by decide +kernel⟩,
   ⟨0, { line := 0, data := 0, mask := 1, whole := 0 }, [], on0 (fun h => { h with sb := [{ line := 0, data := 0, mask := 1, whole := 0 }] }) loaded, (drainEntry 0 { line := 0, data := 0, mask := 1, whole := 0 } loaded).1, by decide +kernel⟩,
   ⟨0, 31, .r, 0x1000000000000000, st .run 4, by decide +kernel, fun t pa h => absurd (test_hint_dropped.symm.trans (congrArg (fun r => isTier r.2) h)) Bool.false_ne_true⟩,
   ⟨0, 31, .r, 0, hinted, (noUpdate hinted), 0, (hintFill 0 0 .r (noUpdate hinted)).getD {}, by decide +kernel⟩⟩

theorem witness_MemoryReadsWhatWasWritten :
    (∃ (l : Nat) (d : Line) (m : Memory), ∃ i,
    i < 64) ∧
    (∃ (l : Nat) (d : Line) (m : Memory), ∃ a,
    a / 64 ≠ l) :=
  ⟨⟨0, 0, {}, 63, by decide +kernel⟩,
   ⟨5, 0, {}, 0, by decide +kernel⟩⟩

theorem witness_MaskedWriteFrame :
    (∃ (l : Nat) (d : Line) (k : BitVec 64) (w : BitVec 8) (m : Memory) (a : Nat),
    ((a / 64 ≠ l ∨ k.getLsbD (a % 64) = false ∨ (storedForm m (a / 8) ≠ 0 ∧ (k.extractLsb' (8 * (a % 64 / 8)) 8 ≠ 0xFF#8 ∨ w.getLsbD (a % 64 / 8) = false))))) ∧
    (∃ (l : Nat) (d : Line) (k : BitVec 64) (w : BitVec 8) (m : Memory) (a : Nat),
    ((a / 64 ≠ l ∨ k.getLsbD (a % 64) = false ∨ (storedForm m (a / 8) ≠ 0 ∧ (k.extractLsb' (8 * (a % 64 / 8)) 8 ≠ 0xFF#8 ∨ w.getLsbD (a % 64 / 8) = false)))) ∧
    m.Good ∧
    (∀ i, storedForm m i < 256)) :=
  ⟨⟨5, 0, 0, 0, {}, 320, by decide +kernel⟩,
   ⟨5, 0, 0, 0, {}, 320, by decide, ⟨by decide, fun _ _ => rfl⟩, fun _ => show (1 : Nat) < 256 by decide⟩⟩

theorem witness_RefreshEvents :
    (∃ (pc bank : Nat) (s : State),
    pc < 128 ∧
    bank < 1024 ∧
    s.modes.mode.active = true ∧
    s.mem.retiredPcs.contains pc = false) ∧
    (∃ (pc bank : Nat) (s : State),
    pc < 128 ∧
    bank < 1024 ∧
    s.modes.mode.active = true ∧
    s.mem.retiredPcs.contains pc = false ∧
    tblGet 0 s.mem.postponed (pc * 1024 + bank) < postponeLimit s) ∧
    (∃ (c : Nat) (s : State),
    c < 8) ∧
    (∃ (c : Nat) (s : State),
    c < 8 ∧
    idleMayEnter s c = true) ∧
    (∃ (s : State),
    s.modes.mode.active = true ∧
    s.mem.trained = true ∧
    getO s nP 0x5000 9 = 0) ∧
    (∃ (pc : Nat) (hot : Bool) (s : State),
    pc < 128) :=
  ⟨⟨127, 1023, st .run 4, by decide +kernel⟩,
   ⟨127, 0, st .run 4, by decide +kernel⟩,
   ⟨7, st .run 4, by decide +kernel⟩,
   ⟨7, put [(nP, 0x5037, 1, 1)] (st .run 4), by decide +kernel⟩,
   ⟨{ st .run 4 with mem := { trained := true } }, by decide +kernel⟩,
   ⟨127, true, st .run 4, by decide +kernel⟩⟩

theorem witness_ScrubbingAdvances :
    (∃ (pc : Nat) (f : Finding) (s : State),
    pc < 128 ∧
    findingOk true f = true ∧
    scrubMay s (.hbm pc) = true) ∧
    (∃ (c : Nat) (f : Finding) (s : State),
    c < 8 ∧
    findingOk false f = true ∧
    scrubMay s (.ddr c) = true) ∧
    (∃ (ch : MemCh) (f : Finding) (s : State),
    resourceRetired ((readHandled (resourceLine s ch (tblGet 0 s.mem.scrubPos (chKey ch))) f s).1) ch = true) ∧
    (∃ (ch : MemCh) (f : Finding) (s : State),
    resourceRetired ((readHandled (resourceLine s ch (tblGet 0 s.mem.scrubPos (chKey ch))) f s).1) ch = false) ∧
    (∃ (c : Nat) (l : List Finding) (s : State),
    c < 8 ∧
    l.all (findingOk false) = true ∧
    resourceUp s (.ddr c) = true ∧
    s.mem.selfRefresh.contains c = true ∧
    getO s nP 0x5041 1 = 1 ∧
    tblGet 0 s.mem.lastScrub (chKey (.ddr c)) + getO s nP 0x5041 3 * 1000000 ≤ now s) ∧
    (∃ (who : Requester) (s : State),
    reaches .wo who nP 0x5000 0x0B 1 s = true ∧
    s.modes.mode = .service) :=
  ⟨⟨127, .correctable 7, { own .run 4 with mem := { pcs := [127] } }, by decide +kernel⟩,
   ⟨0, .correctable 9, put [(nP, 0x5000, 9, 1)] { own .run 4 with mem := { channels := [0] } }, by decide +kernel⟩,
   ⟨.hbm 127, .correctable 7, { own .run 4 with mem := { pcs := [127], retiredPcs := [127] } }, by decide +kernel⟩,
   ⟨.ddr 0, .clean, { own .run 4 with mem := { channels := [0] } }, by decide +kernel⟩,
   ⟨7, [.correctable 9], put [(nP, 0x5000, 9, 1)] { own .run 4 with mem := { channels := [7], selfRefresh := [7] } }, by decide +kernel⟩,
   ⟨w0, st .service 4, by decide +kernel⟩⟩

theorem witness_CheckerTestActions :
    (∃ (who : Requester) (s : State),
    reaches .wo who nP 0x5050 5 1 s = true ∧
    testRefused who ((fun (n : Nat) => arrived who nP 0x5050 5 n s) 1) = false) ∧
    (∃ (who : Requester) (s : State),
    reaches .wo who nP 0x5050 5 2 s = true ∧
    testRefused who ((fun (n : Nat) => arrived who nP 0x5050 5 n s) 2) = false) ∧
    (∃ (who : Requester) (s : State),
    reaches .wo who nP 0x5050 5 3 s = true ∧
    testRefused who ((fun (n : Nat) => arrived who nP 0x5050 5 n s) 3) = false) ∧
    (∃ (who : Requester) (s : State),
    reaches .wo who nP 0x5050 5 4 s = true ∧
    testRefused who ((fun (n : Nat) => arrived who nP 0x5050 5 n s) 4) = false) :=
  ⟨⟨w0, put [(nP, 0x5050, 1, 1), (nP, 0x5050, 2, 64)] (own .run 4), by decide +kernel⟩,
   ⟨w0, put [(nP, 0x5050, 1, 1), (nP, 0x5050, 2, ddrBase), (nP, 0x5000, 5, ddrBase + 2 ^ 30), (nP, 0x5000, 6, 1), (nP, 0x5000, 9, 1), (nP, 0x5030, 1, 1), (nP, 0x5030, 3, 1)] (own .run 4), by decide +kernel⟩,
   ⟨w0, put [(nP, 0x5050, 1, 1), (nP, 0x5050, 2, 64)] (own .run 4), by decide +kernel⟩,
   ⟨w0, put [(nP, 0x5050, 1, 1), (nP, 0x5050, 2, 64)] (own .run 4), by decide +kernel⟩⟩

theorem witness_ArchiveCommands :
    (∃ (c : Nat) (l k : List Nat) (s t : State) (b : List Byte),
    c < 64 ∧
    channelServed s c = true ∧
    (s.chan c).taken.length < qHeld s (getO s nP (0xA200 + c) 2) ∧
    mappedRange s (slotAddr s (getO s nP (0xA200 + c) 2) (qC s (getO s nP (0xA200 + c) 2) + (s.chan c).taken.length)) 64 = true ∧
    ioRead (slotAddr s (getO s nP (0xA200 + c) 2) (qC s (getO s nP (0xA200 + c) 2) + (s.chan c).taken.length)) 64 s = (t, b, []) ∧
    packetOk b = true ∧
    leAt b 0 1 = 1) ∧
    (∃ (c : Nat) (l k : List Nat) (s t : State) (b : List Byte),
    c < 64 ∧
    channelServed s c = true ∧
    (s.chan c).taken.length < qHeld s (getO s nP (0xA200 + c) 2) ∧
    mappedRange s (slotAddr s (getO s nP (0xA200 + c) 2) (qC s (getO s nP (0xA200 + c) 2) + (s.chan c).taken.length)) 64 = true ∧
    ioRead (slotAddr s (getO s nP (0xA200 + c) 2) (qC s (getO s nP (0xA200 + c) 2) + (s.chan c).taken.length)) 64 s = (t, b, []) ∧
    packetOk b = true ∧
    leAt b 0 1 = 2) ∧
    (∃ (c : Nat) (l k : List Nat) (s t : State) (b : List Byte),
    c < 64 ∧
    channelServed s c = true ∧
    (s.chan c).taken.length < qHeld s (getO s nP (0xA200 + c) 2) ∧
    mappedRange s (slotAddr s (getO s nP (0xA200 + c) 2) (qC s (getO s nP (0xA200 + c) 2) + (s.chan c).taken.length)) 64 = true ∧
    ioRead (slotAddr s (getO s nP (0xA200 + c) 2) (qC s (getO s nP (0xA200 + c) 2) + (s.chan c).taken.length)) 64 s = (t, b, []) ∧
    packetOk b = true ∧
    leAt b 0 1 = 3) ∧
    (∃ (c : Nat) (l k : List Nat) (s t : State) (b : List Byte),
    c < 64 ∧
    channelServed s c = true ∧
    (s.chan c).taken.length < qHeld s (getO s nP (0xA200 + c) 2) ∧
    mappedRange s (slotAddr s (getO s nP (0xA200 + c) 2) (qC s (getO s nP (0xA200 + c) 2) + (s.chan c).taken.length)) 64 = true ∧
    ioRead (slotAddr s (getO s nP (0xA200 + c) 2) (qC s (getO s nP (0xA200 + c) 2) + (s.chan c).taken.length)) 64 s = (t, b, []) ∧
    packetOk b = true ∧
    leAt b 0 1 = 4) ∧
    (∃ (c : Nat) (l k : List Nat) (s t : State) (b : List Byte),
    c < 64 ∧
    channelServed s c = true ∧
    (s.chan c).taken.length < qHeld s (getO s nP (0xA200 + c) 2) ∧
    mappedRange s (slotAddr s (getO s nP (0xA200 + c) 2) (qC s (getO s nP (0xA200 + c) 2) + (s.chan c).taken.length)) 64 = true ∧
    ioRead (slotAddr s (getO s nP (0xA200 + c) 2) (qC s (getO s nP (0xA200 + c) 2) + (s.chan c).taken.length)) 64 s = (t, b, []) ∧
    packetOk b = true ∧
    leAt b 0 1 = 5) ∧
    (∃ (c : Nat) (l k : List Nat) (s t : State) (b : List Byte),
    c < 64 ∧
    channelServed s c = true ∧
    (s.chan c).taken.length < qHeld s (getO s nP (0xA200 + c) 2) ∧
    mappedRange s (slotAddr s (getO s nP (0xA200 + c) 2) (qC s (getO s nP (0xA200 + c) 2) + (s.chan c).taken.length)) 64 = true ∧
    ioRead (slotAddr s (getO s nP (0xA200 + c) 2) (qC s (getO s nP (0xA200 + c) 2) + (s.chan c).taken.length)) 64 s = (t, b, []) ∧
    packetOk b = true ∧
    leAt b 0 1 = 6) ∧
    (∃ (c : Nat) (h m : Cmd) (s : State),
    c < 64 ∧
    (s.chan c).head = some h ∧
    nextGrant s (nsDie s h.ns) = some (c, m) ∧
    s.modes.mode.active = true ∧
    m.op = 1 ∧
    grantFits s (nsDie s h.ns) m = true) ∧
    (∃ (c q k t : Nat) (rest : List (Nat × Nat)) (m : Cmd) (s : State),
    c < 64 ∧
    q < 2 ^ 32 ∧
    (s.chan c).find q = some m ∧
    m.op = 1 ∧
    m.grants = (k, t) :: rest ∧
    s.modes.mode.active = true ∧
    t + getO s nP (0xA200 + c) 0x0A * 1000 ≤ now s) ∧
    (∃ (who : Requester) (s : State), ∃ (n : Nat),
    n < 32 ∧
    reaches .rwp who nP (0xA100 + n) 1 0 s = true ∧
    nsOpen (arrived who nP (0xA100 + n) 1 0 s) n = false) ∧
    (∃ (who : Requester) (s : State),
    reaches .wo who nP 0x8205 7 1 s = true ∧
    s.modes.mode = .service) :=
  ⟨⟨0, [], [], channel0 [(0, 1), (16, 1)], (ioRead 0 64 (channel0 [(0, 1), (16, 1)])).1, slotBytes [(0, 1), (16, 1)], by decide +kernel⟩,
   ⟨0, [], [], channel0 [(0, 2), (16, 1)], (ioRead 0 64 (channel0 [(0, 2), (16, 1)])).1, slotBytes [(0, 2), (16, 1)], by decide +kernel⟩,
   ⟨0, [], [], channel0 [(0, 3)], (ioRead 0 64 (channel0 [(0, 3)])).1, slotBytes [(0, 3)], by decide +kernel⟩,
   ⟨0, [], [], channel0 [(0, 4), (16, 1)], (ioRead 0 64 (channel0 [(0, 4), (16, 1)])).1, slotBytes [(0, 4), (16, 1)], by decide +kernel⟩,
   ⟨0, [], [], channel0 [(0, 5), (16, 1)], (ioRead 0 64 (channel0 [(0, 5), (16, 1)])).1, slotBytes [(0, 5), (16, 1)], by decide +kernel⟩,
   ⟨0, [], [], channel0 [(0, 6)], (ioRead 0 64 (channel0 [(0, 6)])).1, slotBytes [(0, 6)], by decide +kernel⟩,
   ⟨63, { op := 1, packet := 0, seq := 0, sectors := 1 }, { op := 1, packet := 0, seq := 0, sectors := 1 }, put [(nP, 0xA100, 1, 1), (nP, 0xA100, 5, 1), (nP, 0xA23F, 7, 1)] { st .run 4 with arch := { chan := [(63, { opened := [{ op := 1, packet := 0, seq := 0, sectors := 1 }] })] } }, by decide +kernel⟩,
   ⟨63, 0, 0, 0, [], { op := 1, packet := 0, seq := 0, sectors := 1, grants := [(0, 0)] }, { st .run 4 with arch := { chan := [(63, { opened := [{ op := 1, packet := 0, seq := 0, sectors := 1, grants := [(0, 0)] }] })] } }, by decide +kernel⟩,
   ⟨w0, st .run 4, 31, by decide +kernel⟩,
   ⟨w0, st .service 4, by decide +kernel⟩⟩

theorem witness_ArchiveMediumAndObjects :
    (∃ (d u t : Nat) (s : State),
    d < 4 ∧
    u < 16384 ∧
    (s.frame (unitKey d u)).oldest = some t ∧
    s.modes.mode.active = true ∧
    t + getO s nP 0xA000 7 * 1000 ≤ now s) ∧
    (∃ (d u : Nat) (a b : BitVec 32) (s : State),
    d < 4 ∧
    u < 16384 ∧
    (s.frame (unitKey d u)).programming = true ∧
    dieUp s d = true ∧
    s.modes.mode.on = true ∧
    s.modes.mode ≠ .keep) ∧
    (∃ (c : Nat) (s : State),
    c < 64 ∧
    s.modes.mode.on = true ∧
    s.modes.mode ≠ .keep) ∧
    (∃ (d : Nat) (s : State),
    d < 4 ∧
    s.modes.mode.active = true ∧
    dieUp s d = true ∧
    (s.arch.frame.any fun e => e.1 / 2 ^ 14 == d && e.2.programming) = false ∧
    ((∀ i, i < 32 → (tblGet {} s.arch.medium (unitKey d (tblGet 0 s.arch.scanPos d) * 32 + i)).bad = false))) ∧
    (∃ (d : Nat) (s : State),
    d < 4 ∧
    s.modes.mode.on = true ∧
    s.modes.mode ≠ .keep) ∧
    (∃ (d : Nat) (l : BitVec 16) (s : State),
    d < 4 ∧
    s.modes.mode.on = true ∧
    s.modes.mode ≠ .keep ∧
    getO s nP (0xA010 + d) 1 = 2 ∧
    tblGet 0 s.arch.lostAt (10 + d) + 100000000 ≤ now s) ∧
    (∃ (d : Nat) (s : State),
    d < 4 ∧
    getO s nP (0xA010 + d) 1 = 2 ∧
    tblGet 0 s.arch.lostAt d + 1000000000 ≤ now s) :=
  ⟨⟨3, 16383, 0, { st .run 4 with arch := { frame := [(unitKey 3 16383, { slot := [(0, { data := some 0, entryTime := 0 })] })] } }, by decide +kernel⟩,
   ⟨3, 16383, 0, 1, { put [(nP, 0xA013, 1, 0)] (st .run 4) with arch := { frame := [(unitKey 3 16383, { programming := true })] } }, by decide +kernel⟩,
   ⟨63, st .run 4, by decide +kernel⟩,
   ⟨3, put [(nP, 0xA013, 1, 0)] (st .run 4), by decide +kernel⟩,
   ⟨3, st .run 4, by decide +kernel⟩,
   ⟨3, 0x8000, put [(nP, 0xA013, 1, 2)] (st .run 4), by decide +kernel⟩,
   ⟨3, put [(nP, 0xA013, 1, 2)] (st .run 4), by decide +kernel⟩⟩

theorem witness_DoorbellStores :
    (∃ (h q v : Nat) (va : Word) (s t : State),
    h < 264 ∧
    q < 65536 ∧
    v < 2 ^ 32 ∧
    s.modes.mode.active = true ∧
    (s.hart h).run = .running ∧
    (t.hart h).sb = [] ∧
    fenced t (h / 12) = false ∧
    reach h storeAccess va 4 (va.toNat % 4 == 0) s = (t, .device (doorbellAddr q))) ∧
    (∃ (h q v : Nat) (va : Word) (s t : State),
    h < 264 ∧
    q < 65536 ∧
    v < 2 ^ 32 ∧
    s.modes.mode.active = true ∧
    (s.hart h).run = .running ∧
    (t.hart h).sb = [] ∧
    fenced t (h / 12) = false ∧
    reach h storeAccess va 4 (va.toNat % 4 == 0) s = (t, .device (doorbellAddr q + 4))) ∧
    (∃ (h q v : Nat) (va : Word) (s t : State),
    h < 264 ∧
    q < 65536 ∧
    v < 2 ^ 32 ∧
    s.modes.mode.active = true ∧
    (s.hart h).run = .running ∧
    (t.hart h).sb = [] ∧
    fenced t (h / 12) = false ∧
    reach h storeAccess va 4 (va.toNat % 4 == 0) s = (t, .device (doorbellAddr q + 8))) ∧
    (∃ (h q v : Nat) (va : Word) (s t : State), ∃ (e : Exc),
    h < 264 ∧
    q < 65536 ∧
    v < 2 ^ 32 ∧
    s.modes.mode.active = true ∧
    (s.hart h).run = .running ∧
    reach h storeAccess va 4 (va.toNat % 4 == 0) s = (t, .exc e)) ∧
    (∃ (h q v : Nat) (va : Word) (s t : State),
    h < 264 ∧
    q < 65536 ∧
    v < 2 ^ 32 ∧
    s.modes.mode.active = true ∧
    (s.hart h).run = .running ∧
    (s.hart h).accPriv storeAccess = .m ∧
    partOfHart s h ≠ some (queueOwner s q) ∧
    va = BitVec.ofNat 64 (doorbellAddr q)) :=
  ⟨⟨0, 63, 2 ^ 32 - 1, BitVec.ofNat 64 (doorbellAddr 63), own .run 4, own .run 4, by decide +kernel⟩,
   ⟨0, 63, 2 ^ 32 - 1, BitVec.ofNat 64 (doorbellAddr 63 + 4), own .run 4, own .run 4, by decide +kernel⟩,
   ⟨0, 63, 2 ^ 32 - 1, BitVec.ofNat 64 (doorbellAddr 63 + 8), own .run 4, own .run 4, by decide +kernel⟩,
   ⟨0, 64, 0, BitVec.ofNat 64 (doorbellAddr 64), own .run 4, own .run 4, .trap 7 (BitVec.ofNat 64 (doorbellAddr 64)), by decide +kernel⟩,
   ⟨0, 64, 0, BitVec.ofNat 64 (doorbellAddr 64), own .run 4, own .run 4, by decide +kernel⟩⟩

theorem witness_PostsAndLoads :
    (∃ (h g v : Nat) (m : Bool) (va : Word) (s t : State),
    h < 264 ∧
    g < 264 ∧
    v < 2 ^ 32 ∧
    s.modes.mode.active = true ∧
    (s.hart h).run = .running ∧
    reach h storeAccess va 4 (va.toNat % 4 == 0) s = (t, .device (fileAddr g m)) ∧
    (t.hart h).sb = [] ∧
    fenced t (h / 12) = false) ∧
    (∃ (q p : Nat) (e : List Byte) (s : State),
    q < 65536 ∧
    p < 16 ∧
    s.modes.mode.active = true ∧
    validTarget s q p = true ∧
    e.length ≤ qRoom s q) ∧
    (∃ (q : Nat) (f g : ArrayFinding) (s : State),
    q < 65536 ∧
    s.modes.mode.active = true ∧
    qEnabled s q = true) ∧
    (∃ (q : Nat) (s : State), ∃ (b : List Byte) (l : Load) (t : State),
    q < 65536 ∧
    s.modes.mode.active = true ∧
    hasLoad s q = true ∧
    isTurn s q = true ∧
    (s.queue q).load = none ∧
    ioRead (slotAddr s q (qC s q)) 64 s = (t, b, []) ∧
    parseLoad b = some l ∧
    ((l.reads ++ l.writes).all fun r => ioRangeOk t (queueOwner s q) r.1 r.2) = true ∧
    leAt b 0 1 = 1) ∧
    (∃ (q : Nat) (s : State), ∃ (b : List Byte) (l : Load) (t : State),
    q < 65536 ∧
    s.modes.mode.active = true ∧
    hasLoad s q = true ∧
    isTurn s q = true ∧
    (s.queue q).load = none ∧
    ioRead (slotAddr s q (qC s q)) 64 s = (t, b, []) ∧
    parseLoad b = some l ∧
    ((l.reads ++ l.writes).all fun r => ioRangeOk t (queueOwner s q) r.1 r.2) = true ∧
    leAt b 0 1 = 2) ∧
    (∃ (q : Nat) (s : State), ∃ (b : List Byte) (l : Load) (t : State),
    q < 65536 ∧
    s.modes.mode.active = true ∧
    hasLoad s q = true ∧
    isTurn s q = true ∧
    (s.queue q).load = none ∧
    ioRead (slotAddr s q (qC s q)) 64 s = (t, b, []) ∧
    parseLoad b = some l ∧
    ((l.reads ++ l.writes).all fun r => ioRangeOk t (queueOwner s q) r.1 r.2) = true ∧
    leAt b 0 1 = 3) ∧
    (∃ (q : Nat) (s : State), ∃ (g : Going),
    q < 65536 ∧
    s.modes.mode.active = true ∧
    hasLoad s q = true ∧
    isTurn s q = true ∧
    (s.queue q).load = some g ∧
    g.op = 1) ∧
    (∃ (q : Nat) (s : State), ∃ (g : Going),
    q < 65536 ∧
    s.modes.mode.active = true ∧
    hasLoad s q = true ∧
    isTurn s q = true ∧
    (s.queue q).load = some g ∧
    g.op = 2) ∧
    (∃ (q : Nat) (s : State), ∃ (g : Going),
    q < 65536 ∧
    s.modes.mode.active = true ∧
    hasLoad s q = true ∧
    isTurn s q = true ∧
    (s.queue q).load = some g ∧
    g.op = 3) ∧
    (∃ (l : Load) (r off : Nat),
    off < l.row) ∧
    (∃ (q : Nat) (g : Going) (s t : State) (h : Going),
    turn q g s = (t, h)) ∧
    (∃ (q : Nat) (g : Going) (s t : State) (h : Going),
    turn q g s = (t, h) ∧
    g.off + turnLen g.load g.r g.off = g.load.row) ∧
    (∃ (q : Nat) (g : Going) (s t : State) (h : Going),
    turn q g s = (t, h) ∧
    g.off + turnLen g.load g.r g.off ≠ g.load.row) :=
  ⟨⟨0, 3, 2 ^ 32 - 1, true, BitVec.ofNat 64 (fileAddr 3 true), own .run 4, own .run 4, by decide +kernel⟩,
   ⟨5, 0, List.replicate 64 0, put [(nQueue 5, 0xB100, 1, 1), (nQueue 5, 0xB100, 3, 2), (nQueue 5, 0xB110, 1, 1), (nQueue 5, 0xB100, 5, 64)] (own .run 4), by decide +kernel⟩,
   ⟨65535, .corrected, .clean, put [(nQueue 65535, 0xB110, 1, 1)] (st .run 4), by decide +kernel⟩,
   ⟨5, oneSlot 1 (loadCells 1), slotBytes (loadCells 1), loadOf 1, (ioRead 0 64 (oneSlot 1 (loadCells 1))).1, by decide +kernel⟩,
   ⟨5, oneSlot 1 (loadCells 2), slotBytes (loadCells 2), loadOf 2, (ioRead 0 64 (oneSlot 1 (loadCells 2))).1, by decide +kernel⟩,
   ⟨5, oneSlot 1 (loadCells 3), slotBytes (loadCells 3), loadOf 3, (ioRead 0 64 (oneSlot 1 (loadCells 3))).1, by decide +kernel⟩,
   ⟨5, midLoad 1, goingOf 1, by decide +kernel⟩,
   ⟨5, midLoad 2, goingOf 2, by decide +kernel⟩,
   ⟨5, midLoad 3, goingOf 3, by decide +kernel⟩,
   ⟨loadOf 1, 0, 63, by decide +kernel⟩,
   ⟨5, goingOf 1, midLoad 1, (turn 5 (goingOf 1) (midLoad 1)).1, (turn 5 (goingOf 1) (midLoad 1)).2, by decide +kernel⟩,
   ⟨5, goingOf 3, midLoad 3, (turn 5 (goingOf 3) (midLoad 3)).1, (turn 5 (goingOf 3) (midLoad 3)).2, by decide +kernel⟩,
   ⟨5, { goingOf 1 with load := { loadOf 1 with row := 5000 } }, midLoad 1, (turn 5 { goingOf 1 with load := { loadOf 1 with row := 5000 } } (midLoad 1)).1, (turn 5 { goingOf 1 with load := { loadOf 1 with row := 5000 } } (midLoad 1)).2, rfl, by decide +kernel⟩⟩

theorem witness_QueueWrites :
    (∃ (who : Requester) (q : Nat) (s : State),
    q < 65536 ∧
    reaches .rwp who (nQueue q) 0xB100 1 1 s = true ∧
    getO s (nQueue q) 0xB100 1 ≠ 1 ∧
    queueMayEnable (arrived who (nQueue q) 0xB100 1 1 s) q = true) ∧
    (∃ (who : Requester) (q : Nat) (s : State),
    q < 65536 ∧
    reaches .rwp who (nQueue q) 0xB100 1 0 s = true) ∧
    (∃ (who : Requester) (q : Nat) (s : State),
    q < 65536 ∧
    reaches .wo who (nQueue q) 0xB100 0x0D 1 s = true ∧
    qEnabled (arrived who (nQueue q) 0xB100 0x0D 1 s) q = true) ∧
    (∃ (who : Requester) (e p : Nat) (s : State),
    e < 1536 ∧
    reaches .rwp who (nSource e) 0xB200 1 1 s = true ∧
    sourceOwner (arrived who (nSource e) 0xB200 1 1 s) e = p ∧
    p ≠ 0xFF ∧
    getO s (nSource e) 0xB200 3 < 264 ∧
    partOfHart (arrived who (nSource e) 0xB200 1 1 s) (getO s (nSource e) 0xB200 3) = some p ∧
    1 ≤ getO s (nSource e) 0xB200 5 ∧
    getO s (nSource e) 0xB200 5 ≤ 1023) ∧
    (∃ (who : Requester) (c : Nat) (s : State),
    c < 64 ∧
    reaches .wo who nP (0xA200 + c) 0x0C 1 s = true ∧
    getO s nP (0xA200 + c) 1 = 1) ∧
    (∃ (who : Requester) (c : Nat) (s : State),
    c < 64 ∧
    reaches .rwp who nP (0xA200 + c) 1 1 s = true ∧
    getO s nP (0xA200 + c) 1 ≠ 1 ∧
    channelMayEnable (arrived who nP (0xA200 + c) 1 1 s) c = true) :=
  ⟨⟨w0, 5, put [(nQueue 5, 0xB100, 3, 2), (nQueue 5, 0xB100, 4, 65536), (nQueue 5, 0xB100, 6, 4)] (own .run 4), by decide +kernel⟩,
   ⟨w0, 65535, st .run 4, by decide +kernel⟩,
   ⟨w0, 0, put [(nQueue 0, 0xB110, 1, 1)] (own .run 4), by decide +kernel⟩,
   ⟨w0, 0, 0, put [(nSource 0, 0xB200, 3, 3), (nSource 0, 0xB200, 5, 1023)] (own .run 4), by decide +kernel⟩,
   ⟨w0, 63, put [(nP, 0xA23F, 1, 1)] (st .run 4), by decide +kernel⟩,
   ⟨w0, 0, put [(nP, 0xA200, 2, 5), (nP, 0xA200, 3, 6), (nQueue 5, 0xB100, 1, 1), (nQueue 5, 0xB100, 3, 4), (nQueue 5, 0xB100, 5, 64), (nQueue 5, 0xB110, 1, 1), (nQueue 6, 0xB100, 1, 1), (nQueue 6, 0xB100, 3, 2), (nQueue 6, 0xB100, 5, 32), (nQueue 6, 0xB110, 1, 1)] (own .run 4), by decide +kernel⟩⟩

theorem witness_FabricRequests :
    (∃ (g d l : Nat) (c v : Option Nat) (s t : State),
    reqOk g d l = true ∧
    admitWaiting s = t ∧
    t.modes.mode.active = true ∧
    domState t d = 0 ∧
    ownsOnGallery t d g = true ∧
    lineOwned t d l = true ∧
    agentOpen t (.l2 g) d l = false ∧
    (t.l2 g l).st = .i ∧
    maySend t g l = true ∧
    tblFind t.caches.misses (l2Key g l) = none) ∧
    (∃ (g d l : Nat) (c v : Option Nat) (s t : State), ∃ (m : Miss),
    reqOk g d l = true ∧
    admitWaiting s = t ∧
    t.modes.mode.active = true ∧
    domState t d = 0 ∧
    ownsOnGallery t d g = true ∧
    lineOwned t d l = true ∧
    agentOpen t (.l2 g) d l = false ∧
    (t.l2 g l).st = .i ∧
    maySend t g l = true ∧
    tblFind t.caches.misses (l2Key g l) = some m ∧
    (t.l2 g m.victim).st = .wp) ∧
    (∃ (g d l : Nat) (c v : Option Nat) (s t : State), ∃ (m : Miss),
    reqOk g d l = true ∧
    admitWaiting s = t ∧
    t.modes.mode.active = true ∧
    domState t d = 0 ∧
    ownsOnGallery t d g = true ∧
    lineOwned t d l = true ∧
    agentOpen t (.l2 g) d l = false ∧
    (t.l2 g l).st = .i ∧
    maySend t g l = true ∧
    tblFind t.caches.misses (l2Key g l) = some m ∧
    (t.l2 g m.victim).st ≠ .wp ∧
    wayState t g m.way = 0 ∧
    slotLine t g m.way (l % 16384) = none) ∧
    (∃ (g d l : Nat) (c v : Option Nat) (s t : State),
    reqOk g d l = true ∧
    admitWaiting s = t ∧
    t.modes.mode.active = true ∧
    domState t d = 0 ∧
    ownsOnGallery t d g = true ∧
    lineOwned t d l = true ∧
    agentOpen t (.l2 g) d l = false ∧
    (t.l2 g l).st = .s ∧
    (t.l2 g l).dom = d ∧
    maySend t g l = true) ∧
    (∃ (g d l : Nat) (c v : Option Nat) (s t : State),
    reqOk g d l = true ∧
    admitWaiting s = t ∧
    t.modes.mode.active = true ∧
    domState t d = 0 ∧
    ownsOnGallery t d g = true ∧
    lineOwned t d l = true ∧
    agentOpen t (.l2 g) d l = false ∧
    (t.l2 g l).pendingSt = false ∧
    mayAsk t g l = true) ∧
    (∃ (a : CohAgent) (d l : Nat) (x : Line) (k : BitVec 64) (w : BitVec 8) (s t : State),
    agentOk a = true ∧
    d < 16 ∧
    l < 2 ^ 46 ∧
    admitWaiting s = t ∧
    t.modes.mode.active = true ∧
    domState t d = 0 ∧
    agentOf t d a = true ∧
    lineOwned t d l = true ∧
    agentOpen t a d l = false ∧
    mayAsk t (agentGallery a) l = true) :=
  ⟨⟨0, 0, 2 ^ 15 - 1, none, none, openDom, admitWaiting openDom, by decide +kernel⟩,
   ⟨0, 0, 5, none, none, { openDom with caches := { l2 := [(9, { st := .wp })], misses := [(5, { way := 0, dom := 0, victim := 9 })] } }, admitWaiting { openDom with caches := { l2 := [(9, { st := .wp })], misses := [(5, { way := 0, dom := 0, victim := 9 })] } }, { way := 0, dom := 0, victim := 9 }, by decide +kernel⟩,
   ⟨0, 0, 5, none, none, put [(nGal 0, 0x6101, 1, 0)] { openDom with caches := { misses := [(5, { way := 0, dom := 0, victim := 9 })] } }, admitWaiting (put [(nGal 0, 0x6101, 1, 0)] { openDom with caches := { misses := [(5, { way := 0, dom := 0, victim := 9 })] } }), { way := 0, dom := 0, victim := 9 }, by decide +kernel⟩,
   ⟨0, 0, 5, none, none, put [(nC, 0x6810, 1, 0)] { own .run 4 with caches := { l2 := [(5, { st := .s })] } }, admitWaiting (put [(nC, 0x6810, 1, 0)] { own .run 4 with caches := { l2 := [(5, { st := .s })] } }), by decide +kernel⟩,
   ⟨0, 0, 2 ^ 15 - 1, none, none, openDom, admitWaiting openDom, by decide +kernel⟩,
   ⟨.hart 3, 0, 2 ^ 15 - 1, 0, 0, 0, openDom, admitWaiting openDom, by decide +kernel⟩⟩

theorem witness_SnoopsAndAnswers :
    (∃ (g l d n : Nat) (rest : List (Nat × Msg)) (s : State), ∃ (k : SnpKind) (t : State) (r : RspKind) (x : LineData),
    reqOk g 0 l = true ∧
    fenced s g = false ∧
    getO s (nGal g) (0x6010 + n) 1 ≠ 0 ∧
    lrHeld s g l = false ∧
    s.conc.msgs = (n, .snp k g l d) :: rest ∧
    snoopL2 k g d l ({ s with conc := { s.conc with msgs := rest } }) = (t, r, x) ∧
    k = .s) ∧
    (∃ (g l d n : Nat) (rest : List (Nat × Msg)) (s : State), ∃ (k : SnpKind) (t : State) (r : RspKind) (x : LineData),
    reqOk g 0 l = true ∧
    fenced s g = false ∧
    getO s (nGal g) (0x6010 + n) 1 ≠ 0 ∧
    lrHeld s g l = false ∧
    s.conc.msgs = (n, .snp k g l d) :: rest ∧
    snoopL2 k g d l ({ s with conc := { s.conc with msgs := rest } }) = (t, r, x) ∧
    k = .x) ∧
    (∃ (g l d n : Nat) (rest : List (Nat × Msg)) (s : State), ∃ (k : SnpKind) (t : State) (r : RspKind) (x : LineData),
    reqOk g 0 l = true ∧
    fenced s g = false ∧
    getO s (nGal g) (0x6010 + n) 1 ≠ 0 ∧
    lrHeld s g l = false ∧
    s.conc.msgs = (n, .snp k g l d) :: rest ∧
    snoopL2 k g d l ({ s with conc := { s.conc with msgs := rest } }) = (t, r, x) ∧
    k = .inv) ∧
    (∃ (g l d n : Nat) (rest : List (Nat × Msg)) (s : State), ∃ (k : SnpKind) (t : State) (r : RspKind) (x : LineData),
    reqOk g 0 l = true ∧
    fenced s g = false ∧
    getO s (nGal g) (0x6010 + n) 1 ≠ 0 ∧
    lrHeld s g l = false ∧
    s.conc.msgs = (n, .snp k g l d) :: rest ∧
    snoopL2 k g d l ({ s with conc := { s.conc with msgs := rest } }) = (t, r, x) ∧
    k = .cln) ∧
    (∃ (g l d n : Nat) (rest : List (Nat × Msg)) (s : State), ∃ (r : RspKind),
    reqOk g 0 l = true ∧
    fenced s g = false ∧
    getO s (nGal g) (0x6010 + n) 1 ≠ 0 ∧
    s.conc.msgs = (n, .rsp r g l d) :: rest) ∧
    (∃ (g l d n : Nat) (rest : List (Nat × Msg)) (s : State), ∃ (x : LineData) (k : Nat) (t : Tx),
    reqOk g 0 l = true ∧
    fenced s g = false ∧
    getO s (nGal g) (0x6010 + n) 1 ≠ 0 ∧
    s.conc.msgs = (n, .snpData g l d x) :: rest ∧
    waitingTx ({ s with conc := { s.conc with msgs := rest } }) d l = some (k, t) ∧
    t.awaitData.getLsbD g = true) ∧
    (∃ (g l d n : Nat) (rest : List (Nat × Msg)) (s : State), ∃ (x : LineData) (k : Nat) (t : Tx),
    reqOk g 0 l = true ∧
    fenced s g = false ∧
    getO s (nGal g) (0x6010 + n) 1 ≠ 0 ∧
    s.conc.msgs = (n, .snpData g l d x) :: rest ∧
    waitingTx ({ s with conc := { s.conc with msgs := rest } }) d l = some (k, t) ∧
    t.awaitData.getLsbD g = false ∧
    t.snoops.getLsbD g = true ∧
    tblFind t.early g = none) ∧
    (∃ (g l d n : Nat) (rest : List (Nat × Msg)) (s : State), ∃ (x : LineData),
    reqOk g 0 l = true ∧
    fenced s g = false ∧
    getO s (nGal g) (0x6010 + n) 1 ≠ 0 ∧
    s.conc.msgs = (n, .wbd g l d x) :: rest) :=
  ⟨⟨0, 5, 0, 0, [], { own .run 4 with conc := { msgs := [(0, .snp .s 0 5 0)] } }, .s, (snoopL2 .s 0 0 5 (own .run 4)).1, (snoopL2 .s 0 0 5 (own .run 4)).2.1, (snoopL2 .s 0 0 5 (own .run 4)).2.2, by decide +kernel⟩,
   ⟨0, 5, 0, 0, [], { own .run 4 with conc := { msgs := [(0, .snp .x 0 5 0)] } }, .x, (snoopL2 .x 0 0 5 (own .run 4)).1, (snoopL2 .x 0 0 5 (own .run 4)).2.1, (snoopL2 .x 0 0 5 (own .run 4)).2.2, by decide +kernel⟩,
   ⟨0, 5, 0, 0, [], { own .run 4 with conc := { msgs := [(0, .snp .inv 0 5 0)] } }, .inv, (snoopL2 .inv 0 0 5 (own .run 4)).1, (snoopL2 .inv 0 0 5 (own .run 4)).2.1, (snoopL2 .inv 0 0 5 (own .run 4)).2.2, by decide +kernel⟩,
   ⟨0, 5, 0, 0, [], { own .run 4 with conc := { msgs := [(0, .snp .cln 0 5 0)] } }, .cln, (snoopL2 .cln 0 0 5 (own .run 4)).1, (snoopL2 .cln 0 0 5 (own .run 4)).2.1, (snoopL2 .cln 0 0 5 (own .run 4)).2.2, by decide +kernel⟩,
   ⟨21, 2 ^ 46 - 1, 15, 3, [], { st .run 4 with conc := { msgs := [(3, .rsp .miss 21 (2 ^ 46 - 1) 15)] } }, .miss, by decide +kernel⟩,
   ⟨1, 5, 0, 0, [], { st .run 4 with conc := { msgs := [(0, .snpData 1 5 0 {})], tx := [(5, { req := { kind := .rdS, agent := .l2 0, dom := 0 }, start := 0, awaitData := 2 })] } }, {}, 5, { req := { kind := .rdS, agent := .l2 0, dom := 0 }, start := 0, awaitData := 2 }, by decide +kernel⟩,
   ⟨1, 5, 0, 0, [], { st .run 4 with conc := { msgs := [(0, .snpData 1 5 0 {})], tx := [(5, { tx0 with snoops := 2 })] } }, {}, 5, { tx0 with snoops := 2 }, by decide +kernel⟩,
   ⟨21, 5, 0, 0, [], { st .run 4 with conc := { msgs := [(0, .wbd 21 5 0 {})] } }, {}, by decide +kernel⟩⟩

theorem witness_GrantsAndEnds :
    (∃ (g l d n : Nat) (rest : List (Nat × Msg)) (s : State),
    reqOk g 0 l = true ∧
    fenced s g = false ∧
    getO s (nGal g) (0x6010 + n) 1 ≠ 0) ∧
    (∃ (g l d n : Nat) (rest : List (Nat × Msg)) (s : State), ∃ (x : LineData) (gr : Grant),
    reqOk g 0 l = true ∧
    fenced s g = false ∧
    getO s (nGal g) (0x6010 + n) 1 ≠ 0 ∧
    gr ≠ .none ∧
    s.conc.msgs = (n, .data (.l2 g) l d x gr) :: rest) ∧
    (∃ (g l d n : Nat) (rest : List (Nat × Msg)) (s : State), ∃ (gr : Grant) (zero : Bool),
    reqOk g 0 l = true ∧
    fenced s g = false ∧
    getO s (nGal g) (0x6010 + n) 1 ≠ 0 ∧
    gr ≠ .none ∧
    s.conc.msgs = (n, .cmp (.l2 g) l d gr zero) :: rest) ∧
    (∃ (g l d n : Nat) (rest : List (Nat × Msg)) (s : State),
    reqOk g 0 l = true ∧
    fenced s g = false ∧
    getO s (nGal g) (0x6010 + n) 1 ≠ 0 ∧
    s.conc.msgs = (n, .wbAck g l d) :: rest ∧
    (s.l2 g l).st = .wp) ∧
    (∃ (g l d n : Nat) (rest : List (Nat × Msg)) (s : State),
    reqOk g 0 l = true ∧
    fenced s g = false ∧
    getO s (nGal g) (0x6010 + n) 1 ≠ 0 ∧
    s.conc.msgs = (n, .wbAck g l d) :: rest ∧
    (s.l2 g l).st ≠ .wp) ∧
    (∃ (g l d n : Nat) (rest : List (Nat × Msg)) (s : State), ∃ (t : Tx),
    reqOk g 0 l = true ∧
    fenced s g = false ∧
    getO s (nGal g) (0x6010 + n) 1 ≠ 0 ∧
    s.conc.msgs = (n, .ack g l d) :: rest ∧
    ({ s with conc := { s.conc with msgs := rest } }).txAt d l = some t ∧
    t.waitAck = true ∧
    t.req.agent = .l2 g) ∧
    (∃ (g l d n : Nat) (rest : List (Nat × Msg)) (s : State),
    reqOk g 0 l = true ∧
    fenced s g = false ∧
    getO s (nGal g) (0x6010 + n) 1 ≠ 0 ∧
    s.conc.msgs = (n, .ack g l d) :: rest ∧
    ({ s with conc := { s.conc with msgs := rest } }).txAt d l = none) ∧
    (∃ (g l p : Nat) (s : State),
    reqOk g 0 l = true ∧
    s.conc.msgs = [] ∧
    s.modes.mode.active = true ∧
    partOfAddr s (64 * l) = some p) :=
  ⟨⟨21, 0, 0, 0, [], st .run 4, by decide +kernel⟩,
   ⟨0, 5, 0, 0, [], { st .run 4 with conc := { msgs := [(0, .data (.l2 0) 5 0 {} .s)] } }, {}, .s, by decide +kernel⟩,
   ⟨0, 5, 0, 0, [], { st .run 4 with conc := { msgs := [(0, .cmp (.l2 0) 5 0 .m true)] } }, .m, true, by decide +kernel⟩,
   ⟨0, 5, 0, 0, [], { st .run 4 with conc := { msgs := [(0, .wbAck 0 5 0)] }, caches := { l2 := [(5, { st := .wp })] } }, by decide +kernel⟩,
   ⟨0, 5, 0, 0, [], { st .run 4 with conc := { msgs := [(0, .wbAck 0 5 0)] } }, by decide +kernel⟩,
   ⟨0, 5, 0, 0, [], { st .run 4 with conc := { msgs := [(0, .ack 0 5 0)], tx := [(5, { tx0 with waitAck := true })] } }, { tx0 with waitAck := true }, by decide +kernel⟩,
   ⟨0, 5, 0, 0, [], { st .run 4 with conc := { msgs := [(0, .ack 0 5 0)] } }, by decide +kernel⟩,
   ⟨0, 5, 0, own .run 4, by decide +kernel⟩⟩

theorem witness_FabricFaults :
    (∃ (l k : Nat) (t : Tx) (s : State),
    l < 2 ^ 46 ∧
    s.conc.tx.find? (fun t => t.1 % 2 ^ 46 == l && decide (t.2.start + t.2.req.limit * 1000 < now s)) = some (k, t)) ∧
    (∃ (d : Nat) (s : State),
    d < 16 ∧
    clearWaits s d = false ∧
    (domState s d = 1 ∨ domState s d = 2)) ∧
    (∃ (d : Nat) (s : State),
    d < 16 ∧
    clearWaits s d = false ∧
    (domState s d = 1 ∨ domState s d = 2) ∧
    tblFind s.parts.stopping d = none) ∧
    (∃ (d : Nat) (s : State), ∃ (x : Stopping),
    d < 16 ∧
    clearWaits s d = false ∧
    (domState s d = 1 ∨ domState s d = 2) ∧
    tblFind s.parts.stopping d = some x) ∧
    (∃ (k set way : Nat) (s t : State) (n : Nat),
    k < 32 ∧
    set < 16384 ∧
    way < 16 ∧
    s.modes.mode.active = true ∧
    s.conc.faultyWays.contains (k * 16 + way) = false ∧
    countHit (hitKey 6 (k * 16 + way) 1) (getO s nP 0x8204 2) (addO nC 0x6800 7 1 s) = (t, n) ∧
    classifyOf n (getO s nP 0x8204 1) ≠ 2) :=
  ⟨⟨5, 5, { req := { kind := .rdS, agent := .l2 0, dom := 0 }, start := 0 }, { st .run 4 with conc := { tx := [(5, { req := { kind := .rdS, agent := .l2 0, dom := 0 }, start := 0 })] } }, by decide +kernel⟩,
   ⟨15, put [(nC, 0x6810, 16, 2)] (st .run 4), by decide +kernel⟩,
   ⟨15, put [(nC, 0x6810, 16, 2)] (st .run 4), by decide +kernel⟩,
   ⟨15, { put [(nC, 0x6810, 16, 1)] (st .run 4) with parts := { stopping := [(15, { })] } }, { }, by decide +kernel⟩,
   ⟨31, 16383, 15, st .run 4, (countHit (hitKey 6 511 1) (getO (st .run 4) nP 0x8204 2) (addO nC 0x6800 7 1 (st .run 4))).1, 1, by decide +kernel⟩⟩

theorem witness_CatalogueRequests :
    (∃ (who : Requester) (r : CatReq) (s : State),
    received s who = false) ∧
    (∃ (who : Requester) (r : CatReq) (s : State), ∃ (op : CatOp),
    received s who = true ∧
    repeats s who op r = true) ∧
    (∃ (who : Requester) (r : CatReq) (s : State), ∃ (op : CatOp),
    received s who = true ∧
    repeats s who op r = false ∧
    s.cat.queue = []) ∧
    (∃ (who : Requester) (r : CatReq) (s : State), ∃ (op : CatOp),
    received s who = true ∧
    repeats s who op r = false ∧
    s.cat.queue ≠ [] ∧
    (∀ x ∈ s.cat.queue, x.who ≠ who) ∧
    canFull s who = false) ∧
    (∃ (who : Requester) (r : CatReq) (s : State), ∃ (op : CatOp), ∃ (x : Waiting) (rest : List Waiting),
    received s who = true ∧
    repeats s who op r = false ∧
    s.cat.queue = x :: rest ∧
    x.who = who ∧
    x.keeps = true ∧
    mayRepeat who = true ∧
    x.op = op ∧
    x.req = r) ∧
    (∃ (who : Requester) (r : CatReq) (s : State), ∃ (op : CatOp), ∃ (x : Waiting) (rest : List Waiting),
    received s who = true ∧
    repeats s who op r = false ∧
    s.cat.queue = x :: rest ∧
    x.who = who ∧
    (x.op ≠ op ∨ x.req ≠ r)) ∧
    (∃ (f : CanFrame) (s : State),
    canOn s = true ∧
    f.classical = false ∧
    (f.node = 0 ∨ f.node = s.cat.canNodeId)) ∧
    (∃ (f : CanFrame) (s : State),
    canOn s = true ∧
    (f.classical = true ∨ (f.node ≠ 0 ∧ f.node ≠ s.cat.canNodeId))) ∧
    (∃ (f : CanFrame) (s : State),
    canOn s = true ∧
    getO s nV 0x1017 0 ≠ 0 ∧
    s.cat.lastBeat + getO s nV 0x1017 0 * 1000000 ≤ now s) ∧
    (∃ (s : State),
    canRuns s = true ∧
    (getO s nV 0x1200 5 = 1 ∨ getO s nV 0x1200 5 = 2)) ∧
    (∃ (s : State),
    canRuns s = true ∧
    getO s nV 0x1200 5 = 1) ∧
    (∃ (s : State),
    canRuns s = true ∧
    getO s nV 0x1200 5 = 2) ∧
    (∃ (s : State),
    canRuns s = true ∧
    getO s nV 0x1200 5 = 3) ∧
    (∃ (c : Nat) (s : State),
    1 ≤ c ∧
    c ≤ 127) ∧
    (∃ (c : Nat) (s : State),
    1 ≤ c ∧
    c ≤ 127 ∧
    received s (.can c) = true) :=
  ⟨⟨.session 7, { tag := 1, node := 0, index := 0x2000, sub := 1, value := [] }, st .run 4, by decide +kernel⟩,
   ⟨w0, { tag := 1, node := 0, index := 0x2000, sub := 1, value := [] }, setReq w0 { lastReq := some (.take, { tag := 1, node := 0, index := 0x2000, sub := 1, value := [] }) } (st .run 4), .take, by decide +kernel⟩,
   ⟨w0, { tag := 1, node := 0, index := 0x2000, sub := 1, value := [] }, st .run 4, .write, by decide +kernel⟩,
   ⟨w0, { tag := 1, node := 0, index := 0x2000, sub := 1, value := [] }, { st .run 4 with cat := { (st .run 4).cat with queue := [{ who := .session 1, op := .read, req := { tag := 1, node := 0, index := 0x2000, sub := 1, value := [] }, since := 0, keeps := true }] } }, .read, by decide +kernel⟩,
   ⟨w0, { tag := 1, node := 0, index := 0x2000, sub := 1, value := [] }, { st .run 4 with cat := { (st .run 4).cat with queue := [{ who := w0, op := .read, req := { tag := 1, node := 0, index := 0x2000, sub := 1, value := [] }, since := 0, keeps := true }] } }, .read, { who := w0, op := .read, req := { tag := 1, node := 0, index := 0x2000, sub := 1, value := [] }, since := 0, keeps := true }, [], by decide +kernel⟩,
   ⟨w0, { tag := 1, node := 0, index := 0x2000, sub := 1, value := [] }, { st .run 4 with cat := { (st .run 4).cat with queue := [{ who := w0, op := .read, req := { tag := 1, node := 0, index := 0x2000, sub := 1, value := [] }, since := 0, keeps := true }] } }, .write, { who := w0, op := .read, req := { tag := 1, node := 0, index := 0x2000, sub := 1, value := [] }, since := 0, keeps := true }, [], by decide +kernel⟩,
   ⟨{ classical := false, node := 0 }, put [(nV, 0x1200, 4, 1)] (st .run 4), by decide +kernel⟩,
   ⟨{ classical := true, node := 0 }, put [(nV, 0x1200, 4, 1)] (st .run 4), by decide +kernel⟩,
   ⟨{ classical := false, node := 127 }, put [(nV, 0x1200, 4, 1), (nV, 0x1017, 0, 1000)] (st .run 4), by decide +kernel⟩,
   ⟨put [(nV, 0x1200, 4, 1), (nV, 0x1200, 5, 2)] (st .run 4), by decide +kernel⟩,
   ⟨put [(nV, 0x1200, 4, 1), (nV, 0x1200, 5, 1)] (st .run 4), by decide +kernel⟩,
   ⟨put [(nV, 0x1200, 4, 1), (nV, 0x1200, 5, 2)] (st .run 4), by decide +kernel⟩,
   ⟨put [(nV, 0x1200, 4, 1), (nV, 0x1200, 5, 3)] (st .run 4), by decide +kernel⟩,
   ⟨127, st .run 4, by decide +kernel⟩,
   ⟨127, { put [(nV, 0x1200, 4, 1)] (st .run 4) with cat := { nmt := .operational } }, by decide +kernel⟩⟩

theorem witness_RegisterWrites :
    (∃ (who : Requester) (node n ix sub v : Nat) (row : ObjRow) (s : State),
    resolveNode node ix = some n ∧
    rowOf (n / 2 ^ 24) ix sub = some row ∧
    row.acc ≠ .ro ∧
    row.acc ≠ .tk ∧
    v < 2 ^ (8 * row.ty.size)) ∧
    (∃ (h num : Nat) (v : Word) (s : State),
    num < 4096 ∧
    goes s h ∧
    (s.hart h).csrLegal num true = true) ∧
    (∃ (h p o k a size : Nat) (v : Word) (va : Word) (s t u : State),
    goes s h ∧
    (t.hart h).sb = [] ∧
    fenced t (h / 12) = false ∧
    p < 16 ∧
    o % 4 = 0 ∧
    o < 0x1000 ∧
    reach h storeAccess va 4 (va.toNat % 4 == 0) s = (t, .device (mailboxAddr p + o))) ∧
    (∃ (h p o k a size : Nat) (v : Word) (va : Word) (s t u : State),
    goes s h ∧
    (t.hart h).sb = [] ∧
    fenced t (h / 12) = false ∧
    p < 16 ∧
    k < 2 ^ 32 ∧
    reach h storeAccess va 4 (va.toNat % 4 == 0) s = (t, .device (mailboxAddr p))) ∧
    (∃ (h p o k a size : Nat) (v : Word) (va : Word) (s t u : State),
    goes s h ∧
    (t.hart h).sb = [] ∧
    fenced t (h / 12) = false ∧
    (size = 4 ∨ size = 8) ∧
    inDevice a = true ∧
    reach h storeAccess va size (va.toNat % size == 0) s = (t, .device a) ∧
    deviceStore a size (v.toNat % 2 ^ (8 * size)) t = some u) ∧
    (∃ (a n : Nat) (v : Word) (s t : State) (l : List Byte) (bad : List (Nat × Nat)),
    s.modes.mode.on = true ∧
    getO s nS 0x7500 1 = 1 ∧
    sbError s a n = 0) ∧
    (∃ (a n : Nat) (v : Word) (s t : State) (l : List Byte) (bad : List (Nat × Nat)),
    s.modes.mode.on = true ∧
    getO s nS 0x7500 1 = 1 ∧
    sbError s a n = 0 ∧
    ioRead a n ({ s with dbg := { s.dbg with sberror := 0 } }) = (t, l, bad)) ∧
    (∃ (who : Requester) (sub v : Nat) (s : State),
    (sub = 1 ∨ sub = 2) ∧
    reaches .rw who nS 0x7500 sub v s = true) :=
  ⟨⟨w0, nP, nP, 0x2000, 8, 1, ((rowOf (nP / 2 ^ 24) 0x2000 8).get (by decide)), st .run 4, by decide +kernel⟩,
   ⟨0, 0x7C0, 0, st .run 4, by decide +kernel⟩,
   ⟨0, 0, 0xFFC, 0, 0, 4, 0, BitVec.ofNat 64 (mailboxAddr 0 + 0xFFC), own .run 4, own .run 4, own .run 4, by decide +kernel⟩,
   ⟨0, 0, 0, 2 ^ 32 - 1, 0, 4, 0, BitVec.ofNat 64 (mailboxAddr 0), own .run 4, own .run 4, own .run 4, by decide +kernel⟩,
   ⟨0, 0, 0, 0, 0x0F0010000140, 4, 7, 0x0F0010000140, vitSlot 0 (own .run 4), vitSlot 0 (own .run 4), ((deviceStore 0x0F0010000140 4 7 (vitSlot 0 (own .run 4))).getD {}), by decide +kernel⟩,
   ⟨2 ^ 21 - 8, 8, 0, put [(nS, 0x7500, 1, 1), (nS, 0x7500, 2, 1)] (own .run 4), st .run 4, [], [], by decide +kernel⟩,
   ⟨2 ^ 21 - 8, 8, 0, put [(nS, 0x7500, 1, 1), (nS, 0x7500, 2, 1)] (own .run 4), (ioRead (2 ^ 21 - 8) 8 (put [(nS, 0x7500, 1, 1), (nS, 0x7500, 2, 1)] (own .run 4))).1, [1, 0, 0, 0, 0, 0, 0, 0], [(2 ^ 18 - 1, 1)], by decide +kernel⟩,
   ⟨w0, 2, 0, st .run 5, by decide +kernel⟩⟩

theorem witness_FieldNetworks :
    (∃ (p role n : Nat) (ch : CertChain) (s : State),
    p < 2 ∧
    portUp s p = true ∧
    chainRole s ch = some role ∧
    freeSession s = some n) ∧
    (∃ (n : Nat) (x : Session) (s : State),
    n < 8 ∧
    tblFind s.cat.sessions n = some x ∧
    x.lastUse + getO s nV 0x1300 2 * 1000000000 ≤ now s) ∧
    (∃ (who : Requester) (p sub v : Nat) (row : ObjRow) (s : State),
    p < 2 ∧
    rowOf (nV / 2 ^ 24) (portIx p) sub = some row ∧
    row.acc ≠ .ro ∧
    row.acc ≠ .tk ∧
    v < 2 ^ (8 * row.ty.size)) ∧
    (∃ (p : Nat) (s : State),
    p < 2 ∧
    portUp s p = true) ∧
    (∃ (p : Nat) (s : State),
    p < 2 ∧
    s.modes.mode.on = true ∧
    getO s nV (portIx p) 1 = 1) ∧
    (∃ (p : Nat) (s : State), ∃ (n : Nat) (x : Session),
    p < 2 ∧
    portUp s p = true ∧
    tblFind s.cat.sessions n = some x ∧
    x.port = p) ∧
    (∃ (p : Nat) (s : State), ∃ (n : Nat) (x : Session), ∃ (b : List Byte),
    p < 2 ∧
    portUp s p = true ∧
    tblFind s.cat.sessions n = some x ∧
    x.port = p) :=
  ⟨⟨1, 5, 1, { length := 3, signaturesGood := true, anchor := some 0 }, put [(nV, 0x1101, 1, 1), (nV, 0x1101, 7, 2)] (st .run 4), by decide +kernel⟩,
   ⟨0, { port := 0, role := 4, lastUse := 0 }, put [(nV, 0x1300, 2, 1)] (st .run 4), by decide +kernel⟩,
   ⟨w0, 1, 6, 0, ((rowOf (nV / 2 ^ 24) 0x1101 6).get (by decide)), st .run 4, by decide +kernel⟩,
   ⟨1, put [(nV, 0x1101, 1, 1), (nV, 0x1101, 7, 2)] (st .run 4), by decide +kernel⟩,
   ⟨1, put [(nV, 0x1101, 1, 1)] (st .run 4), by decide +kernel⟩,
   ⟨0, put [(nV, 0x1100, 1, 1), (nV, 0x1100, 7, 2)] (st .run 4), 0, { port := 0, role := 4, lastUse := 0 }, by decide +kernel⟩,
   ⟨0, put [(nV, 0x1100, 1, 1), (nV, 0x1100, 7, 2)] (st .run 4), 0, { port := 0, role := 4, lastUse := 0 }, [], by decide +kernel⟩⟩

theorem witness_IntegerInstructions :
    (∃ (hart len : Nat) (s : State), ∃ (op : AluOp) (rd rs1 : Nat) (b : Src2),
    goes s hart ∧
    (len = 2 ∨ len = 4)) ∧
    (∃ (hart len : Nat) (s : State), ∃ (rd : Nat) (v : Word),
    goes s hart ∧
    (len = 2 ∨ len = 4)) ∧
    (∃ (hart len : Nat) (s : State), ∃ (rd rs1 : Nat) (v : Word),
    goes s hart ∧
    (len = 2 ∨ len = 4)) ∧
    (∃ (hart len : Nat) (s : State), ∃ (op : BranchOp) (rs1 rs2 : Nat) (v : Word),
    goes s hart ∧
    (len = 2 ∨ len = 4)) :=
  ⟨⟨0, 2, st .run 4, .add, 31, 0, .reg 31, by decide +kernel⟩,
   ⟨0, 4, st .run 4, 0, 0, by decide +kernel⟩,
   ⟨0, 4, st .run 4, 31, 31, 0, by decide +kernel⟩,
   ⟨0, 4, st .run 4, .eq, 0, 31, 0, by decide +kernel⟩⟩

theorem witness_TrapsAndReturns :
    (∃ (hart len : Nat) (s : State),
    goes s hart ∧
    (len = 2 ∨ len = 4) ∧
    (s.hart hart).excMode (8 + (s.hart hart).priv.level) = .m) ∧
    (∃ (hart len : Nat) (s : State),
    goes s hart ∧
    (len = 2 ∨ len = 4) ∧
    (s.hart hart).excMode (8 + (s.hart hart).priv.level) = .s) ∧
    (∃ (hart len : Nat) (s : State),
    goes s hart ∧
    (len = 2 ∨ len = 4) ∧
    (s.hart hart).priv = .m) ∧
    (∃ (hart len : Nat) (s : State),
    goes s hart ∧
    (len = 2 ∨ len = 4) ∧
    ((s.hart hart).priv = .m ∨ ((s.hart hart).priv = .s ∧ (s.hart hart).tsr = false))) ∧
    (∃ (hart len : Nat) (s : State),
    goes s hart ∧
    (len = 2 ∨ len = 4) ∧
    (s.hart hart).priv ≠ .m) :=
  ⟨⟨0, 4, st .run 4, by decide +kernel⟩,
   ⟨0, 4, on0 (fun h => ({ h with priv := .u }).withCsr 0x302 0x100) (st .run 4), by decide +kernel⟩,
   ⟨0, 4, st .run 4, by decide +kernel⟩,
   ⟨0, 4, on0 (fun h => { h with priv := .s }) (st .run 4), by decide +kernel⟩,
   ⟨0, 4, on0 (fun h => { h with priv := .u }) (st .run 4), by decide +kernel⟩⟩

theorem witness_LoadsAndStores :
    (∃ (hart rd rs1 size len : Nat) (off v : Word) (sg : Bool) (f w : Finding) (ks : List Int) (s t : State),
    goes s hart ∧
    (len = 2 ∨ len = 4) ∧
    findingOk false f = true ∧
    findingOk false w = true ∧
    readAccess hart { loadAccess with walk := w } ((s.hart hart).getX rs1 + off) size f s = (t, .ok v) ∧
    (size = 1 ∨ size = 2 ∨ size = 4 ∨ size = 8)) ∧
    (∃ (hart rd rs1 size len : Nat) (off v : Word) (sg : Bool) (f w : Finding) (ks : List Int) (s t : State),
    goes s hart ∧
    (len = 2 ∨ len = 4) ∧
    findingOk false f = true ∧
    findingOk false w = true ∧
    readAccess hart { loadAccess with walk := w } ((s.hart hart).getX rs1 + off) size f s = (t, .ok v) ∧
    (size = 4 ∨ size = 8) ∧
    (s.hart hart).fpOff = false) ∧
    (∃ (hart rs1 rs2 size len : Nat) (off v : Word) (fp : Bool) (w : Finding) (s t : State),
    goes s hart ∧
    (size = 4 ∨ size = 8 ∨ (fp = false ∧ (size = 1 ∨ size = 2))) ∧
    (len = 2 ∨ len = 4) ∧
    findingOk false w = true ∧
    ((fp = true → (s.hart hart).fpOff = false)) ∧
    writeAccess hart ((s.hart hart).getX rs1 + off) size (if fp then (s.hart hart).getF rs2 else (s.hart hart).getX rs2) w s = (t, .ok v)) ∧
    (∃ (hart rd rs1 size len : Nat) (off : Word) (sg : Bool) (f w : Finding) (ks : List Int) (s t : State) (x : Exc),
    goes s hart ∧
    (size = 1 ∨ size = 2 ∨ size = 4 ∨ size = 8) ∧
    (len = 2 ∨ len = 4) ∧
    findingOk false f = true ∧
    findingOk false w = true ∧
    readAccess hart { loadAccess with walk := w } ((s.hart hart).getX rs1 + off) size f s = (t, .exc x)) :=
  ⟨⟨0, 31, 0, 1, 2, 63, 0, true, .clean, .clean, [], inL2, (readAccess 0 { loadAccess with walk := .clean } 63 1 .clean inL2).1, by decide +kernel⟩,
   ⟨0, 31, 0, 8, 4, 56, 0, true, .correctable 9, .clean, [], on0 (fun h => h.withCsr 0x300 0xA00006600) inL2, (readAccess 0 { loadAccess with walk := .clean } 56 8 (.correctable 9) (on0 (fun h => h.withCsr 0x300 0xA00006600) inL2)).1, by decide +kernel⟩,
   ⟨0, 0, 31, 8, 4, 60, 0, false, .clean, loaded, (writeAccess 0 60 8 0 .clean loaded).1, by decide +kernel⟩,
   ⟨0, 31, 0, 8, 4, 0, true, .clean, .clean, [], st .run 4, (readAccess 0 { loadAccess with walk := .clean } 0 8 .clean (st .run 4)).1, .trap 5 0, by decide +kernel⟩⟩

theorem witness_Atomics :
    (∃ (hart size rd rs1 rs2 line : Nat) (op : AmoOp) (v : Word) (s t : State),
    goes s hart ∧
    (size = 4 ∨ size = 8) ∧
    atomicAccess hart amoAccess ((s.hart hart).getX rs1) size true (fun old => some (amoResult op size old (((s.hart hart).getX rs2).toNat % 2 ^ (8 * size)))) s = (t, .ok v, line)) ∧
    (∃ (hart size rd rs1 line : Nat) (v : Word) (s t : State),
    goes s hart ∧
    (size = 4 ∨ size = 8) ∧
    atomicAccess hart lrAccess ((s.hart hart).getX rs1) size true (fun _ => none) s = (t, .ok v, line)) ∧
    (∃ (hart size rd rs1 rs2 line : Nat) (p : Part) (ps : List Part) (v : Word) (s u t : State),
    goes s hart ∧
    (size = 4 ∨ size = 8) ∧
    ((s.hart hart).getX rs1).toNat % size = 0 ∧
    plan hart storeAccess ((s.hart hart).getX rs1) size s = (u, .parts (p :: ps)) ∧
    (u.hart hart).sb = [] ∧
    (u.hart hart).reserved ≠ some (p.pa / 64)) ∧
    (∃ (hart size rd rs1 rs2 line : Nat) (p : Part) (ps : List Part) (v : Word) (s u t : State),
    goes s hart ∧
    (size = 4 ∨ size = 8) ∧
    ((s.hart hart).getX rs1).toNat % size = 0 ∧
    plan hart storeAccess ((s.hart hart).getX rs1) size s = (u, .parts (p :: ps)) ∧
    (u.hart hart).sb = [] ∧
    (u.hart hart).reserved = some (p.pa / 64) ∧
    atomicAccess hart amoAccess ((s.hart hart).getX rs1) size false (fun _ => some (((s.hart hart).getX rs2).toNat % 2 ^ (8 * size))) s = (t, .ok v, line)) ∧
    (∃ (hart line k : Nat) (s : State),
    k ≠ hart ∧
    k / 12 = hart / 12) :=
  ⟨⟨0, 8, 31, 0, 0, 0, .minu, 0, inL2, (atomicAccess 0 amoAccess 0 8 true (fun old => some (amoResult .minu 8 old 0)) inL2).1, by decide +kernel⟩,
   ⟨0, 4, 31, 0, 0, 0, inL2, (atomicAccess 0 lrAccess 0 4 true (fun _ => none) inL2).1, by decide +kernel⟩,
   ⟨0, 8, 31, 0, 0, 0, (partsOf (plan 0 storeAccess 0 8 inL2).2).headD noPart, [], 0, inL2, (plan 0 storeAccess 0 8 inL2).1, inL2, by decide +kernel⟩,
   ⟨0, 4, 31, 0, 0, 0, (partsOf (plan 0 storeAccess 0 4 inL2R).2).headD noPart, [], 0, inL2R, (plan 0 storeAccess 0 4 inL2R).1, (atomicAccess 0 amoAccess 0 4 false (fun _ => some 0) inL2R).1, by decide +kernel⟩,
   ⟨0, 0, 11, st .run 4, by decide +kernel⟩⟩

theorem witness_FencesAndBlocks :
    (∃ (hart rs1 rs2 : Nat) (pred succ : FenceSet) (tso : Bool) (s : State),
    goes s hart ∧
    ((s.hart hart).sb = [] ∨ (tso = false ∧ (pred.w = false ∧ pred.o = false ∨ succ = {})))) ∧
    (∃ (hart rs1 rs2 : Nat) (pred succ : FenceSet) (tso : Bool) (s : State),
    goes s hart ∧
    (s.hart hart).sb ≠ [] ∧
    (tso = true ∨ (pred.w = true ∧ (succ.r = true ∨ succ.w = true)))) ∧
    (∃ (hart rs1 rs2 : Nat) (pred succ : FenceSet) (tso : Bool) (s : State),
    goes s hart ∧
    (s.hart hart).sb ≠ [] ∧
    (s.hart hart).fiom = true ∧
    (pred.w = true ∨ pred.o = true) ∧
    succ ≠ {}) ∧
    (∃ (hart rs1 rs2 : Nat) (pred succ : FenceSet) (tso : Bool) (s : State),
    goes s hart ∧
    (s.hart hart).sb ≠ []) ∧
    (∃ (hart rs1 rs2 : Nat) (pred succ : FenceSet) (tso : Bool) (s : State),
    goes s hart ∧
    (s.hart hart).sb = []) ∧
    (∃ (hart rs1 rs2 : Nat) (pred succ : FenceSet) (tso : Bool) (s : State),
    goes s hart ∧
    (s.hart hart).sb = [] ∧
    ((s.hart hart).priv = .m ∨ ((s.hart hart).priv = .s ∧ (s.hart hart).tvm = false))) ∧
    (∃ (hart rs1 : Nat) (k : ReqKind) (p : Part) (ps : List Part) (s t u : State),
    goes s hart ∧
    (t.hart hart).sb = [] ∧
    (s.hart hart).envOk 6 = true ∧
    planPart hart (cboAccess false) ((s.hart hart).getX rs1) 0 1 true s = (t, .parts (p :: ps)) ∧
    cohMaintain .cmoClean (hart / 12) ((partOfHart t hart).getD 0) (p.pa / 64) t = (u, true)) ∧
    (∃ (hart rs1 : Nat) (k : ReqKind) (p : Part) (ps : List Part) (s t u : State),
    goes s hart ∧
    (t.hart hart).sb = [] ∧
    (s.hart hart).envOk 6 = true ∧
    planPart hart (cboAccess false) ((s.hart hart).getX rs1) 0 1 true s = (t, .parts (p :: ps)) ∧
    cohMaintain .cmoFlush (hart / 12) ((partOfHart t hart).getD 0) (p.pa / 64) t = (u, true)) ∧
    (∃ (hart rs1 : Nat) (k : ReqKind) (p : Part) (ps : List Part) (s t u : State),
    goes s hart ∧
    (t.hart hart).sb = [] ∧
    (s.hart hart).invalKind = some k ∧
    planPart hart (cboAccess (k == .cmoInval)) ((s.hart hart).getX rs1) 0 1 true s = (t, .parts (p :: ps)) ∧
    cohMaintain k (hart / 12) ((partOfHart t hart).getD 0) (p.pa / 64) t = (u, true)) ∧
    (∃ (hart rs1 : Nat) (k : ReqKind) (p : Part) (ps : List Part) (s t u : State),
    goes s hart ∧
    (t.hart hart).sb = [] ∧
    (s.hart hart).envOk 7 = true ∧
    planPart hart cboZeroAccess ((s.hart hart).getX rs1) 0 1 true s = (t, .parts (p :: ps)) ∧
    p.pbmt = 0 ∧
    l2Zero hart (p.pa / 64) t = (u, true)) :=
  ⟨⟨0, 0, 0, { r := true, w := true }, {}, false, on0 (fun h => { h with sb := [{ line := 0, data := 0, mask := 1, whole := 0 }] }) (st .run 4), by decide +kernel⟩,
   ⟨0, 0, 0, { w := true }, { r := true }, false, on0 (fun h => { h with sb := [{ line := 0, data := 0, mask := 1, whole := 0 }] }) (st .run 4), by decide +kernel⟩,
   ⟨0, 0, 0, { o := true }, { i := true }, false, on0 (fun h => { (h.withCsr 0x30A 1) with priv := .u, sb := [{ line := 0, data := 0, mask := 1, whole := 0 }] }) (st .run 4), by decide +kernel⟩,
   ⟨0, 0, 0, {}, {}, false, on0 (fun h => { h with sb := [{ line := 0, data := 0, mask := 1, whole := 0 }] }) (st .run 4), by decide +kernel⟩,
   ⟨0, 0, 0, {}, {}, false, st .run 4, by decide +kernel⟩,
   ⟨0, 0, 31, {}, {}, false, on0 (fun h => { h with priv := .s }) (st .run 4), by decide +kernel⟩,
   ⟨0, 0, .cmoClean, (partsOf (planPart 0 (cboAccess false) 0 0 1 true inL2).2).headD noPart, [], inL2, (planPart 0 (cboAccess false) 0 0 1 true inL2).1, (cohMaintain .cmoClean 0 0 0 inL2).1, by decide +kernel⟩,
   ⟨0, 0, .cmoFlush, (partsOf (planPart 0 (cboAccess false) 0 0 1 true inL2).2).headD noPart, [], inL2, (planPart 0 (cboAccess false) 0 0 1 true inL2).1, (cohMaintain .cmoFlush 0 0 0 inL2).1, by decide +kernel⟩,
   ⟨0, 0, .cmoInval, (partsOf (planPart 0 (cboAccess true) 0 0 1 true inL2).2).headD noPart, [], inL2, (planPart 0 (cboAccess true) 0 0 1 true inL2).1, (cohMaintain .cmoInval 0 0 0 inL2).1, by decide +kernel⟩,
   ⟨0, 0, .cmoInval, (partsOf (planPart 0 cboZeroAccess 0 0 1 true inL2).2).headD noPart, [], inL2, (planPart 0 cboZeroAccess 0 0 1 true inL2).1, (l2Zero 0 0 (planPart 0 cboZeroAccess 0 0 1 true inL2).1).1, by decide +kernel⟩⟩

theorem witness_NamedCsrWrites :
    (∃ (hart : Nat) (v : Word) (s : State),
    goes s hart ∧
    (s.hart hart).csrLegal 0x180 true = true) ∧
    (∃ (hart : Nat) (v : Word) (s : State),
    goes s hart ∧
    (s.hart hart).priv = .m) ∧
    (∃ (hart : Nat) (v : Word) (s : State),
    goes s hart ∧
    (s.hart hart).priv ≠ .m) ∧
    (∃ (hart : Nat) (v : Word) (s : State),
    goes s hart ∧
    (s.hart hart).csrLegal 0x180 true = false) :=
  ⟨⟨0, 0, on0 (fun h => { h with priv := .s }) (st .run 4), by decide +kernel⟩,
   ⟨0, 0, st .run 4, by decide +kernel⟩,
   ⟨0, 0, on0 (fun h => { h with priv := .u }) (st .run 4), by decide +kernel⟩,
   ⟨0, 0, on0 (fun h => { h with priv := .u }) (st .run 4), by decide +kernel⟩⟩

theorem witness_VectorInstructions :
    (∃ (hart r w rs1 k : Nat) (a : VecAddr) (m ff : Bool) (ks : List (Nat × Int)) (es : List SbEntry) (s t u : State),
    goes s hart ∧
    r < 32 ∧
    (s.hart hart).vecMemOk r w k a m true = true ∧
    (ff = false ∨ a = .unit) ∧
    vecLoadFrom hart (s.hart hart) ({ reg := r, width := w, rs1 := rs1, fields := k, addrs := a, masked := m }) ks ((s.hart hart).memCount w a - (s.hart hart).vstart) (s.hart hart).vstart s = (t, none)) ∧
    (∃ (hart r w rs1 k : Nat) (a : VecAddr) (m ff : Bool) (ks : List (Nat × Int)) (es : List SbEntry) (s t u : State),
    goes s hart ∧
    r < 32 ∧
    (s.hart hart).vecMemOk r w k a m false = true ∧
    vecStoreFrom hart (s.hart hart) ({ reg := r, width := w, rs1 := rs1, fields := k, addrs := a, masked := m }) ((s.hart hart).memCount w a - (s.hart hart).vstart) (s.hart hart).vstart [] s = (t, es, none) ∧
    vecBuffer hart es t = (u, true)) ∧
    (∃ (hart vd vs2 : Nat) (op : VAlu) (src : VecSrc) (m : Bool) (s : State),
    goes s hart ∧
    vecCompare op = false ∧
    op ≠ .merge ∧
    (∀ rm w a b, fixedResult op rm w a b = none) ∧
    (s.hart hart).vecReady = true ∧
    vecForm op src = true ∧
    eewOk (maskSource m ++ [(s.hart hart).source vs2 (s.hart hart).sew] ++ (s.hart hart).sourceOf src (s.hart hart).sew ++ if [VAlu.macc, .nmsac, .madd, .nmsub].contains op then [(s.hart hart).source vd (s.hart hart).sew] else []) = true ∧
    (s.hart hart).destOk vd (s.hart hart).sew m = true ∧
    (s.hart hart).vsOk vs2 (s.hart hart).sew vd (s.hart hart).sew = true ∧
    (s.hart hart).srcOk src (s.hart hart).sew vd (s.hart hart).sew = true) ∧
    (∃ (hart rd : Nat) (avl vt : Src2) (s : State), ∃ (n : Nat),
    goes s hart ∧
    (s.hart hart).vecOff = false ∧
    (s.hart hart).avl rd avl = some n ∧
    vtypeOk (match vt with
      | .imm v => v &&& 0x7FF
      | .reg n => (s.hart hart).getX n) = true) ∧
    (∃ (hart rd : Nat) (avl vt : Src2) (s : State),
    goes s hart ∧
    (s.hart hart).vecOff = false ∧
    (s.hart hart).avl rd avl = none ∧
    vtypeOk (match vt with
      | .imm v => v &&& 0x7FF
      | .reg n => (s.hart hart).getX n) = true ∧
    (s.hart hart).vill = false ∧
    vlmax (match vt with
      | .imm v => v &&& 0x7FF
      | .reg n => (s.hart hart).getX n) = (s.hart hart).vlmax) ∧
    (∃ (hart rd : Nat) (avl vt : Src2) (s : State),
    goes s hart ∧
    (s.hart hart).vecOff = false ∧
    vtypeOk (match vt with
      | .imm v => v &&& 0x7FF
      | .reg n => (s.hart hart).getX n) = false) :=
  ⟨⟨0, 31, 1, 0, 1, .unit, false, true, [], [], vecState, (vecLoadFrom 0 (vecState.hart 0) { reg := 31, width := 1, rs1 := 0, fields := 1, addrs := .unit, masked := false } [] 1 0 vecState).1, vecState, by decide +kernel⟩,
   ⟨0, 31, 1, 0, 1, .unit, false, false, [], (vecStoreFrom 0 (vecState.hart 0) { reg := 31, width := 1, rs1 := 0, fields := 1, addrs := .unit, masked := false } 1 0 [] vecState).2.1, vecState, (vecStoreFrom 0 (vecState.hart 0) { reg := 31, width := 1, rs1 := 0, fields := 1, addrs := .unit, masked := false } 1 0 [] vecState).1, (vecBuffer 0 (vecStoreFrom 0 (vecState.hart 0) { reg := 31, width := 1, rs1 := 0, fields := 1, addrs := .unit, masked := false } 1 0 [] vecState).2.1 (vecStoreFrom 0 (vecState.hart 0) { reg := 31, width := 1, rs1 := 0, fields := 1, addrs := .unit, masked := false } 1 0 [] vecState).1).1, by decide +kernel⟩,
   ⟨0, 31, 1, .rsub, .scalar 2, false, vecState, by decide +kernel, by decide, by decide, fun _ _ _ _ => rfl, by decide +kernel⟩,
   ⟨0, 31, .reg 5, .imm 0xC3, vecState, 0, by decide +kernel⟩,
   ⟨0, 0, .reg 0, .imm 0, vecState, by decide +kernel⟩,
   ⟨0, 31, .imm 4, .imm 4, vecState, by decide +kernel⟩⟩

theorem witness_WaitsAndInterrupts :
    (∃ (hart : Nat) (s : State),
    goes s hart ∧
    ((s.hart hart).priv = .m ∨ ((s.hart hart).priv = .s ∧ (s.hart hart).tw = false)) ∧
    wakes (heard s hart) (now s) = false) ∧
    (∃ (hart : Nat) (s : State),
    goes s hart ∧
    ((s.hart hart).priv = .m ∨ ((s.hart hart).priv = .s ∧ (s.hart hart).tw = false)) ∧
    wakes (heard s hart) (now s) = true) ∧
    (∃ (hart : Nat) (sup : Bool) (s : State),
    hart < 264 ∧
    s.modes.mode.active = true ∧
    (s.hart hart).run = .wfi ∧
    wakes (heard s hart) (now s) = true ∧
    (if sup then (s.hart hart).stce && decide (((s.hart hart).csrOf 0x14D).toNat ≤ now s) else decide (((s.hart hart).csrOf 0x7C3).toNat ≤ now s)) = true) ∧
    (∃ (hart cause : Nat) (s : State),
    goes s hart ∧
    takeable (heard s hart) (now s) = some (cause, .m)) ∧
    (∃ (hart cause : Nat) (s : State),
    goes s hart ∧
    takeable (heard s hart) (now s) = some (cause, .s)) :=
  ⟨⟨0, st .run 4, by decide +kernel⟩,
   ⟨0, on0 (fun h => ((h.withCsr 0x304 0xA0).withCsr 0x7C3 0).withCsr 0x300 0xA00000000) (st .run 4), by decide +kernel⟩,
   ⟨0, false, on0 (fun h => { (h.withCsr 0x304 0xA0).withCsr 0x7C3 1000000000000 with run := .wfi }) (st .run 4), by decide +kernel⟩,
   ⟨0, 7, on0 (fun h => ((h.withCsr 0x304 0xA0).withCsr 0x7C3 0).withCsr 0x300 0xA00000008) (st .run 4), by decide +kernel⟩,
   ⟨0, 5, on0 (fun h => { ((((h.withCsr 0x304 0xA0).withCsr 0x303 0x20).withCsr 0x30A 0x8000000000000000).withCsr 0x14D 0) with priv := .u }) (st .run 4), by decide +kernel⟩⟩

theorem witness_WayActions :
    (∃ (who : Requester) (g v : Nat) (s : State), ∃ (op : Nat),
    g < 22 ∧
    1 ≤ op ∧
    op ≤ 4 ∧
    reaches .wo who (nGal g) 0x6120 1 (withOp v op) s = true ∧
    lockRefusal who g (withOp v op) ((fun (op : Nat) => arrived who (nGal g) 0x6120 1 (withOp v op) s) op) = 0 ∧
    op = 1 ∧
    openReady (if fenced ((fun (op : Nat) => arrived who (nGal g) 0x6120 1 (withOp v op) s) 1) g then (fun (op : Nat) => arrived who (nGal g) 0x6120 1 (withOp v op) s) 1 else emptyWay g (v / 16 % 16) ((fun (op : Nat) => arrived who (nGal g) 0x6120 1 (withOp v op) s) 1)) g = true) ∧
    (∃ (who : Requester) (g v : Nat) (s : State), ∃ (op : Nat),
    g < 22 ∧
    1 ≤ op ∧
    op ≤ 4 ∧
    reaches .wo who (nGal g) 0x6120 1 (withOp v op) s = true ∧
    lockRefusal who g (withOp v op) ((fun (op : Nat) => arrived who (nGal g) 0x6120 1 (withOp v op) s) op) = 0 ∧
    op = 1 ∧
    openReady (if fenced ((fun (op : Nat) => arrived who (nGal g) 0x6120 1 (withOp v op) s) 1) g then (fun (op : Nat) => arrived who (nGal g) 0x6120 1 (withOp v op) s) 1 else emptyWay g (v / 16 % 16) ((fun (op : Nat) => arrived who (nGal g) 0x6120 1 (withOp v op) s) 1)) g = false) ∧
    (∃ (who : Requester) (g v : Nat) (s : State), ∃ (op : Nat),
    g < 22 ∧
    1 ≤ op ∧
    op ≤ 4 ∧
    reaches .wo who (nGal g) 0x6120 1 (withOp v op) s = true ∧
    lockRefusal who g (withOp v op) ((fun (op : Nat) => arrived who (nGal g) 0x6120 1 (withOp v op) s) op) = 0 ∧
    op = 2) ∧
    (∃ (who : Requester) (g v : Nat) (s : State), ∃ (op : Nat),
    g < 22 ∧
    1 ≤ op ∧
    op ≤ 4 ∧
    reaches .wo who (nGal g) 0x6120 1 (withOp v op) s = true ∧
    lockRefusal who g (withOp v op) ((fun (op : Nat) => arrived who (nGal g) 0x6120 1 (withOp v op) s) op) = 0 ∧
    op = 3) ∧
    (∃ (who : Requester) (g v : Nat) (s : State), ∃ (op : Nat),
    g < 22 ∧
    1 ≤ op ∧
    op ≤ 4 ∧
    reaches .wo who (nGal g) 0x6120 1 (withOp v op) s = true ∧
    lockRefusal who g (withOp v op) ((fun (op : Nat) => arrived who (nGal g) 0x6120 1 (withOp v op) s) op) = 0 ∧
    op = 4) ∧
    (∃ (who : Requester) (g v : Nat) (s : State),
    g < 22 ∧
    reaches .wo who (nGal g) 0x6120 1 (withOp v 1) s = true ∧
    lockRefusal who g (withOp v 1) ((fun (op : Nat) => arrived who (nGal g) 0x6120 1 (withOp v op) s) 1) ≠ 0) ∧
    (∃ (who : Requester) (g v : Nat) (s : State),
    g < 22 ∧
    reaches .rwp who (nGal g) 0x6100 1 v s = true ∧
    getO (arrived who (nGal g) 0x6100 1 v s) (nGal g) 0x6100 1 ≠ v ∧
    ([0, 1, 2].any fun k => match partOfCluster (arrived who (nGal g) 0x6100 1 v s) (3 * g + k) with | some p => partState (arrived who (nGal g) 0x6100 1 v s) p == 3 | none => false) = false) ∧
    (∃ (who : Requester) (g v : Nat) (s : State),
    g < 22 ∧
    reaches .wo who (nGal g) 0x6100 6 1 s = true ∧
    s.modes.mode = .service) :=
  ⟨⟨w0, 0, 0xF0, locks, 1, by decide +kernel⟩,
   ⟨w0, 0, 0xF0, put [(nGal 0, 0x6000, 7, 1)] locks, 1, by decide +kernel⟩,
   ⟨w0, 0, 0xF0, put [(nGal 0, 0x6110, 16, 1)] locks, 2, by decide +kernel⟩,
   ⟨w0, 0, 0x0, put [(nGal 0, 0x6110, 1, 2)] locks, 3, by decide +kernel⟩,
   ⟨w0, 0, 0x0, put [(nGal 0, 0x6110, 1, 1)] locks, 4, by decide +kernel⟩,
   ⟨w0, 21, 0, st .run 4, by decide +kernel⟩,
   ⟨w0, 21, 1, st .run 4, by decide +kernel⟩,
   ⟨w0, 21, 0, st .service 4, by decide +kernel⟩⟩

theorem witness_VitrineInstructions :
    (∃ (hart rd rs1 rs2 : Nat) (s : State), ∃ (t : State) (b : List Byte),
    goes s hart ∧
    (s.hart hart).sb = [] ∧
    vitRuns s (hart / 4) = true ∧
    (s.hart hart).vitSuper = true ∧
    (((s.hart hart).getX rs2).toNat) ≤ 3 ∧
    loadable (s.vit (hart / 4)) (((s.hart hart).getX rs2).toNat) = true ∧
    ((((s.hart hart).getX rs1).toNat) % 64 == 0 && vitRange s (hart / 4) (((s.hart hart).getX rs1).toNat) 640) = true ∧
    cohBytes ((hart / 4) / 3) (vitPart s (hart / 4)) (((s.hart hart).getX rs1).toNat) 640 s = (t, some (b, [])) ∧
    loadCode t (hart / 4) (((s.hart hart).getX rs2).toNat) b = 0) ∧
    (∃ (hart rd rs1 rs2 : Nat) (s : State), ∃ (t : State) (b : List Byte),
    goes s hart ∧
    (s.hart hart).sb = [] ∧
    vitRuns s (hart / 4) = true ∧
    (s.hart hart).vitSuper = true ∧
    (((s.hart hart).getX rs2).toNat) ≤ 3 ∧
    loadable (s.vit (hart / 4)) (((s.hart hart).getX rs2).toNat) = true ∧
    ((((s.hart hart).getX rs1).toNat) % 64 == 0 && vitRange s (hart / 4) (((s.hart hart).getX rs1).toNat) 640) = true ∧
    cohBytes ((hart / 4) / 3) (vitPart s (hart / 4)) (((s.hart hart).getX rs1).toNat) 640 s = (t, some (b, [])) ∧
    loadCode t (hart / 4) (((s.hart hart).getX rs2).toNat) b ≠ 0) ∧
    (∃ (hart rd rs1 rs2 : Nat) (s : State),
    goes s hart ∧
    (s.hart hart).sb = [] ∧
    vitRuns s (hart / 4) = true ∧
    (s.hart hart).vitSuper = true ∧
    (((s.hart hart).getX rs1).toNat) ≤ 3 ∧
    armCode s (hart / 4) (((s.hart hart).getX rs1).toNat) = 0) ∧
    (∃ (hart rd rs1 rs2 : Nat) (s : State),
    goes s hart ∧
    (s.hart hart).sb = [] ∧
    vitRuns s (hart / 4) = true ∧
    (s.hart hart).vitSuper = true ∧
    (((s.hart hart).getX rs1).toNat) ≤ 3 ∧
    armCode s (hart / 4) (((s.hart hart).getX rs1).toNat) ≠ 0) ∧
    (∃ (hart rd rs1 rs2 : Nat) (s : State),
    goes s hart ∧
    (s.hart hart).sb = [] ∧
    vitRuns s (hart / 4) = true ∧
    (s.hart hart).vitSuper = true ∧
    (((s.hart hart).getX rs1).toNat) ≤ 3 ∧
    2 ≤ ((s.vit (hart / 4)).slotAt (((s.hart hart).getX rs1).toNat)).state ∧
    ((vitWaiting s (hart / 4)).any fun r => leAt r 3 1 == (((s.hart hart).getX rs1).toNat) && ofStep r) = false) ∧
    (∃ (hart rd rs1 rs2 : Nat) (s : State), ∃ (t : State) (d : List Byte),
    goes s hart ∧
    (s.hart hart).sb = [] ∧
    vitRuns s (hart / 4) = true ∧
    (s.hart hart).vitUser = true ∧
    (((s.hart hart).getX rs2).toNat) ≤ 3 ∧
    ((s.vit (hart / 4)).slotAt (((s.hart hart).getX rs2).toNat)).state ≠ 0 ∧
    ((s.vit (hart / 4)).slotAt (((s.hart hart).getX rs2).toNat)).state ≠ 2 ∧
    (s.vit (hart / 4)).jobs.length < 16 ∧
    (blkQueue ((s.vit (hart / 4)).slotAt (((s.hart hart).getX rs2).toNat)).block = 0xFFFFFFFF ∨ ownQueue s (hart / 4) (blkQueue ((s.vit (hart / 4)).slotAt (((s.hart hart).getX rs2).toNat)).block) = true) ∧
    ((((s.hart hart).getX rs1).toNat) % 64 == 0 && vitRange s (hart / 4) (((s.hart hart).getX rs1).toNat) 64) = true ∧
    cohBytes ((hart / 4) / 3) (vitPart s (hart / 4)) (((s.hart hart).getX rs1).toNat) 64 s = (t, some (d, [])) ∧
    jobRanges t (hart / 4) ((s.vit (hart / 4)).slotAt (((s.hart hart).getX rs2).toNat)).block d = true) :=
  ⟨⟨0, 31, 1, 2, vitState, _, block, by decide +kernel, by decide +kernel, by decide +kernel, by decide +kernel, by decide +kernel, by decide +kernel, by decide +kernel, read_block (by decide +kernel) (by decide +kernel) (by decide +kernel), block_loads (by decide +kernel) (by decide +kernel)⟩,
   ⟨0, 31, 1, 2, ram [(0, 2)] vitState, _, 2 :: List.replicate 639 0, by decide +kernel, by decide +kernel, by decide +kernel, by decide +kernel, by decide +kernel, by decide +kernel, by decide +kernel, read_bad_block (by decide +kernel) (by decide +kernel) (by decide +kernel), bad_block_code (by decide +kernel) (by decide +kernel)⟩,
   ⟨0, 31, 2, 1, ring (vitSlot 1 vitState), by decide +kernel⟩,
   ⟨0, 31, 2, 1, vitSlot 1 vitState, by decide +kernel⟩,
   ⟨0, 31, 2, 1, vitSlot 3 vitState, by decide +kernel⟩,
   ⟨0, 31, 1, 2, ram [(9, 2), (12, 1), (17, 3), (24, 64)] (vitSlot 3 vitState), (cohBytes 0 0 0 64 (ram [(9, 2), (12, 1), (17, 3), (24, 64)] (vitSlot 3 vitState))).1, (List.range 64).map fun i => if i = 9 then 2 else if i = 12 then 1 else if i = 17 then 3 else if i = 24 then 64 else 0, by decide +kernel⟩⟩

theorem witness_VitrineWork :
    (∃ (v r l c : Nat) (s : State),
    v < 66 ∧
    r < 256 ∧
    s.modes.mode.active = true ∧
    s.acc.notices.contains (v, r, l, c) = true ∧
    fenced s (v / 3) = false ∧
    armedOn (s.vit v) r ≠ [] ∧
    (s.vit v).notices.length < 64) ∧
    (∃ (v r l c : Nat) (s : State),
    v < 66 ∧
    r < 256 ∧
    s.modes.mode.active = true ∧
    s.acc.notices.contains (v, r, l, c) = true ∧
    fenced s (v / 3) = false ∧
    armedOn (s.vit v) r ≠ [] ∧
    64 ≤ (s.vit v).notices.length) ∧
    (∃ (v slot : Nat) (n : Notice) (more : List Notice) (rest : List Nat) (f : ArrayFinding) (s t : State),
    v < 66 ∧
    vitRuns s v = true ∧
    vitWaiting s v = [] ∧
    (s.vit v).notices = n :: more ∧
    n.slots = slot :: rest ∧
    stepFound v slot n f (setVit v (noticeDone slot (s.vit v)) s) = some t) ∧
    (∃ (v : Nat) (j : Job) (more : List Job) (f : ArrayFinding) (s t : State),
    v < 66 ∧
    vitRuns s v = true ∧
    vitWaiting s v = [] ∧
    (s.vit v).notices = [] ∧
    (s.vit v).jobs = j :: more ∧
    jobFound v j f s = some t) ∧
    (∃ (hart rd rs1 : Nat) (s : State), ∃ (code : Nat),
    goes s hart ∧
    (s.hart hart).sb = [] ∧
    vitRuns s (hart / 4) = true ∧
    (s.hart hart).vitUser = true ∧
    0 < (((s.hart hart).getX rs1).toNat) ∧
    (((s.hart hart).getX rs1).toNat) ≤ (s.vit (hart / 4)).tickets ∧
    (s.vit (hart / 4)).ended.lookup (((s.hart hart).getX rs1).toNat) = some code ∧
    jobWaiting s (hart / 4) (((s.hart hart).getX rs1).toNat) = false) ∧
    (∃ (hart rd rs1 : Nat) (s : State),
    goes s hart ∧
    (s.hart hart).sb = [] ∧
    vitRuns s (hart / 4) = true ∧
    (s.hart hart).vitUser = true ∧
    (((s.hart hart).getX rs1).toNat) ≤ 3) ∧
    (∃ (hart rd rs1 : Nat) (s : State),
    goes s hart ∧
    (s.hart hart).sb = [] ∧
    vitRuns s (hart / 4) = true ∧
    (s.hart hart).vitSuper = false) :=
  ⟨⟨65, 255, 7, 1, noticed 255 0, by decide +kernel⟩,
   ⟨65, 255, 7, 1, noticed 255 64, by decide +kernel⟩,
   ⟨0, 3, { ring := 255, line := 0, cover := 1, slots := [3] }, [], [], .clean, stepping, (stepFound 0 3 { ring := 255, line := 0, cover := 1, slots := [3] } .clean (setVit 0 (noticeDone 3 (stepping.vit 0)) stepping)).getD {}, by decide +kernel⟩,
   ⟨0, { slot := 3, ticket := 2, desc := [] }, [], .clean, working, (jobFound 0 { slot := 3, ticket := 2, desc := [] } .clean working).getD {}, by decide +kernel⟩,
   ⟨0, 31, 3, on0 (fun h => { h with x := [(3, 1)] }) (vitSlot 3 vitState), 0, by decide +kernel⟩,
   ⟨0, 31, 2, vitSlot 3 vitState, by decide +kernel⟩,
   ⟨0, 31, 2, on0 (fun h => { h with priv := .u }) vitState, by decide +kernel⟩⟩

theorem witness_ArrayErrors :
    (∃ (hart array entry : Nat) (w : BitVec 8) (fatal : Bool) (s : State),
    hart < 264 ∧
    array < 5 ∧
    hartRuns s hart = true) ∧
    (∃ (hart way set line : Nat) (w : BitVec 8) (fatal : Bool) (s : State),
    hart < 264 ∧
    way < 16 ∧
    set < 16384 ∧
    hartRuns s hart = true ∧
    wayEnabled s (hart / 12) way = true ∧
    slotLine s (hart / 12) way set = some line) ∧
    (∃ (hart way set : Nat) (w : BitVec 8) (fatal : Bool) (s : State),
    hart < 264 ∧
    way < 16 ∧
    set < 16384 ∧
    hartRuns s hart = true ∧
    wayEnabled s (hart / 12) way = true) ∧
    (∃ (h : Hart) (array entry : Nat) (w : BitVec 8),
    array ≠ 3) ∧
    (∃ (g line : Nat) (w : BitVec 8) (s : State),
    ((s.l2 g line).st = .e ∨ (s.l2 g line).st = .s)) ∧
    (∃ (g line : Nat) (w : BitVec 8) (s : State),
    (s.l2 g line).st = .m) ∧
    (∃ (g line : Nat) (w : BitVec 8) (s : State), ∃ i,
    (s.l2 g line).st = .m ∧
    i < 8) ∧
    (∃ (g w p line : Nat) (s : State),
    p < 16 ∧
    wayOwner s g w (some (s.l2 g line)) = some p) :=
  ⟨⟨0, 4, 0, 0, true, st .run 4, by decide +kernel⟩,
   ⟨0, 0, 0, 0, 1, true, inL2, by decide +kernel⟩,
   ⟨0, 15, 16383, 1, true, st .run 4, by decide +kernel⟩,
   ⟨{}, 2, 0, 1, by decide +kernel⟩,
   ⟨0, 0, 1, { own .run 4 with caches := { l2 := [(0, { st := .e })] } }, by decide +kernel⟩,
   ⟨0, 0, 1, inL2, by decide +kernel⟩,
   ⟨0, 0, 1, inL2, 7, by decide +kernel⟩,
   ⟨0, 15, 0, 0, put [(nGal 0, 0x6101, 1, 0xFFFF)] inL2, by decide +kernel⟩⟩

theorem witness_PartitionLife :
    (∃ (who : Requester) (ix sub v : Nat) (s t : State),
    0x7000 ≤ ix ∧
    ix ≤ 0x703F ∧
    reaches .rwp who nS ix sub v s = true ∧
    rulePartition ix sub v (arrived who nS ix sub v s) = answered t) ∧
    (∃ (who : Requester) (ix sub v : Nat) (s : State),
    0x7000 ≤ ix ∧
    ix ≤ 0x703F ∧
    reaches .rwp who nS ix sub v s = true ∧
    promoting (arrived who nS ix sub v s) = true) ∧
    (∃ (who : Requester) (p : Nat) (f : Bool) (s t : State),
    reaches .wo who nS 0x7050 1 p s = true ∧
    startRefusal (arrivedWith f who nS 0x7050 1 p s) p = 0 ∧
    startWaits (arrivedWith f who nS 0x7050 1 p s) p = false ∧
    runStart p f (arrivedWith f who nS 0x7050 1 p s) = (t, true)) ∧
    (∃ (who : Requester) (p : Nat) (f : Bool) (s t : State),
    reaches .wo who nS 0x7050 1 p s = true ∧
    startRefusal (arrivedWith f who nS 0x7050 1 p s) p = 0 ∧
    startWaits (arrivedWith f who nS 0x7050 1 p s) p = false ∧
    runStart p f (arrivedWith f who nS 0x7050 1 p s) = (t, true) ∧
    p < 16) ∧
    (∃ (who : Requester) (p n : Nat) (s t : State),
    reaches .wo who nS 0x7050 2 p s = true ∧
    mayStop (arrived who nS 0x7050 2 p s) p = true ∧
    beginStop p { action := some (who, (arrived who nS 0x7050 2 p s).cat.nextTag) } (arrived who nS 0x7050 2 p s) = (t, n)) ∧
    (∃ (who : Requester) (p n : Nat) (s t : State),
    reaches .wo who nS 0x7050 2 p s = true ∧
    mayStop (arrived who nS 0x7050 2 p s) p = true ∧
    beginStop p { action := some (who, (arrived who nS 0x7050 2 p s).cat.nextTag) } (arrived who nS 0x7050 2 p s) = (t, n) ∧
    domState (arrived who nS 0x7050 2 p s) p = 0) ∧
    (∃ (who : Requester) (p n : Nat) (s t : State),
    reaches .wo who nS 0x7050 2 p s = true ∧
    mayStop (arrived who nS 0x7050 2 p s) p = true ∧
    beginStop p { action := some (who, (arrived who nS 0x7050 2 p s).cat.nextTag) } (arrived who nS 0x7050 2 p s) = (t, n) ∧
    domState (arrived who nS 0x7050 2 p s) p ≠ 0) ∧
    (∃ (who : Requester) (p n : Nat) (f : Bool) (s t : State),
    reaches .wo who nS 0x7050 3 p s = true ∧
    mayStop (arrivedWith f who nS 0x7050 3 p s) p = true ∧
    beginStop p { action := (some (who, (arrivedWith f who nS 0x7050 3 p s).cat.nextTag)), restart := true, flash := f } (arrivedWith f who nS 0x7050 3 p s) = (t, n) ∧
    n = 1) ∧
    (∃ (who : Requester) (p n : Nat) (f : Bool) (s t : State), ∃ (u : State) (st d : Nat),
    reaches .wo who nS 0x7050 3 p s = true ∧
    mayStop (arrivedWith f who nS 0x7050 3 p s) p = true ∧
    beginStop p { action := (some (who, (arrivedWith f who nS 0x7050 3 p s).cat.nextTag)), restart := true, flash := f } (arrivedWith f who nS 0x7050 3 p s) = (t, n) ∧
    n = 0 ∧
    relaunch p (some (who, (arrivedWith f who nS 0x7050 3 p s).cat.nextTag)) f t = (u, st, d)) ∧
    (∃ (p : Nat) (f : Bool) (s : State),
    p < 16 ∧
    partState s p = 5 ∧
    getO s nS 0x7043 (p + 1) = 2 ∧
    getO s nS (0x7000 + p) 6 = 1 ∧
    s.parts.held.contains p = false ∧
    (getO s nC 0x6812 (p + 1) ≠ 1 ∨ ownPromotion s p = false)) :=
  ⟨⟨w0, 0x7000, 3, 4, st .service 4, (rulePartition 0x7000 3 4 (arrived w0 nS 0x7000 3 4 (st .service 4))).1, by decide +kernel⟩,
   ⟨w0, 0x703F, 1, 0, put [(nP, 0x2102, 3, 1)] (st .run 4), by decide +kernel⟩,
   ⟨w0, 0, false, put [(nS, 0x7040, 1, 1)] (own .run 4), (runStart 0 false (arrivedWith false w0 nS 0x7050 1 0 (put [(nS, 0x7040, 1, 1)] (own .run 4)))).1, by decide +kernel⟩,
   ⟨w0, 0, false, put [(nS, 0x7040, 1, 1)] (own .run 4), (runStart 0 false (arrivedWith false w0 nS 0x7050 1 0 (put [(nS, 0x7040, 1, 1)] (own .run 4)))).1, by decide +kernel⟩,
   ⟨w0, 0, 1, openDom, (beginStop 0 { action := some (w0, (arrived w0 nS 0x7050 2 0 (openDom)).cat.nextTag) } (arrived w0 nS 0x7050 2 0 (openDom))).1, by decide +kernel⟩,
   ⟨w0, 0, 1, openDom, (beginStop 0 { action := some (w0, (arrived w0 nS 0x7050 2 0 (openDom)).cat.nextTag) } (arrived w0 nS 0x7050 2 0 (openDom))).1, by decide +kernel⟩,
   ⟨w0, 0, 0, put [(nC, 0x6810, 1, 2), (nS, 0x7040, 1, 5)] (own .run 4), (beginStop 0 { action := some (w0, (arrived w0 nS 0x7050 2 0 (put [(nC, 0x6810, 1, 2), (nS, 0x7040, 1, 5)] (own .run 4))).cat.nextTag) } (arrived w0 nS 0x7050 2 0 (put [(nC, 0x6810, 1, 2), (nS, 0x7040, 1, 5)] (own .run 4)))).1, by decide +kernel⟩,
   ⟨w0, 0, 1, false, openDom, (beginStop 0 { action := some (w0, (arrivedWith false w0 nS 0x7050 3 0 (openDom)).cat.nextTag), restart := true, flash := false } (arrivedWith false w0 nS 0x7050 3 0 (openDom))).1, by decide +kernel⟩,
   ⟨w0, 0, 0, false, put [(nC, 0x6810, 1, 2), (nS, 0x7040, 1, 5)] (own .run 4), (beginStop 0 { action := some (w0, (arrivedWith false w0 nS 0x7050 3 0 (put [(nC, 0x6810, 1, 2), (nS, 0x7040, 1, 5)] (own .run 4))).cat.nextTag), restart := true, flash := false } (arrivedWith false w0 nS 0x7050 3 0 (put [(nC, 0x6810, 1, 2), (nS, 0x7040, 1, 5)] (own .run 4)))).1, (relaunch 0 (some (w0, (arrivedWith false w0 nS 0x7050 3 0 (put [(nC, 0x6810, 1, 2), (nS, 0x7040, 1, 5)] (own .run 4))).cat.nextTag)) false (beginStop 0 { action := some (w0, (arrivedWith false w0 nS 0x7050 3 0 (put [(nC, 0x6810, 1, 2), (nS, 0x7040, 1, 5)] (own .run 4))).cat.nextTag), restart := true, flash := false } (arrivedWith false w0 nS 0x7050 3 0 (put [(nC, 0x6810, 1, 2), (nS, 0x7040, 1, 5)] (own .run 4)))).1).1, (relaunch 0 (some (w0, (arrivedWith false w0 nS 0x7050 3 0 (put [(nC, 0x6810, 1, 2), (nS, 0x7040, 1, 5)] (own .run 4))).cat.nextTag)) false (beginStop 0 { action := some (w0, (arrivedWith false w0 nS 0x7050 3 0 (put [(nC, 0x6810, 1, 2), (nS, 0x7040, 1, 5)] (own .run 4))).cat.nextTag), restart := true, flash := false } (arrivedWith false w0 nS 0x7050 3 0 (put [(nC, 0x6810, 1, 2), (nS, 0x7040, 1, 5)] (own .run 4)))).1).2.1, (relaunch 0 (some (w0, (arrivedWith false w0 nS 0x7050 3 0 (put [(nC, 0x6810, 1, 2), (nS, 0x7040, 1, 5)] (own .run 4))).cat.nextTag)) false (beginStop 0 { action := some (w0, (arrivedWith false w0 nS 0x7050 3 0 (put [(nC, 0x6810, 1, 2), (nS, 0x7040, 1, 5)] (own .run 4))).cat.nextTag), restart := true, flash := false } (arrivedWith false w0 nS 0x7050 3 0 (put [(nC, 0x6810, 1, 2), (nS, 0x7040, 1, 5)] (own .run 4)))).1).2.2, by decide +kernel⟩,
   ⟨15, true, put [(nS, 0x7040, 16, 5), (nS, 0x7043, 16, 2), (nS, 0x700F, 6, 1)] (st .run 4), by decide +kernel⟩⟩

theorem witness_StrongroomActions :
    (∃ (who : Requester) (v : Nat) (s : State),
    s.modes.mode = .service ∧
    reaches .wo who nS 0x7200 1 v s = true ∧
    v ≠ 0 ∧
    s.strong.inst = none) ∧
    (∃ (who : Requester) (v : Nat) (s : State), ∃ (x : InstallState),
    s.modes.mode = .service ∧
    reaches .wo who nS 0x7200 2 v s = true ∧
    s.strong.inst = some x ∧
    x.who = who ∧
    x.offset + 1024 ≤ flashRoom x.target) ∧
    (∃ (who : Requester) (v : Nat) (s : State), ∃ (x : InstallState),
    s.modes.mode = .service ∧
    reaches .wo who nS 0x7200 4 1 s = true ∧
    s.strong.inst = some x ∧
    x.who = who) ∧
    (∃ (who : Requester) (v : Nat) (s : State),
    s.modes.mode = .service ∧
    reaches .wo who nS 0x7410 1 v s = true ∧
    s.strong.decommissioned = false ∧
    ((arrived who nS 0x7410 1 v s).req who).reports = []) ∧
    (∃ (who : Requester) (v : Nat) (s : State),
    s.modes.mode = .service ∧
    reaches .wo who nS 0x7100 9 1 s = true) ∧
    (∃ (who : Requester) (v : Nat) (s : State),
    s.modes.mode = .service ∧
    reaches .wo who nS 0x7100 0x0A 1 s = true ∧
    s.strong.zeroised = true) ∧
    (∃ (who : Requester) (v : Nat) (s : State),
    s.modes.mode = .service ∧
    reaches .wo who nS 0x7100 6 1 s = true) :=
  ⟨⟨w0, 16, st .service 5, by decide +kernel⟩,
   ⟨w0, 0, { st .service 5 with strong := { inst := some { who := w0, target := 16, offset := 0x1200000 - 1024 } } }, { who := w0, target := 16, offset := 0x1200000 - 1024 }, by decide +kernel⟩,
   ⟨w0, 0, { st .service 5 with strong := { inst := some { who := w0, target := 16, offset := 0 } } }, { who := w0, target := 16, offset := 0 }, by decide +kernel⟩,
   ⟨w0, 0, st .service 5, by decide +kernel⟩,
   ⟨w0, 0, st .service 5, by decide +kernel⟩,
   ⟨w0, 0, { st .service 5 with strong := { zeroised := true } }, by decide +kernel⟩,
   ⟨w0, 0, st .service 5, by decide +kernel⟩⟩

theorem witness_CountersAndAudits :
    (∃ (s : State),
    curatorRuns s = true ∧
    getO s nP 0x8300 2 ≠ 0 ∧
    getO s nP 0x8312 1 + getO s nP 0x8300 2 * 1000000000 ≤ now s ∧
    s.errs.audit = none) ∧
    (∃ (s : State) (a : Audit),
    curatorRuns s = true ∧
    s.errs.audit = some a) ∧
    (∃ (s : State) (a : Audit),
    curatorRuns s = true ∧
    s.errs.audit = some a ∧
    (a.left.filter fun i => !quiescent s i) = []) ∧
    (∃ (s : State) (a : Audit),
    curatorRuns s = true ∧
    s.errs.audit = some a ∧
    a.start + getO s nP 0x8300 3 * 1000000 ≤ now s) ∧
    (∃ (s : State) (a : Audit),
    curatorRuns s = true ∧
    s.errs.audit = some a ∧
    (a.left.any fun i => !quiescent s i) = true ∧
    now s < a.start + getO s nP 0x8300 3 * 1000000) ∧
    (∃ (who : Requester) (s : State),
    reaches .wo who nP 0x8300 1 1 s = true ∧
    (audit (arrived who nP 0x8300 1 1 s)).errs.audit = none) ∧
    (∃ (who : Requester) (s : State), ∃ a,
    reaches .wo who nP 0x8300 1 1 s = true ∧
    (audit (arrived who nP 0x8300 1 1 s)).errs.audit = some a) ∧
    (∃ (who : Requester) (s : State),
    reaches .wo who nP 0x9000 3 1 s = true) ∧
    (∃ (who : Requester) (i v : Nat) (s : State),
    i < 32 ∧
    reaches .rw who nP (0x9100 + i) 1 v s = true ∧
    getO (arrived who nP (0x9100 + i) 1 v s) nP (0x9100 + i) 6 ≠ 1 ∧
    (v = 0 ∨ isPackageEvent v = true)) ∧
    (∃ (hart i : Nat) (s : State),
    hart < 264 ∧
    3 ≤ i ∧
    i ≤ 31 ∧
    (s.hart hart).run ≠ .inReset ∧
    (s.hart hart).counts (getO s nP 0x2103 1 % 2 == 1) (field ((s.hart hart).csrOf (0x320 + i)) 0 12) i = true ∧
    (s.hart hart).csrOf (0xB00 + i) = BitVec.allOnes 64) ∧
    (∃ (who : Requester) (s t : State),
    reaches .wo who nP 0x2040 1 1 s = true ∧
    s.modes.mode = .service ∧
    ruleRestore (arrived who nP 0x2040 1 1 s) = actionDone t) :=
  ⟨⟨st .service 4, by decide +kernel⟩,
   ⟨{ st .run 4 with arch := { frame := [(0, { programming := true })] }, errs := { audit := some { start := 999950000000, left := [(6, 0), (3, 0)] } } }, { start := 999950000000, left := [(6, 0), (3, 0)] }, by decide +kernel⟩,
   ⟨{ st .run 4 with errs := { audit := some { start := 1, left := [(3, 0)] } } }, { start := 1, left := [(3, 0)] }, by decide +kernel⟩,
   ⟨{ st .run 4 with arch := { frame := [(0, { programming := true })] }, errs := { audit := some { start := 999900000000, left := [(6, 0), (3, 0)] } } }, { start := 999900000000, left := [(6, 0), (3, 0)] }, by decide +kernel⟩,
   ⟨{ st .run 4 with arch := { frame := [(0, { programming := true })] }, errs := { audit := some { start := 999900000001, left := [(6, 0), (3, 0)] } } }, { start := 999900000001, left := [(6, 0), (3, 0)] }, by decide +kernel⟩,
   ⟨w0, st .service 4, by decide +kernel⟩,
   ⟨w0, { st .run 4 with arch := { frame := [(0, { programming := true })] } }, { start := 1000000000000, left := [(6, 0), (7, 0)] }, by decide +kernel⟩,
   ⟨w0, st .run 4, by decide +kernel⟩,
   ⟨w0, 31, 0x905, st .run 4, by decide +kernel⟩,
   ⟨0, 31, on0 (fun h => (h.withCsr 0x33F 1).withCsr 0xB1F (BitVec.allOnes 64)) (st .run 4), by decide +kernel⟩,
   ⟨w0, st .service 4, (ruleRestore (arrived w0 nP 0x2040 1 1 (st .service 4))).1, by decide +kernel, by decide +kernel, Prod.ext rfl (by decide +kernel)⟩⟩

theorem witness_DebugCommands :
    (∃ (hart : Nat) (s : State),
    hart < 264 ∧
    debuggable s hart = true) ∧
    (∃ (hart : Nat) (s : State),
    hart < 264 ∧
    debuggable s hart = true ∧
    (s.hart hart).run = .running) ∧
    (∃ (hart : Nat) (s : State),
    hart < 264 ∧
    debuggable s hart = true ∧
    (s.hart hart).run = .debug ∧
    (s.hart hart).stepping = false) ∧
    (∃ (hart : Nat) (s : State), ∃ (i : RvInsn) (len : Nat),
    hart < 264 ∧
    debuggable s hart = true ∧
    (s.hart hart).run = .debug ∧
    progOk (.scalar i len) = true ∧
    ((s.hart hart).csrOf 0x7B0).getLsbD 11 = false ∧
    ((runScalar hart i len (resumeHart hart s)).hart hart).run = .running) ∧
    (∃ (hart : Nat) (s : State), ∃ (n : Nat),
    hart < 264 ∧
    debuggable s hart = true ∧
    (s.hart hart).run = .debug) ∧
    (∃ (hart : Nat) (s : State), ∃ (n : Nat) (v : Word),
    hart < 264 ∧
    debuggable s hart = true ∧
    (s.hart hart).run = .debug) ∧
    (∃ (hart : Nat) (s : State), ∃ (r : DbgReg) (w : Option Word) (p : List ProgInsn),
    hart < 264 ∧
    debuggable s hart = true ∧
    programOk p = true ∧
    (s.hart hart).run = .debug) ∧
    (∃ (hart : Nat) (s : State), ∃ (r : DbgReg) (w : Option Word) (p : List ProgInsn),
    hart < 264 ∧
    debuggable s hart = true ∧
    programOk p = true ∧
    (s.hart hart).run ≠ .debug) ∧
    (∃ (hart : Nat) (s : State),
    hart < 2 ^ 20 ∧
    debuggable s hart = false) ∧
    (∃ (hart : Nat) (s : State), ∃ (i : RvInsn) (len : Nat),
    hart < 2 ^ 20 ∧
    debuggable s hart = false ∧
    progOk (.scalar i len) = true) ∧
    (∃ (hart : Nat) (s : State), ∃ (r : DbgReg) (w : Option Word) (p : List ProgInsn),
    hart < 2 ^ 20 ∧
    debuggable s hart = false ∧
    programOk p = true ∧
    authenticated s = true) ∧
    (∃ (hart : Nat) (s : State),
    264 ≤ hart) ∧
    (∃ (hart : Nat) (l : List Nat) (s : State),
    hart < 2 ^ 20 ∧
    (∀ h ∈ l, h < 2 ^ 20)) ∧
    (∃ (hart : Nat) (l : List Nat) (s : State), ∃ (ack : Bool),
    hart < 2 ^ 20 ∧
    (∀ h ∈ l, h < 2 ^ 20)) ∧
    (∃ (ir : Nat) (s : State),
    ir < 32 ∧
    s.modes.mode.on = true) :=
  ⟨⟨0, put [(nS, 0x7500, 1, 1), (nS, 0x7500, 2, 1)] (own .run 4), by decide +kernel⟩,
   ⟨0, put [(nS, 0x7500, 1, 1), (nS, 0x7500, 2, 1)] (own .run 4), by decide +kernel⟩,
   ⟨0, put [(nS, 0x7500, 1, 1), (nS, 0x7500, 2, 1)] (on0 (fun h => { h with run := .debug }) (own .run 4)), by decide +kernel⟩,
   ⟨0, put [(nS, 0x7500, 1, 1), (nS, 0x7500, 2, 1)] (on0 (fun h => { h with run := .debug }) (own .run 4)), .lui 31 1, 4, by decide +kernel⟩,
   ⟨0, put [(nS, 0x7500, 1, 1), (nS, 0x7500, 2, 1)] (on0 (fun h => { h with run := .debug }) (own .run 4)), 31, by decide +kernel⟩,
   ⟨0, put [(nS, 0x7500, 1, 1), (nS, 0x7500, 2, 1)] (on0 (fun h => { h with run := .debug }) (own .run 4)), 0, 1, by decide +kernel⟩,
   ⟨0, put [(nS, 0x7500, 1, 1), (nS, 0x7500, 2, 1)] (on0 (fun h => { h with run := .debug }) (own .run 4)), .gpr 31, some 1, [.vector (.mvXS 1 0), .scalar .ebreak 2], by decide +kernel⟩,
   ⟨0, put [(nS, 0x7500, 1, 1), (nS, 0x7500, 2, 1)] (own .run 4), .csr 0x300, none, List.replicate 8 (.scalar (.lui 1 1) 4), by decide +kernel⟩,
   ⟨264, put [(nS, 0x7500, 1, 1), (nS, 0x7500, 2, 1)] (own .run 4), by decide +kernel⟩,
   ⟨263, put [(nS, 0x7500, 1, 1), (nS, 0x7500, 2, 1)] (own .run 4), .lui 31 1, 4, by decide +kernel⟩,
   ⟨1048575, put [(nS, 0x7500, 1, 1), (nS, 0x7500, 2, 1)] (own .run 4), .gpr 0, none, [], by decide +kernel⟩,
   ⟨264, put [(nS, 0x7500, 1, 1), (nS, 0x7500, 2, 1)] (own .run 4), by decide +kernel⟩,
   ⟨263, [0, 263], st .run 4, by decide +kernel⟩,
   ⟨263, [0, 263], st .run 4, true, by decide +kernel⟩,
   ⟨31, st .keep 4, by decide +kernel⟩⟩

theorem witness_ResetValues :
    (∃ n,
    n < 22) :=
  ⟨21, by decide +kernel⟩

theorem witness_RetirementWritesRefused :
    (∃ (who : Requester) (g : Nat) (s : State),
    received s who = true ∧
    s.cat.queue = [] ∧
    (siteOf (appear who s) g = 0xFF ∨ promoting (appear who s) = true)) ∧
    (∃ (who : Requester) (n : Nat) (s : State),
    received s who = true ∧
    s.cat.queue = [] ∧
    (s.modes.mode ≠ .service ∨ siteStateOf (appear who s) n ≠ 3 ∨ siteReasonOf (appear who s) n = 3 ∨ siteReasonOf (appear who s) n = 5)) :=
  ⟨⟨w0, 21, put [(nP, 0x2101, 22, 0xFF)] (st .run 4), by decide +kernel⟩,
   ⟨w0, 23, put [(nP, 0x2100, 24, 0x3300)] (st .service 4), by decide +kernel⟩⟩

theorem witness_PackageResetRule :
    (∃ (who : Requester) (v : Nat) (s : State),
    received s who = true ∧
    s.cat.queue = [] ∧
    (s.modes.mode = .lockstep ∨ s.modes.mode = .keep ∨ s.modes.trans ≠ none ∨ getO s nP 0x2102 3 = 1)) ∧
    (∃ (who : Requester) (v : Nat) (s : State),
    received s who = true ∧
    s.cat.queue = [] ∧
    s.modes.mode ≠ .lockstep ∧
    s.modes.mode ≠ .keep ∧
    s.modes.trans = none ∧
    getO s nP 0x2102 3 ≠ 1 ∧
    reaches .wo who nP 0x2030 1 v s = true) :=
  ⟨⟨w0, 1, st .lockstep 4, by decide +kernel⟩,
   ⟨w0, 1, st .service 4, by decide +kernel⟩⟩

theorem witness_CounterAccess :
    (∃ (hart rd rs len : Nat) (s : State),
    goes s hart ∧
    (len = 2 ∨ len = 4) ∧
    (s.hart hart).priv = .m) ∧
    (∃ (hart rd rs len : Nat) (s : State),
    goes s hart ∧
    (len = 2 ∨ len = 4) ∧
    (s.hart hart).priv ≠ .u) ∧
    (∃ (hart rd i len : Nat) (s : State),
    goes s hart ∧
    (len = 2 ∨ len = 4) ∧
    3 ≤ i ∧
    i ≤ 31 ∧
    ((s.hart hart).priv = .u ∨ ((s.hart hart).priv = .s ∧ ((s.hart hart).csrOf 0x306).getLsbD i = false))) ∧
    (∃ (hart rd i len : Nat) (s : State),
    goes s hart ∧
    (len = 2 ∨ len = 4) ∧
    3 ≤ i ∧
    i ≤ 31 ∧
    ((s.hart hart).priv = .m ∨ ((s.hart hart).priv = .s ∧ ((s.hart hart).csrOf 0x306).getLsbD i = true))) :=
  ⟨⟨0, 31, 1, 2, st .run 4, by decide +kernel⟩,
   ⟨0, 31, 1, 4, on0 (fun h => { h with priv := .s }) (st .run 4), by decide +kernel⟩,
   ⟨0, 31, 3, 4, on0 (fun h => { h with priv := .u }) (st .run 4), by decide +kernel⟩,
   ⟨0, 31, 31, 4, on0 (fun h => { h.withCsr 0x306 0x80000000 with priv := .s }) (st .run 4), by decide +kernel⟩⟩

end Sys2Proof.Tests
end

section
/-! Register writes (O39): stores of a hart to device pages, writes of CSRs and of objects, and the debugger's. -/

namespace Sys2Proof.Machine

/-! What a hart that executes and a store it sends to a device page do. -/

/-- A hart that executes is not turned back by the guard that its commands share. -/
theorem not_idle_of_goes {s : State} {hart : Nat} (h : goes s hart) :
    (!(s.modes.mode.active && (s.hart hart).run == .running)) = false := by
  have hruns : hartRuns s hart = true := h.2
  simpa only [hartRuns, Bool.not_eq_false'] using hruns

/-- A store that the checks of R286 let through to the address of its command is sent, from the state the checks leave, once the store
buffer is empty and the gallery is not fenced (R208). -/
theorem hartDeviceStore_sent {hart addr size : Nat} {va : Word} {s t : State} (f : State → State) (hgo : goes s hart)
    (hreach : reach hart storeAccess va size (va.toNat % size == 0) s = (t, .device addr))
    (hsb : (t.hart hart).sb = []) (hfence : fenced t (hart / 12) = false) :
    hartDeviceStore hart va addr size f s = f t := by
  have hempty : (t.hart hart).sb.isEmpty = true := by rw [hsb]; rfl
  simp only [hartDeviceStore, not_idle_of_goes hgo, Bool.false_eq_true, if_false, hreach, hempty, hfence, and_self, if_true]

/-- A store to a device register that takes it leaves what the register's page makes of it. -/
theorem deviceWordStore_sent {hart addr size : Nat} {va v : Word} {s t u : State} (hgo : goes s hart)
    (hreach : reach hart storeAccess va size (va.toNat % size == 0) s = (t, .device addr))
    (hsb : (t.hart hart).sb = []) (hfence : fenced t (hart / 12) = false)
    (htakes : deviceStore addr size (v.toNat % 2 ^ (8 * size)) t = some u) :
    deviceWordStore hart va addr v size s = u := by
  unfold deviceWordStore
  rw [hartDeviceStore_sent _ hgo hreach hsb hfence, htakes]

/-- A CSR that the hart may write is written after the instruction that writes it has completed. -/
theorem csrStore_of_legal {hart num : Nat} {s : State} (v : Word) (hgo : goes s hart)
    (hlegal : (s.hart hart).csrLegal num true = true) :
    csrStore hart num v s = csrWrite hart num v (complete hart ((s.hart hart).pc + 4) s) := by
  simp only [csrStore, not_idle_of_goes hgo, Bool.false_eq_true, if_false, hlegal, if_true]

/-! Writes of objects. -/

/-- A write that names an object which takes writes, with a value of its size, is a write of that object. -/
theorem writeNamed_of_row {who : Requester} {node n ix sub v : Nat} {row : ObjRow} (s : State)
    (hnode : resolveNode node ix = some n) (hrow : rowOf (n / 2 ^ 24) ix sub = some row)
    (hro : row.acc ≠ .ro) (htk : row.acc ≠ .tk) (hsize : v < 2 ^ (8 * row.ty.size)) :
    writeNamed who node ix sub v s = writeObject who n ix sub v s := by
  have htakes : ¬(row.acc = .ro ∨ row.acc = .tk) := not_or.mpr ⟨hro, htk⟩
  simp only [writeNamed, hnode, hrow, if_neg htakes, if_neg (Nat.not_le.mpr hsize)]

/-- Nothing follows the answer to a write but to one of the package reset (R78), of the Strongroom's control (R439) and of a field port's
settings (R412). -/
theorem afterWrite_eq_self {node ix sub : Nat} (hreset : node = nP → ix ≠ 0x2030) (hstrong : node = nS → ix ≠ 0x7100)
    (hport : node = nV → closesPort ix sub = false) (who : Requester) (s t : State) : afterWrite who node ix sub s t = t := by
  have hP : (node == nP && ix == 0x2030 && sub == 1 && t.power.resetting) = false := by
    by_cases hn : node = nP <;> simp [hn, hreset]
  have hS : (node == nS && ix == 0x7100 && (sub == 9 || sub == 0x0A)) = false := by
    by_cases hn : node = nS <;> simp [hn, hstrong]
  have hV : (node == nV && closesPort ix sub) = false := by
    by_cases hn : node = nV <;> simp [hn, hport]
  simp only [afterWrite, hP, hS, hV, Bool.false_eq_true, if_false, ite_self]

/-- A write whose answer nothing follows is the write under its object's own rule. -/
theorem writeObject_eq_served {node ix sub : Nat} (who : Requester) (v : Nat) (s : State)
    (hafter : ∀ a t, afterWrite who node ix sub a t = t) :
    writeObject who node ix sub v s = served who node ix sub v (ruleFor who node ix sub v) s := by
  have hserve : serveObjectWrite who node ix sub v = serveWrite who node ix sub v (ruleFor who node ix sub v) :=
    funext fun a => hafter a _
  unfold writeObject served servedWith
  rw [hserve]

/-- The write of a debug enable is served under the rule of R471. -/
theorem writeObject_debugEnable (who : Requester) (sub v : Nat) (s : State) :
    writeObject who nS 0x7500 sub v s = served who nS 0x7500 sub v (ruleDebug sub v) s :=
  writeObject_eq_served who v s
    (afterWrite_eq_self (by decide) (by decide) (fun h => absurd h (by decide)) who)

/-! The debugger's bus (R470). -/

/-- The debug module takes writes where the package is on and 7500h.01h reads 01h. -/
theorem authenticated_iff (s : State) : authenticated s = true ↔ s.modes.mode.on = true ∧ getO s nS 0x7500 1 = 1 := by
  simp only [authenticated, Bool.and_eq_true, beq_iff_eq]

/-- A write without error clears sberror and goes to the memory as one of an I/O agent (R27). -/
theorem execSystemBusAccess_write {a n : Nat} {s : State} (v : Word) (hauth : authenticated s = true)
    (hclean : sbError s a n = 0) :
    execSystemBusAccess a n (some v) s =
      .next (ioWrite .io .package a (leBytes n v.toNat) { s with dbg := { s.dbg with sberror := 0 } }) := by
  simp only [execSystemBusAccess, hauth, hclean, Bool.not_true, Bool.false_eq_true, if_false, ne_eq, not_true_eq_false]

/-- A read without error clears sberror and leaves the bytes read in sbdata. -/
theorem execSystemBusAccess_read {a n : Nat} {s t : State} {bytes : List Byte} {bad : List (Nat × Nat)}
    (hauth : authenticated s = true) (hclean : sbError s a n = 0)
    (hread : ioRead a n { s with dbg := { s.dbg with sberror := 0 } } = (t, bytes, bad)) :
    execSystemBusAccess a n none s =
      .next { t with dbg := { t.dbg with sbdata := BitVec.ofNat 64 (fromLe bytes) } } := by
  simp only [execSystemBusAccess, hauth, hclean, Bool.not_true, Bool.false_eq_true, if_false, ne_eq, not_true_eq_false, hread]

/-- Settles O39: each command's operands are in range, so what it answers is the lemma on its write. -/
theorem registerWrites : Obligations.RegisterWrites := by
  unfold Obligations.RegisterWrites
  refine ⟨?object, ?csr, ?store, ?bus, ?enable⟩
  case object =>
    intro who node n ix sub v row s hnode hrow hro htk hsize
    show Host.Outcome.next (writeNamed who node ix sub v s) = _
    rw [writeNamed_of_row s hnode hrow hro htk hsize]
  case csr =>
    intro h num v s hnum hgo hlegal
    show within _ (csrStore h num v s) = _
    rw [csrStore_of_legal v hgo hlegal]
    exact within_true _ (by simp only [hgo.1, hnum, decide_true, Bool.and_self])
  case store =>
    intro h p o k a size v va s t u hgo hsb hfence
    have hhart : h < 264 := hgo.1
    refine ⟨?mailboxWord, ?submit, ?deviceWord⟩
    case mailboxWord =>
      intro hp ho hpage hreach
      show within _ (hartDeviceStore h va (mailboxAddr p + o) 4 (mailboxStore p o 4 (v.setWidth 32).toNat) s) = _
      rw [hartDeviceStore_sent _ hgo hreach hsb hfence]
      exact within_true _ (by simp only [hhart, hp, ho, hpage, decide_true, Bool.and_self])
    case submit =>
      intro hp hk hreach
      show within _ (hartDeviceStore h va (mailboxAddr p) 4 (mailboxStore p 0 4 k) s) = _
      rw [hartDeviceStore_sent _ hgo hreach hsb hfence]
      exact within_true _ (by simp only [hhart, hp, hk, decide_true, Bool.and_self])
    case deviceWord =>
      intro hsize hdev hreach htakes
      show within _ (deviceWordStore h va a v size s) = _
      rw [deviceWordStore_sent hgo hreach hsb hfence htakes]
      exact within_true _ (by simp [hhart, hsize, hdev])
  case bus =>
    intro a n v s t l bad hon hopen hclean u
    have hauth : authenticated s = true := (authenticated_iff s).mpr ⟨hon, hopen⟩
    exact ⟨execSystemBusAccess_write v hauth hclean, execSystemBusAccess_read hauth hclean⟩
  case enable =>
    intro who sub v s hsub hreaches t
    show within _ (writeObject who nS 0x7500 sub v s) = _
    rw [writeObject_debugEnable, served_of_reaches _ hreaches]
    exact within_true _ (by simpa using hsub)

end Sys2Proof.Machine
end

section
/-! Commands complete (O4): whether a command answers a next state is decided by its operands alone. -/

namespace Sys2Proof.Machine

/-- A register write is the one command that checks its operands only once its target is known. -/
theorem execRegisterWrite_eq_within (target : RegTarget) (s : State) :
    ∃ t, execRegisterWrite target s = within (targetOk target) t := by
  cases target with
  | object who node ix sub value => exact ⟨_, (within_true _ rfl).symm⟩
  | csr hart num value => exact ⟨_, rfl⟩
  | mailboxWord hart va page offset value => exact ⟨_, rfl⟩
  | deviceWord hart va addr value size => exact ⟨_, rfl⟩

/-- Every command tests that it is well formed and, in any state, has a next state to answer then: for all but REGISTER_WRITE this is
the form of the command's meaning. -/
theorem exec_eq_within (i : Instr) (s : State) : ∃ t, exec i s = within i.wf t := by
  cases i with
  | registerWrite target => exact execRegisterWrite_eq_within target s
  | _ => exact ⟨_, rfl⟩

/-- Settles O4: a command is `within` its well-formedness, whose two values are the two answers. -/
theorem commandsComplete : Obligations.CommandsComplete := by
  unfold Obligations.CommandsComplete
  refine ⟨?answers, ?faults⟩
  case answers =>
    intro i s
    obtain ⟨t, hexec⟩ := exec_eq_within i s
    rw [hexec]
    exact within_next_iff i.wf t
  case faults =>
    intro i s hwf
    obtain ⟨t, hexec⟩ := exec_eq_within i s
    rw [hexec]
    exact within_false t hwf

end Sys2Proof.Machine
end

section
/-! Coupling events (O15): each event's command where the couplings of its die are as the event needs them. -/

namespace Sys2Proof.Machine

/-- A command whose operands are in range and whose condition holds answers what it does under that condition. -/
theorem within_of_guard {c : Bool} {p : Prop} [Decidable p] {t u : State} (hrange : c = true) (hguard : p) :
    within c (if p then t else u) = .next t := by
  rw [if_pos hguard]
  exact within_true t hrange

/-- A die of the panel and one of its modules are in range. -/
theorem module_inRange {die m : Nat} (hdie : die < 28) (hmodule : (modulesOf die).contains m = true) :
    (decide (die < 28) && (modulesOf die).contains m) = true := by
  rw [decide_eq_true hdie, hmodule]; rfl

/-- A CRC error on a module that carries flits counts on the module and on the replays in a row (R40, R41). -/
theorem execFlitCrcError_counts {die m : Nat} (again : Bool) {s : State} (hdie : die < 28)
    (hmodule : (modulesOf die).contains m = true) (hserves : dieServes s die = true)
    (htrained : tblGet 0 s.panel.training (die * 4 + m) = 0) (hwidth : getMod s die m 1 ≠ 0) :
    execFlitCrcError die m again s = .next (addMod die m 5 (addMod die m 4 { s with panel := { s.panel with
      replays := tblSet 0 s.panel.replays (die * 4 + m)
        (if again then tblGet 0 s.panel.replays (die * 4 + m) + 1 else 0) } })) :=
  within_of_guard (module_inRange hdie hmodule) (by simp [hserves, htrained, hwidth])

/-- The fourth failed replay of one flit lets the module's recovery begin (R41, R42). -/
theorem execRecoveryRetraining_begins {die m : Nat} {s : State} (hdie : die < 28)
    (hmodule : (modulesOf die).contains m = true) (hserves : dieServes s die = true)
    (hreplays : 4 ≤ tblGet 0 s.panel.replays (die * 4 + m)) (htrained : tblGet 0 s.panel.training (die * 4 + m) = 0)
    (hfull : s.panel.full.contains die = false) :
    execRecoveryRetraining die m s = .next (beginTraining die [m]
      { s with panel := { s.panel with replays := tblSet 0 s.panel.replays (die * 4 + m) 0 } }) :=
  within_of_guard (module_inRange hdie hmodule) (by simp only [hserves, hreplays, htrained, hfull]; decide)

/-- A training that does not end in time fails the couplings of its die (R43). -/
theorem execTrainingComplete_timeout {die : Nat} {s : State} (hdie : die < 28) (htrains : trainingMods s die ≠ []) :
    execTrainingComplete die .timeout s = .next (couplingsFail die 2 s) := by
  unfold execTrainingComplete
  rw [if_neg htrains]
  exact within_true _ (decide_eq_true hdie)

/-- A training that is done ends as the kind of training that ran: full, initial or recovery, or as a mismatch of the ends (R47, R48). -/
theorem execTrainingComplete_done {die : Nat} (a b c d : BitVec 16) (u : BitVec 4) {s : State} (hdie : die < 28)
    (htrains : trainingMods s die ≠ []) :
    execTrainingComplete die (.done a b c d u) s = .next
      (if s.panel.full.contains die = true then fullDone die (badLanes (.done a b c d u)) (mapSeen (.done a b c d u)) s
       else if (trainingMods s die).all (neverTrained s die) = true then
         settleTraining die (initialTraining die true (badLanes (.done a b c d u)) s)
       else if (trainingMods s die).all (sameHistory s die) = true then
         recoveryDone die (badLanes (.done a b c d u)) (mapSeen (.done a b c d u)) s
       else mismatch die s) := by
  unfold execTrainingComplete
  rw [if_neg htrains]
  exact within_true _ (decide_eq_true hdie)

/-- The couplings of a die that still trains 2 ms after its fence fail (R43). -/
theorem execTrainingTimeout_fails {die : Nat} {s : State} (hdie : die < 28) (htrains : trainingMods s die ≠ [])
    (hlate : fenceTime s die + 2000000 ≤ now s) : execTrainingTimeout die s = .next (couplingsFail die 2 s) :=
  within_of_guard (decide_eq_true hdie) ⟨htrains, hlate⟩

/-- One end of the modules of a die holds no epoch any more, and all its modules train (R46, R49). -/
theorem execCouplingEndReset_trains {die : Nat} (rotundaEnd : Bool) {s : State} (hdie : die < 28)
    (hserves : dieServes s die = true) :
    execCouplingEndReset die rotundaEnd s = .next (beginTraining die (modulesOf die) (forAll (modulesOf die) (fun m s =>
      if rotundaEnd then setMod die m 3 0 s
      else { s with panel := { s.panel with galEnd := tblSet {} s.panel.galEnd (die * 4 + m) {} } }) s)) :=
  within_of_guard (decide_eq_true hdie) hserves

/-- Settles O15: each event answers what its command does where the conditions of R41-R49 hold. -/
theorem couplingEvents : Obligations.CouplingEvents := by
  unfold Obligations.CouplingEvents
  refine ⟨?crcError, ?recovery, ?complete, ?timeout, ?endReset⟩
  case crcError =>
    intro die m again s hdie hmodule hserves htrained hwidth
    exact execFlitCrcError_counts again hdie hmodule hserves htrained hwidth
  case recovery =>
    intro die m s hdie hmodule hserves hreplays htrained hfull
    exact execRecoveryRetraining_begins hdie hmodule hserves hreplays htrained hfull
  case complete =>
    intro die a b c d u s hdie htrains
    exact ⟨execTrainingComplete_timeout hdie htrains, execTrainingComplete_done a b c d u hdie htrains⟩
  case timeout =>
    intro die s hdie htrains hlate
    exact execTrainingTimeout_fails hdie htrains hlate
  case endReset =>
    intro die s hdie hserves
    exact ⟨execCouplingEndReset_trains true hdie hserves, execCouplingEndReset_trains false hdie hserves⟩

end Sys2Proof.Machine
end

section
/-! Galleries retire (O16): the writes of 2102h.01h and 2102h.07h, the retirements for a reason, and the self-test of a site. -/

namespace Sys2Proof.Machine

/-! The arrival of a write leaves what the rules of the galleries read. -/

@[simp] theorem arrived_obj (who : Requester) (node ix sub value : Nat) (s : State) :
    (arrived who node ix sub value s).obj = s.obj := appear_obj s who
@[simp] theorem arrived_modes (who : Requester) (node ix sub value : Nat) (s : State) :
    (arrived who node ix sub value s).modes = s.modes := appear_modes s who
@[simp] theorem arrived_panel (who : Requester) (node ix sub value : Nat) (s : State) :
    (arrived who node ix sub value s).panel = s.panel := appear_panel s who
@[simp] theorem arrived_nextTag (who : Requester) (node ix sub value : Nat) (s : State) :
    (arrived who node ix sub value s).cat.nextTag = s.cat.nextTag := appear_nextTag s who

@[simp] theorem arrived_siteOf (who : Requester) (node ix sub value : Nat) (s : State) (g : Nat) :
    siteOf (arrived who node ix sub value s) g = siteOf s g := getO_congr (arrived_obj ..) ..

/-- A site's record is one object. -/
theorem siteRec_congr {s t : State} (h : s.obj = t.obj) (n : Nat) : siteRec s n = siteRec t n := getO_congr h ..

@[simp] theorem arrived_siteStateOf (who : Requester) (node ix sub value : Nat) (s : State) (n : Nat) :
    siteStateOf (arrived who node ix sub value s) n = siteStateOf s n := by
  simp only [siteStateOf, siteRec_congr (arrived_obj who node ix sub value s)]
@[simp] theorem arrived_siteReasonOf (who : Requester) (node ix sub value : Nat) (s : State) (n : Nat) :
    siteReasonOf (arrived who node ix sub value s) n = siteReasonOf s n := by
  simp only [siteReasonOf, siteRec_congr (arrived_obj who node ix sub value s)]

/-! Writes of action objects. -/

/-- A write whose rule does its action at once is answered as an action that has ended. -/
theorem served_eq_ended {acc : Acc} {who : Requester} {node ix sub value : Nat} {s t : State} {rule : Rule}
    (hreaches : reaches acc who node ix sub value s = true)
    (hrule : rule (arrived who node ix sub value s) = actionDone t) :
    served who node ix sub value rule s = ended who node ix sub t := by
  rw [served_of_reaches rule hreaches, hrule]; rfl

/-- A write whose rule only begins its action is answered as an action that is pending. -/
theorem served_eq_pending {acc : Acc} {who : Requester} {node ix sub value : Nat} {s t : State} {rule : Rule}
    (hreaches : reaches acc who node ix sub value s = true)
    (hrule : rule (arrived who node ix sub value s) = actionPending t) :
    served who node ix sub value rule s = pending who node ix sub t := by
  rw [served_of_reaches rule hreaches, hrule]; rfl

/-- A gallery that has a site is retired on request, unless a promotion is in progress (R57, R58). -/
theorem ruleRetireGallery_of_held {g : Nat} {s : State} (hsite : siteOf s g ≠ 0xFF) (hidle : promoting s = false) :
    ruleRetireGallery g s = actionDone (retireWhenRun g 5 s) :=
  if_neg (by simp [hsite, hidle])

/-- In SERVICE a site in STATE 3 whose REASON allows it is powered, and its retest is noted (R57, R58). -/
theorem ruleRetestSite_of_retired {n : Nat} {s : State} (who : Requester) (hmode : s.modes.mode = .service)
    (hstate : siteStateOf s n = 3) (hreason : siteReasonOf s n ∈ [1, 2, 4, 6]) :
    ruleRetestSite who n s = actionPending (powerSite n { s with panel := { s.panel with
      retest := s.panel.retest ++ [(n, who, s.cat.nextTag)] } }) := by
  have hasked : [1, 2, 4, 6].contains (siteReasonOf s n) = true := List.contains_iff_mem.mpr hreason
  exact if_neg (by simp only [hmode, hstate, hasked]; decide)

/-! The self-test of a site. -/

/-- The self-test of the reserve under trial promotes it or fails it, and a power-up that waited for it goes on (R59, R80). -/
theorem execSiteSelfTestComplete_trial {site : Nat} (pass : Bool) (tr : Training) (ways : BitVec 16) {x : Promotion}
    {s : State} (hsite : site < 24) (hpromo : s.panel.promo = some x) (htrying : x.trying = some site) :
    execSiteSelfTestComplete site pass tr ways s = .next (bootOn (if siteVerdict s site pass tr = 0
      then promote x site (badLanes tr) (addBadWays site ways (showIdent site s))
      else reserveFails x site (siteVerdict s site pass tr) s)) := by
  simp only [execSiteSelfTestComplete, hpromo]
  exact within_of_guard (decide_eq_true hsite) htrying

/-- The self-test of a site that is not under trial ends the retests asked of it (R57). -/
theorem execSiteSelfTestComplete_retest {site : Nat} (pass : Bool) (tr : Training) (ways : BitVec 16) {s : State}
    (hsite : site < 24) (hnotrial : ∀ x, s.panel.promo = some x → x.trying ≠ some site)
    (hasked : (s.panel.retest.any fun e => e.1 == site) = true) :
    execSiteSelfTestComplete site pass tr ways s = .next (retestDone site (siteVerdict s site pass tr) ways s) := by
  unfold execSiteSelfTestComplete
  cases hpromo : s.panel.promo with
  | none => exact within_of_guard (decide_eq_true hsite) hasked
  | some x =>
    simp only [if_neg (hnotrial x hpromo)]
    exact within_of_guard (decide_eq_true hsite) hasked

/-- Settles O16: the two writes are served under their rules, and each event's command does what its conditions allow. -/
theorem galleriesRetire : Obligations.GalleriesRetire := by
  unfold Obligations.GalleriesRetire
  refine ⟨?onRequest, ?forReason, ?retestBegins, ?trialEnds, ?retestEnds⟩
  case onRequest =>
    intro who g s hreaches hsite hidle
    have hheld : siteOf (arrived who nP 0x2102 1 g s) g ≠ 0xFF := by rwa [arrived_siteOf]
    exact congrArg Host.Outcome.next (served_eq_ended hreaches (ruleRetireGallery_of_held hheld hidle))
  case forReason =>
    intro g reason s hg hlow hhigh hmode
    exact within_of_guard (by simp only [hg, hlow, hhigh, decide_true, Bool.and_self]) hmode
  case retestBegins =>
    intro who n s hreaches hmode hstate hreason
    have hrule := ruleRetestSite_of_retired (n := n) (s := arrived who nP 0x2102 7 n s) who
      (by rwa [arrived_modes]) (by rwa [arrived_siteStateOf]) (by rwa [arrived_siteReasonOf])
    rw [arrived_panel, arrived_nextTag] at hrule
    exact congrArg Host.Outcome.next (served_eq_pending hreaches hrule)
  case trialEnds =>
    intro site pass tr ways x s hsite hpromo htrying
    exact execSiteSelfTestComplete_trial pass tr ways hsite hpromo htrying
  case retestEnds =>
    intro site pass tr ways s hsite hnotrial hasked
    exact execSiteSelfTestComplete_retest pass tr ways hsite hnotrial hasked

end Sys2Proof.Machine
end

section
/-! An object set under a condition, what the rule of a written object finds, and what a refused write leaves (R397-R401). -/

namespace Sys2Proof.Machine

/-- An object set under a condition changes no more than the store. -/
theorem onlyIf_setO_eq (c : Bool) (node ix sub v : Nat) (s : State) :
    ∃ obj, onlyIf c (setO node ix sub v) s = { s with obj := obj } := by
  cases c
  · exact ⟨_, rfl⟩
  · exact ⟨_, rfl⟩

/-! The arrival of a write leaves what the rules of the modes and the clocks read. -/

@[simp] theorem arrived_power (who : Requester) (node ix sub value : Nat) (s : State) :
    (arrived who node ix sub value s).power = s.power := appear_power s who
@[simp] theorem arrived_hodo (who : Requester) (node ix sub value : Nat) (s : State) :
    (arrived who node ix sub value s).hodo = s.hodo := appear_hodo s who
@[simp] theorem arrived_promoting (who : Requester) (node ix sub value : Nat) (s : State) :
    promoting (arrived who node ix sub value s) = promoting s := by
  simp only [promoting, getO_congr (arrived_obj who node ix sub value s)]

/-- The arrival of a request leaves the requests that are outstanding. -/
theorem appear_queue (who : Requester) (s : State) : (appear who s).cat.queue = s.cat.queue := by
  obtain ⟨x, y, happear⟩ := appear_eq s who
  rw [happear]

/-- A write by a requester that is received, with no request outstanding, is served at once (R397). -/
theorem served_of_idle {who : Requester} {s : State} (node ix sub value : Nat) (rule : Rule)
    (hreceived : received s who = true) (hidle : s.cat.queue = []) :
    served who node ix sub value rule s =
      closed (serveWrite who node ix sub value rule (arrived who node ix sub value s)) := by
  have hqueue : (appear who s).cat.queue = [] := by rw [appear_queue, hidle]
  have hroom : canFull (appear who s) who = false := by cases who <;> simp [canFull, hqueue]
  have hwho : (writeOf who node ix sub value false s).who = who := rfl
  simp only [served, servedWith, hreceived, admitRequest, hqueue, hwho, hroom, if_true, List.find?_nil, Bool.false_eq_true,
    if_false, List.isEmpty_nil]
  exact serveNow_closed _ _ _ rfl

/-- A write whose object's own rule refuses it is answered with an abort, by that rule or by a check before it (R401). -/
theorem serveWrite_refuses {who : Requester} {node ix sub value a d : Nat} {rule : Rule} {s : State} (hmode : ix ≠ 0x2000)
    (hrule : rule s = (s, .refuse a d)) (ha : a ≠ 0) :
    ∃ a' d', a' ≠ 0 ∧ serveWrite who node ix sub value rule s = respondRefused who a' d' s := by
  have hplain : (ix == 0x2000 && sub == 2 && decide (roleOf s who < 3)) = false := by simp [hmode]
  unfold serveWrite
  simp only [hplain, hrule, Bool.false_eq_true, if_false]
  repeat' split
  any_goals exact ⟨a, d, ha, rfl⟩
  all_goals exact ⟨_, _, by decide, rfl⟩

@[simp] theorem turnedAway_modes (who : Requester) (a d : Nat) (t : State) : (turnedAway who a d t).modes = t.modes :=
  respondRefused_modes t who a d
@[simp] theorem turnedAway_power (who : Requester) (a d : Nat) (t : State) : (turnedAway who a d t).power = t.power :=
  respondRefused_power t who a d

/-- A refused requester reads the abort code of the refusal. -/
theorem turnedAway_abort (who : Requester) (a d : Nat) (t : State) : ((turnedAway who a d t).req who).abort = a := by
  simp [turnedAway, respondRefused]

end Sys2Proof.Machine
end

section
/-! The timebase, its servo and the references of the dies (O13, O14). -/

namespace Sys2Proof.Machine

/-! The timebase (R66, R68). -/

/-- An idle step with no request outstanding and no audit in progress only ticks the clock. -/
theorem idle_eq_tick {s : State} (hqueue : s.cat.queue = []) (haudit : s.errs.audit = none) : idle s = tick s := by
  have htick : (tick s).cat = s.cat ∧ (tick s).errs = s.errs := by unfold tick; split <;> exact ⟨rfl, rfl⟩
  have hserve : serveWaiting (tick s) = tick s := by unfold serveWaiting; rw [htick.1, hqueue]
  unfold idle
  rw [hserve]
  unfold continueAudit
  rw [htick.2, haudit]

/-- A tick adds none, one or two nanoseconds, and what it adds beside the one is taken from the rate accumulated. -/
theorem tickClock_adds (c : Clock) (rate : Int) : ∃ n : Nat, n ≤ 2 ∧
    tickClock c rate = { c with timebase := c.timebase + BitVec.ofNat 64 n
                                rateAcc := c.rateAcc + rate - 1000000000 * ((n : Int) - 1) } := by
  unfold tickClock
  dsimp only
  split
  · exact ⟨2, by omega, by simp⟩
  · split
    · exact ⟨0, by omega, by simp⟩
    · exact ⟨1, by omega, by simp⟩

/-- Settles O13: an idle step is a tick, whose clock is what `tickClock_adds` says. -/
theorem timebaseTicks : Obligations.TimebaseTicks := by
  unfold Obligations.TimebaseTicks
  intro s hpending hqueue haudit
  have hstep : step s = .next (tick s) := by
    unfold step
    rw [hpending, ← idle_eq_tick hqueue haudit]
  refine ⟨?stopped, ?runs⟩
  case stopped =>
    intro hstopped
    rw [hstep, tick, hstopped]
    rfl
  case runs =>
    intro hruns
    obtain ⟨n, hn, hclock⟩ := tickClock_adds s.clock (getI s nP 0x2010 5)
    have htick : tick s = { s with clock := tickClock s.clock (getI s nP 0x2010 5) } := by rw [tick, if_pos hruns]
    rw [hclock] at htick
    rw [hstep, htick]
    exact ⟨_, n, rfl, rfl, rfl, hn, Int.sub_add_cancel _ _⟩

/-! References of the dies (R71-R76). -/

/-- The presence bit of a reference, once set, leaves HOLD as it was (R75). -/
theorem testBit_hold_setBit_presBit (v : Nat) (opt : Bool) : (setBit v (presBit opt)).testBit 3 = v.testBit 3 := by
  unfold setBit
  split
  case isTrue => rfl
  case isFalse habsent =>
    simp only [Nat.testBit_eq_decide_div_mod_eq, decide_eq_true_eq] at habsent ⊢
    have hsame : (v + 2 ^ presBit opt) / 2 ^ 3 = v / 2 ^ 3 := by
      cases opt
      case false => rw [show presBit false = 1 from rfl] at habsent ⊢; omega
      case true => rw [show presBit true = 0 from rfl] at habsent ⊢; omega
    rw [hsame]

/-- A reference that was present at a die is lost (R71, R73), at the photonic engine too where the command says so (R76). -/
theorem execDieReferenceLoss_loses {die : Nat} {opt : Bool} (engine : Bool) {s : State} (hdie : die < 28)
    (hruns : running s = true) (hpresent : (refBits s die).testBit (presBit opt) = true) :
    execDieReferenceLoss die opt engine s = .next (loseReference die opt
      (if opt && engine then { s with clock := { s.clock with engineFailed := true } } else s)) :=
  within_of_guard (decide_eq_true hdie) (by rw [hruns, hpresent]; rfl)

/-- A reference that returns to a die which does not hold its frequency is shown as present, and nothing more (R71). -/
theorem execDieReferenceReturn_shows {die : Nat} {opt : Bool} {s : State} (hdie : die < 28) (hruns : running s = true)
    (habsent : (refBits s die).testBit (presBit opt) = false) (hnohold : (refBits s die).testBit 3 = false) :
    execDieReferenceReturn die opt s = .next (setRef die (setBit (refBits s die) (presBit opt))
      (if opt then { s with clock := { s.clock with engineFailed := false } } else s)) := by
  have hbits : refBits (if opt = true then { s with clock := { s.clock with engineFailed := false } } else s) die =
      refBits s die := by cases opt <;> rfl
  have hstays : (setBit (refBits s die) (presBit opt)).testBit 3 = false := by
    rw [testBit_hold_setBit_presBit, hnohold]
  unfold execDieReferenceReturn
  simp only [hruns, habsent, hbits, hstays, Bool.not_false, Bool.and_self, Bool.false_and, if_true, Bool.false_eq_true, if_false]
  exact within_true _ (decide_eq_true hdie)

section
variable {die : Nat} {s : State} (hhold : (refBits s die).testBit 3 = true) (hsince : 0 < tblGet 0 s.clock.holdSince die)
  (hlate : tblGet 0 s.clock.holdSince die - 1 + 100000 ≤ now s)

include hhold hsince hlate

/-- The hold of a die has lasted 100 µs (R73). -/
theorem holdExpired : ((refBits s die).testBit 3 && tblGet 0 s.clock.holdSince die != 0 &&
    decide (tblGet 0 s.clock.holdSince die - 1 + 100000 ≤ now s)) = true := by
  simp [hhold, hlate, hsince.ne']

/-- A site in service whose hold has lasted 100 µs retires its gallery (R73). -/
theorem execReferenceHoldoverExpiry_retires (hdie : die < 24) (hserves : siteStateOf s die = 0) (hmay : mayRetire s = true) :
    execReferenceHoldoverExpiry die s = .next (beginRetirement (siteLogicalOf s die) 1 s) := by
  unfold execReferenceHoldoverExpiry
  simp only [holdExpired hhold hsince hlate, if_true, if_pos hdie, hserves, hmay, and_self]
  exact within_true _ (decide_eq_true (by omega))

/-- An Archive die whose hold has lasted 100 µs becomes unavailable (R73). -/
theorem execReferenceHoldoverExpiry_archive (hsite : 24 ≤ die) (hdie : die < 28) :
    execReferenceHoldoverExpiry die s = .next (settle (dieUnavailable (die - 24) s)) := by
  unfold execReferenceHoldoverExpiry
  simp only [holdExpired hhold hsince hlate, if_true, if_neg (Nat.not_lt.mpr hsite)]
  exact within_true _ (decide_eq_true hdie)
end

/-- With triggers disarmed and no promotion in progress the return to the optical references is done at once (R72). -/
theorem ruleRevertOptical_done {s : State} (harmed : s.hodo.armed = false) (hidle : promoting s = false) :
    ∃ t, ruleRevertOptical s = actionDone t :=
  ⟨_, if_neg (by simp [harmed, hidle])⟩

/-- A message of the selected source reaches the servo (R68). -/
theorem execSyncMessageReceived_serves {port : Nat} {ptp : Bool} {offset : Int} {s : State} (hport : port < 2)
    (hlow : -2 ^ 63 ≤ offset) (hhigh : offset < 2 ^ 63) (hruns : s.clock.running = true)
    (hsource : getO s nP 0x2010 2 = sourceOf port ptp) :
    execSyncMessageReceived port ptp offset s =
      .next (lockAfter offset (forwardStep offset (newRate (setI nP 0x2010 4 offset s)))) :=
  within_of_guard (by simp only [hport, hlow, hhigh, decide_true, Bool.and_self])
    (by rw [hruns, hsource, beq_self_eq_true]; rfl)

/-- A servo that has a source and is not free enters holdover (R69). -/
theorem execHoldoverEntry_holds {s : State} (hruns : s.clock.running = true) (hsource : getO s nP 0x2010 2 ≠ 0)
    (hlock : getO s nP 0x2010 3 = 1 ∨ getO s nP 0x2010 3 = 2) :
    execHoldoverEntry s =
      .next (addO nP 0x2010 8 1 (setO nP 0x2010 3 3 { s with clock := { s.clock with goodIntervals := 0 } })) :=
  congrArg Host.Outcome.next (if_pos (by simp [hruns, hsource, hlock]))

/-- Settles O14: each event does what its command does where the conditions of R68-R76 hold. -/
theorem clockEvents : Obligations.ClockEvents := by
  unfold Obligations.ClockEvents
  refine ⟨?loss, ?returns, ?siteHold, ?archiveHold, ?revert, ?message, ?holdover⟩
  case loss =>
    intro die opt s hdie hruns hpresent
    have hloss := fun engine => execDieReferenceLoss_loses engine hdie hruns hpresent
    refine ⟨(hloss false).trans ?alone, (hloss true).trans ?engine⟩
    case alone => rw [Bool.and_false]; rfl
    case engine => rw [Bool.and_true]
  case returns =>
    intro die opt s hdie hruns habsent hnohold
    exact execDieReferenceReturn_shows hdie hruns habsent hnohold
  case siteHold =>
    intro die s hdie hhold hsince hlate hserves hmay
    exact execReferenceHoldoverExpiry_retires hhold hsince hlate hdie hserves hmay
  case archiveHold =>
    intro die s hsite hdie hhold hsince hlate
    exact execReferenceHoldoverExpiry_archive hhold hsince hlate hsite hdie
  case revert =>
    intro who s hreaches harmed hidle
    obtain ⟨t, hrule⟩ := ruleRevertOptical_done (s := arrived who nP 0x2020 3 1 s) (by rwa [arrived_hodo]) hidle
    exact ⟨t, congrArg Host.Outcome.next (served_eq_ended hreaches hrule), hrule⟩
  case message =>
    intro port ptp offset s hport hlow hhigh hruns hsource
    exact execSyncMessageReceived_serves hport hlow hhigh hruns hsource
  case holdover =>
    intro s hruns hsource hlock
    refine ⟨_, execHoldoverEntry_holds hruns hsource hlock, ?state, ?count, rfl, rfl⟩
    case state =>
      rw [addO, getO_setO_ne _ _ _ _ _ (by decide), getO_setO_same]
      rfl
    case count =>
      rw [addO, getO_setO_same, getO_setO_ne _ _ _ _ _ (by decide)]
      rfl

end Sys2Proof.Machine
end

section
/-! The state after reset (O57). -/

namespace Sys2Proof.Machine

/-- The store of the state after reset holds no object: each reads its default (R394). -/
theorem getO_reset (node ix sub : Nat) : getO State.reset node ix sub = objDefault node ix sub := rfl

/-- Logical gallery `n` is held by site `n` from the factory on (R56). -/
theorem objDefault_siteOf : ∀ n, n < 22 → objDefault nP 0x2101 (n + 1) = n := by decide +kernel

/-- Settles O57: what the state after reset lists is nothing, so each object, hart and word of memory has its default. -/
theorem resetValues : Obligations.ResetValues := by
  unfold Obligations.ResetValues
  refine ⟨rfl, rfl, rfl, rfl, getO_reset, ?harts, ?memory, rfl, rfl, rfl, ?sites, ?words⟩
  case harts => exact fun _ => ⟨rfl, rfl, rfl⟩
  case memory => exact fun _ => rfl
  case sites =>
    intro n hn
    rw [getO_reset, objDefault_siteOf n hn]
  case words => exact fun _ _ _ => rfl

end Sys2Proof.Machine
end

section
/-! The ways into OFF (O9) and the package reset (O59). -/

namespace Sys2Proof.Machine

/-! OFF (R77). -/

/-- A trial that is dropped changes the record of its site alone. -/
theorem dropTrial_eq (s : State) : ∃ obj, dropTrial s = { s with obj := obj } := by
  unfold dropTrial
  split
  · split
    · exact ⟨_, rfl⟩
    · exact ⟨_, rfl⟩
  · exact ⟨_, rfl⟩

/-- Of the power state OFF loses the throttled sites, the time of a lost REFCLK and an accepted reset. -/
theorem powerLoss_power (s : State) :
    (powerLoss s).power = { s.power with refclkLost := none, throttled := [], resetting := false } := by
  obtain ⟨obj, hdrop⟩ := dropTrial_eq s
  simp only [powerLoss, hdrop]
theorem powerLoss_medium (s : State) : (powerLoss s).arch.medium = s.arch.medium := by
  obtain ⟨obj, hdrop⟩ := dropTrial_eq s
  simp only [powerLoss, hdrop]
theorem powerLoss_flash (s : State) : (powerLoss s).strong.flash = s.strong.flash := by
  obtain ⟨obj, hdrop⟩ := dropTrial_eq s
  simp only [powerLoss, hdrop]

section
variable (cause : Nat) (stat : BitVec 3) (held : Bool) (s : State)

@[simp] theorem enterOff_modes : (enterOff cause stat held s).modes = {} := rfl
@[simp] theorem enterOff_medium : (enterOff cause stat held s).arch.medium = s.arch.medium := powerLoss_medium _
@[simp] theorem enterOff_flash : (enterOff cause stat held s).strong.flash = s.strong.flash := powerLoss_flash _

/-- In OFF the cause, STAT and the hold are the ones given, and a trip stays latched under the hold alone (R77, R493). -/
theorem enterOff_power : (enterOff cause stat held s).power =
    { s.power with refclkLost := none, throttled := [], causeLatch := cause, stat := stat, offHeld := held, resetting := false
                   thermtrip := held && s.power.thermtrip } :=
  powerLoss_power _

end

/-! Drains (R380, R381). -/

/-- A drain that ends commits the cause with what it drained. -/
@[simp] theorem stopAndDrain_archCause (abandon cause : Nat) (found : List (Nat × Bool)) (s : State) :
    (stopAndDrain abandon cause found s).power.archCause = cause := rfl

/-- What the buffer still held is lost with a drain that is broken off (R381). -/
@[simp] theorem brokenDrain_lostBuffer (found : List (Nat × Bool)) (units : List Nat) (s : State) :
    (brokenDrain found units s).power.lostBuffer = true := rfl

@[simp] theorem cutDrain_modes (found : List (Nat × Bool)) (c : DrainCut) (s : State) : (cutDrain found c s).modes = {} := rfl

section
variable (found : List (Nat × Bool)) (c : DrainCut) (s : State)

@[simp] theorem cutDrain_causeLatch : (cutDrain found c s).power.causeLatch = resetCause c.rail := by
  simp [cutDrain, enterOff_power]
@[simp] theorem cutDrain_stat : (cutDrain found c s).power.stat = 0 := by simp [cutDrain, enterOff_power]
@[simp] theorem cutDrain_offHeld : (cutDrain found c s).power.offHeld = false := by simp [cutDrain, enterOff_power]
@[simp] theorem cutDrain_poresetN : (cutDrain found c s).power.poresetN = c.rail.isSome := rfl
@[simp] theorem cutDrain_lostBuffer : (cutDrain found c s).power.lostBuffer = true := by simp [cutDrain, enterOff_power]
@[simp] theorem cutDrain_aonOut : (cutDrain found c s).power.aonOut = decide (c.rail = some 0) :=
  beq_eq_decide ..

end

/-! Rails (R477, R480). -/

/-- The five rails held up in a power failure are the first five. -/
theorem railAt_holdUp : ∀ rail, rail < 15 → (railAt rail).map Rail.holdUp = some (decide (rail < 5)) := by decide

/-- A rail is watched while PWRFAIL_N is high, and one of the first five always. -/
theorem railWatched_of_lt {rail : Nat} (s : State) (hrail : rail < 15) :
    railWatched s rail = (s.power.pwrfailN || decide (rail < 5)) := by
  obtain ⟨r, hr, hheld⟩ := Option.map_eq_some_iff.mp (railAt_holdUp rail hrail)
  simp only [railWatched, hr, hheld]

/-- Once PWRFAIL_N is low no rail past the first five is watched. -/
theorem railWatched_of_five_le {s : State} {rail : Nat} (hpin : s.power.pwrfailN = false) (hrail : 5 ≤ rail) :
    railWatched s rail = false := by
  by_cases hlt : rail < 15
  · rw [railWatched_of_lt s hlt, hpin, decide_eq_false (Nat.not_lt.mpr hrail)]; rfl
  · have hnone : railAt rail = none := List.getElem?_eq_none (Nat.not_lt.mp hlt)
    simp only [railWatched, hnone]

/-- A drain is broken off by a fall of PORESET_N, and by a rail that is watched. -/
theorem cutActs_eq (s : State) (c : DrainCut) : cutActs s c = c.rail.all (railWatched s) := by
  unfold cutActs
  cases c.rail <;> rfl

/-- The rails held up break a drain off whatever PWRFAIL_N is. -/
theorem cutActs_of_heldUp (s : State) {c : DrainCut} (hrail : (c.rail.all fun r => decide (r < 5)) = true) :
    cutActs s c = true := by
  rw [cutActs_eq]
  cases hc : c.rail with
  | none => rfl
  | some r =>
    have hr : r < 5 := by simpa [hc] using hrail
    show railWatched s r = true
    rw [railWatched_of_lt s (by omega), decide_eq_true hr, Bool.or_true]

/-! PWRFAIL_N (R91, R481, R482). -/

section
variable {found : List (Nat × Bool)} {cut : Option DrainCut} {s : State} (hfound : foundOk found = true)
include hfound

/-- A fall that no drain is broken off after ends in OFF, held, with cause 05h. -/
theorem execPowerFail_drains (hruns : running s = true) (hpin : s.power.pwrfailN = true)
    (hcut : cut.filter (cutActs { s with power := { s.power with pwrfailN := false } }) = none) :
    execPowerFail false found cut s = .next (enterOff 5 7 true
      (stopAndDrain 4 5 found { s with power := { s.power with pwrfailN := false } })) := by
  unfold execPowerFail
  simp only [hpin, hruns, hcut, Bool.not_true, Bool.or_false, Bool.false_eq_true, if_false, if_true]
  exact within_true _ hfound

/-- A fall whose drain is broken off ends in a power-on reset. -/
theorem execPowerFail_cut {c : DrainCut} (hruns : running s = true) (hpin : s.power.pwrfailN = true)
    (hcut : cutActs { s with power := { s.power with pwrfailN := false } } c = true) :
    execPowerFail false found (some c) s =
      .next (cutDrain found c { s with power := { s.power with pwrfailN := false } }) := by
  unfold execPowerFail
  simp only [hpin, hruns, Option.filter_some, hcut, Bool.not_true, Bool.or_false, Bool.false_eq_true, if_false, if_true]
  exact within_true _ hfound

/-- A rise of the pin, and a fall while it is low, move the pin alone. -/
theorem execPowerFail_pin {rises : Bool} (hpin : rises = true ∨ s.power.pwrfailN = false) :
    execPowerFail rises found cut s = .next { s with power := { s.power with pwrfailN := rises } } := by
  have hacts : (rises || !s.power.pwrfailN) = true := by
    obtain hrises | hlow := hpin
    · rw [hrises]; rfl
    · rw [hlow]; simp
  unfold execPowerFail
  simp only [hacts, if_true]
  exact within_true _ hfound

/-- A fall in OFF before a power-up holds the package there. -/
theorem execPowerFail_holds (hoff : running s = false) (hpin : s.power.pwrfailN = true) (hporeset : s.power.poresetN = true)
    (hfree : s.power.offHeld = false) :
    execPowerFail false found cut s =
      .next { s with power := { s.power with pwrfailN := false, offHeld := true, stat := 7 } } := by
  unfold execPowerFail
  simp only [hpin, hoff, hporeset, hfree, Bool.not_true, Bool.not_false, Bool.and_self, Bool.or_false, Bool.false_eq_true,
    if_false, if_true]
  exact within_true _ hfound

/-! REFCLK lost for 10 ms (R74). -/

section
variable {since : Nat} (hlost : s.power.refclkLost = some since) (hruns : running s = true) (hlate : since + 10000000 ≤ now s)
include hlost hruns hlate

/-- The stop that no drain is broken off after ends in OFF, held, with cause 04h. -/
theorem execReferenceLossStop_drains :
    execReferenceLossStop found none s = .next (enterOff 4 3 true (addO nP 0x2020 4 1 (stopAndDrain 5 4 found s))) := by
  unfold execReferenceLossStop
  simp only [hlost, hruns, hlate, decide_true, Bool.and_self, if_true, Option.filter_none]
  exact within_true _ hfound

/-- The stop whose drain is broken off ends in a power-on reset. -/
theorem execReferenceLossStop_cut {c : DrainCut} (hcut : cutActs s c = true) :
    execReferenceLossStop found (some c) s = .next (cutDrain found c (addO nP 0x2020 4 1 s)) := by
  unfold execReferenceLossStop
  simp only [hlost, hruns, hlate, decide_true, Bool.and_self, if_true, Option.filter_some, hcut]
  exact within_true _ hfound

end
end

/-! Rails out of limits (R79, R472, R480). -/

/-- VDD_AON that leaves its limits takes with it the monitors, which had power until then (R472). -/
theorem aonLost_eq (rail : Nat) {s : State} (haon : s.power.aonOut = false) :
    onlyIf (decide (rail = 0)) (fun s => { s with power := { s.power with aonOut := true } }) s =
      { s with power := { s.power with aonOut := decide (rail = 0) } } := by
  by_cases hzero : rail = 0
  · simp [onlyIf, hzero]
  · simp [onlyIf, hzero, ← haon]

/-- What the loss of a watched rail leaves where the monitors had power: OFF with its cause, and the record of a buffer that was in
use. -/
def railLost (rail : Nat) (s : State) : State :=
  let t := enterOff (if rail = 0 then 0 else 2) 0 false
    { s with power := { s.power with aonOut := decide (rail = 0) } }
  onlyIf (bufferInUse s) (setO nP 0xA000 0x0A 1)
    { t with power := { t.power with lostBuffer := t.power.lostBuffer || bufferInUse s } }

/-- The state that a lost rail leaves, but for its objects. -/
theorem railLost_eq (rail : Nat) (s : State) : ∃ obj, railLost rail s =
    let t := enterOff (if rail = 0 then 0 else 2) 0 false
      { s with power := { s.power with aonOut := decide (rail = 0) } }
    { t with obj := obj, power := { t.power with lostBuffer := t.power.lostBuffer || bufferInUse s } } :=
  onlyIf_setO_eq ..

@[simp] theorem railLost_modes (rail : Nat) (s : State) : (railLost rail s).modes = {} := by
  obtain ⟨obj, hlost⟩ := railLost_eq rail s
  rw [hlost]; rfl
@[simp] theorem railLost_medium (rail : Nat) (s : State) : (railLost rail s).arch.medium = s.arch.medium := by
  obtain ⟨obj, hlost⟩ := railLost_eq rail s
  rw [hlost]; exact enterOff_medium ..

/-- The power state that the loss of a rail leaves. -/
theorem railLost_power (rail : Nat) (s : State) :
    (railLost rail s).power =
      { s.power with refclkLost := none, throttled := [], causeLatch := if rail = 0 then 0 else 2, stat := 0, offHeld := false
                     resetting := false, thermtrip := false, lostBuffer := s.power.lostBuffer || bufferInUse s
                     aonOut := decide (rail = 0) } := by
  obtain ⟨obj, hlost⟩ := railLost_eq rail s
  simp only [hlost, enterOff_power, Bool.false_and]

/-- The package is not held in power-on reset. -/
theorem not_held_of_power {s : State} (hpower : s.power.poresetN = true ∨ running s = true) :
    (!s.power.poresetN && !running s) = false := by
  obtain hporeset | hruns := hpower
  · rw [hporeset]; rfl
  · rw [hruns]; simp

section
variable {rail : Nat} {s : State} (hrail : rail < 15)
include hrail

/-- A watched rail that leaves its limits is lost, unless VDD_AON has failed or the package is held in power-on reset. -/
theorem execRailOutOfLimits_watched (haon : s.power.aonOut = false) (hpower : s.power.poresetN = true ∨ running s = true)
    (hwatched : railWatched s rail = true) : execRailOutOfLimits rail s = .next (railLost rail s) := by
  unfold execRailOutOfLimits
  simp only [haon, not_held_of_power hpower, hwatched, Bool.false_eq_true, if_false, if_true, aonLost_eq]
  exact within_true _ (decide_eq_true hrail)

/-- A rail that is not watched does nothing. -/
theorem execRailOutOfLimits_unwatched (haon : s.power.aonOut = false) (hpower : s.power.poresetN = true ∨ running s = true)
    (hwatched : railWatched s rail = false) : execRailOutOfLimits rail s = .next s := by
  unfold execRailOutOfLimits
  simp only [haon, not_held_of_power hpower, hwatched, Bool.false_eq_true, if_false]
  exact within_true _ (decide_eq_true hrail)

/-- Once VDD_AON has failed no rail acts (R472). -/
theorem execRailOutOfLimits_unpowered (haon : s.power.aonOut = true) : execRailOutOfLimits rail s = .next s := by
  unfold execRailOutOfLimits
  simp only [haon, if_true]
  exact within_true _ (decide_eq_true hrail)

/-- In power-on reset only the latch that VDD_AON holds is lost. -/
theorem execRailOutOfLimits_reset (haon : s.power.aonOut = false) (hporeset : s.power.poresetN = false)
    (hoff : running s = false) :
    execRailOutOfLimits rail s =
      .next (if rail = 0 then { s with power := { s.power with causeLatch := 0, aonOut := true } } else s) := by
  unfold execRailOutOfLimits
  simp only [haon, hporeset, hoff, Bool.not_false, Bool.and_self, Bool.false_eq_true, if_false, if_true]
  rw [within_true _ (decide_eq_true hrail)]
  by_cases hzero : rail = 0 <;> simp [onlyIf, hzero, hporeset]

end

/-! The package reset (R78). -/

/-- In LOCKSTEP and KEEP, during a transition and during a promotion the rule refuses. -/
theorem rulePackageReset_refuses {s : State}
    (hbusy : s.modes.mode = .lockstep ∨ s.modes.mode = .keep ∨ s.modes.trans ≠ none ∨ promoting s = true) :
    rulePackageReset s = refused 0 s :=
  if_pos (by rwa [← Option.isSome_iff_ne_none] at hbusy)

/-- Otherwise it accepts. -/
theorem rulePackageReset_accepts {s : State} (hlockstep : s.modes.mode ≠ .lockstep) (hkeep : s.modes.mode ≠ .keep)
    (htrans : s.modes.trans = none) (hidle : promoting s = false) :
    rulePackageReset s = actionDone { s with power := { s.power with resetting := true } } :=
  if_neg (by simp [hlockstep, hkeep, htrans, hidle])

section
variable {who : Requester} {v : Nat} {s t : State} (hserved : served who nP 0x2030 1 v rulePackageReset s = t)
include hserved

/-- A write that was answered without an abort and left a reset due leads to OFF. -/
theorem execPackageReset_of_accepted (haccepted : accepted who s t = true) (hdue : t.power.resetting = true) :
    execPackageReset who v s = .next (enterOff 3 0 false (emit (.acknowledged who) t)) := by
  simp only [execPackageReset, hserved, haccepted, hdue, Bool.and_self, if_true]

/-- A write that was answered with an abort leaves its answer. -/
theorem execPackageReset_of_abort (habort : (t.req who).abort ≠ 0) : execPackageReset who v s = .next t := by
  have hnot : accepted who s t = false := by simp [accepted, habort]
  simp only [execPackageReset, hserved, hnot, Bool.false_and, Bool.false_eq_true, if_false]

end

/-- An accepted reset is acknowledged and then ends in OFF with cause 03h. -/
theorem execPackageReset_accepted {who : Requester} {v : Nat} {s : State} (hreaches : reaches .wo who nP 0x2030 1 v s = true)
    (hlockstep : s.modes.mode ≠ .lockstep) (hkeep : s.modes.mode ≠ .keep) (htrans : s.modes.trans = none)
    (hidle : promoting s = false) :
    execPackageReset who v s = .next (enterOff 3 0 false (emit (.acknowledged who) (ended who nP 0x2030 1
      { arrived who nP 0x2030 1 v s with power := { (arrived who nP 0x2030 1 v s).power with resetting := true } }))) := by
  have hrule := rulePackageReset_accepts (s := arrived who nP 0x2030 1 v s) (by rwa [arrived_modes]) (by rwa [arrived_modes])
    (by rwa [arrived_modes]) (by rwa [arrived_promoting])
  exact execPackageReset_of_accepted (served_eq_ended hreaches hrule) (accepted_ended _ _ _ _ _ _ rfl) rfl

/-- A refused reset is answered with an abort, and neither the mode nor the power changes. -/
theorem execPackageReset_refused {who : Requester} (v : Nat) {s : State} (hreceived : received s who = true)
    (hqueue : s.cat.queue = [])
    (hbusy : s.modes.mode = .lockstep ∨ s.modes.mode = .keep ∨ s.modes.trans ≠ none ∨ promoting s = true) :
    ∃ t, execPackageReset who v s = .next t ∧ (t.req who).abort ≠ 0 ∧ t.modes = s.modes ∧ t.power = s.power := by
  have hrule : rulePackageReset (arrived who nP 0x2030 1 v s) = refused 0 (arrived who nP 0x2030 1 v s) :=
    rulePackageReset_refuses (by simpa using hbusy)
  obtain ⟨a, d, ha, hserve⟩ := serveWrite_refuses (who := who) (node := nP) (ix := 0x2030) (sub := 1) (value := v)
    (by decide) hrule (by decide)
  have hserved : served who nP 0x2030 1 v rulePackageReset s = turnedAway who a d (arrived who nP 0x2030 1 v s) := by
    rw [served_of_idle _ _ _ _ _ hreceived hqueue, hserve]; rfl
  have habort : ((turnedAway who a d (arrived who nP 0x2030 1 v s)).req who).abort ≠ 0 := by rwa [turnedAway_abort]
  exact ⟨_, execPackageReset_of_abort hserved habort, habort, by simp, by simp⟩

/-- Settles O59: a refusal answers with an abort, an acceptance is acknowledged before OFF (R78). -/
theorem packageResetRule : Obligations.PackageResetRule := by
  unfold Obligations.PackageResetRule
  intro who v s hreceived hqueue
  refine ⟨?refuses, ?accepts⟩
  case refuses =>
    intro hbusy
    exact execPackageReset_refused v hreceived hqueue (by simpa only [promoting, beq_iff_eq] using hbusy)
  case accepts =>
    intro hlockstep hkeep htrans hidle hreaches
    exact execPackageReset_accepted hreaches hlockstep hkeep htrans (beq_eq_false_iff_ne.mpr hidle)

/-- Settles O9: each loss ends in the OFF state whose fields the lemmas above read. -/
theorem lossesOfPower : Obligations.LossesOfPower := by
  unfold Obligations.LossesOfPower
  refine ⟨?powerFail, ?pinMoves, ?held, ?railLost, ?unpowered, ?inReset, ?poreset, ?refclk, ?packageReset⟩
  case powerFail =>
    intro found s hfound hruns hpin
    refine ⟨⟨_, execPowerFail_drains (cut := none) hfound hruns hpin rfl, ?drained⟩, ?brokenOff⟩
    case drained => simp [enterOff_power]
    case brokenOff =>
      intro c
      refine ⟨?acts, ?ignored⟩
      case acts =>
        intro hrail
        exact ⟨_, execPowerFail_cut hfound hruns hpin (cutActs_of_heldUp _ hrail), by simp⟩
      case ignored =>
        intro r hr hfive
        have hidle : (some c).filter (cutActs { s with power := { s.power with pwrfailN := false } }) = none := by
          simp [cutActs_eq, hr, railWatched_of_five_le (s := { s with power := { s.power with pwrfailN := false } }) rfl hfive]
        exact (execPowerFail_drains hfound hruns hpin hidle).trans
          (execPowerFail_drains (cut := none) hfound hruns hpin rfl).symm
  case pinMoves =>
    intro rises found cut s hfound hpin
    exact execPowerFail_pin hfound hpin
  case held =>
    intro found cut s hfound hoff hpin hporeset hfree
    exact execPowerFail_holds hfound hoff hpin hporeset hfree
  case railLost =>
    intro s rail hrail haon hpower
    refine ⟨?watched, ?unwatched⟩
    case watched =>
      intro hwatch
      have hwatched : railWatched s rail = true := by
        rw [railWatched_of_lt s hrail, Bool.or_eq_true, decide_eq_true_iff]; exact hwatch
      exact ⟨_, execRailOutOfLimits_watched hrail haon hpower hwatched, by simp [railLost_power]⟩
    case unwatched =>
      intro hpin hfive
      exact execRailOutOfLimits_unwatched hrail haon hpower (railWatched_of_five_le hpin hfive)
  case unpowered =>
    intro s rail hrail haon
    exact execRailOutOfLimits_unpowered hrail haon
  case inReset =>
    intro s rail hrail haon hporeset hoff
    exact execRailOutOfLimits_reset hrail haon hporeset hoff
  case poreset =>
    intro s
    exact ⟨_, rfl, by simp [enterOff_power]⟩
  case refclk =>
    intro found s since hfound hlost hruns hlate
    refine ⟨⟨_, execReferenceLossStop_drains hfound hlost hruns hlate, ?drained⟩, ?brokenOff⟩
    case drained => simp [enterOff_power, addO]
    case brokenOff =>
      intro c hwatched
      exact ⟨_, execReferenceLossStop_cut hfound hlost hruns hlate ((cutActs_eq s c).trans hwatched), by simp⟩
  case packageReset =>
    intro who s hreaches hmode htrans hidle
    rw [arrived_promoting] at hidle
    have hlockstep : s.modes.mode ≠ .lockstep := by obtain h | h | h := hmode <;> rw [h] <;> decide
    have hkeep : s.modes.mode ≠ .keep := by obtain h | h | h := hmode <;> rw [h] <;> decide
    exact execPackageReset_accepted hreaches hlockstep hkeep htrans hidle

end Sys2Proof.Machine
end

section
/-! Power up (O10): the bank that boots, REFCLK, the power-up mode request and the verification of the images. -/

namespace Sys2Proof.Machine

/-! POWER_ON_RESET (R80, R433). -/

section
variable (s : State) (good0 good1 : Bool)

/-- Whether the signature and the digest of a bank's image are good, as the obligation has it of the two banks. -/
def bankGood (b : Nat) : Bool := if b = 0 then good0 else good1

/-- The bank that 7100h.07h names boots where it may (R433). -/
theorem bootBank_active (hactive : canBoot s (getO s nS 0x7100 7 % 2) (bankGood good0 good1 (getO s nS 0x7100 7 % 2)) = true) :
    bootBank s good0 good1 = some (getO s nS 0x7100 7 % 2) :=
  if_pos hactive

/-- The other bank boots where that one may not. -/
theorem bootBank_other
    (hactive : canBoot s (getO s nS 0x7100 7 % 2) (bankGood good0 good1 (getO s nS 0x7100 7 % 2)) = false)
    (hother : canBoot s (1 - getO s nS 0x7100 7 % 2) (bankGood good0 good1 (1 - getO s nS 0x7100 7 % 2)) = true) :
    bootBank s good0 good1 = some (1 - getO s nS 0x7100 7 % 2) :=
  (if_neg (Bool.not_eq_true _ ▸ hactive)).trans (if_pos hother)

/-- No bank boots where neither may. -/
theorem bootBank_none
    (hactive : canBoot s (getO s nS 0x7100 7 % 2) (bankGood good0 good1 (getO s nS 0x7100 7 % 2)) = false)
    (hother : canBoot s (1 - getO s nS 0x7100 7 % 2) (bankGood good0 good1 (1 - getO s nS 0x7100 7 % 2)) = false) :
    bootBank s good0 good1 = none :=
  (if_neg (Bool.not_eq_true _ ▸ hactive)).trans (if_neg (Bool.not_eq_true _ ▸ hother))

end

/-- OFF, held until the next power-on reset with the code of what stopped the power-up (R80). -/
def bootFails (stat : BitVec 3) (s : State) : State :=
  { s with power := { s.power with poresetN := true, stat := stat, offHeld := true, aonOut := false } }

section
variable {env : BootEnv} {s : State} (hoff : running s = false) (hfree : s.power.offHeld = false) (hclock : s.power.refclk = true)
  (hflash : (env.factory.all fun e => flashTargetOk e.1 && decide (e.2.length ≤ flashRoom e.1)) = true)
include hoff hfree hclock hflash

/-- A power-on reset from OFF does what its self-test and its banks allow. -/
theorem execPowerOnReset_of_off (boot : BootOutcome) :
    execPowerOnReset boot env s = .next (match boot with
      | .selfTestFailed => bootFails 1 (factoryFlash env s)
      | .banks good0 good1 => match bootBank (factoryFlash env s) good0 good1 with
        | none => bootFails 2 (factoryFlash env s)
        | some bank => powerUp bank env (factoryFlash env s)) := by
  have hgo : ¬(running s = true ∨ s.power.offHeld = true ∨ s.power.refclk = false) := by simp [hoff, hfree, hclock]
  unfold execPowerOnReset
  rw [if_neg hgo]
  exact within_true _ hflash

/-- A bank that boots leads to the power-up from it. -/
theorem execPowerOnReset_boots {good0 good1 : Bool} {bank : Nat}
    (hbank : bootBank (factoryFlash env s) good0 good1 = some bank) :
    execPowerOnReset (.banks good0 good1) env s = .next (powerUp bank env (factoryFlash env s)) := by
  rw [execPowerOnReset_of_off hoff hfree hclock hflash]
  simp only [hbank]

/-- With no bank that boots the package stays in OFF with code 010. -/
theorem execPowerOnReset_noBank {good0 good1 : Bool} (hbank : bootBank (factoryFlash env s) good0 good1 = none) :
    execPowerOnReset (.banks good0 good1) env s = .next (bootFails 2 (factoryFlash env s)) := by
  rw [execPowerOnReset_of_off hoff hfree hclock hflash]
  simp only [hbank]

end

/-- Once no promotion of step 5 is left, step 6 leaves the power-up mode request due (R80, R81). -/
theorem bootOn_requestDue {s : State} (hboots : s.modes.booting = true) (hpromo : s.panel.promo = none)
    (hqueue : s.panel.promoQueue = []) : getO (bootOn s) nP 0x2000 6 = 1 := by
  have hdone : (s.modes.booting && s.panel.promo.isNone && s.panel.promoQueue.isEmpty) = true := by
    rw [hboots, hpromo, hqueue]; rfl
  rw [bootOn, if_pos hdone, finishBoot, getO_setO_same]
  rfl

/-! REFCLK (R74). -/

/-- REFCLK that is lost while the always-on domain runs is shown, timed and recorded. -/
theorem execRefclkLoss_running {s : State} (hclock : s.power.refclk = true) (hruns : running s = true) :
    execRefclkLoss s = .next (record { cls := 4, action := 7, kind := 5, unit := 0xFFFFFFFF, sub := 3 }
      (setO nP 0x2020 1 0 { s with power := { s.power with refclk := false, refclkLost := some (now s) } })) := by
  unfold execRefclkLoss
  simp only [hclock, hruns, Bool.not_true, Bool.false_eq_true, if_false, if_true]

/-- In OFF the pin alone changes. -/
theorem execRefclkLoss_off {s : State} (hoff : running s = false) :
    execRefclkLoss s = .next { s with power := { s.power with refclk := false } } := by
  unfold execRefclkLoss
  cases hclock : s.power.refclk with
  | true => simp only [hoff, Bool.not_true, Bool.false_eq_true, if_false]
  | false =>
    have hsame : { s with power := { s.power with refclk := false } } = s := by rw [← hclock]
    rw [hsame]
    exact congrArg Host.Outcome.next (if_pos rfl)

/-- REFCLK that returns ends the hold of the mode. -/
theorem execRefclkReturn_running {s : State} (hclock : s.power.refclk = false) (hruns : running s = true) :
    execRefclkReturn s =
      .next (setO nP 0x2020 1 1 { s with power := { s.power with refclk := true, refclkLost := none } }) := by
  unfold execRefclkReturn
  simp only [hclock, hruns, Bool.false_eq_true, if_false, onlyIf, if_true]

/-! The power-up mode request (R81) and the verification of the images (R434). -/

/-- The power-up mode request for RUN begins its transition where no named image is left to verify and nothing refuses it. -/
theorem execPowerUpModeRequest_run {s : State} (hmode : s.modes.mode = .service) (hwaits : s.modes.waitImages = true)
    (hrun : getO s nP 0x2000 3 ≠ 2) (himages : namedSlots s = [] ∨ getO s nS 0x7100 3 ≠ 0)
    (hallowed : modeRefusal (setO nP 0x2000 6 0 { s with modes := { s.modes with waitImages := false } }) .run = 0) :
    execPowerUpModeRequest s = .next
      (beginTransition .run 1 none (setO nP 0x2000 6 0 { s with modes := { s.modes with waitImages := false } })) := by
  have hready : ¬(namedSlots s ≠ [] ∧ getO s nS 0x7100 3 = 0) := fun ⟨hnamed, hleft⟩ => himages.elim hnamed (· hleft)
  unfold execPowerUpModeRequest
  rw [if_pos ⟨hmode, hwaits⟩]
  simp only [if_neg hrun, true_and, if_neg hready, hallowed, ne_eq, not_true_eq_false, if_false]

/-- The verification of the images in SERVICE leaves 7100h.03h at 01h. -/
theorem execImageVerification_shows {s : State} (hmode : s.modes.mode = .service) (hleft : getO s nS 0x7100 3 = 0) :
    ∃ t, execImageVerification s = .next t ∧ getO t nS 0x7100 3 = 1 :=
  ⟨_, congrArg Host.Outcome.next (if_pos ⟨hmode, hleft⟩), by rw [getO_setO_same]; rfl⟩

end Sys2Proof.Machine

namespace Sys2Proof

open Machine

/-- Settles O10: the bank that boots decides the power-up; each other event does what its conditions allow. -/
theorem powerUp : Obligations.PowerUp := by
  unfold Obligations.PowerUp
  refine ⟨?reset, ?due, ?loss, ?returns, ?lossOff, ?request, ?images⟩
  case reset =>
    intro good0 good1 env s hoff hfree hclock hflash u a good failed
    refine ⟨?active, ?other, ?none, ?selfTest⟩
    case active =>
      intro hactive
      exact execPowerOnReset_boots hoff hfree hclock hflash (bootBank_active u good0 good1 hactive)
    case other =>
      intro hactive hother
      exact execPowerOnReset_boots hoff hfree hclock hflash (bootBank_other u good0 good1 hactive hother)
    case none =>
      intro hactive hother
      exact execPowerOnReset_noBank hoff hfree hclock hflash (bootBank_none u good0 good1 hactive hother)
    case selfTest => exact execPowerOnReset_of_off hoff hfree hclock hflash .selfTestFailed
  case due =>
    intro s hboots hpromo hqueue
    exact ⟨_, rfl, bootOn_requestDue hboots hpromo hqueue⟩
  case loss =>
    intro s hclock hruns
    exact execRefclkLoss_running hclock hruns
  case returns =>
    intro s hclock hruns
    exact execRefclkReturn_running hclock hruns
  case lossOff =>
    intro s hoff
    exact execRefclkLoss_off hoff
  case request =>
    intro s hmode hwaits hrun himages hallowed
    exact execPowerUpModeRequest_run hmode hwaits hrun himages hallowed
  case images =>
    intro s hmode hleft
    exact execImageVerification_shows hmode hleft

end Sys2Proof
end

section
/-! Mode transitions (O12): requests, the acknowledgement in LIMP, and the completion of a transition. -/

namespace Sys2Proof.Machine

/-! Requests (R86, R89). -/

/-- A write whose rule refuses its action is turned away. -/
theorem served_eq_turnedAway {acc : Acc} {who : Requester} {node ix sub value a d : Nat} {s t : State} {rule : Rule}
    (hreaches : reaches acc who node ix sub value s = true)
    (hrule : rule (arrived who node ix sub value s) = (t, .refuse a d)) :
    served who node ix sub value rule s = turnedAway who a d t := by
  rw [served_of_reaches rule hreaches, hrule]

section
variable {who : Requester} {v : Nat} {dst : Mode} {s : State} (hdst : modeOf v = some dst) (hready : s.modes.waitImages = false)
include hdst hready

/-- A request that no code refuses begins its transition, which ends later (R85). -/
theorem ruleMode_accepts (hallowed : modeRefusal s dst = 0) :
    ruleMode who v s = actionPending (beginTransition dst 0 (some (who, s.cat.nextTag)) s) := by
  simp only [ruleMode, hready, hdst, hallowed, Bool.false_eq_true, if_false, ne_eq, not_true_eq_false]

/-- A request that a code refuses shows it at 2000h.05h (R86). -/
theorem ruleMode_refuses (hrefused : modeRefusal s dst ≠ 0) :
    ruleMode who v s = refused (modeRefusal s dst) (setO nP 0x2000 5 (modeRefusal s dst) s) := by
  simp only [ruleMode, hready, hdst, Bool.false_eq_true, if_false, if_pos hrefused]

end

/-- The acknowledgement in LIMP ends it at once (R89). -/
theorem ruleAcknowledge_done (flash : List Nat) {s : State} (hmode : s.modes.mode = .limp) (htrans : s.modes.trans = none) :
    ruleAcknowledge flash s = actionDone (leaveLimp flash s) := by
  simp only [ruleAcknowledge, htrans, hmode, Option.isSome_none, Bool.false_eq_true, if_false, ne_eq, not_true_eq_false]

/-! The end of a transition (R85, R90). -/

/-- A transition that needs neither the Archive nor a memory resource tested ends with its work done; one out of LOCKSTEP, once every line
is sealed (R145). -/
theorem execModeTransitionComplete_plain {env : TransEnv} {x : Transition} {s : State} (henv : TransEnv.ok env = true)
    (htrans : s.modes.trans = some x) (hclock : s.power.refclk = true) (hservice : x.src ≠ .service) (hkeep : x.src ≠ .keep)
    (hsealed : x.src = .lockstep → allSealed s = true) :
    execModeTransitionComplete env s = .next
      (let t := endTransition x (transitionWork env x.src x.dst (tryArchive env x s))
       let u := if x.src = .lockstep then relaunched env t else onlyIf t.modes.limpDue enterLimp t
       { u with modes := { u.modes with limpDue := false } }) := by
  have hsrc : (x.src == .service) = false := beq_eq_false_iff_ne.mpr hservice
  have hopen : ¬(x.src = .lockstep ∧ allSealed s = false) := fun ⟨hlockstep, hleft⟩ => by simp [hsealed hlockstep] at hleft
  unfold execModeTransitionComplete
  simp only [htrans, hclock, hservice, hkeep, hsrc, hopen, or_self, and_false, false_and, if_false, Bool.true_eq_false, onlyIf,
    Bool.false_eq_true]
  exact within_true _ henv

/-- A transition into RUN from SERVICE or KEEP ends with its work done where the Archive and some HBM stack serve after the tests, and
stops with outcome 02h otherwise. -/
theorem execModeTransitionComplete_starts {env : TransEnv} {x : Transition} {s : State} (henv : TransEnv.ok env = true)
    (htrans : s.modes.trans = some x) (hclock : s.power.refclk = true) (hdst : x.dst = .run)
    (hsrc : x.src = .service ∨ x.src = .keep) :
    execModeTransitionComplete env s = .next
      (if env.available = false ∨ someArchiveDie (tryArchive env x s) = false then
        stopTransition 2 x.cause (archiveStays x (tryArchive env x s))
       else if someStack (retireMemories env s) = false then
        stopTransition 2 x.cause (archiveStays x (retireMemories env (tryArchive env x s)))
       else
        let t := endTransition x (transitionWork env x.src .run (tryArchive env x s))
        let u := enterRun env (onlyIf (x.src == .service) (forAll (List.range 8) (fun e u => onsets e s u)) t)
        { u with modes := { u.modes with limpDue := false } }) := by
  have hlockstep : ¬(x.src = .lockstep ∧ allSealed s = false) := by
    rintro ⟨h, -⟩
    obtain hservice | hkeep := hsrc
    · rw [hservice] at h; exact absurd h (by decide)
    · rw [hkeep] at h; exact absurd h (by decide)
  unfold execModeTransitionComplete
  simp only [htrans, hclock, hdst, hsrc, hlockstep, true_and, and_self, Bool.true_eq_false, if_false, if_true]
  exact within_true _ henv

/-- A change of mode leaves what else the mode machinery holds. -/
theorem changeMode_modes (dst : Mode) (cause start : Nat) (s : State) :
    (changeMode dst cause start s).modes = { s.modes with mode := dst } := by
  obtain ⟨obj, htest⟩ :=
    onlyIf_setO_eq (s.modes.mode == .run) nP 0x5050 1 0 { s with modes := { s.modes with mode := dst } }
  simp only [changeMode, addO, setLastTransition, setO_modes, htest]

/-- The end of a transition that no request made answers no action. -/
theorem endTransition_of_unowned {x : Transition} (s : State) (howner : x.owner = none) :
    endTransition x s =
      setO nP 0x2000 6 0 (changeMode x.dst x.cause x.start { s with modes := { s.modes with trans := none } }) := by
  unfold endTransition
  rw [howner]

/-- It puts its mode in force and shows no transition in progress. -/
theorem endTransition_unowned {x : Transition} (s : State) (howner : x.owner = none) :
    (endTransition x s).modes.mode = x.dst ∧ getO (endTransition x s) nP 0x2000 6 = 0 := by
  rw [endTransition_of_unowned s howner, setO_modes, changeMode_modes, getO_setO_same]
  exact ⟨rfl, Nat.zero_mod _⟩

/-- Settles O12: what each request and each completion answers under its conditions. -/
theorem modeTransitions : Obligations.ModeTransitions := by
  unfold Obligations.ModeTransitions
  refine ⟨?request, ?acknowledge, ?plain, ?starts, ?ends⟩
  case request =>
    intro who v dst s hreaches hdst hready
    have hready' : (arrived who nP 0x2000 2 v s).modes.waitImages = false := by rwa [arrived_modes]
    split
    case isTrue hallowed =>
      have hrule := ruleMode_accepts (who := who) hdst hready' hallowed
      rw [arrived_nextTag] at hrule
      exact congrArg Host.Outcome.next (served_eq_pending hreaches hrule)
    case isFalse hrefused =>
      exact congrArg Host.Outcome.next (served_eq_turnedAway hreaches (ruleMode_refuses hdst hready' hrefused))
  case acknowledge =>
    intro who flash s hflash hreaches hmode htrans
    have hrule := ruleAcknowledge_done flash (s := arrived who nP 0x2000 8 1 s) (by rwa [arrived_modes]) (by rwa [arrived_modes])
    show execAcknowledgeLoss who 1 flash s = _
    rw [execAcknowledgeLoss, served_eq_ended hreaches hrule]
    exact within_true _ (List.all_eq_true.mpr fun p hp => decide_eq_true (hflash p hp))
  case plain =>
    intro env x s henv htrans hclock hservice hkeep hsealed
    exact execModeTransitionComplete_plain henv htrans hclock hservice hkeep hsealed
  case starts =>
    intro env x s henv htrans hclock hdst hsrc
    exact execModeTransitionComplete_starts henv htrans hclock hdst hsrc
  case ends => exact fun x s howner => endTransition_unowned s howner

end Sys2Proof.Machine
end

section
/-! Encoder events (O17): levels that the filter accepts, receiver faults and their ends, and the speed at a timeout. -/

namespace Sys2Proof.Machine

/-- The filter's test of an encoder that counts is passed (R92, R116). -/
theorem levelAccepted_guard {e edge : Nat} {s : State} (hcounts : counting s e = true) (hfiltered : filtered s e edge = true) :
    (counting s e && filtered s e edge) = true := by
  rw [hcounts, hfiltered]; rfl

/-- The modes in which the Hodometer's objects stay current, as SPEED_TIMEOUT tests them (R96, R116). -/
theorem keepOrActive_guard {s : State} (hmode : s.modes.mode = .keep ∨ s.modes.mode.active = true) :
    (s.modes.mode == .keep || s.modes.mode.active) = true := by
  obtain hkeep | hactive := hmode
  · rw [hkeep]; rfl
  · rw [hactive, Bool.or_true]

/-- Settles O17: each event's command is in range and passes its guard, so it does what that guard allows. -/
theorem encoderEvents : Obligations.EncoderEvents := by
  unfold Obligations.EncoderEvents
  refine ⟨?oneLine, ?bothLines, ?receiver, ?timeout⟩
  case oneLine =>
    intro e edge l s he hcounts hfiltered
    have hguard := levelAccepted_guard hcounts hfiltered
    refine ⟨?a, ?b, ?z⟩
    case a => exact within_of_guard (decide_eq_true he) hguard
    case b => exact within_of_guard (decide_eq_true he) hguard
    case z => exact within_of_guard (decide_eq_true he) hguard
  case bothLines =>
    intro e edge la lb s he hcounts hfiltered
    exact within_of_guard (decide_eq_true he) (levelAccepted_guard hcounts hfiltered)
  case receiver =>
    intro e l s he hon
    exact ⟨within_of_guard (decide_eq_true he) hon, within_of_guard (decide_eq_true he) hon⟩
  case timeout =>
    intro e s he hmode
    exact within_of_guard (decide_eq_true he) (keepOrActive_guard hmode)

end Sys2Proof.Machine
end

section
/-! Hodometer writes (O18): presets, the fault word, the configuration of a program and the test fire. -/

namespace Sys2Proof.Machine

/-- A write of a value whose rule takes it is answered with an empty value. -/
theorem served_eq_written {acc : Acc} {who : Requester} {node ix sub value : Nat} {s t : State} {rule : Rule}
    (hreaches : reaches acc who node ix sub value s = true) (hacc : acc ≠ .wo)
    (hrule : rule (arrived who node ix sub value s) = answered t) :
    served who node ix sub value rule s = written acc who t := by
  rw [served_of_reaches rule hreaches, hrule]
  exact if_neg hacc

/-- The preset of an encoder that is not in use is loaded at once (R95). -/
theorem ruleLoadPreset_loads {e : Nat} {s : State} (hfree : encoderInUse s e = false) :
    ruleLoadPreset e s = actionDone (loadPosition e s) :=
  if_neg (Bool.not_eq_true _ ▸ hfree)

/-- The homing of an encoder that is not in use waits for the index (R95). -/
theorem ruleHoming_waits {e : Nat} {s : State} (hfree : encoderInUse s e = false) :
    ruleHoming e s = actionDone (setEnc e { s.enc e with homing := true } s) :=
  if_neg (Bool.not_eq_true _ ▸ hfree)

/-- A write of a fault word is never refused: the word takes the bits that stay (R16, R97). -/
theorem ruleFaultClear_answered (e value : Nat) (s : State) :
    ruleFaultClear e value s = answered (ruleFaultClear e value s).1 := rfl

/-- A program's object takes a good value while triggers are not armed, and the program starts anew (R100, R102). -/
theorem ruleProgramConfig_resets {n sub value : Nat} {s : State} (hdisarmed : s.hodo.armed = false)
    (hgood : progWriteBad s n sub value = false) :
    ruleProgramConfig n sub value s = answered (resetProgram n (setO nH (0x3300 + n) sub value s)) := by
  simp only [ruleProgramConfig, hdisarmed, hgood, Bool.false_and, Bool.false_eq_true, if_false]

/-- In RUN a test fire delivers its trigger (R115). -/
theorem ruleTestFire_delivers {n : Nat} {s : State} (hrun : s.modes.mode = .run) :
    ruleTestFire n s = actionDone (deliver n (testTrig s n) s) :=
  if_neg (not_not.mpr hrun)

/-- Settles O18: each write reaches its object's rule, and what the rule does gives the answer. -/
theorem hodometerWrites : Obligations.HodometerWrites := by
  unfold Obligations.HodometerWrites
  refine ⟨?now, ?atIndex, ?faultWord, ?config, ?testFire⟩
  case now =>
    intro who e s he hreaches hfree
    show execLoadPresetNow who e s = _
    rw [execLoadPresetNow, served_eq_ended hreaches (ruleLoadPreset_loads hfree)]
    exact within_true _ (decide_eq_true he)
  case atIndex =>
    intro who e s he hreaches hfree
    show execLoadPresetAtIndex who e s = _
    rw [execLoadPresetAtIndex, served_eq_ended hreaches (ruleHoming_waits hfree)]
    exact within_true _ (decide_eq_true he)
  case faultWord =>
    intro who e v s he hreaches
    have hrule := ruleFaultClear_answered e v (arrived who nH (0x3200 + e) 6 v s)
    refine ⟨_, hrule, ?_⟩
    show execFaultWordClear who e v s = _
    rw [execFaultWordClear, served_eq_written hreaches (by decide) hrule]
    exact within_true _ (decide_eq_true he)
  case config =>
    intro who n sub v acc s hn hacc hreaches hdisarmed hgood
    have hrule := ruleProgramConfig_resets (by rwa [arrived_hodo]) hgood
    show execProgramConfigWrite who n sub v s = _
    rw [execProgramConfigWrite, served_eq_written hreaches hacc hrule]
    exact within_true _ (decide_eq_true hn)
  case testFire =>
    intro who n s hreaches hrun
    have hrule := ruleTestFire_delivers (n := n) (s := arrived who nH 0x3000 8 n s) (by rwa [arrived_modes])
    exact congrArg Host.Outcome.next (served_eq_ended hreaches hrule)

end Sys2Proof.Machine
end

section
/-! Triggers fire (O19): interpolated, time and extrapolated triggers, the end of extrapolation, resumption and the end of a pulse. -/

namespace Sys2Proof.Machine

/-- The interpolated trigger that waits fires once its moment has come (R104). -/
theorem execInterpolatedTrigger_fires {n t : Nat} {s : State} (hn : n < 32) (hwaits : (s.prog n).pendingAt = some t)
    (hlive : live s n t = true) (hdue : t ≤ now s) :
    execInterpolatedTrigger n s = .next (firePoint n t false (setProg n { s.prog n with pendingAt := none } s)) := by
  have hguard : (live s n t && decide (t ≤ now s)) = true := by simp only [hlive, hdue, decide_true, Bool.and_self]
  simp only [execInterpolatedTrigger, hwaits]
  exact within_of_guard (decide_eq_true hn) hguard

/-- The next point of an armed time program fires where its instant is due (R100). -/
theorem fireTime_fires {n : Nat} {due : Nat → Bool} {s : State} (harmed : s.hodo.armed = true) (htime : progCfg s n 1 = 2)
    (hstate : progO s n 8 = 1) (hdue : due (timeOf s n (progO s n 1)) = true) :
    fireTime n due s = fire n (timeOf s n (progO s n 1)) (sampledPos s n) false s :=
  if_pos (by simp only [harmed, htime, hstate, hdue, beq_self_eq_true, Bool.and_self])

/-- The next point of an extrapolating program fires where its instant is due and within the limit (R108). -/
theorem fireExtrapolated_fires {n t : Nat} {due : Nat → Bool} {x : Extrap} {s : State} (hextra : (s.prog n).extra = some x)
    (hinstant : extrapInstant s n x = some t) (harmed : s.hodo.armed = true) (hstate : progO s n 8 = 2)
    (hdue : due t = true) (hlimit : t ≤ x.start + progCfg s n 8 * 1000) :
    fireExtrapolated n due s = firePoint n t true s := by
  simp only [fireExtrapolated, hextra, hinstant, harmed, hstate, hdue, hlimit, beq_self_eq_true, decide_true, Bool.and_self,
    if_true]

/-- Extrapolation that has reached its limit ends, and the program waits for the fault to clear (R108; log entry 116). -/
theorem execExtrapolationLimitExpiry_ends {n : Nat} {x : Extrap} {s : State} (hn : n < 32)
    (hextra : (s.prog n).extra = some x) (harmed : s.hodo.armed = true) (hstate : progO s n 8 = 2)
    (hlimit : x.start + progCfg s n 8 * 1000 ≤ now s) :
    execExtrapolationLimitExpiry n s = .next (setProgState n 3 (setProg n { s.prog n with extra := none } s)) := by
  have hguard : (s.hodo.armed && progO s n 8 == 2 && decide (x.start + progCfg s n 8 * 1000 ≤ now s)) = true := by
    simp only [harmed, hstate, hlimit, beq_self_eq_true, decide_true, Bool.and_self]
  simp only [execExtrapolationLimitExpiry, hextra]
  exact within_of_guard (decide_eq_true hn) hguard

/-- Once an encoder's fault bits have been clear for 1 ms, its programs that extrapolate or wait resume (R108). -/
theorem execFaultClearIntervalEnd_resumes {e t : Nat} {s : State} (he : e < 8) (hclear : (s.enc e).clearSince = some t)
    (harmed : s.hodo.armed = true) (hnofault : encFault s e = false) (hinterval : t + 1000000 ≤ now s) :
    execFaultClearIntervalEnd e s = .next (forAll ((List.range 32).filter fun n =>
      usesEncoder s n e && (progO s n 8 == 2 || progO s n 8 == 3)) (fun n s => resume n e s) s) := by
  have hguard : (s.hodo.armed && !encFault s e && decide (t + 1000000 ≤ now s)) = true := by
    simp only [harmed, hnofault, hinterval, Bool.not_false, decide_true, Bool.and_self]
  simp only [execFaultClearIntervalEnd, hclear]
  exact within_of_guard (decide_eq_true he) hguard

/-- Settles O19: each moment's command is in range and finds its trigger, limit, interval or pulse due. -/
theorem triggersFire : Obligations.TriggersFire := by
  unfold Obligations.TriggersFire
  refine ⟨?interpolated, ?time, ?extrapolated, ?limit, ?interval, ?pulse⟩
  case interpolated =>
    intro n t s hn hwaits hlive hdue
    exact execInterpolatedTrigger_fires hn hwaits hlive hdue
  case time =>
    intro n s hn harmed htime hstate hdue
    show execTimeTrigger n s = _
    rw [execTimeTrigger, fireTime_fires harmed htime hstate (decide_eq_true hdue)]
    exact within_true _ (decide_eq_true hn)
  case extrapolated =>
    intro n t x s hn hextra hinstant harmed hstate hdue hlimit
    show execExtrapolatedTrigger n s = _
    rw [execExtrapolatedTrigger, fireExtrapolated_fires hextra hinstant harmed hstate (decide_eq_true hdue) hlimit]
    exact within_true _ (decide_eq_true hn)
  case limit =>
    intro n x s hn hextra harmed hstate hlimit
    exact execExtrapolationLimitExpiry_ends hn hextra harmed hstate hlimit
  case interval =>
    intro e t s he hclear harmed hnofault hinterval
    exact execFaultClearIntervalEnd_resumes he hclear harmed hnofault hinterval
  case pulse =>
    intro o s ho hover
    exact within_of_guard (decide_eq_true ho) hover

end Sys2Proof.Machine
end

section
/-! Lane frames (O20): what a lane answers by itself, the messages of lane time, and control packets received and transmitted. -/

namespace Sys2Proof.Machine

/-- A lane that is up answers the ARP request for its own address (R121). -/
theorem execArpRequest_answers {l : Nat} (mac ip : Nat) {s : State} (hl : l < 64) (hup : laneUp s l = true) :
    execArpRequest l mac ip (laneO s l 4) s = .next (emit (.arpReply l ip mac) (frameIn l s)) := by
  rw [execArpRequest, hup, if_neg (by decide), if_pos rfl]
  exact within_true _ (decide_eq_true hl)

/-- A lane that is up answers the Delay_Req of its head with the lane time of its arrival (R122). -/
theorem execDelayReq_answers {l ip arrival : Nat} (seq ident : Nat) {s : State} (hl : l < 64) (hup : laneUp s l = true)
    (harrived : arrival ≤ now s) (hsource : wrongSource s l ip = false) :
    execDelayReq l ip seq ident arrival s = .next (emit (.delayResp l seq ident (laneTime s arrival)) (frameIn l s)) := by
  have hguard : (laneUp s l && decide (arrival ≤ now s)) = true := by rw [hup, decide_eq_true harrived]; rfl
  rw [execDelayReq, if_pos hguard, hsource, if_neg (by decide)]
  exact within_true _ (decide_eq_true hl)

/-- A timer of a lane that is up has run out where its interval has passed. -/
theorem laneTimer_guard {l interval : Nat} {last : List (Nat × Nat)} {s : State} (hup : laneUp s l = true)
    (helapsed : elapsed last l interval s = true) : (laneUp s l && elapsed last l interval s) = true := by
  rw [hup, helapsed]; rfl

/-- The head's control packet at a control port finds room in the lane's queue and is posted behind its 16-byte header (R124). -/
theorem execControlPacketReceived_posts {l ip sp dp : Nat} {bytes : List Byte} {s : State} (hl : l < 64) (hip : ip < 2 ^ 32)
    (hsp : sp < 65536) (hdp : dp < 65536) (hup : laneUp s l = true) (hport : dp = laneO s l 7 ∨ dp = laneO s l 8)
    (hevent : dp ≠ 319) (hgeneral : dp ≠ 320) (hlength : bytes.length ≤ 8972) (hsource : wrongSource s l ip = false)
    (hroom : controlRoom s l (16 + bytes.length) = true) (hack : isActionAck bytes = false) :
    execControlPacketReceived l ip sp dp bytes s = .next (postNow (.lane l) (laneO s l 0x0A)
      (leBytes 4 ip ++ leBytes 2 sp ++ leBytes 2 dp ++ leBytes 8 (now s) ++ bytes) (frameIn l s)) := by
  have hrange : (decide (l < 64) && decide (ip < 2 ^ 32) && decide (sp < 65536) && decide (dp < 65536)) = true := by
    simp only [hl, hip, hsp, hdp, decide_true, Bool.and_self]
  have hguard : (laneUp s l && (dp == laneO s l 7 || dp == laneO s l 8)) = true := by
    simp only [hup, Bool.true_and, Bool.or_eq_true, beq_iff_eq, hport]
  have hshort : tooLong (46 + bytes.length) = false := decide_eq_false (by omega)
  simp only [execControlPacketReceived, hguard, hshort, hsource, hevent, hgeneral, hroom, hack, or_self, Bool.not_true,
    Bool.false_eq_true, if_true, if_false]
  exact within_true _ hrange

/-- The oldest entry of a lane's control transmit queue, where it is good and names its destination, goes out as one packet (R123). -/
theorem execControlTransmitEntry_sends {l : Nat} {b slot : List Byte} {s t : State} (hl : l < 64) (hup : laneUp s l = true)
    (hqueue : laneO s l 9 < 65536) (hruns : qRunning s (laneO s l 9) = true) (hkind : qKind s (laneO s l 9) = 3)
    (howner : queueOwner s (laneO s l 9) = laneO s l 2) (hheld : qHeld s (laneO s l 9) ≠ 0)
    (hword : mappedRange s (slotAddr s (laneO s l 9) (qC s (laneO s l 9))) 8 = true)
    (hspan : mappedRange s (slotAddr s (laneO s l 9) (qC s (laneO s l 9))) (transmitSpan s (laneO s l 9)) = true)
    (hread : ioRead (slotAddr s (laneO s l 9) (qC s (laneO s l 9))) (transmitSpan s (laneO s l 9)) s = (t, slot, []))
    (hentry : transmitEntry (qElem s (laneO s l 9)) slot = some b) (hnamed : leAt b 0 4 ≠ 0)
    (hunicast : leAt b 0 4 ≠ 0xFFFFFFFF) :
    execControlTransmitEntry l s = .next (emit (.gvcp l (headMac s l) (leAt b 0 4) (laneO s l 7) (leAt b 4 2) (b.drop 8))
      (advanceC (laneO s l 9) 1 t)) := by
  have hguard : (laneUp s l && decide (laneO s l 9 < 65536) && qRunning s (laneO s l 9) && qKind s (laneO s l 9) == 3 &&
      queueOwner s (laneO s l 9) == laneO s l 2 && qHeld s (laneO s l 9) != 0 &&
      mappedRange s (slotAddr s (laneO s l 9) (qC s (laneO s l 9))) 8 &&
      mappedRange s (slotAddr s (laneO s l 9) (qC s (laneO s l 9))) (transmitSpan s (laneO s l 9))) = true := by
    simp only [hup, hqueue, hruns, hkind, howner, bne_iff_ne.mpr hheld, hword, hspan, decide_true, beq_self_eq_true,
      Bool.and_self]
  simp only [execControlTransmitEntry, hguard, hread, hentry, hnamed, hunicast, ne_eq, not_true_eq_false, if_true, if_false]
  exact within_true _ (decide_eq_true hl)

/-- Settles O20: each command's lane is up and passes the rows of R121 to R124 that the command tests. -/
theorem laneFrames : Obligations.LaneFrames := by
  unfold Obligations.LaneFrames
  refine ⟨?arp, ?delay, ?timers, ?packet, ?transmit⟩
  case arp => exact fun l mac ip s hl hup => execArpRequest_answers mac ip hl hup
  case delay =>
    intro l ip seq ident arrival s hl hup harrived hsource
    exact execDelayReq_answers seq ident hl hup harrived hsource
  case timers =>
    intro l s hl hup
    exact ⟨fun hsync => within_of_guard (decide_eq_true hl) (laneTimer_guard hup hsync),
      fun hannounce => within_of_guard (decide_eq_true hl) (laneTimer_guard hup hannounce)⟩
  case packet =>
    intro l ip sp dp bytes s hl hip hsp hdp hup hport hevent hgeneral hlength hsource hroom hack
    exact execControlPacketReceived_posts hl hip hsp hdp hup hport hevent hgeneral hlength hsource hroom hack
  case transmit =>
    intro l b s t slot hl hup hqueue hruns hkind howner hheld hword hspan hread hentry hnamed hunicast
    exact execControlTransmitEntry_sends hl hup hqueue hruns hkind howner hheld hword hspan hread hentry hnamed hunicast

end Sys2Proof.Machine
end

section
/-! Lines seal and post (O21): the seal timeout of a held line, the sealing and posting in order, and the end of a deposit. -/

namespace Sys2Proof.Machine

/-- A held line whose timeout has passed meets its seal with CAUSE 1 (R136). -/
theorem execSealTimeout_meets {r k : Nat} {h : HeldLine} {s : State} (hr : r < 256)
    (hheld : (s.ring r).held.find? (·.k == k) = some h) (hactive : s.modes.mode.active = true)
    (hdue : h.trigger + ringO s r 0x4200 9 ≤ now s) : execSealTimeout r k s = .next (meetSeal r k 1 s) := by
  have hguard : (s.modes.mode.active && decide (h.trigger + ringO s r 0x4200 9 ≤ now s)) = true := by
    rw [hactive, decide_eq_true hdue]; rfl
  simp only [execSealTimeout, hheld]
  exact within_of_guard (decide_eq_true hr) hguard

/-- Once the time after a deposit's end has passed, the lines still open are sealed (R145). -/
theorem execDisarmSealTimeout_seals {t : Nat} {s : State} (hends : s.acc.disarmAt = some t) (hdue : t ≤ now s) :
    execDisarmSealTimeout s = .next (disarmSeals { s with acc := { s.acc with disarmAt := none } }) := by
  simp only [execDisarmSealTimeout, hends, if_pos hdue]

/-- Settles O21: each event's ring is in range and its time has come. -/
theorem linesSealAndPost : Obligations.LinesSealAndPost := by
  unfold Obligations.LinesSealAndPost
  refine ⟨?timeout, ?inOrder, ?depositEnd⟩
  case timeout => exact fun r k h s hr hheld hactive hdue => execSealTimeout_meets hr hheld hactive hdue
  case inOrder =>
    intro r s hr hactive
    exact ⟨within_of_guard (decide_eq_true hr) hactive, within_of_guard (decide_eq_true hr) hactive⟩
  case depositEnd => exact fun t s hends hdue => execDisarmSealTimeout_seals hends hdue

end Sys2Proof.Machine
end

section
/-! Stream enables (O22): the enables of lanes, stream contexts and rings, a lane's link, stream packets, and the reason for which a
frame is dropped. -/

namespace Sys2Proof.Machine

@[simp] theorem arrived_laneO (who : Requester) (node ix sub value : Nat) (s : State) (l o : Nat) :
    laneO (arrived who node ix sub value s) l o = laneO s l o := getO_congr (arrived_obj ..) ..
@[simp] theorem arrived_ctxO (who : Requester) (node ix sub value : Nat) (s : State) (c o : Nat) :
    ctxO (arrived who node ix sub value s) c o = ctxO s c o := getO_congr (arrived_obj ..) ..
@[simp] theorem arrived_ringO (who : Requester) (node ix sub value : Nat) (s : State) (r i o : Nat) :
    ringO (arrived who node ix sub value s) r i o = ringO s r i o := getO_congr (arrived_obj ..) ..

/-! The rules of the enables, for what was not enabled. -/

/-- A lane that was not enabled is, where it meets R120, and its link starts down in a mode in which lanes carry frames. -/
theorem ruleLane_enables {l : Nat} {s : State} (hwas : laneO s l 1 ≠ 1) (hset : laneO (setO (nLane l) 0x4010 1 1 s) l 1 = 1)
    (hgood : laneOk (setO (nLane l) 0x4010 1 1 s) l = true) :
    ruleLane l 1 1 s = answered (onlyIf s.modes.mode.active (setLink l 1) (setO (nLane l) 0x4010 1 1 s)) := by
  have hwas' : (laneO s l 1 == 1) = false := beq_false_of_ne hwas
  cases hactive : s.modes.mode.active <;> simp [ruleLane, hwas', hset, hgood, hactive, onlyIf]

/-- A stream context that was not enabled is, where it meets R126: it starts afresh, and its ring's open lines bar its member (R146). -/
theorem ruleCtx_enables {c : Nat} {s : State} (hwas : ctxO s c 1 ≠ 1)
    (hgood : ctxOk (setO (nCtx c) 0x4100 1 1 s) c = true) :
    ruleCtx c 1 1 s = answered (let t := setO (nCtx c) 0x4100 1 1 s
      barMember (ctxO t c 4) (ctxO t c 5) (setCtx c {} t)) := by
  have hwas' : (ctxO s c 1 == 1) = false := beq_false_of_ne hwas
  simp [ruleCtx, hwas', hgood, onlyIf]

/-- A ring that was not enabled is, where it meets R128 and R129. -/
theorem ruleRing_enables {r : Nat} {s : State} (hwas : ringO s r 0x4200 1 ≠ 1)
    (hgood : ringOk (setO (nRing r) 0x4200 1 1 s) r = true) :
    ruleRing r 1 1 s = answered (setO (nRing r) 0x4200 1 1 s) := by
  have hwas' : (ringO s r 0x4200 1 == 1) = false := beq_false_of_ne hwas
  simp [ruleRing, hwas', hgood]

/-! Links and stream packets. -/

/-- A link that was lost is up again when it returns, with one record where a line is open (R147). -/
theorem execLaneLinkReturn_restores {l : Nat} {s : State} (hl : l < 64) (hactive : s.modes.mode.active = true)
    (henabled : laneO s l 1 = 1) (hdown : laneO s l 0x0C = 1) :
    execLaneLinkReturn l s = .next (setLink l 2 (onlyIf (openOnLane s l)
      (record { cls := 4, action := 0, kind := 0x0A, unit := l, part := laneO s l 2 }) s)) := by
  have hguard : (s.modes.mode.active && laneO s l 1 == 1 && laneO s l 0x0C == 1) = true := by
    rw [hactive, henabled, hdown]; rfl
  exact within_of_guard (decide_eq_true hl) hguard

/-- A stream packet that passes the rows of R121 reaches the enabled context of its port (R126). -/
theorem execStreamPacket_reaches {l c : Nat} {p : StreamPkt} (f : ArrayFinding) {s : State} (hl : l < 64)
    (hblock : p.blockId < 2 ^ 64) (hport : p.dstPort < 65536) (hup : laneUp s l = true)
    (hplain : p.dstPort ∉ [319, 320, laneO s l 7, laneO s l 8])
    (hshort : tooLong (66 + ((gvspImage p.form).getD []).length) = false) (hsource : wrongSource s l p.srcIp = false)
    (hctx : contextOf s l p.dstPort = some c) :
    execStreamPacket l p f s = .next (streamCtx l c p (contextRecord 0 c 0 f (frameIn l s))) := by
  have hrange : (decide (l < 64) && decide (p.blockId < 2 ^ 64) && decide (p.dstPort < 65536)) = true := by
    simp only [hl, hblock, hport, decide_true, Bool.and_self]
  simp only [List.mem_cons, List.not_mem_nil, or_false, not_or] at hplain
  obtain ⟨hevent, hgeneral, hcommand, hmessage⟩ := hplain
  have hguard : (laneUp s l && !([laneO s l 7, laneO s l 8].contains p.dstPort)) = true := by
    simp [hup, hcommand, hmessage]
  simp only [execStreamPacket, hguard, hshort, hsource, hevent, hgeneral, hctx, or_self, Bool.false_eq_true, if_true, if_false]
  exact within_true _ hrange

/-! The reason for which a UDP packet is dropped, row by row (R121). -/

section
variable {s : State} {l src dst port n : Nat} {time ack : Bool}

theorem udpReason_of_wrongSource (hsource : wrongSource s l src = true) : udpReason s l src dst port n time ack = some 4 :=
  if_pos hsource

/-- The row of lane time's ports. -/
theorem udpReason_of_timePort (hsource : wrongSource s l src = false) (hport : port = 319 ∨ port = 320) (htime : time = false) :
    udpReason s l src dst port n time ack = some 8 := by
  simp only [udpReason, hsource, hport, htime, Bool.false_eq_true, if_true, if_false]

/-- The multicast address of lane time takes nothing but lane time. -/
theorem udpReason_of_ptpIp (hsource : wrongSource s l src = false) (hport : port ∉ [319, 320]) (hdst : dst = ptpIp) :
    udpReason s l src dst port n time ack = some 5 := by
  have hport' : ¬(port = 319 ∨ port = 320) := by simpa using hport
  simp only [udpReason, hsource, hport', hdst, Bool.false_eq_true, if_true, if_false]

/-- The rows of the lane's control ports: room first, then the acknowledge code. -/
theorem udpReason_of_controlPort (hsource : wrongSource s l src = false) (hport : port ∉ [319, 320]) (hdst : dst ≠ ptpIp)
    (hcontrol : port ∈ [laneO s l 7, laneO s l 8]) :
    udpReason s l src dst port n time ack =
      if !controlRoom s l (16 + n) then some 6 else if ack then some 7 else none := by
  have hport' : ¬(port = 319 ∨ port = 320) := by simpa using hport
  have hcontrol' : port = laneO s l 7 ∨ port = laneO s l 8 := by simpa using hcontrol
  simp only [udpReason, hsource, hport', hdst, hcontrol', Bool.false_eq_true, if_true, if_false]

/-- A port of no context. -/
theorem udpReason_of_noContext (hsource : wrongSource s l src = false) (hport : port ∉ [319, 320])
    (hcontrol : port ∉ [laneO s l 7, laneO s l 8]) (hctx : contextOf s l port = none) :
    udpReason s l src dst port n time ack = some 5 := by
  have hport' : ¬(port = 319 ∨ port = 320) := by simpa using hport
  have hcontrol' : ¬(port = laneO s l 7 ∨ port = laneO s l 8) := by simpa using hcontrol
  simp only [udpReason, hsource, hport', hcontrol', hctx, Option.isNone_none, Bool.false_eq_true, if_true, if_false, ite_self]

end

/-! The reason for which a frame is dropped, row by row (R121, R133). -/

section
variable {s : State} {l : Nat} {f : LaneFrame}

theorem frameReason_of_full (hfull : getO s nX 0x4000 6 < f.waiting + f.length) : frameReason s l f = some 1 :=
  if_pos hfull

/-- A frame to one of the addresses that the lane takes is not for another station. -/
theorem not_elsewhere (hmac : f.dstMac ∈ [laneO s l 3, broadcastMac, ptpMac]) :
    ¬(f.dstMac ≠ laneO s l 3 ∧ f.dstMac ≠ broadcastMac ∧ f.dstMac ≠ ptpMac) := by
  simp only [List.mem_cons, List.not_mem_nil, or_false] at hmac
  tauto

variable (hroom : f.waiting + f.length ≤ getO s nX 0x4000 6)
include hroom

theorem frameReason_of_bad (hbad : f.checksGood = false ∨ tooLong f.length = true) : frameReason s l f = some 2 := by
  have hbad' : (!f.checksGood || tooLong f.length) = true := by simpa using hbad
  rw [frameReason, if_neg (Nat.not_lt.mpr hroom), if_pos hbad']

variable (hgood : f.checksGood = true) (hshort : tooLong f.length = false)
include hgood hshort

/-- A frame to another station, or one that carries neither ARP nor UDP. -/
theorem frameReason_of_elsewhere (h : f.dstMac ∉ [laneO s l 3, broadcastMac, ptpMac] ∨ f.packet = .other) :
    frameReason s l f = some 3 := by
  simp only [frameReason, Nat.not_lt.mpr hroom, hgood, hshort, Bool.not_true, Bool.or_self, Bool.false_eq_true, if_false]
  obtain hmac | hother := h
  · exact if_pos (by simpa using hmac)
  · simp only [hother, ite_self]

variable (hmac : f.dstMac ∈ [laneO s l 3, broadcastMac, ptpMac])
include hmac

/-- An ARP packet that does not ask for the lane's address. -/
theorem frameReason_of_arp {request : Bool} {ip : Nat} (hpacket : f.packet = .arp request ip)
    (hother : request = false ∨ ip ≠ laneO s l 4) : frameReason s l f = some 3 := by
  have hrow : ¬(request && ip == laneO s l 4) = true := by
    simp only [Bool.and_eq_true, beq_iff_eq]
    rintro ⟨hasks, hown⟩
    exact hother.elim (by simp [hasks]) (fun hne => hne hown)
  simp only [frameReason, Nat.not_lt.mpr hroom, hgood, hshort, not_elsewhere hmac, hpacket, Bool.not_true,
    Bool.or_self, Bool.false_eq_true, if_false]
  exact if_neg hrow

/-- A UDP packet to one of the lane's addresses is judged by its own rows. -/
theorem frameReason_of_udp {src dst port n : Nat} {time ack : Bool} (hpacket : f.packet = .udp src dst port n time ack) :
    frameReason s l f = if dst = laneO s l 4 ∨ dst = ptpIp then udpReason s l src dst port n time ack else some 3 := by
  simp only [frameReason, Nat.not_lt.mpr hroom, hgood, hshort, not_elsewhere hmac, hpacket, Bool.not_true,
    Bool.or_self, Bool.false_eq_true, if_false]

end

section
variable {s : State} {l : Nat} {f : LaneFrame} (hl : l < 64) (hup : laneUp s l = true)
include hl hup

/-- A frame that a lane drops counts under its reason (R133). -/
theorem execLaneFrameDropped_drops {r : Nat} (hreason : frameReason s l f = some r) :
    execLaneFrameDropped l f s = .next (dropLaneFrame l r s) := by
  simp only [execLaneFrameDropped, hup, hreason, Bool.not_true, Bool.false_eq_true, if_false]
  exact within_true _ (decide_eq_true hl)

/-- A frame that no row drops leaves the state to the command of what it carries. -/
theorem execLaneFrameDropped_keeps (hreason : frameReason s l f = none) : execLaneFrameDropped l f s = .next s := by
  simp only [execLaneFrameDropped, hup, hreason, Bool.not_true, Bool.false_eq_true, if_false]
  exact within_true _ (decide_eq_true hl)

end

/-- Settles O22: each enable passes its object's rule, and each frame meets the first row that applies to it. -/
theorem streamEnables : Obligations.StreamEnables := by
  unfold Obligations.StreamEnables
  refine ⟨?lane, ?context, ?ring, ?linkLoss, ?linkReturn, ?packet, ?dropped⟩
  case lane =>
    intro who l s hl hreaches hwas hset hgood
    have hrule := ruleLane_enables (by rwa [arrived_laneO]) hset hgood
    rw [arrived_modes] at hrule
    show execLaneEnable who l 1 s = _
    rw [execLaneEnable, served_eq_written hreaches (by decide) hrule]
    exact within_true _ (decide_eq_true hl)
  case context =>
    intro who c s hc hreaches hwas hgood
    have hrule := ruleCtx_enables (by rwa [arrived_ctxO]) hgood
    show execStreamContextEnable who c 1 s = _
    rw [execStreamContextEnable, served_eq_written hreaches (by decide) hrule]
    exact within_true _ (decide_eq_true hc)
  case ring =>
    intro who r s hr hreaches hwas hgood
    have hrule := ruleRing_enables (by rwa [arrived_ringO]) hgood
    show execRingEnable who r 1 s = _
    rw [execRingEnable, served_eq_written hreaches (by decide) hrule]
    exact within_true _ (decide_eq_true hr)
  case linkLoss => exact fun l s hl hup => within_of_guard (decide_eq_true hl) hup
  case linkReturn => exact fun l s hl hactive henabled hdown => execLaneLinkReturn_restores hl hactive henabled hdown
  case packet =>
    intro l c p f s hl hblock hport hup hplain hshort hsource hctx
    exact execStreamPacket_reaches f hl hblock hport hup hplain hshort hsource hctx
  case dropped =>
    intro l f s hl hup
    have hdrops (r : Nat) (hreason : frameReason s l f = some r) : exec (.laneFrameDropped l f) s = .next (dropLaneFrame l r s) :=
      execLaneFrameDropped_drops hl hup hreason
    refine ⟨fun hfull => hdrops 1 (frameReason_of_full hfull), fun hroom =>
      ⟨fun hbad => hdrops 2 (frameReason_of_bad hroom hbad), fun hgood hshort =>
      ⟨fun helsewhere => hdrops 3 (frameReason_of_elsewhere hroom hgood hshort helsewhere), fun hmac => ⟨?arp, ?udp⟩⟩⟩⟩
    case arp =>
      intro request ip hpacket hother
      exact hdrops 3 (frameReason_of_arp hroom hgood hshort hmac hpacket hother)
    case udp =>
      intro src dst port n time ack hpacket
      have hframe := frameReason_of_udp hroom hgood hshort hmac hpacket
      have htaken (hdst : dst ∈ [laneO s l 4, ptpIp]) : frameReason s l f = udpReason s l src dst port n time ack :=
        hframe.trans (if_pos (by simpa using hdst))
      refine ⟨?address, ?source, ?timePort, ?own, ?multicast⟩
      case address => exact fun hdst => hdrops 3 (hframe.trans (if_neg (by simpa using hdst)))
      case source => exact fun hdst hsource => hdrops 4 ((htaken hdst).trans (udpReason_of_wrongSource hsource))
      case timePort =>
        intro hdst hsource hport htime
        exact hdrops 8 ((htaken hdst).trans (udpReason_of_timePort hsource hport htime))
      case own =>
        intro hdst hptp hsource hport
        have hown := htaken (by simp [hdst])
        refine ⟨fun hcontrol => ?_, fun hcontrol hctx => hdrops 5 (hown.trans (udpReason_of_noContext hsource hport hcontrol hctx))⟩
        have hrow := hown.trans (udpReason_of_controlPort hsource hport hptp hcontrol)
        refine ⟨?noRoom, ?acknowledges, ?kept⟩
        case noRoom => exact fun hqueue => hdrops 6 (by simp [hrow, hqueue])
        case acknowledges => exact fun hqueue hack => hdrops 7 (by simp [hrow, hqueue, hack])
        case kept => exact fun hqueue hack => execLaneFrameDropped_keeps hl hup (by simp [hrow, hqueue, hack])
      case multicast =>
        intro hdst hsource hport
        exact hdrops 5 ((htaken (by simp [hdst])).trans (udpReason_of_ptpIp hsource hport hdst))

end Sys2Proof.Machine
end

section
/-! The package's stores stay in canonical form (O2, O3): every command keeps them, and so does an idle step. -/

namespace Sys2Proof.Machine

/-- Every command keeps the stores, the queue, the open values, the record of what was sent and a decommissioning. -/
theorem exec_keep {o s : State} (i : Instr) (h : Keep o s) : KeepN o (exec i s) := by
  cases i with
  | powerOnReset => exact execPowerOnReset_keep _ _ _ h
  | powerUpModeRequest => exact execPowerUpModeRequest_keep _ h
  | imageVerification => exact execImageVerification_keep _ h
  | packageReset => exact execPackageReset_keep _ _ _ h
  | modeRequest => exact execModeRequest_keep _ _ _ h
  | modeTransitionComplete => exact execModeTransitionComplete_keep _ _ h
  | acknowledgeLoss => exact execAcknowledgeLoss_keep _ _ _ _ h
  | powerFail => exact execPowerFail_keep _ _ _ _ h
  | railOutOfLimits => exact execRailOutOfLimits_keep _ _ h
  | thermalTrip => exact execThermalTrip_keep _ _ h
  | thermalThrottleEntry => exact execThermalThrottleEntry_keep _ _ h
  | thermalThrottleExit => exact execThermalThrottleExit_keep _ _ h
  | refclkLoss => exact execRefclkLoss_keep _ h
  | referenceLossStop => exact execReferenceLossStop_keep _ _ _ h
  | dieReferenceLoss => exact execDieReferenceLoss_keep _ _ _ _ h
  | referenceHoldoverExpiry => exact execReferenceHoldoverExpiry_keep _ _ h
  | revertToOptical => exact execRevertToOptical_keep _ _ _ h
  | syncMessageReceived => exact execSyncMessageReceived_keep _ _ _ _ h
  | holdoverEntry => exact execHoldoverEntry_keep _ h
  | flitCrcError => exact execFlitCrcError_keep _ _ _ _ h
  | recoveryRetraining => exact execRecoveryRetraining_keep _ _ _ h
  | trainingComplete => exact execTrainingComplete_keep _ _ _ h
  | trainingTimeout => exact execTrainingTimeout_keep _ _ h
  | couplingEndReset => exact execCouplingEndReset_keep _ _ _ h
  | retireGallery => exact execRetireGallery_keep _ _ _ h
  | galleryRetirement => exact execGalleryRetirement_keep _ _ _ h
  | retestSite => exact execRetestSite_keep _ _ _ h
  | encoderLevelAccepted => exact execEncoderLevelAccepted_keep _ _ _ _ h
  | encoderLineFault => exact execEncoderLineFault_keep _ _ _ h
  | speedTimeout => exact execSpeedTimeout_keep _ _ h
  | loadPresetNow => exact execLoadPresetNow_keep _ _ _ h
  | loadPresetAtIndex => exact execLoadPresetAtIndex_keep _ _ _ h
  | faultWordClear => exact execFaultWordClear_keep _ _ _ _ h
  | interpolatedTrigger => exact execInterpolatedTrigger_keep _ _ h
  | timeTrigger => exact execTimeTrigger_keep _ _ h
  | extrapolatedTrigger => exact execExtrapolatedTrigger_keep _ _ h
  | extrapolationLimitExpiry => exact execExtrapolationLimitExpiry_keep _ _ h
  | faultClearIntervalEnd => exact execFaultClearIntervalEnd_keep _ _ h
  | outputPulseEnd => exact execOutputPulseEnd_keep _ _ h
  | testFire => exact execTestFire_keep _ _ _ h
  | programConfigWrite => exact execProgramConfigWrite_keep _ _ _ _ _ h
  | arpRequest => exact execArpRequest_keep _ _ _ _ _ h
  | delayReq => exact execDelayReq_keep _ _ _ _ _ _ h
  | ptpSyncTimer => exact execPtpSyncTimer_keep _ _ h
  | ptpAnnounceTimer => exact execPtpAnnounceTimer_keep _ _ h
  | controlPacketReceived => exact execControlPacketReceived_keep _ _ _ _ _ _ h
  | controlTransmitEntry => exact execControlTransmitEntry_keep _ _ h
  | streamPacket => exact execStreamPacket_keep _ _ _ _ h
  | sealTimeout => exact execSealTimeout_keep _ _ _ h
  | lineSeal => exact execLineSeal_keep _ _ h
  | completionPost => exact execCompletionPost_keep _ _ h
  | disarmSealTimeout => exact execDisarmSealTimeout_keep _ h
  | laneLinkLoss => exact execLaneLinkLoss_keep _ _ h
  | laneLinkReturn => exact execLaneLinkReturn_keep _ _ h
  | laneEnable => exact execLaneEnable_keep _ _ _ _ h
  | streamContextEnable => exact execStreamContextEnable_keep _ _ _ _ h
  | ringEnable => exact execRingEnable_keep _ _ _ _ h
  | memoryRequest => exact execMemoryRequest_keep _ _ _ _ _ _ h
  | hbmRefreshDue => exact execHbmRefreshDue_keep _ _ _ _ h
  | ddr5RefreshDue => exact execDdr5RefreshDue_keep _ _ h
  | idleSelfRefreshEntry => exact execIdleSelfRefreshEntry_keep _ _ h
  | ddr5InitComplete => exact execDdr5InitComplete_keep _ h
  | clearRetirements => exact execClearRetirements_keep _ _ _ h
  | scrubReadDue => exact execScrubReadDue_keep _ _ _ h
  | scrubWake => exact execScrubWake_keep _ _ _ h
  | testWriteData => exact execTestWriteData_keep _ _ h
  | testWriteCheck => exact execTestWriteCheck_keep _ _ h
  | testReadRaw => exact execTestReadRaw_keep _ _ h
  | testPoison => exact execTestPoison_keep _ _ h
  | load => exact execLoad_keep _ _ _ _ _ _ _ _ _ _ _ _ h
  | store => exact execStore_keep _ _ _ _ _ _ _ _ _ h
  | storeBufferDrain => exact execStoreBufferDrain_keep _ _ h
  | amo => exact execAmo_keep _ _ _ _ _ _ _ h
  | lr => exact execLr_keep _ _ _ _ _ h
  | sc => exact execSc_keep _ _ _ _ _ _ h
  | lrSnoopHoldEnd => exact execLrSnoopHoldEnd_keep _ _ _ h
  | fence => exact execFence_keep _ _ _ _ _ h
  | fenceI => exact execFenceI_keep _ _ h
  | sfenceVma => exact execSfenceVma_keep _ _ _ _ h
  | satpWrite => exact execSatpWrite_keep _ _ _ h
  | vectorLoad => exact execVectorLoad_keep _ _ _ _ _ _ _ _ _ _ h
  | vectorStore => exact execVectorStore_keep _ _ _ _ _ _ _ _ h
  | vectorArithmetic => exact execVectorArithmetic_keep _ _ _ h
  | interruptTake => exact execInterruptTake_keep _ _ h
  | wfi => exact execWfi_keep _ _ h
  | mntimecmpWrite => exact execMntimecmpWrite_keep _ _ _ h
  | mnerrWrite => exact execMnerrWrite_keep _ _ _ _ h
  | mncfgWrite => exact execMncfgWrite_keep _ _ _ h
  | cboClean => exact execCboClean_keep _ _ _ h
  | cboFlush => exact execCboFlush_keep _ _ _ h
  | cboInval => exact execCboInval_keep _ _ _ h
  | cboZero => exact execCboZero_keep _ _ _ h
  | prefetchHint => exact execPrefetchHint_keep _ _ _ _ _ h
  | lockOpen => exact execLockOpen_keep _ _ _ _ h
  | lockLock => exact execLockLock_keep _ _ _ _ h
  | lockUnlock => exact execLockUnlock_keep _ _ _ _ h
  | lockCancel => exact execLockCancel_keep _ _ _ _ h
  | wayMethodWrite => exact execWayMethodWrite_keep _ _ _ _ h
  | clearDisabledWays => exact execClearDisabledWays_keep _ _ _ _ h
  | vitLoad => exact execVitLoad_keep _ _ _ _ _ h
  | vitArm => exact execVitArm_keep _ _ _ _ h
  | vitDisarm => exact execVitDisarm_keep _ _ _ _ h
  | vitRun => exact execVitRun_keep _ _ _ _ _ h
  | vitWait => exact execVitWait_keep _ _ _ _ h
  | vitStat => exact execVitStat_keep _ _ _ _ h
  | sealNotice => exact execSealNotice_keep _ _ _ _ _ h
  | vitrineStep => exact execVitrineStep_keep _ _ _ h
  | vitrineJobRow => exact execVitrineJobRow_keep _ _ _ h
  | rds => exact execRds_keep _ _ _ _ _ _ h
  | rdx => exact execRdx_keep _ _ _ _ _ _ h
  | upg => exact execUpg_keep _ _ _ _ _ h
  | claimz => exact execClaimz_keep _ _ _ _ _ _ h
  | crd => exact execCrd_keep _ _ _ _ h
  | cwr => exact execCwr_keep _ _ _ _ _ _ _ h
  | cmoClean => exact execCmoClean_keep _ _ _ _ h
  | cmoFlush => exact execCmoFlush_keep _ _ _ _ h
  | cmoInval => exact execCmoInval_keep _ _ _ _ h
  | snps => exact execSnps_keep _ _ _ h
  | snpx => exact execSnpx_keep _ _ _ h
  | snpinv => exact execSnpinv_keep _ _ _ h
  | snpcln => exact execSnpcln_keep _ _ _ h
  | wbd => exact execWbd_keep _ _ _ h
  | snoopResponse => exact execSnoopResponse_keep _ _ _ h
  | snpdata => exact execSnpdata_keep _ _ _ h
  | data => exact execData_keep _ _ _ h
  | cmp => exact execCmp_keep _ _ _ h
  | wback => exact execWback_keep _ _ _ h
  | ack => exact execAck_keep _ _ _ h
  | transactionWatchdog => exact execTransactionWatchdog_keep _ _ h
  | domainClear => exact execDomainClear_keep _ _ h
  | directoryEntryError => exact execDirectoryEntryError_keep _ _ _ _ _ h
  | pidxWrite => exact execPidxWrite_keep _ _ _ _ _ h
  | cidxWrite => exact execCidxWrite_keep _ _ _ _ _ h
  | armWrite => exact execArmWrite_keep _ _ _ _ _ h
  | queuePost => exact execQueuePost_keep _ _ _ _ h
  | queueEventDelay => exact execQueueEventDelay_keep _ _ _ _ h
  | seteipnumWrite => exact execSeteipnumWrite_keep _ _ _ _ _ _ h
  | queueEnable => exact execQueueEnable_keep _ _ _ _ h
  | queueReset => exact execQueueReset_keep _ _ _ _ h
  | sourceEnable => exact execSourceEnable_keep _ _ _ _ h
  | copy => exact execCopy_keep _ _ h
  | fill => exact execFill_keep _ _ h
  | copy2d => exact execCopy2d_keep _ _ h
  | archiveWrite => exact execArchiveWrite_keep _ _ h
  | archiveRead => exact execArchiveRead_keep _ _ _ _ h
  | archiveFlush => exact execArchiveFlush_keep _ _ h
  | archiveZero => exact execArchiveZero_keep _ _ h
  | archiveData => exact execArchiveData_keep _ _ h
  | archiveQuery => exact execArchiveQuery_keep _ _ h
  | transferReady => exact execTransferReady_keep _ _ h
  | grantTimeout => exact execGrantTimeout_keep _ _ _ h
  | drainAgeExpiry => exact execDrainAgeExpiry_keep _ _ _ h
  | unitProgramComplete => exact execUnitProgramComplete_keep _ _ _ _ _ h
  | durableSequenceCommit => exact execDurableSequenceCommit_keep _ _ h
  | mediumScan => exact execMediumScan_keep _ _ _ _ _ h
  | archiveDieUnavailable => exact execArchiveDieUnavailable_keep _ _ h
  | archiveDieRetrain => exact execArchiveDieRetrain_keep _ _ _ h
  | archiveDieLossTimeout => exact execArchiveDieLossTimeout_keep _ _ h
  | archiveChannelReset => exact execArchiveChannelReset_keep _ _ _ _ h
  | archiveChannelEnable => exact execArchiveChannelEnable_keep _ _ _ _ h
  | namespaceEnable => exact execNamespaceEnable_keep _ _ _ _ h
  | clearArchiveRetirements => exact execClearArchiveRetirements_keep _ _ _ h
  | catalogueRead => exact execCatalogueRead_keep _ _ _ h
  | catalogueWrite => exact execCatalogueWrite_keep _ _ _ h
  | catalogueTake => exact execCatalogueTake_keep _ _ _ h
  | registerWrite => exact execRegisterWrite_keep _ _ h
  | mailboxSubmit => exact execMailboxSubmit_keep _ _ _ _ _ h
  | dtlsHandshake => exact execDtlsHandshake_keep _ _ _ h
  | sessionIdleClose => exact execSessionIdleClose_keep _ _ h
  | fieldPortConfigWrite => exact execFieldPortConfigWrite_keep _ _ _ _ _ h
  | nmtStart => exact execNmtStart_keep _ _ h
  | nmtStop => exact execNmtStop_keep _ _ h
  | nmtEnterPreoperational => exact execNmtEnterPreoperational_keep _ _ h
  | nmtResetCommunication => exact execNmtResetCommunication_keep _ _ h
  | usdoAbort => exact execUsdoAbort_keep _ _ h
  | heartbeatTimer => exact execHeartbeatTimer_keep _ h
  | canBusOff => exact execCanBusOff_keep _ _ h
  | restoreDefaults => exact execRestoreDefaults_keep _ _ _ h
  | partitionConfigWrite => exact execPartitionConfigWrite_keep _ _ _ _ _ h
  | partitionStart => exact execPartitionStart_keep _ _ _ _ h
  | partitionStop => exact execPartitionStop_keep _ _ _ h
  | partitionRestart => exact execPartitionRestart_keep _ _ _ _ h
  | automaticStart => exact execAutomaticStart_keep _ _ _ h
  | installTarget => exact execInstallTarget_keep _ _ _ h
  | installData => exact execInstallData_keep _ _ _ h
  | install => exact execInstall_keep _ _ _ h
  | attestation => exact execAttestation_keep _ _ _ h
  | zeroise => exact execZeroise_keep _ _ _ h
  | decommission => exact execDecommission_keep _ _ _ h
  | raiseMinimum => exact execRaiseMinimum_keep _ _ _ h
  | auditTimer => exact execAuditTimer_keep _ h
  | auditNow => exact execAuditNow_keep _ _ _ h
  | countersClearAll => exact execCountersClearAll_keep _ _ _ h
  | packageCounterEventWrite => exact execPackageCounterEventWrite_keep _ _ _ _ h
  | hartCounterWrap => exact execHartCounterWrap_keep _ _ _ h
  | debugHalt => exact execDebugHalt_keep _ _ _ _ h
  | debugResume => exact execDebugResume_keep _ _ _ _ h
  | debugStep => exact execDebugStep_keep _ _ _ _ h
  | debugHartreset => exact execDebugHartreset_keep _ _ _ h
  | accessRegister => exact execAccessRegister_keep _ _ _ _ _ _ h
  | systemBusAccess => exact execSystemBusAccess_keep _ _ _ _ h
  | debugEnableWrite => exact execDebugEnableWrite_keep _ _ _ _ h
  | jtagIrSelect => exact execJtagIrSelect_keep _ _ h
  | scalarInstruction => exact execScalarInstruction_keep _ _ _ _ h
  | timerCompareReached => exact execTimerCompareReached_keep _ _ _ h
  | poresetNAsserted => exact execPoresetNAsserted_keep _ h
  | refclkReturn => exact execRefclkReturn_keep _ h
  | dieReferenceReturn => exact execDieReferenceReturn_keep _ _ _ h
  | encoderLineRestored => exact execEncoderLineRestored_keep _ _ _ h
  | fieldPortLinkLoss => exact execFieldPortLinkLoss_keep _ _ h
  | fieldPortLinkReturn => exact execFieldPortLinkReturn_keep _ _ h
  | fieldPortFrameReceived => exact execFieldPortFrameReceived_keep _ _ _ h
  | laneFrameDropped => exact execLaneFrameDropped_keep _ _ _ h
  | refreshRateChange => exact execRefreshRateChange_keep _ _ _ h
  | usdoTransferTimeout => exact execUsdoTransferTimeout_keep _ _ h
  | siteSelfTestComplete => exact execSiteSelfTestComplete_keep _ _ _ _ _ h

/-- The front command leaves the queue, which no canonical form speaks of, and then acts. -/
theorem canon_of_exec {i : Instr} {s t : State} {rest : List Instr} (hs : Canon s)
    (hexec : exec i { s with pending := rest } = .next t) : Canon t := by
  have hrest : Canon { s with pending := rest } := ⟨hs.obj, hs.mem⟩
  exact (exec_keep i (Keep.refl _) t hexec).canon hrest

/-- Settles O2: a step is an idle step or the command at the front of the queue. -/
theorem stepKeepsCanon : Obligations.StepKeepsCanon := by
  unfold Obligations.StepKeepsCanon
  intro s t hs hstep
  unfold step at hstep
  split at hstep
  case h_1 =>
    obtain rfl := Host.Outcome.next.inj hstep
    exact (idle_keep s (Keep.refl s)).canon hs
  case h_2 => exact canon_of_exec hs hstep

/-- Settles O3: the state after reset lists no object and no byte. -/
theorem resetIsCanon : Obligations.ResetIsCanon :=
  ⟨rfl, Memory.Good.of_empty rfl rfl rfl⟩

end Sys2Proof.Machine
end

section
/-! Lines of memory (O24): the bytes of a line and of its words, and what a line written whole leaves. -/

namespace Sys2Proof.Machine

/-! Lines made of bytes. -/

/-- Bytes joined in their order: each bit is the one of its own byte. -/
theorem getLsbD_joinBytes (w n : Nat) (f : Nat → Byte) (k : Nat) (hk : k < w) :
    ((List.range n).foldl (fun acc i => acc ||| ((f i).setWidth w <<< (8 * i))) (0 : BitVec w)).getLsbD k =
      (decide (k / 8 < n) && (f (k / 8)).getLsbD (k % 8)) := by
  induction n with
  | zero => simp
  | succ n ih =>
    rw [List.range_succ, List.foldl_append, List.foldl_cons, List.foldl_nil, BitVec.getLsbD_or, ih, BitVec.getLsbD_shiftLeft,
      BitVec.getLsbD_setWidth]
    obtain hlt | heq | hgt := Nat.lt_trichotomy (k / 8) n
    · have hbelow : k < 8 * n := by omega
      simp [hlt, hbelow, Nat.lt_succ_of_lt hlt]
    · have hat : ¬k < 8 * n := by omega
      have hbit : k - 8 * n = k % 8 := by omega
      have hin : k % 8 < w := by omega
      simp [heq, hat, hbit, hin, hk]
    · have habove : 8 ≤ k - 8 * n := by omega
      simp [Nat.not_lt.mpr hgt.le, Nat.not_le.mpr hgt, BitVec.getLsbD_of_ge _ _ habove]

@[simp] theorem lineByte_lineOf (f : Nat → Byte) {i : Nat} (hi : i < 64) : lineByte (lineOf f) i = f i := by
  refine BitVec.eq_of_getLsbD_eq fun j hj => ?_
  have hdiv : (8 * i + j) / 8 = i := by omega
  have hmod : (8 * i + j) % 8 = j := by omega
  rw [lineByte, BitVec.getLsbD_extractLsb', lineOf, getLsbD_joinBytes _ _ _ _ (by omega), hdiv, hmod]
  simp [hi, hj]

@[simp] theorem form_mkLine (data form : Nat → Byte) {w : Nat} (hw : w < 8) : (mkLine data form).form w = form w := by
  refine BitVec.eq_of_getLsbD_eq fun j hj => ?_
  have hdiv : (8 * w + j) / 8 = w := by omega
  have hmod : (8 * w + j) % 8 = j := by omega
  rw [LineData.form, BitVec.getLsbD_extractLsb', mkLine, formsOf, getLsbD_joinBytes _ _ _ _ (by omega), hdiv, hmod]
  simp [hw, hj]

/-- Byte `b` of a word is a byte of its line. -/
theorem lineWord_byte (d : Line) (w : Nat) {b : Nat} (hb : b < 8) :
    (lineWord d w).extractLsb' (8 * b) 8 = lineByte d (8 * w + b) := by
  refine BitVec.eq_of_getLsbD_eq fun j hj => ?_
  have hin : 8 * b + j < 64 := by omega
  have hbit : 64 * w + (8 * b + j) = 8 * (8 * w + b) + j := by omega
  simp [lineWord, lineByte, hj, hin, hbit]

/-! A word written whole (R178, R183). -/

/-- A word written whole is good. -/
theorem storedForm_writeWord_whole (w : Nat) (d : Word) (m : Memory) (v : Nat) :
    storedForm (writeWord w d 0xFF#8 true m) v = if v = w then 0 else storedForm m v := by
  rw [writeWord, if_pos ⟨rfl, rfl⟩]
  exact tblGet_set 1 m.marks w v 0

/-- A word written whole holds the bytes written. -/
theorem storedByte_writeWord_whole (w : Nat) (d : Word) (m : Memory) (a : Nat) :
    storedByte (writeWord w d 0xFF#8 true m) a = if a / 8 = w then d.extractLsb' (8 * (a % 8)) 8 else storedByte m a := by
  rw [writeWord, if_pos ⟨rfl, rfl⟩]
  show tblGet 0 (setBytes m.bytes w d 0xFF#8) a = _
  split
  · next hword =>
    have hmask : ∀ i, i < 8 → (0xFF#8).getLsbD i = true := by decide
    rw [setBytes_byte _ _ _ _ _ hword, if_pos (hmask _ (Nat.mod_lt _ (by omega)))]
  · next hword => exact setBytes_other _ _ _ _ _ hword

/-! Words written one after the other. -/

/-- What no step of a loop changes reads as before it. -/
theorem foldl_read_other {σ β : Type} {read : σ → β} {f : σ → Nat → σ} {l : List Nat}
    (hother : ∀ m, ∀ w ∈ l, read (f m w) = read m) (m : σ) : read (l.foldl f m) = read m := by
  induction l generalizing m with
  | nil => rfl
  | cons w l ih =>
    rw [List.foldl_cons, ih fun m v hv => hother m v (List.mem_cons_of_mem _ hv)]
    exact hother m w List.mem_cons_self

/-- What the step at `k` alone changes reads what that step left. -/
theorem foldl_read_at {σ β : Type} {read : σ → β} {f : σ → Nat → σ} {l : List Nat} {k : Nat} {v : β} (hk : k ∈ l)
    (hat : ∀ m, read (f m k) = v) (hother : ∀ m w, w ≠ k → read (f m w) = read m) (m : σ) : read (l.foldl f m) = v := by
  induction l generalizing m with
  | nil => exact absurd hk List.not_mem_nil
  | cons w l ih =>
    rw [List.foldl_cons]
    by_cases hlater : k ∈ l
    · exact ih hlater _
    · obtain rfl : k = w := (List.mem_cons.mp hk).resolve_right hlater
      rw [foldl_read_other fun m v hv => hother m v fun e => hlater (e ▸ hv), hat]

/-- A line of memory with its eight words written whole, one after the other. -/
def writeLineWords (l : Nat) (d : Line) (m : Memory) : Memory :=
  (List.range 8).foldl (fun m w => writeWord (8 * l + w) (lineWord d w) 0xFF#8 true m) m

theorem storedForm_writeLineWords (l : Nat) (d : Line) (m : Memory) (v : Nat) :
    storedForm (writeLineWords l d m) v = if v / 8 = l then 0 else storedForm m v := by
  split
  · next hline =>
    refine foldl_read_at (read := (storedForm · v)) (k := v % 8) (List.mem_range.mpr (by omega)) (fun m => ?_) (fun m w hw => ?_) m
    · rw [storedForm_writeWord_whole, if_pos (by omega)]
    · rw [storedForm_writeWord_whole, if_neg (by omega)]
  · next hline =>
    refine foldl_read_other (read := (storedForm · v)) (fun m w hw => ?_) m
    rw [storedForm_writeWord_whole, if_neg (by have := List.mem_range.mp hw; omega)]

theorem storedByte_writeLineWords (l : Nat) (d : Line) (m : Memory) (a : Nat) :
    storedByte (writeLineWords l d m) a = if a / 64 = l then lineByte d (a % 64) else storedByte m a := by
  split
  · next hline =>
    refine foldl_read_at (read := (storedByte · a)) (k := a / 8 % 8) (List.mem_range.mpr (by omega)) (fun m => ?_)
      (fun m w hw => ?_) m
    · rw [storedByte_writeWord_whole, if_pos (by omega), lineWord_byte _ _ (by omega)]
      congr 1
      omega
    · rw [storedByte_writeWord_whole, if_neg (by omega)]
  · next hline =>
    refine foldl_read_other (read := (storedByte · a)) (fun m w hw => ?_) m
    rw [storedByte_writeWord_whole, if_neg (by have := List.mem_range.mp hw; omega)]

/-! A line written whole (R163). -/

/-- A write of every byte of a line writes its words whole, and its check bits are those of its contents. -/
theorem writeLine_whole (l : Nat) (d : Line) (m : Memory) :
    writeLine l d (BitVec.allOnes 64) 0xFF#8 m =
      { writeLineWords l d m with check := tblSet 0 (writeLineWords l d m).check l 0 } := by
  have hwords : (List.range 8).foldl (fun m w => writeWord (8 * l + w) (lineWord d w)
      ((BitVec.allOnes 64).extractLsb' (8 * w) 8) ((0xFF#8).getLsbD w) m) m = writeLineWords l d m := by
    refine List.foldl_ext _ _ _ fun m w hw => ?_
    have hfull : ∀ w, w < 8 → (BitVec.allOnes 64).extractLsb' (8 * w) 8 = 0xFF#8 ∧ (0xFF#8).getLsbD w = true := by decide
    obtain ⟨hmask, hwhole⟩ := hfull w (List.mem_range.mp hw)
    rw [hmask, hwhole]
  rw [writeLine, hwords]

/-- A line without a poisoned word is written back with its words whole. -/
theorem writeLineData_good_words (l : Nat) {d : LineData} (m : Memory) (hgood : ∀ w, w < 8 → d.form w = 0) :
    writeLineData l d m = { writeLineWords l d.data m with check := tblSet 0 (writeLineWords l d.data m).check l 0 } := by
  have hwords : (List.range 8).foldl (fun m w =>
      if d.form w = 0 then writeWord (8 * l + w) (lineWord d.data w) 0xFF#8 true m
      else poisonWord (8 * l + w) (d.form w).toNat m) m = writeLineWords l d.data m :=
    List.foldl_ext _ _ _ fun m w hw => if_pos (hgood w (List.mem_range.mp hw))
  rw [writeLineData, hwords]

section
variable (l : Nat) (m : Memory)

@[simp] theorem storedForm_writeLine_whole (d : Line) (v : Nat) :
    storedForm (writeLine l d (BitVec.allOnes 64) 0xFF#8 m) v = if v / 8 = l then 0 else storedForm m v := by
  rw [writeLine_whole]; exact storedForm_writeLineWords l d m v

@[simp] theorem storedByte_writeLine_whole (d : Line) (a : Nat) :
    storedByte (writeLine l d (BitVec.allOnes 64) 0xFF#8 m) a = if a / 64 = l then lineByte d (a % 64) else storedByte m a := by
  rw [writeLine_whole]; exact storedByte_writeLineWords l d m a

variable {d : LineData} (hgood : ∀ w, w < 8 → d.form w = 0)
include hgood

theorem storedForm_writeLineData_good (v : Nat) :
    storedForm (writeLineData l d m) v = if v / 8 = l then 0 else storedForm m v := by
  rw [writeLineData_good_words l m hgood]; exact storedForm_writeLineWords l d.data m v

theorem storedByte_writeLineData_good (a : Nat) :
    storedByte (writeLineData l d m) a = if a / 64 = l then lineByte d.data (a % 64) else storedByte m a := by
  rw [writeLineData_good_words l m hgood]; exact storedByte_writeLineWords l d.data m a

end

/-- Settles O24: a line written whole reads as its eight words, each written whole. -/
theorem memoryReadsWhatWasWritten : Obligations.MemoryReadsWhatWasWritten := by
  unfold Obligations.MemoryReadsWhatWasWritten
  intro l d m
  refine ⟨?written, ?others⟩
  case written =>
    intro i hi
    rw [storedByte_writeLine_whole, storedForm_writeLine_whole, if_pos (by omega), if_pos (by omega)]
    exact ⟨congrArg (lineByte d) (by omega), rfl⟩
  case others =>
    intro a ha
    rw [storedByte_writeLine_whole, storedForm_writeLine_whole, if_neg ha, if_neg (by omega)]
    exact ⟨rfl, rfl⟩

end Sys2Proof.Machine
end

section
/-! Requests to the memory controllers (O23): what reaches the array, and what the command of each agent does. -/

namespace Sys2Proof.Machine

/-! What a controller does beside its resource's contents. -/

@[simp] theorem addO_mem (node ix sub n : Nat) (s : State) : (addO node ix sub n s).mem = s.mem := rfl

/-- Package events count in objects only. -/
@[simp] theorem pkgEvent_mem (ev : Nat) (part : Option Nat) (unit n : Nat) (s : State) :
    (pkgEvent ev part unit n s).mem = s.mem := by
  refine foldl_read_other (read := State.mem) (fun t i _ => ?_) s
  dsimp only [onlyIf]
  split
  · split <;> rfl
  · rfl

@[simp] theorem memEvent_mem (ev : Nat) (ch : MemCh) (a : Nat) (s : State) : (memEvent ev ch a s).mem = s.mem :=
  pkgEvent_mem ..

@[simp] theorem storeLine_mem (line : Nat) (d : LineData) (s : State) : (storeLine line d s).mem = writeLineData line d s.mem :=
  rfl

/-- A request that reaches its controller changes no byte and no mark. -/
theorem reachController_contents (ch : MemCh) (s : State) :
    (reachController ch s).mem.bytes = s.mem.bytes ∧ (reachController ch s).mem.marks = s.mem.marks := by
  cases ch with
  | hbm pc => exact ⟨rfl, rfl⟩
  | ddr c =>
    dsimp only [reachController]
    split <;> exact ⟨rfl, rfl⟩

/-- A write that takes an entry changes no byte and no mark: what it writes is stored with its acceptance. -/
theorem enterWrite_contents (cls : SvcClass) (src : MemSource) (ch : MemCh) (line : Nat) (s : State) :
    (enterWrite cls src ch line s).mem.bytes = s.mem.bytes ∧ (enterWrite cls src ch line s).mem.marks = s.mem.marks := by
  simp only [enterWrite, pkgEvent_mem]
  exact ⟨rfl, rfl⟩

/-! A line written whole (R163, R178). -/

/-- A line merged from a write of all its bytes holds them, with no word poisoned. -/
theorem mergeLine_whole (old : LineData) (d : Line) :
    (∀ i, i < 64 → lineByte (mergeLine old d (BitVec.allOnes 64) 0xFF#8).data i = lineByte d i) ∧
      ∀ w, w < 8 → (mergeLine old d (BitVec.allOnes 64) 0xFF#8).form w = 0 := by
  have hwhole : ∀ w, w < 8 → ((0xFF#8).getLsbD w && (BitVec.allOnes 64).extractLsb' (8 * w) 8 == 0xFF#8) = true := by decide
  refine ⟨fun i hi => ?_, fun w hw => ?_⟩
  · have hword := hwhole (i / 8) (by omega)
    simp only [mergeLine, mkLine, lineByte_lineOf _ hi, hword, if_true, BitVec.getLsbD_allOnes, decide_eq_true hi]
  · rw [mergeLine, form_mkLine _ _ hw, if_pos (hwhole w hw)]

/-- A line in service that is written whole holds the bytes written, good, and no other line changes. -/
theorem ctlWrite_whole_mem (cls : SvcClass) (src : MemSource) (line : Nat) (d : Line) (f : Finding) {s : State}
    (hservice : resourceRetired s (resourceOf s (64 * line)) = false) (b : Nat) :
    storedByte (ctlWrite cls src line d (BitVec.allOnes 64) 0xFF#8 f s).mem b =
        (if b / 64 = line then lineByte d (b % 64) else storedByte s.mem b) ∧
      storedForm (ctlWrite cls src line d (BitVec.allOnes 64) 0xFF#8 f s).mem (b / 8) =
        if b / 64 = line then 0 else storedForm s.mem (b / 8) := by
  obtain ⟨hmerged, hgood⟩ := mergeLine_whole {} d
  obtain ⟨hreachBytes, hreachMarks⟩ := reachController_contents (resourceOf s (64 * line)) s
  obtain ⟨hbytes, hmarks⟩ := enterWrite_contents cls src (resourceOf s (64 * line)) line
    (reachController (resourceOf s (64 * line)) s)
  have hfull : (BitVec.allOnes 64 == BitVec.allOnes 64 && 0xFF#8 == 0xFF#8) = true := by decide
  simp only [ctlWrite, ctlStore, hservice, hfull, Bool.false_eq_true, if_false, if_true, memEvent_mem, storeLine_mem]
  constructor
  · rw [storedByte_writeLineData_good line _ hgood, hmerged _ (Nat.mod_lt _ (by omega)), storedByte, hbytes,
      hreachBytes, storedByte]
  · have hline : b / 8 / 8 = b / 64 := by omega
    rw [storedForm_writeLineData_good line _ hgood, hline, storedForm, hmarks, hreachMarks, storedForm]

/-- A request to a mapped address, of a source and with a finding that exist, is its controller's. -/
theorem execMemoryRequest_mapped (cls : SvcClass) {src : MemSource} {a : Nat} (op : MemOp) {f : Finding} {s : State}
    (hsource : sourceOk src = true) (hfinding : findingOk (inHbm a) f = true) (hmapped : mapped s a = true) :
    execMemoryRequest cls src a op f s = .next (match op with
      | .read => (ctlRead (a / 64) f s).1
      | .write d k => ctlWrite cls src (a / 64) d k 0xFF#8 f s) :=
  within_of_guard (by rw [hsource, hfinding]; rfl) hmapped

/-! Store buffers and prefetch hints. -/

/-- An entry that is performed has left its buffer (R214). -/
theorem execStoreBufferDrain_performs {hart : Nat} {e : SbEntry} {rest : List SbEntry} {s t : State} (hhart : hart < 264)
    (hactive : s.modes.mode.active = true) (hrun : (s.hart hart).run ≠ .inReset) (hsb : (s.hart hart).sb = e :: rest)
    (hdrain : drainEntry hart e (setHart hart { s.hart hart with sb := rest } s) = (t, true)) :
    execStoreBufferDrain hart s = .next t := by
  have holdest : drainOldest hart s = (t, true) := by simp only [drainOldest, hsb, hdrain]
  have hguard : (s.modes.mode.active && (s.hart hart).run != .inReset) = true := by
    rw [hactive, Bool.true_and, bne_iff_ne]; exact hrun
  rw [execStoreBufferDrain, if_pos hguard, holdest]
  exact within_true _ (decide_eq_true hhart)

section
variable {hart rs1 : Nat} {off : Word} {s : State} (hgo : goes s hart)
include hgo

/-- A hint that reaches no page of normal memory completes and does nothing else (R295). -/
theorem execPrefetchHint_dropped (kind : HintKind)
    (hreach : ∀ t pa, reach hart lrAccess ((s.hart hart).getX rs1 + off) 1 true
      (setHart hart ((s.hart hart).withCsr 0x30A ((s.hart hart).csrOf 0x30A &&& 0xDFFFFFFFFFFFFFFF)) s) ≠ (t, .tier pa 0)) :
    execPrefetchHint hart kind rs1 off s = .next (retire hart 4 s) := by
  obtain ⟨hhart, hruns⟩ := hgo
  refine (within_true _ (decide_eq_true hhart)).trans (congrArg Host.Outcome.next ?_)
  rw [hruns, Bool.not_true, if_neg Bool.false_ne_true]
  dsimp only
  split
  · next t pa heq => exact absurd heq (hreach t pa)
  · rfl

/-- A hint whose line its fill takes completes with the line filled and the hart's environment as it was (R295). -/
theorem execPrefetchHint_fills {kind : HintKind} {t u : State} {pa : Nat}
    (hreach : reach hart lrAccess ((s.hart hart).getX rs1 + off) 1 true
      (setHart hart ((s.hart hart).withCsr 0x30A ((s.hart hart).csrOf 0x30A &&& 0xDFFFFFFFFFFFFFFF)) s) = (t, .tier pa 0))
    (hallocates : noAllocate t (hart / 12) ((partOfHart t hart).getD 0) = false)
    (hfill : hintFill hart (pa / 64) kind t = some u) :
    execPrefetchHint hart kind rs1 off s =
      .next (retire hart 4 (setHart hart ((u.hart hart).withCsr 0x30A ((s.hart hart).csrOf 0x30A)) u)) := by
  obtain ⟨hhart, hruns⟩ := hgo
  simp only [execPrefetchHint, hruns, hreach, hallocates, hfill, Bool.not_true, Bool.false_eq_true, if_false, Option.map_some,
    Option.getD_some]
  exact within_true _ (decide_eq_true hhart)

end

/-- Settles O23: each request is its controller's, and each entry and hint does what its command allows. -/
theorem memoryRequests : Obligations.MemoryRequests := by
  unfold Obligations.MemoryRequests
  refine ⟨?read, ?write, ?fullLine, ?drain, ?hint⟩
  case read => exact fun cls _ _ _ _ hsource hfinding hmapped => execMemoryRequest_mapped cls .read hsource hfinding hmapped
  case write =>
    exact fun cls _ _ d k _ _ hsource hfinding hmapped => execMemoryRequest_mapped cls (.write d k) hsource hfinding hmapped
  case fullLine =>
    intro cls src a d f s hsource hfinding hmapped hservice
    refine ⟨_, execMemoryRequest_mapped cls (.write d (BitVec.allOnes 64)) hsource hfinding hmapped, ?written, ?others⟩
    case written =>
      intro i hi
      obtain ⟨hbyte, hform⟩ := ctlWrite_whole_mem cls src (a / 64) d f hservice (64 * (a / 64) + i)
      have hword : (64 * (a / 64) + i) / 8 = 8 * (a / 64) + i / 8 := by omega
      rw [if_pos (by omega)] at hbyte hform
      exact ⟨hbyte.trans (congrArg (lineByte d) (by omega)), hword ▸ hform⟩
    case others =>
      intro b hb
      obtain ⟨hbyte, hform⟩ := ctlWrite_whole_mem cls src (a / 64) d f hservice b
      rw [if_neg hb] at hbyte hform
      exact ⟨hbyte, hform⟩
  case drain =>
    exact fun _ _ _ _ _ hhart hactive hrun hsb hdrain => execStoreBufferDrain_performs hhart hactive hrun hsb hdrain
  case hint =>
    exact fun _ _ kind _ _ hgo => ⟨execPrefetchHint_dropped hgo kind, fun _ _ _ hreach hallocates hfill =>
      execPrefetchHint_fills hgo hreach hallocates hfill⟩

end Sys2Proof.Machine
end

section
/-! Refresh, self-refresh and initialisation of the memories (O26). -/

namespace Sys2Proof.Machine

theorem bank_inRange {pc bank : Nat} (hpc : pc < 128) (hbank : bank < 1024) :
    (decide (pc < 128) && decide (bank < 1024)) = true := by
  rw [decide_eq_true hpc, decide_eq_true hbank]; rfl

/-- An HBM refresh falls due in an active mode, at a pseudo-channel in service. -/
theorem hbmRefresh_guard {pc : Nat} {s : State} (hactive : s.modes.mode.active = true)
    (hservice : s.mem.retiredPcs.contains pc = false) : (s.modes.mode.active && !s.mem.retiredPcs.contains pc) = true := by
  rw [hactive, hservice]; rfl

section
variable {pc bank : Nat} {s : State} (hpc : pc < 128) (hbank : bank < 1024) (hactive : s.modes.mode.active = true)
  (hservice : s.mem.retiredPcs.contains pc = false)
include hpc hbank hactive hservice

/-- With no read pending nothing more is postponed: a bank at its limit stays there where writes wait, else it makes up its
refreshes (R164). -/
theorem execHbmRefreshDue_refreshes : execHbmRefreshDue pc bank false s = .next
    (let first := decide (postponeLimit s ≤ tblGet 0 s.mem.postponed (pc * 1024 + bank)) && !(wqNow s (.hbm pc)).1.entries.isEmpty
     let n := if first then postponeLimit s else 0
     let t := if first then setWq (.hbm pc) (wqNow s (.hbm pc)) s else queueEmptied (.hbm pc) s
     maxO nP (0x5020 + pc / 32) 4 n
       { t with mem := { t.mem with postponed := tblSet 0 t.mem.postponed (pc * 1024 + bank) n } }) := by
  refine (within_of_guard (bank_inRange hpc hbank) (hbmRefresh_guard hactive hservice)).trans (congrArg Host.Outcome.next ?_)
  dsimp only
  rw [Bool.not_false, Bool.true_and]
  cases hfirst : decide (postponeLimit s ≤ tblGet 0 s.mem.postponed (pc * 1024 + bank)) &&
      !(wqNow s (.hbm pc)).1.entries.isEmpty with
  | false => simp [onlyIf]
  | true =>
    have hlimit : postponeLimit s ≤ tblGet 0 s.mem.postponed (pc * 1024 + bank) :=
      of_decide_eq_true (Bool.and_eq_true_iff.mp hfirst).1
    simp [onlyIf, Nat.min_eq_right hlimit, Nat.not_lt.mpr hlimit]

/-- With reads pending a refresh below the limit is postponed, and counts as an event (R164). -/
theorem execHbmRefreshDue_postpones (hbelow : tblGet 0 s.mem.postponed (pc * 1024 + bank) < postponeLimit s) :
    execHbmRefreshDue pc bank true s = .next (pkgEvent 0x806 none pc 1
      (let n := tblGet 0 s.mem.postponed (pc * 1024 + bank) + 1
       maxO nP (0x5020 + pc / 32) 4 n
         { s with mem := { s.mem with postponed := tblSet 0 s.mem.postponed (pc * 1024 + bank) n } })) := by
  refine (within_of_guard (bank_inRange hpc hbank) (hbmRefresh_guard hactive hservice)).trans (congrArg Host.Outcome.next ?_)
  simp [onlyIf, Nat.min_eq_left (Nat.succ_le_of_lt hbelow)]

end

/-- The initialisation leaves the marks of the HBM tier, and never-written poison in every word of the DDR5 tier (R166). -/
theorem execDdr5InitComplete_initialises {s : State} (hactive : s.modes.mode.active = true) (htrained : s.mem.trained = true)
    (hbefore : getO s nP 0x5000 9 = 0) :
    ∃ t, execDdr5InitComplete s = .next t ∧ getO t nP 0x5000 9 = 1 ∧ getO t nP 0x5000 0x0A = 100 ∧
      (∀ w, w < ddrBase / 8 → storedForm t.mem w = storedForm s.mem w) ∧
      ∀ w, ddrBase / 8 ≤ w → storedForm t.mem w = 1 := by
  have hguard : (s.modes.mode.active && s.mem.trained && getO s nP 0x5000 9 == 0) = true := by
    rw [hactive, htrained, hbefore]; rfl
  have hform (w : Nat) : tblGet 1 (tblDrop (decide <| ddrBase / 8 ≤ ·) s.mem.marks) w =
      if ddrBase / 8 ≤ w then 1 else storedForm s.mem w := by
    rw [tblGet_drop]; simp only [decide_eq_true_eq]; rfl
  refine ⟨_, congrArg Host.Outcome.next (if_pos hguard), ?usable, ?progress, fun w hw => ?_, fun w hw => ?_⟩
  case usable => rw [getO_setO_same]; rfl
  case progress => rw [getO_setO_ne _ _ _ _ _ (by decide), getO_setO_same]; rfl
  · exact (hform w).trans (if_neg (Nat.not_le.mpr hw))
  · exact (hform w).trans (if_pos hw)

/-- A stack's refresh rate is an object of one byte. -/
theorem objSize_refreshRate : ∀ st, st < 4 → objSize nP (0x5020 + st) 3 = 1 := by decide

/-- The temperature class of a stack shows in its refresh rate (R164). -/
theorem getO_refreshRate {pc : Nat} (hot : Bool) (s : State) (hpc : pc < 128) :
    getO (setO nP (0x5020 + pc / 32) 3 (if hot then 2 else 1) s) nP (0x5020 + pc / 32) 3 = if hot then 2 else 1 := by
  rw [getO_setO_same, objSize_refreshRate _ (by omega)]
  cases hot <;> rfl

/-- Settles O26: each event does what its command does where the conditions of R157 to R166 hold. -/
theorem refreshEvents : Obligations.RefreshEvents := by
  unfold Obligations.RefreshEvents
  refine ⟨?due, ?postponed, ?ddr5, ?idle, ?initialised, ?rate, ?channelRate⟩
  case due => exact fun _ _ _ hpc hbank hactive hservice => execHbmRefreshDue_refreshes hpc hbank hactive hservice
  case postponed =>
    exact fun _ _ _ hpc hbank hactive hservice hbelow => execHbmRefreshDue_postpones hpc hbank hactive hservice hbelow
  case ddr5 => exact fun _ _ hc => within_true _ (decide_eq_true hc)
  case idle => exact fun _ _ hc hmay => within_of_guard (decide_eq_true hc) hmay
  case initialised => exact fun _ hactive htrained hbefore => execDdr5InitComplete_initialises hactive htrained hbefore
  case rate => exact fun _ hot s hpc => ⟨_, within_true _ (decide_eq_true hpc), getO_refreshRate hot s hpc, rfl⟩
  case channelRate => exact fun _ _ hc => ⟨within_true _ (decide_eq_true hc), within_true _ (decide_eq_true hc)⟩

end Sys2Proof.Machine
end

section
/-! Masked writes (O25): what the write of a word leaves, word by word, and a line merged by its controller. -/

namespace Sys2Proof.Machine

/-! One word. -/

/-- The mask of a whole word selects each of its bytes. -/
theorem fullMask_getLsbD : ∀ b, b < 8 → (0xFF#8).getLsbD b = true := by decide

/-- A poisoned word that a write does not cover whole keeps its mark and its bytes (R183). -/
theorem writeWord_poisoned {w : Nat} (d : Word) {k : BitVec 8} {whole : Bool} {m : Memory} (hpoison : storedForm m w ≠ 0)
    (hpart : ¬(k = 0xFF#8 ∧ whole = true)) : writeWord w d k whole m = m := by
  rw [writeWord, if_neg hpart, if_pos (.inr hpoison)]

/-- A byte that the mask leaves out keeps its value (R178). -/
theorem storedByte_writeWord_unmasked {w a : Nat} (d : Word) {k : BitVec 8} (whole : Bool) (m : Memory)
    (hmask : a / 8 = w → k.getLsbD (a % 8) = false) : storedByte (writeWord w d k whole m) a = storedByte m a := by
  have hbytes : tblGet 0 (setBytes m.bytes w d k) a = storedByte m a := by
    by_cases hword : a / 8 = w
    · rw [setBytes_byte _ _ _ _ _ hword, hmask hword]; rfl
    · exact setBytes_other _ _ _ _ _ hword
  unfold writeWord
  split
  · exact hbytes
  · split
    · rfl
    · exact hbytes

/-- The write of a word leaves the mark of every other word. -/
theorem storedForm_writeWord_other {w v : Nat} (d : Word) (k : BitVec 8) (whole : Bool) (m : Memory) (hv : v ≠ w) :
    storedForm (writeWord w d k whole m) v = storedForm m v := by
  unfold writeWord
  split
  · exact tblGet_set_ne 1 m.marks 0 hv
  · split <;> rfl

/-- A poisoned word lists no byte of its own (R180). -/
theorem storedByte_poisonWord (w form : Nat) (m : Memory) (a : Nat) :
    storedByte (poisonWord w form m) a = if a / 8 = w then 0 else storedByte m a := by
  show tblGet 0 (setBytes m.bytes w 0 0xFF#8) a = _
  split
  · next hword => rw [setBytes_byte _ _ _ _ _ hword, if_pos (fullMask_getLsbD _ (Nat.mod_lt a (by omega)))]; simp
  · next hword => exact setBytes_other _ _ _ _ _ hword

/-! One write of a line (R178, R183). -/

/-- The write covers word `w` of its line whole. -/
def CoversWord (k : BitVec 64) (whole : BitVec 8) (w : Nat) : Prop :=
  k.extractLsb' (8 * w) 8 = 0xFF#8 ∧ whole.getLsbD w = true

theorem not_coversWord_iff (k : BitVec 64) (whole : BitVec 8) (w : Nat) :
    ¬CoversWord k whole w ↔ k.extractLsb' (8 * w) 8 ≠ 0xFF#8 ∨ whole.getLsbD w = false := by
  rw [CoversWord, not_and_or, Bool.not_eq_true]

/-- The mask of a word is that of its bytes. -/
theorem wordMask_getLsbD (k : BitVec 64) (w : Nat) {b : Nat} (hb : b < 8) :
    (k.extractLsb' (8 * w) 8).getLsbD b = k.getLsbD (8 * w + b) := by
  rw [BitVec.getLsbD_extractLsb', decide_eq_true hb, Bool.true_and]

section
variable {l a : Nat} (d : Line) {k : BitVec 64} {whole : BitVec 8} {m : Memory}

/-- A byte of another line, or one that the mask leaves out, keeps its value. -/
theorem storedByte_writeLine_unmasked (hmask : a / 64 = l → k.getLsbD (a % 64) = false) :
    storedByte (writeLine l d k whole m) a = storedByte m a := by
  refine foldl_read_other (read := (storedByte · a)) (fun m w hw => ?_) m
  have hw := List.mem_range.mp hw
  refine storedByte_writeWord_unmasked _ _ m fun hword => ?_
  rw [wordMask_getLsbD _ _ (by omega), ← hmask (by omega)]
  congr 1
  omega

/-- A byte of a poisoned word that the write does not cover whole keeps its value. -/
theorem storedByte_writeLine_poisoned (hpoison : storedForm m (a / 8) ≠ 0)
    (hpart : ¬CoversWord k whole (a % 64 / 8)) :
    storedByte (writeLine l d k whole m) a = storedByte m a := by
  refine (List.foldlRecOn (motive := fun t => storedByte t a = storedByte m a ∧ storedForm t (a / 8) = storedForm m (a / 8))
    (List.range 8) _ ⟨rfl, rfl⟩ fun t ⟨hbyte, hform⟩ w hw => ?_).1
  have hw := List.mem_range.mp hw
  by_cases hword : a / 8 = 8 * l + w
  · obtain rfl : w = a % 64 / 8 := by omega
    rw [writeWord_poisoned _ (by rwa [← hword, hform]) hpart]
    exact ⟨hbyte, hform⟩
  · rw [storedByte_writeWord_unmasked _ _ _ fun h => absurd h hword, storedForm_writeWord_other _ _ _ _ hword]
    exact ⟨hbyte, hform⟩

end

/-! A line stored with its marks (R182). -/

/-- A line stored with its marks holds its own bytes in its good words, and none in its poisoned ones. -/
theorem storedByte_writeLineData (l : Nat) (d : LineData) (m : Memory) (a : Nat) :
    storedByte (writeLineData l d m) a =
      if a / 64 = l then (if d.form (a % 64 / 8) = 0 then lineByte d.data (a % 64) else 0) else storedByte m a := by
  have hstep (m : Memory) (w : Nat) : storedByte (if d.form w = 0 then writeWord (8 * l + w) (lineWord d.data w) 0xFF#8 true m
      else poisonWord (8 * l + w) (d.form w).toNat m) a =
      if a / 8 = 8 * l + w then (if d.form w = 0 then (lineWord d.data w).extractLsb' (8 * (a % 8)) 8 else 0)
        else storedByte m a := by
    split
    · exact storedByte_writeWord_whole ..
    · exact storedByte_poisonWord ..
  split
  · next hline =>
    refine foldl_read_at (read := (storedByte · a)) (k := a % 64 / 8) (List.mem_range.mpr (by omega)) (fun m => ?_)
      (fun m w hw => ?_) m
    · rw [hstep, if_pos (by omega), lineWord_byte _ _ (by omega)]
      congr 2
      omega
    · rw [hstep, if_neg (by omega)]
  · next hline =>
    refine foldl_read_other (read := (storedByte · a)) (fun m w hw => ?_) m
    rw [hstep, if_neg (by have := List.mem_range.mp hw; omega)]

/-! A line as it stands in memory, with a masked write merged in. -/

theorem form_storedLine (m : Memory) (l : Nat) {w : Nat} (hw : w < 8) :
    (storedLine m l).form w = BitVec.ofNat 8 (storedForm m (8 * l + w)) :=
  form_mkLine _ _ hw

/-- A good word of a line shows its bytes. -/
theorem lineByte_mkLine {data form : Nat → Byte} {i : Nat} (hi : i < 64) (hgood : form (i / 8) = 0) :
    lineByte (mkLine data form).data i = data i := by
  simp only [mkLine, lineByte_lineOf _ hi, if_pos hgood]

/-- A word that the write does not cover whole keeps its mark (R183). -/
theorem form_mergeLine_part (old : LineData) (d : Line) {k : BitVec 64} {whole : BitVec 8} {w : Nat} (hw : w < 8)
    (hpart : ¬CoversWord k whole w) : (mergeLine old d k whole).form w = old.form w := by
  rw [mergeLine, form_mkLine _ _ hw]
  exact if_neg fun h => hpart ((Bool.and_eq_true_iff.mp h).imp_right eq_of_beq).symm

/-- A byte of its line that the mask leaves out, in a good word, is merged as it stands. -/
theorem lineByte_mergeLine_unmasked {old : LineData} (d : Line) {k : BitVec 64} {whole : BitVec 8} {i : Nat} (hi : i < 64)
    (hmask : k.getLsbD i = false) (hgood : old.form (i / 8) = 0) :
    lineByte (mergeLine old d k whole).data i = lineByte old.data i := by
  rw [mergeLine, lineByte_mkLine hi (by simp [hgood]), hmask]
  rfl

/-- A write that leaves out a byte does not cover its word. -/
theorem not_coversWord_of_unmasked {k : BitVec 64} (whole : BitVec 8) {i : Nat} (hmask : k.getLsbD i = false) :
    ¬CoversWord k whole (i / 8) := by
  intro hcovers
  have hbit := wordMask_getLsbD k (i / 8) (Nat.mod_lt i (by omega))
  rw [hcovers.1, fullMask_getLsbD _ (Nat.mod_lt i (by omega)), Nat.div_add_mod, hmask] at hbit
  exact absurd hbit (by decide)

/-- A word not covered whole is stored as it stood: its byte where it is good and the mask leaves the byte out, none where it is
poisoned (R166, R180). -/
theorem storedByte_merge_part (d : Line) {k : BitVec 64} {whole : BitVec 8} {m : Memory} {a : Nat} (hm : m.Good)
    (hmarks : storedForm m (a / 8) < 256)
    (hpart : ¬CoversWord k whole (a % 64 / 8)) (hkept : k.getLsbD (a % 64) = false ∨ storedForm m (a / 8) ≠ 0) :
    storedByte (writeLineData (a / 64) (mergeLine (storedLine m (a / 64)) d k whole) m) a = storedByte m a := by
  have hi : a % 64 < 64 := Nat.mod_lt _ (by omega)
  have hword : 8 * (a / 64) + a % 64 / 8 = a / 8 := by omega
  have hform : (storedLine m (a / 64)).form (a % 64 / 8) = BitVec.ofNat 8 (storedForm m (a / 8)) := by
    rw [form_storedLine _ _ (by omega), hword]
  rw [storedByte_writeLineData, if_pos rfl, form_mergeLine_part _ _ (by omega) hpart]
  by_cases hgood : storedForm m (a / 8) = 0
  · have hzero : (storedLine m (a / 64)).form (a % 64 / 8) = 0 := by rw [hform, hgood]; rfl
    rw [if_pos hzero, lineByte_mergeLine_unmasked _ hi (hkept.resolve_right (not_not_intro hgood)) hzero, storedLine,
      lineByte_mkLine hi (by rw [hword, hgood]; rfl), Nat.div_add_mod]
  · have hnonzero : (storedLine m (a / 64)).form (a % 64 / 8) ≠ 0 := by
      rw [hform]
      exact fun h => hgood (by simpa [Nat.mod_eq_of_lt hmarks] using congrArg BitVec.toNat h)
    rw [if_neg hnonzero, hm.poison a hgood]

/-- Settles O25: a byte of another line, one that the mask leaves out and one of a poisoned word not covered whole are each kept by
the write of every word, and by the line as it is merged. -/
theorem maskedWriteFrame : Obligations.MaskedWriteFrame := by
  unfold Obligations.MaskedWriteFrame
  intro l d k whole m a hkept
  by_cases hline : a / 64 = l
  case neg =>
    refine ⟨storedByte_writeLine_unmasked d fun h => absurd h hline, fun _ _ => ?_⟩
    rw [storedByte_writeLineData, if_neg hline]
  case pos =>
    subst hline
    obtain hother | hmask | ⟨hpoison, hpart⟩ := hkept
    · exact absurd rfl hother
    · exact ⟨storedByte_writeLine_unmasked d fun _ => hmask, fun hm hmarks =>
        storedByte_merge_part d hm (hmarks _) (not_coversWord_of_unmasked whole hmask) (.inl hmask)⟩
    · have hpart := (not_coversWord_iff ..).mpr hpart
      exact ⟨storedByte_writeLine_poisoned d hpoison hpart, fun hm hmarks =>
        storedByte_merge_part d hm (hmarks _) hpart (.inr hpoison)⟩

end Sys2Proof.Machine
end

section
/-! Scrubbing (O27): scrub reads that fall due, the scrubber's place, the wake-up of a channel, and cleared retirements. -/

namespace Sys2Proof.Machine

/-- What no change of a loop over numbers touches reads as before it. -/
theorem forAll_read {β : Type} {read : State → β} (l : List Nat) (f : Nat → State → State) (s : State)
    (hread : ∀ i t, read (f i t) = read t) : read (forAll l f s) = read s :=
  foldl_read_other (f := fun t i => f i t) (fun t i _ => hread i t) s

/-! Scrub reads. -/

/-- A scrub read that may be made is handled once nothing waits at the controller (R187, R188). -/
theorem execScrubReadDue_scrubs {ch : MemCh} {f : Finding} {s : State} (hch : chExists ch = true)
    (hfinding : scrubFindingOk ch f = true) (hmay : scrubMay s ch = true) :
    execScrubReadDue ch f s = .next (scrubLine ch f (queueEmptied ch s)) :=
  within_of_guard (by rw [hch, hfinding]; rfl) hmay

/-- The end of a lap moves no scrubber (R190). -/
@[simp] theorem lapEnd_scrubPos (ch : MemCh) (s : State) : (lapEnd ch s).mem.scrubPos = s.mem.scrubPos := by
  cases ch <;> rfl

section
variable {ch : MemCh} {f : Finding} {s : State}

/-- A finding that retires the resource leaves the scrubber where it was. -/
theorem scrubLine_of_retired
    (hretired : resourceRetired (readHandled (resourceLine s ch (tblGet 0 s.mem.scrubPos (chKey ch))) f s).1 ch = true) :
    scrubLine ch f s = (readHandled (resourceLine s ch (tblGet 0 s.mem.scrubPos (chKey ch))) f s).1 :=
  if_pos hretired

/-- A resource in service is scrubbed at its next line from now on, after its last line at the first (R187). -/
theorem scrubLine_advances
    (hservice : resourceRetired (readHandled (resourceLine s ch (tblGet 0 s.mem.scrubPos (chKey ch))) f s).1 ch = false) :
    tblGet 0 (scrubLine ch f s).mem.scrubPos (chKey ch) =
      if resourceLines s ch ≤ tblGet 0 s.mem.scrubPos (chKey ch) + 1 then 0 else tblGet 0 s.mem.scrubPos (chKey ch) + 1 := by
  simp only [scrubLine, hservice, Bool.false_eq_true, if_false, onlyIf, apply_ite State.mem, apply_ite Memory.scrubPos,
    lapEnd_scrubPos, ite_self, tblGet_set_same, decide_eq_true_eq]

end

/-- A channel that sleeps past its wake-up time wakes and scrubs what fell due while it is in service (R189). -/
theorem execScrubWake_scrubs {c : Nat} {l : List Finding} {s : State} (hc : c < 8) (hfindings : l.all (findingOk false) = true)
    (hup : resourceUp s (.ddr c) = true) (hsleeps : s.mem.selfRefresh.contains c = true) (henabled : getO s nP 0x5041 1 = 1)
    (hdue : tblGet 0 s.mem.lastScrub (chKey (.ddr c)) + getO s nP 0x5041 3 * 1000000 ≤ now s) :
    execScrubWake c l s = .next
      (let t := forAll (List.range (dueLines s (.ddr c))) (fun i s =>
         if resourceRetired s (.ddr c) then s else scrubLine (.ddr c) (l.getD i .clean) s)
         (setO nP (0x5030 + c) 1 1 { s with mem := { s.mem with selfRefresh := dropFrom s.mem.selfRefresh c } })
       { t with mem := { t.mem with lastScrub := tblSet 0 t.mem.lastScrub (chKey (.ddr c)) (now s) } }) := by
  have hguard : (resourceUp s (.ddr c) && s.mem.selfRefresh.contains c && getO s nP 0x5041 1 == 1 &&
      decide (tblGet 0 s.mem.lastScrub (chKey (.ddr c)) + getO s nP 0x5041 3 * 1000000 ≤ now s)) = true := by
    rw [hup, hsleeps, henabled, decide_eq_true hdue]; rfl
  have hstep : (fun (i : Nat) (t : State) => onlyIf (!resourceRetired t (.ddr c)) (scrubLine (.ddr c) (l.getD i .clean)) t) =
      fun i t => if resourceRetired t (.ddr c) then t else scrubLine (.ddr c) (l.getD i .clean) t := by
    funext i t
    cases resourceRetired t (.ddr c) <;> rfl
  rw [← hstep]
  exact within_of_guard (by rw [decide_eq_true hc, hfindings]; rfl) hguard

/-! Retirements. -/

/-- In SERVICE every committed retirement of a memory resource is cleared (R169). -/
theorem ruleClearRetirements_clears {s : State} (hmode : s.modes.mode = .service) :
    ∃ t, ruleClearRetirements s = actionDone t ∧ t.mem.committedPcs = [] ∧ t.mem.committedChannels = [] := by
  refine ⟨_, if_neg (not_not_intro hmode), ?_⟩
  have hmem (t : State) : (forAll (List.range 8) (fun c s => setO nP (0x5030 + c) 1 (channelState s false c) s)
      (forAll (List.range 4) (fun st s => setO nP (0x5020 + st) 2 0 (setO nP (0x5020 + st) 1 3 s)) t)).mem = t.mem := by
    rw [forAll_read (read := State.mem), forAll_read (read := State.mem)]
    · exact fun _ _ => rfl
    · exact fun _ _ => rfl
  rw [hmem]
  exact ⟨rfl, rfl⟩

/-- Settles O27: each scrub read and wake-up that may be made is made, the scrubber's place is the next line, and the rule that
clears retirements ends its action. -/
theorem scrubbingAdvances : Obligations.ScrubbingAdvances := by
  unfold Obligations.ScrubbingAdvances
  refine ⟨?hbm, ?ddr, ?advances, ?wake, ?clears⟩
  case hbm => exact fun _ _ _ hpc hfinding hmay => execScrubReadDue_scrubs (decide_eq_true hpc) hfinding hmay
  case ddr => exact fun _ _ _ hc hfinding hmay => execScrubReadDue_scrubs (decide_eq_true hc) hfinding hmay
  case advances => exact fun _ _ _ => ⟨scrubLine_of_retired, scrubLine_advances⟩
  case wake =>
    exact fun _ _ _ hc hfindings hup hsleeps henabled hdue => execScrubWake_scrubs hc hfindings hup hsleeps henabled hdue
  case clears =>
    intro who s hreaches hmode
    obtain ⟨t, hrule, hcleared⟩ := ruleClearRetirements_clears (s := arrived who nP 0x5000 0x0B 1 s) (by rwa [arrived_modes])
    exact ⟨t, hrule, congrArg Host.Outcome.next (served_eq_ended hreaches hrule), hcleared⟩

end Sys2Proof.Machine
end

section
/-! The checker test mode (O28): its four actions, each one request at the controller of the line under test. -/

namespace Sys2Proof.Machine

@[simp] theorem arrived_testLine (who : Requester) (node ix sub value : Nat) (s : State) :
    testLine (arrived who node ix sub value s) = testLine s :=
  congrArg (· / 64) (getO_congr (arrived_obj ..) ..)

section
variable {who : Requester} {s : State} (hallowed : testRefused who s = false)
include hallowed

/-- An action that is not refused does what its rule says of it (R192). -/
theorem ite_testRefused {α : Type} (refusal performed : α) : (if testRefused who s then refusal else performed) = performed :=
  if_neg (by rw [hallowed]; decide)

/-- Action 01h stores the data of 5050h.03h under the check bits that the line had (R191). -/
theorem ruleTestWriteData_performed : ruleTestWriteData who s = testPerformed
    (setCheck (testLine s) (storedCheck (testRequest true s) (testLine s)) { testRequest true s with
      mem := writeLine (testLine s) (BitVec.ofNat 512 (getO (testRequest true s) nP 0x5050 3)) (BitVec.allOnes 64) 0xFF#8
        (testRequest true s).mem }) :=
  ite_testRefused hallowed _ _

/-- Action 02h stores the check bits of 5050h.04h, whose low 64 are all that HBM has (R191). -/
theorem ruleTestWriteCheck_performed : ruleTestWriteCheck who s = testPerformed
    (setCheck (testLine (testRequest true s)) (if inHbm (64 * testLine (testRequest true s))
      then ((BitVec.ofNat 128 (getO s nP 0x5050 4)).setWidth 64).setWidth 128
      else BitVec.ofNat 128 (getO s nP 0x5050 4)) (testRequest true s)) :=
  ite_testRefused hallowed _ _

/-- Action 03h shows the line and its check bits as they are stored (R191). -/
theorem ruleTestReadRaw_performed : ruleTestReadRaw who s = testPerformed
    (setO nP 0x5050 6 (storedLine (testRequest false s).mem (testLine (testRequest false s))).data.toNat
      (setO nP 0x5050 7 (storedCheck (testRequest false s) (testLine (testRequest false s))).toNat (testRequest false s))) :=
  ite_testRefused hallowed _ _

/-- Action 04h stores poison of form 06h in every word (R191). -/
theorem ruleTestPoison_performed : ruleTestPoison who s = testPerformed
    (storeLine (testLine s) (mkLine (fun _ => 0) fun _ => 6) (testRequest true s)) :=
  ite_testRefused hallowed _ _

end

/-- The write of 5050h.05h whose rule performs its action ends it, and 5050h.08h reads 01h (R191). -/
theorem served_eq_performed {who : Requester} {n : Nat} {s t : State} {rule : Rule}
    (hreaches : reaches .wo who nP 0x5050 5 n s = true) (hrule : rule (arrived who nP 0x5050 5 n s) = testPerformed t) :
    served who nP 0x5050 5 n rule s = ended who nP 0x5050 5 (setO nP 0x5050 8 1 t) :=
  served_eq_ended hreaches hrule

/-- Settles O28: each action reaches its rule, which performs it. -/
theorem checkerTestActions : Obligations.CheckerTestActions := by
  unfold Obligations.CheckerTestActions
  intro who s
  refine ⟨?writeData, ?writeCheck, ?readRaw, ?poison⟩
  case writeData =>
    intro hreaches hallowed
    have hrule := ruleTestWriteData_performed hallowed
    rw [arrived_testLine] at hrule
    exact congrArg Host.Outcome.next (served_eq_performed hreaches hrule)
  case writeCheck =>
    intro hreaches hallowed
    have hrule := ruleTestWriteCheck_performed hallowed
    rw [getO_congr (arrived_obj who nP 0x5050 5 2 s) nP 0x5050 4] at hrule
    exact congrArg Host.Outcome.next (served_eq_performed hreaches hrule)
  case readRaw =>
    exact fun hreaches hallowed =>
      congrArg Host.Outcome.next (served_eq_performed hreaches (ruleTestReadRaw_performed hallowed))
  case poison =>
    intro hreaches hallowed
    have hrule := ruleTestPoison_performed hallowed
    rw [arrived_testLine] at hrule
    exact congrArg Host.Outcome.next (served_eq_performed hreaches hrule)

end Sys2Proof.Machine
end

section
/-! Errors in the arrays of a gallery (O52): what an access does that meets one, and what each array then keeps. -/

namespace Sys2Proof.Machine

/-! The access of a running hart. -/

/-- A running hart's access meets the error. -/
theorem execArrayError_meets {hart : Nat} {e : ArrayError} {s : State} (hhart : hart < 264) (hexists : arrayErrorOk e = true)
    (hruns : hartRuns s hart = true) :
    execScalarInstruction hart (.arrayError e) 4 s = .next (meetArrayError hart e s) :=
  within_of_guard (Bool.and_eq_true_iff.mpr ⟨decide_eq_true hhart, hexists⟩) hruns

section
variable {hart way set : Nat} {s : State} (w : BitVec 8) (fatal : Bool) (henabled : wayEnabled s (hart / 12) way = true)
include henabled

/-- An error in the data of a way's line. -/
theorem meetArrayError_data {line : Nat} (hline : slotLine s (hart / 12) way set = some line) :
    meetArrayError hart (.l2 false way set w fatal) s = l2DataError (hart / 12) way line w fatal s := by
  simp only [meetArrayError, henabled, hline, Bool.not_true, Bool.false_eq_true, if_false]

/-- An error in a way's tag or state. -/
theorem meetArrayError_tag : meetArrayError hart (.l2 true way set w fatal) s =
    l2TagError (hart / 12) way (slotLine s (hart / 12) way set) fatal s := by
  simp only [meetArrayError, henabled, Bool.not_true, Bool.false_eq_true, if_false]

end

/-- The way and the set of an L2's array error exist. -/
theorem l2Error_inRange {way set : Nat} (tag : Bool) (w : BitVec 8) (fatal : Bool) (hway : way < 16) (hset : set < 16384) :
    arrayErrorOk (.l2 tag way set w fatal) = true :=
  Bool.and_eq_true_iff.mpr ⟨decide_eq_true hway, decide_eq_true hset⟩

/-! A core's arrays (R176). -/

/-- The loss of a translation changes the TLBs and the walk cache only. -/
theorem dropTranslation_eq (h : Hart) (i : Nat) : ∃ itlb dtlb l2tlb walk,
    h.dropTranslation i = { h with itlb := itlb, dtlb := dtlb, l2tlb := l2tlb, walk := walk } := by
  dsimp only [Hart.dropTranslation]
  split_ifs
  all_goals exact ⟨_, _, _, _, rfl⟩

/-- The loss of an entry of any array but the store buffer changes the L1 caches, the line buffer and the translations only. -/
theorem loseEntry_eq (h : Hart) {array : Nat} (entry : Nat) (w : BitVec 8) (harray : array ≠ 3) :
    ∃ l1i lineBuf l1d itlb dtlb l2tlb walk, h.loseEntry array entry w =
      { h with l1i := l1i, lineBuf := lineBuf, l1d := l1d, itlb := itlb, dtlb := dtlb, l2tlb := l2tlb, walk := walk } := by
  match array, harray with
  | 0, _ | 1, _ | 2, _ => exact ⟨_, _, _, _, _, _, _, rfl⟩
  | 3, hother => exact absurd rfl hother
  | _ + 4, _ =>
    obtain ⟨itlb, dtlb, l2tlb, walk, hdrop⟩ := dropTranslation_eq h entry
    exact ⟨_, _, _, itlb, dtlb, l2tlb, walk, hdrop⟩

/-- What a change of one member leaves of it reads as before throughout the list. -/
theorem map_modify_of_eq {α β : Type} {read : α → β} {f : α → α} (hread : ∀ a, read (f a) = read a) (l : List α)
    (i : Nat) : (l.modify i f).map read = l.map read := by
  refine List.ext_getElem? fun j => ?_
  rw [List.getElem?_map, List.getElem?_modify, List.getElem?_map]
  cases l[j]? with
  | none => rfl
  | some a => by_cases hat : i = j <;> simp [hat, hread]

/-- What an error in a core's array leaves: the architectural registers, and every store with its address and data. -/
theorem loseEntry_keeps (h : Hart) (array entry : Nat) (w : BitVec 8) :
    (h.loseEntry array entry w).x = h.x ∧ (h.loseEntry array entry w).f = h.f ∧ (h.loseEntry array entry w).v = h.v ∧
    (h.loseEntry array entry w).csr = h.csr ∧ (h.loseEntry array entry w).pc = h.pc ∧
    (array ≠ 3 → (h.loseEntry array entry w).sb = h.sb) ∧
    ((h.loseEntry array entry w).sb.map fun e => (e.line, e.data, e.mask, e.whole)) =
      h.sb.map fun e => (e.line, e.data, e.mask, e.whole) := by
  by_cases harray : array = 3
  · subst harray
    refine ⟨rfl, rfl, rfl, rfl, rfl, fun hother => absurd rfl hother, ?_⟩
    exact map_modify_of_eq (by exact fun _ => rfl) h.sb entry
  · obtain ⟨_, _, _, _, _, _, _, hlost⟩ := loseEntry_eq h entry w harray
    rw [hlost]
    exact ⟨rfl, rfl, rfl, rfl, rfl, fun _ => rfl, rfl⟩

/-! The data of an L2's line (R176). -/

section
variable (g line : Nat) (s : State)

/-- The removal of a gallery's L1 copies changes the harts only. -/
@[simp] theorem dropCopies_caches : (dropCopies g line s).caches = s.caches :=
  forAll_read (read := State.caches) _ _ _ fun _ _ => rfl
@[simp] theorem dropCopies_mem : (dropCopies g line s).mem = s.mem :=
  forAll_read (read := State.mem) _ _ _ fun _ _ => rfl
@[simp] theorem dropCopies_obj : (dropCopies g line s).obj = s.obj :=
  forAll_read (read := State.obj) _ _ _ fun _ _ => rfl

/-- A line that its L2 removes is no longer there. -/
@[simp] theorem removeL2_l2 : (removeL2 g line s).l2 g line = {} := by
  rw [State.l2, removeL2, dropCopies_caches]
  exact setL2_l2 s g line {}
@[simp] theorem removeL2_mem : (removeL2 g line s).mem = s.mem := by rw [removeL2, dropCopies_mem, setL2_mem]
@[simp] theorem removeL2_obj : (removeL2 g line s).obj = s.obj := by rw [removeL2, dropCopies_obj, setL2_obj]

/-- Poisoned words leave a line its state, and its other words their forms. -/
theorem poisonL2_l2 (w : BitVec 8) : ((poisonL2 g line w s).l2 g line).st = (s.l2 g line).st ∧
    ∀ i, i < 8 → ((poisonL2 g line w s).l2 g line).copy.form i = if w.getLsbD i then 2 else (s.l2 g line).copy.form i := by
  rw [poisonL2, setL2_l2]
  exact ⟨rfl, fun i hi => by simp only [form_mkLine _ _ hi]⟩

variable {g line s}

/-- A clean line whose data is lost is removed. -/
theorem loseData_clean (w : BitVec 8) (hclean : (s.l2 g line).st = .e ∨ (s.l2 g line).st = .s) :
    loseData g line w s = removeL2 g line s := by
  obtain hst | hst := hclean <;> rw [loseData, hst]

/-- A dirty line whose data is lost keeps its place. -/
theorem loseData_dirty (w : BitVec 8) (hdirty : (s.l2 g line).st = .m) : loseData g line w s = poisonL2 g line w s := by
  rw [loseData, hdirty]

/-- Lost data changes neither memory nor an object. -/
theorem loseData_frame (w : BitVec 8) : (loseData g line w s).mem = s.mem ∧ (loseData g line w s).obj = s.obj := by
  unfold loseData
  split
  · exact ⟨rfl, rfl⟩
  · exact ⟨removeL2_mem .., removeL2_obj ..⟩
  · exact ⟨removeL2_mem .., removeL2_obj ..⟩
  · exact ⟨rfl, rfl⟩

/-- A tag that cannot be read takes the domain of the way's partition down, the line dropped and the error counted (R323, R324). -/
theorem l2TagError_fatal {w p : Nat} (howner : wayOwner s g w (some (s.l2 g line)) = some p) :
    l2TagError g w (some line) true s =
      domainDown p 2 g (wayError g w (w + 0x100) 6 0 (64 * line) true (removeL2 g line s)) := by
  simp only [l2TagError, Option.map_some, howner, Bool.not_true, Bool.false_eq_true, if_false, Option.isSome_some, if_true]

end

/-- Settles O52: each access meets its error; an array's loss is a copy, a translation or words of a store, the L2's a clean line or
words of a dirty one, and an unreadable tag's the domain. -/
theorem arrayErrors : Obligations.ArrayErrors := by
  unfold Obligations.ArrayErrors
  refine ⟨?core, ?data, ?tag, ?entry, ?words, ?domain⟩
  case core =>
    exact fun _ _ _ _ _ _ hhart harray hruns => execArrayError_meets hhart (decide_eq_true harray) hruns
  case data =>
    intro hart way set line w fatal s hhart hway hset hruns henabled hline
    rw [← meetArrayError_data w fatal henabled hline]
    exact execArrayError_meets hhart (l2Error_inRange false w fatal hway hset) hruns
  case tag =>
    intro hart way set w fatal s hhart hway hset hruns henabled
    rw [← meetArrayError_tag w fatal henabled]
    exact execArrayError_meets hhart (l2Error_inRange true w fatal hway hset) hruns
  case entry => exact loseEntry_keeps
  case words =>
    intro g line w s
    refine ⟨fun hclean => ?_, fun hdirty => ?_, loseData_frame w⟩
    · rw [loseData_clean w hclean, removeL2_l2]
    · rw [loseData_dirty w hdirty, ← hdirty]
      exact poisonL2_l2 g line s w
  case domain => exact fun _ _ _ _ _ _ howner => ⟨_, l2TagError_fatal howner⟩

end Sys2Proof.Machine
end

section
/-! Integer instructions (O41), traps and returns (O42): what a scalar instruction of a running hart does to the hart, and to nothing
else. -/

namespace Sys2Proof.Machine

/-! The command, and what a completion keeps of a hart. -/

/-- A scalar instruction without operands to check is run by a running hart, in both of its lengths. -/
theorem execScalarInstruction_runs {hart len : Nat} {insn : RvInsn} {s : State} (hgo : goes s hart) (hlen : len = 2 ∨ len = 4)
    (hok : (scalarOk insn 2 && scalarOk insn 4) = true) :
    exec (.scalarInstruction hart insn len) s = .next (runScalar hart insn len s) := by
  obtain ⟨h2, h4⟩ := Bool.and_eq_true_iff.mp hok
  have hinsn : scalarOk insn len = true := hlen.elim (· ▸ h2) (· ▸ h4)
  exact within_of_guard (Bool.and_eq_true_iff.mpr ⟨decide_eq_true hgo.1, hinsn⟩) hgo.2

/-- What is the same beyond pc, integer registers and counters has one mode. -/
theorem sameBeyond.priv_eq {h g : Hart} (hsame : sameBeyond h g) : g.priv = h.priv := by rw [hsame.1]

/-- The status register is no counter. -/
theorem sameBeyond.mstatus_eq {h g : Hart} (hsame : sameBeyond h g) : g.mstatus = h.mstatus := hsame.2 0x300 rfl

/-- An instruction that leaves its hart as `g` and completes. -/
theorem complete_setHart (hart : Nat) (pc : Word) (g : Hart) (s : State) :
    onlyHart hart s (complete hart pc (setHart hart g s)) ∧
      ((complete hart pc (setHart hart g s)).hart hart).x = g.x ∧
      ((complete hart pc (setHart hart g s)).hart hart).pc = pc ∧
      sameBeyond g ((complete hart pc (setHart hart g s)).hart hart) := by
  have hdone := complete_same hart pc (setHart hart g s)
  rw [setHart_hart] at hdone
  exact ⟨onlyHart_trans (onlyHart_setHart _ _ _) hdone.1, hdone.2⟩

/-! Integer instructions (R203). -/

/-- An instruction that runs as a write of rd completes with its value in rd. -/
theorem scalarInstruction_writesX {hart len rd : Nat} {insn : RvInsn} {v next : Word} {s : State} (hgo : goes s hart)
    (hlen : len = 2 ∨ len = 4) (hok : (scalarOk insn 2 && scalarOk insn 4) = true)
    (hrun : runScalar hart insn len s = writeX hart rd v next s) :
    ∃ t, exec (.scalarInstruction hart insn len) s = .next t ∧ onlyHart hart s t ∧ sameBeyond (s.hart hart) (t.hart hart) ∧
      (t.hart hart).pc = next ∧ wroteX rd v (s.hart hart) (t.hart hart) :=
  ⟨_, execScalarInstruction_runs hgo hlen hok, hrun ▸ writeX_same hart rd v next s⟩

/-- A branch moves the pc and writes no register. -/
theorem branch_completes {hart len : Nat} {s : State} (op : BranchOp) (rs1 rs2 : Nat) (v : Word) (hgo : goes s hart)
    (hlen : len = 2 ∨ len = 4) :
    ∃ t, exec (.scalarInstruction hart (.branch op rs1 rs2 v) len) s = .next t ∧
      onlyHart hart s t ∧ sameBeyond (s.hart hart) (t.hart hart) ∧ (t.hart hart).x = (s.hart hart).x ∧
      (t.hart hart).pc = (if branchTaken op ((s.hart hart).getX rs1) ((s.hart hart).getX rs2) then (s.hart hart).pc + v
        else (s.hart hart).pc + BitVec.ofNat 64 len) := by
  refine ⟨_, execScalarInstruction_runs hgo hlen rfl, ?_⟩
  obtain ⟨honly, hx, hpc, hsame⟩ := complete_same hart (if branchTaken op ((s.hart hart).getX rs1) ((s.hart hart).getX rs2)
    then (s.hart hart).pc + v else (s.hart hart).pc + BitVec.ofNat 64 len) s
  exact ⟨honly, hsame, hx, hpc⟩

/-- Settles O41: each integer instruction is a write of one register, or of none, that completes. -/
theorem integerInstructions : Obligations.IntegerInstructions := by
  unfold Obligations.IntegerInstructions
  intro hart len s hgo hlen
  refine ⟨?alu, ?lui, ?auipc, ?jumps, ?branch⟩
  case alu => exact fun _ _ _ _ => scalarInstruction_writesX hgo hlen rfl rfl
  case lui => exact fun _ _ => scalarInstruction_writesX hgo hlen rfl rfl
  case auipc => exact fun _ _ => scalarInstruction_writesX hgo hlen rfl rfl
  case jumps => exact fun _ _ _ => ⟨scalarInstruction_writesX hgo hlen rfl rfl, scalarInstruction_writesX hgo hlen rfl rfl⟩
  case branch => exact fun op rs1 rs2 v => branch_completes op rs1 rs2 v hgo hlen

/-! Traps and returns (R223). -/

/-- A mode that may use an instruction which a status bit bars in S-mode, and which U-mode never may, is not barred from it. -/
theorem not_barred {p : Priv} {bar : Bool} (hmay : p = .m ∨ (p = .s ∧ bar = false)) : ¬(p = .u ∨ (p = .s ∧ bar = true)) := by
  obtain rfl | ⟨rfl, rfl⟩ := hmay <;> simp

section
variable {hart len : Nat} {s : State} (hgo : goes s hart) (hlen : len = 2 ∨ len = 4)
include hgo hlen

/-- An environment call is the exception of its mode. -/
theorem exec_ecall : exec (.scalarInstruction hart .ecall len) s =
    .next (takeExc hart (.trap (8 + (s.hart hart).priv.level) 0) s) :=
  execScalarInstruction_runs hgo hlen rfl

/-- mret in M-mode completes at mepc. -/
theorem exec_mret (hpriv : (s.hart hart).priv = .m) : exec (.scalarInstruction hart .mret len) s =
    .next (complete hart (s.hart hart).mret.pc (setHart hart (s.hart hart).mret s)) := by
  rw [execScalarInstruction_runs hgo hlen rfl]
  exact congrArg _ (if_neg (not_not_intro hpriv))

/-- mret outside M-mode is an illegal instruction. -/
theorem exec_mret_illegal (hpriv : (s.hart hart).priv ≠ .m) :
    exec (.scalarInstruction hart .mret len) s = .next (illegal hart s) := by
  rw [execScalarInstruction_runs hgo hlen rfl]
  exact congrArg _ (if_pos hpriv)

/-- sret in M-mode, and in S-mode without TSR, completes at sepc. -/
theorem exec_sret (hmay : (s.hart hart).priv = .m ∨ ((s.hart hart).priv = .s ∧ (s.hart hart).tsr = false)) :
    exec (.scalarInstruction hart .sret len) s =
      .next (complete hart (s.hart hart).sret.pc (setHart hart (s.hart hart).sret s)) := by
  rw [execScalarInstruction_runs hgo hlen rfl]
  exact congrArg _ (if_neg (not_barred hmay))

end

/-- A return completes with the mode and the status that it restores. -/
theorem complete_return (hart : Nat) (g : Hart) (s : State) :
    let t := complete hart g.pc (setHart hart g s)
    onlyHart hart s t ∧ (t.hart hart).x = g.x ∧ (t.hart hart).pc = g.pc ∧ (t.hart hart).priv = g.priv ∧
      (t.hart hart).mstatus = g.mstatus := by
  obtain ⟨honly, hx, hpc, hsame⟩ := complete_setHart hart g.pc g s
  exact ⟨honly, hx, hpc, hsame.priv_eq, hsame.mstatus_eq⟩

/-- Settles O42: ecall is an exception of its mode, and each return completes with what it restores. -/
theorem trapsAndReturns : Obligations.TrapsAndReturns := by
  unfold Obligations.TrapsAndReturns
  intro hart len s hgo hlen
  refine ⟨?ecallM, ?ecallS, ?mret, ?sret, ?illegal⟩
  case ecallM => exact fun hmode => ⟨_, exec_ecall hgo hlen, takeExc_trap_m hart _ 0 s hmode⟩
  case ecallS => exact fun hmode => ⟨_, exec_ecall hgo hlen, takeExc_trap_s hart _ 0 s hmode⟩
  case mret => exact fun hpriv => ⟨_, exec_mret hgo hlen hpriv, complete_return hart (s.hart hart).mret s⟩
  case sret => exact fun hmay => ⟨_, exec_sret hgo hlen hmay, complete_return hart (s.hart hart).sret s⟩
  case illegal => exact exec_mret_illegal hgo hlen

end Sys2Proof.Machine
end

section
/-! Loads and stores (O43), AMO, LR and SC (O44): what the memory instructions of a running hart make of the end of their access. -/

namespace Sys2Proof.Machine

/-- A command of a running hart is not turned back by the guard that holds the others. -/
theorem within_of_runs {c : Bool} {hart : Nat} {s t : State} (hrange : c = true) (hgo : goes s hart) :
    within c (if !hartRuns s hart then s else t) = .next t := by
  rw [hgo.2]
  exact within_true t hrange

/-! Loads and stores (R212-R215). -/

/-- The sizes that an access of an integer or a floating-point register has. -/
theorem sizeOk_iff (size : Nat) (fp : Bool) :
    Sys2Proof.sizeOk size fp = true ↔ size = 4 ∨ size = 8 ∨ (fp = false ∧ (size = 1 ∨ size = 2)) := by
  simp only [Sys2Proof.sizeOk, Bool.or_eq_true, Bool.and_eq_true, beq_iff_eq, Bool.not_eq_true']
  tauto

/-- What a load does with the value that it reads. -/
def loadDone (hart rd size len : Nat) (sg fp : Bool) (va : Word) (ks : List Int) (s : State) (v : Word) (t : State) : State :=
  stridePrefetches hart va ks s (retire hart len (onlyIf (isSplit va size) (hartEvent hart 0x00A 1) (hartEvent hart 0x006 1
    (setHart hart (if fp then (t.hart hart).withF rd (nanBox size v) else (t.hart hart).withX rd (extend size sg v)) t))))

section
variable {hart rd rs1 rs2 size len : Nat} {off : Word} {sg fp : Bool} {f w : Finding} {ks : List Int} {s : State} {r : State × MemEnd}

/-- A load whose register may be used ends as its access does. -/
theorem exec_load (hgo : goes s hart) (hsize : Sys2Proof.sizeOk size fp = true) (hlen : len = 2 ∨ len = 4) (hf : findingOk false f = true)
    (hw : findingOk false w = true) (hfp : (fp && (s.hart hart).fpOff) = false)
    (hread : readAccess hart { loadAccess with walk := w } ((s.hart hart).getX rs1 + off) size f s = r) :
    exec (.load hart rd rs1 off size sg fp len f w ks) s = .next (settleAccess hart 1 ((s.hart hart).getX rs1 + off)
      (loadDone hart rd size len sg fp ((s.hart hart).getX rs1 + off) ks s) s r) := by
  have hwf : (Instr.load hart rd rs1 off size sg fp len f w ks).wf = true := by
    simp [Instr.wf, lenOk, hgo.1, hsize, hlen, hf, hw]
  rw [← hread]
  refine (within_of_runs hwf hgo).trans (congrArg _ ?_)
  rw [hfp]
  rfl

/-- A store whose register may be used ends as its access does. -/
theorem exec_store (hgo : goes s hart) (hsize : Sys2Proof.sizeOk size fp = true) (hlen : len = 2 ∨ len = 4) (hw : findingOk false w = true)
    (hfp : (fp && (s.hart hart).fpOff) = false)
    (hwrite : writeAccess hart ((s.hart hart).getX rs1 + off) size
      (if fp then (s.hart hart).getF rs2 else (s.hart hart).getX rs2) w s = r) :
    exec (.store hart rs1 rs2 off size fp len w) s = .next (settleAccess hart 1 ((s.hart hart).getX rs1 + off)
      (fun _ t => retire hart len (onlyIf (isSplit ((s.hart hart).getX rs1 + off) size) (hartEvent hart 0x00A 1)
        (hartEvent hart 0x007 1 t))) s r) := by
  have hwf : (Instr.store hart rs1 rs2 off size fp len w).wf = true := by
    simp [Instr.wf, lenOk, hgo.1, hsize, hlen, hw]
  rw [← hwrite]
  refine (within_of_runs hwf hgo).trans (congrArg _ ?_)
  rw [hfp]
  rfl

end

/-- Settles O43: a load and a store end as their accesses do. -/
theorem loadsAndStores : Obligations.LoadsAndStores := by
  unfold Obligations.LoadsAndStores
  refine ⟨?value, ?store, ?exception⟩
  case value =>
    intro hart rd rs1 size len off v sg f w ks s t hgo hlen hf hw va fin hread
    refine ⟨fun hsize => ?_, fun hsize hfp => ?_⟩
    · exact exec_load hgo ((sizeOk_iff size false).mpr (by tauto)) hlen hf hw rfl hread
    · exact exec_load hgo ((sizeOk_iff size true).mpr (by tauto)) hlen hf hw hfp hread
  case store =>
    intro hart rs1 rs2 size len off v fp w s t hgo hsize hlen hw hfp va hwrite
    have hmay : (fp && (s.hart hart).fpOff) = false := by cases fp <;> simp_all
    exact exec_store hgo ((sizeOk_iff size fp).mpr hsize) hlen hw hmay hwrite
  case exception =>
    intro hart rd rs1 size len off sg f w ks s t x hgo hsize hlen hf hw hread
    exact exec_load hgo ((sizeOk_iff size false).mpr (by tauto)) hlen hf hw rfl hread

/-! AMO, LR and SC (R216). -/

section
variable {hart size rd rs1 rs2 line : Nat} {s t : State} {v : Word} (hgo : goes s hart) (hsize : size = 4 ∨ size = 8)
include hgo hsize

/-- The operands of an atomic instruction are in range. -/
theorem atomic_inRange : (decide (hart < 264) && (size == 4 || size == 8)) = true := by
  simp [hgo.1, hsize]

/-- An AMO whose access ends with a value writes it, sign-extended, to rd. -/
theorem exec_amo {op : AmoOp} (hacc : atomicAccess hart amoAccess ((s.hart hart).getX rs1) size true
      (fun old => some (amoResult op size old (((s.hart hart).getX rs2).toNat % 2 ^ (8 * size)))) s = (t, .ok v, line)) :
    exec (.amo hart op size rd rs1 rs2) s =
      .next (retire hart 4 (setHart hart ((t.hart hart).withX rd (extend size true v)) t)) := by
  refine (within_of_runs (atomic_inRange hgo hsize) hgo).trans ?_
  simp only [hacc, settleAccess]

/-- An LR whose access ends with a value reserves the line, and holds its snoops where it entered M (R311). -/
theorem exec_lr (hacc : atomicAccess hart lrAccess ((s.hart hart).getX rs1) size true (fun _ => none) s = (t, .ok v, line)) :
    exec (.lr hart size rd rs1) s = .next (retire hart 4
      (setHart hart { (t.hart hart).withX rd (extend size true v) with reserved := some line }
        (onlyIf ((t.l2 (hart / 12) line).st == .m && (s.l2 (hart / 12) line).st != .m) (fun u => { u with caches := { u.caches with
          lrHold := tblSet 0 t.caches.lrHold (l2Key (hart / 12) line) (now t + 50) } }) t))) := by
  refine (within_of_runs (atomic_inRange hgo hsize) hgo).trans ?_
  simp only [hacc, settleAccess]

variable {p : Part} {ps : List Part} {u : State} (halign : ((s.hart hart).getX rs1).toNat % size = 0)
  (hplan : plan hart storeAccess ((s.hart hart).getX rs1) size s = (u, .parts (p :: ps))) (hsb : (u.hart hart).sb = [])
include halign hplan hsb

/-- An SC without its reservation writes nothing and answers 1. -/
theorem exec_sc_fails (hres : (u.hart hart).reserved ≠ some (p.pa / 64)) : exec (.sc hart size rd rs1 rs2) s =
    .next (retire hart 4 (setHart hart { (u.hart hart).withX rd 1 with reserved := none } u)) := by
  refine (within_of_runs (atomic_inRange hgo hsize) hgo).trans ?_
  simp only [halign, ne_eq, not_true_eq_false, if_false, hplan, hsb, List.isEmpty_nil, Bool.not_true, Bool.false_eq_true, hres,
    not_false_eq_true, if_true]

/-- An SC with its reservation whose access ends writes and answers 0. -/
theorem exec_sc_stores (hres : (u.hart hart).reserved = some (p.pa / 64))
    (hacc : atomicAccess hart amoAccess ((s.hart hart).getX rs1) size false
      (fun _ => some (((s.hart hart).getX rs2).toNat % 2 ^ (8 * size))) s = (t, .ok v, line)) :
    exec (.sc hart size rd rs1 rs2) s =
      .next (retire hart 4 (setHart hart { (t.hart hart).withX rd 0 with reserved := none } t)) := by
  refine (within_of_runs (atomic_inRange hgo hsize) hgo).trans ?_
  simp only [halign, ne_eq, not_true_eq_false, if_false, hplan, hsb, List.isEmpty_nil, Bool.not_true, Bool.false_eq_true, hres,
    hacc, settleAccess]

end

/-- What one change of a loop brings about and no other undoes holds at its end. -/
theorem forAll_establishes {α : Type} {P : State → Prop} {f : α → State → State} {l : List α} {a : α} (hmem : a ∈ l)
    (hset : ∀ s, P (f a s)) (hkeep : ∀ b s, P s → P (f b s)) (s : State) : P (forAll l f s) := by
  induction l generalizing s with
  | nil => exact absurd hmem List.not_mem_nil
  | cons b l ih =>
    obtain rfl | hrest := List.mem_cons.mp hmem
    · exact List.foldlRecOn l _ (hset s) fun t ht b _ => hkeep b t ht
    · exact ih hrest (f b s)

/-- The reservation of a line that one hart may lose to a write of another. -/
def breakReservation (hart line i : Nat) (s : State) : State :=
  if hart / 12 * 12 + i ≠ hart ∧ (s.hart (hart / 12 * 12 + i)).reserved = some line then
    setHart (hart / 12 * 12 + i) { s.hart (hart / 12 * 12 + i) with reserved := none } s
  else s

/-- A write breaks the reservations of its gallery's harts one after the other. -/
theorem breakReservations_eq_forAll (hart line : Nat) (s : State) :
    breakReservations hart line s = forAll (List.range 12) (breakReservation hart line) s := rfl

section
variable {hart line k : Nat}

/-- A hart that holds no reservation of the line gets none. -/
theorem breakReservation_keeps (i : Nat) (s : State) (hnone : (s.hart k).reserved ≠ some line) :
    ((breakReservation hart line i s).hart k).reserved ≠ some line := by
  unfold breakReservation
  split
  · by_cases hk : k = hart / 12 * 12 + i
    · rw [hk, setHart_hart]; exact Option.some_ne_none line ∘ Eq.symm
    · rwa [setHart_hart_ne _ _ hk]
  · exact hnone

/-- The hart whose turn it is holds no reservation of the line any more, unless it is the writer. -/
theorem breakReservation_breaks {i : Nat} (hk : k = hart / 12 * 12 + i) (hne : k ≠ hart) (s : State) :
    ((breakReservation hart line i s).hart k).reserved ≠ some line := by
  subst hk
  unfold breakReservation
  split
  case isTrue => rw [setHart_hart]; exact Option.some_ne_none line ∘ Eq.symm
  case isFalse hheld => exact fun hres => hheld ⟨hne, hres⟩

/-- No other hart of the gallery reserves a line that was written. -/
theorem breakReservations_breaks (s : State) (hne : k ≠ hart) (hgallery : k / 12 = hart / 12) :
    ((breakReservations hart line s).hart k).reserved ≠ some line := by
  rw [breakReservations_eq_forAll]
  exact forAll_establishes (P := fun t => (t.hart k).reserved ≠ some line) (List.mem_range.mpr (Nat.mod_lt k (by decide)))
    (breakReservation_breaks (by omega) hne) breakReservation_keeps s

end

/-- Settles O44: AMO, LR and SC end as their accesses and the reservation have it, and a write breaks reservations. -/
theorem atomics : Obligations.Atomics := by
  unfold Obligations.Atomics
  refine ⟨?amo, ?lr, ?sc, ?others⟩
  case amo => exact fun _ _ _ _ _ _ _ _ _ _ hgo hsize hacc => exec_amo hgo hsize hacc
  case lr => exact fun _ _ _ _ _ _ _ _ hgo hsize hacc => exec_lr hgo hsize hacc
  case sc =>
    intro hart size rd rs1 rs2 line p ps v s u t hgo hsize halign hplan hsb
    exact ⟨exec_sc_fails hgo hsize halign hplan hsb, exec_sc_stores hgo hsize halign hplan hsb⟩
  case others => exact fun _ _ _ s hne hgallery => breakReservations_breaks s hne hgallery

end Sys2Proof.Machine
end

section
/-! Fences and cache blocks (O45): which fences wait for the stores before them, and block operations that reach their line. -/

namespace Sys2Proof.Machine

/-! Fences (R216, R298). -/

/-- A fence whose sets name something does so in the sets as the hart takes them. -/
theorem fenceSet_names {h : Hart} {x : FenceSet} (hfiom : h.fiom = true) (hne : x ≠ {}) :
    ((h.fenceSet x).r || (h.fenceSet x).w) = true := by
  obtain ⟨i, o, r, w⟩ := x
  simp only [Hart.fenceSet, hfiom, if_true]
  revert i o r w
  decide

/-- Under FIOM a device output counts as a memory write. -/
theorem fenceSet_w_of_fiom {h : Hart} (x : FenceSet) (hfiom : h.fiom = true) : (h.fenceSet x).w = (x.w || x.o) := by
  rw [Hart.fenceSet, if_pos hfiom]

/-- What a hart does with a set takes nothing of it away. -/
theorem fenceSet_keeps (h : Hart) (x : FenceSet) : (x.r = true → (h.fenceSet x).r = true) ∧
    (x.w = true → (h.fenceSet x).w = true) ∧ (h.fenceSet x).o = x.o := by
  unfold Hart.fenceSet
  split
  · exact ⟨fun hr => by rw [hr]; rfl, fun hw => by rw [hw]; rfl, rfl⟩
  · exact ⟨id, id, rfl⟩

/-- A predecessor set without memory writes and device outputs has none as the hart takes it. -/
theorem fenceSet_w_of_none {h : Hart} {x : FenceSet} (hw : x.w = false) (ho : x.o = false) : (h.fenceSet x).w = false := by
  unfold Hart.fenceSet
  split
  · rw [hw, ho]; rfl
  · exact hw

/-- An empty set stays empty. -/
theorem fenceSet_empty (h : Hart) : h.fenceSet {} = {} := by
  unfold Hart.fenceSet
  split <;> rfl

section
variable {h : Hart} {pred succ : FenceSet} {tso : Bool}

/-- A fence that orders no store, or orders the stores before nothing, does not wait. -/
theorem fenceWaits_free (hfree : (pred.w = false ∧ pred.o = false) ∨ succ = {}) : fenceWaits h pred succ false = false := by
  obtain ⟨hw, ho⟩ | rfl := hfree
  · have hpo : (h.fenceSet pred).o = false := (fenceSet_keeps h pred).2.2.trans ho
    simp only [fenceWaits, fenceSet_w_of_none hw ho, hpo, Bool.false_and, Bool.or_false]
  · simp only [fenceWaits, fenceSet_empty, Bool.or_false, Bool.and_false, Bool.false_and]

/-- FENCE.TSO, and a fence of writes before reads or writes, wait. -/
theorem fenceWaits_of_writes (horders : tso = true ∨ (pred.w = true ∧ (succ.r = true ∨ succ.w = true))) :
    fenceWaits h pred succ tso = true := by
  obtain rfl | ⟨hp, hsucc⟩ := horders
  · simp only [fenceWaits, Bool.or_true, Bool.true_or]
  · obtain ⟨hr, hw, _⟩ := fenceSet_keeps h succ
    have hq : ((h.fenceSet succ).r || (h.fenceSet succ).w) = true := Bool.or_eq_true_iff.mpr (hsucc.imp hr hw)
    simp only [fenceWaits, (fenceSet_keeps h pred).2.1 hp, hq, Bool.and_true, Bool.true_or]

/-- Under FIOM a fence of writes or device outputs before anything waits. -/
theorem fenceWaits_of_fiom (hfiom : h.fiom = true) (hpred : pred.w = true ∨ pred.o = true) (hsucc : succ ≠ {}) :
    fenceWaits h pred succ tso = true := by
  have hp : (h.fenceSet pred).w = true := (fenceSet_w_of_fiom pred hfiom).trans (Bool.or_eq_true_iff.mpr hpred)
  simp only [fenceWaits, hp, fenceSet_names hfiom hsucc, Bool.and_true, Bool.true_or]

end

/-- With the store buffer empty an instruction that waits for it completes. -/
theorem afterDrain_empty {hart : Nat} {s : State} (f : State → State) (hsb : (s.hart hart).sb = []) :
    afterDrain hart f s = retire hart 4 (f s) := by
  rw [afterDrain, hsb]; rfl

/-- With a store in the buffer it waits. -/
theorem afterDrain_waits {hart : Nat} {s : State} (f : State → State) (hsb : (s.hart hart).sb ≠ []) :
    afterDrain hart f s = s :=
  if_neg (mt List.isEmpty_iff.mp hsb)

section
variable {hart : Nat} {s : State} (hgo : goes s hart)
include hgo

section
variable {pred succ : FenceSet} {tso : Bool}

/-- A fence waits for the store buffer where its sets say so, and completes at once where they do not. -/
theorem exec_fence (pred succ : FenceSet) (tso : Bool) : exec (.fence hart pred succ tso) s =
    .next (if fenceWaits (s.hart hart) pred succ tso then afterDrain hart id s else retire hart 4 s) :=
  within_of_runs (decide_eq_true hgo.1) hgo

/-- A fence completes with no store before it or where it waits for none. -/
theorem exec_fence_completes (hfree : (s.hart hart).sb = [] ∨ fenceWaits (s.hart hart) pred succ tso = false) :
    exec (.fence hart pred succ tso) s = .next (retire hart 4 s) := by
  rw [exec_fence hgo]
  obtain hsb | hno := hfree
  · rw [afterDrain_empty id hsb]; exact congrArg _ (ite_self _)
  · rw [hno]; rfl

/-- A fence waits for the stores before it. -/
theorem exec_fence_waits (hsb : (s.hart hart).sb ≠ []) (hwaits : fenceWaits (s.hart hart) pred succ tso = true) :
    exec (.fence hart pred succ tso) s = .next s := by
  rw [exec_fence hgo, hwaits, afterDrain_waits id hsb]; rfl

end

/-- FENCE.I empties the instruction side once the stores before it have drained. -/
theorem exec_fenceI : exec (.fenceI hart) s = .next (afterDrain hart
    (fun t => setHart hart { t.hart hart with l1i := [], lineBuf := [] } t) s) :=
  within_of_runs (decide_eq_true hgo.1) hgo

/-- SFENCE.VMA, where the mode may, drops the translations that it names once the stores before it have drained. -/
theorem exec_sfenceVma (rs1 rs2 : Nat) (hmay : (s.hart hart).priv = .m ∨ ((s.hart hart).priv = .s ∧ (s.hart hart).tvm = false)) :
    exec (.sfenceVma hart rs1 rs2) s = .next (afterDrain hart (fun t => setHart hart ((t.hart hart).sfence
      (if rs1 % 32 = 0 then none else some ((s.hart hart).getX rs1))
      (if rs2 % 32 = 0 then none else some (((s.hart hart).getX rs2).toNat % 65536))) t) s) :=
  (within_of_runs (decide_eq_true hgo.1) hgo).trans (congrArg _ (if_neg (not_barred hmay)))

end

/-! Cache blocks (R261, R262). -/

section
variable {hart rs1 : Nat} {acc : Access} {p : Part} {ps : List Part} {s t u : State}

/-- A block operation on a line of which the store buffer holds nothing completes where its operation does. -/
theorem blockOp_completes {op : Nat → Nat → State → State × Bool}
    (hplan : planPart hart acc ((s.hart hart).getX rs1) 0 1 true s = (t, .parts (p :: ps))) (hsb : (t.hart hart).sb = [])
    (hop : op (p.pa / 64) p.pbmt t = (u, true)) :
    blockOp hart acc rs1 op s = retire hart 4 (hartEvent hart 0x202 1 u) := by
  simp only [blockOp, hplan, hsb, List.any_nil, Bool.false_eq_true, if_false, hop]

/-- A maintenance operation that is enabled acts on its line in the domain of the hart's partition. -/
theorem maintain_completes {k : ReqKind} (hgo : goes s hart) (hsb : (t.hart hart).sb = [])
    (hplan : planPart hart (cboAccess (k == .cmoInval)) ((s.hart hart).getX rs1) 0 1 true s = (t, .parts (p :: ps)))
    (hdone : cohMaintain k (hart / 12) ((partOfHart t hart).getD 0) (p.pa / 64) t = (u, true)) :
    within (decide (hart < 264)) (maintain hart rs1 (some k) s) = .next (retire hart 4 (hartEvent hart 0x202 1 u)) := by
  refine (within_of_runs (decide_eq_true hgo.1) hgo).trans (congrArg _ ?_)
  exact blockOp_completes hplan hsb hdone

/-- cbo.clean, where it is enabled. -/
theorem exec_cboClean (henv : (s.hart hart).envOk 6 = true) :
    exec (.cboClean hart rs1) s = within (decide (hart < 264)) (maintain hart rs1 (some .cmoClean) s) :=
  congrArg (fun k => within (decide (hart < 264)) (maintain hart rs1 k s)) (if_pos henv)

/-- cbo.flush, where it is enabled. -/
theorem exec_cboFlush (henv : (s.hart hart).envOk 6 = true) :
    exec (.cboFlush hart rs1) s = within (decide (hart < 264)) (maintain hart rs1 (some .cmoFlush) s) :=
  congrArg (fun k => within (decide (hart < 264)) (maintain hart rs1 k s)) (if_pos henv)

/-- cbo.inval, as the enables make it a flush or an invalidation. -/
theorem exec_cboInval {k : ReqKind} (hkind : (s.hart hart).invalKind = some k) :
    exec (.cboInval hart rs1) s = within (decide (hart < 264)) (maintain hart rs1 (some k) s) :=
  congrArg (fun k => within (decide (hart < 264)) (maintain hart rs1 k s)) hkind

/-- cbo.zero on an ordinary page zeroes its line at the L2. -/
theorem exec_cboZero (hgo : goes s hart) (henv : (s.hart hart).envOk 7 = true) (hsb : (t.hart hart).sb = [])
    (hplan : planPart hart cboZeroAccess ((s.hart hart).getX rs1) 0 1 true s = (t, .parts (p :: ps))) (hpage : p.pbmt = 0)
    (hdone : l2Zero hart (p.pa / 64) t = (u, true)) :
    exec (.cboZero hart rs1) s = .next (retire hart 4 (hartEvent hart 0x202 1 u)) := by
  refine (within_of_runs (decide_eq_true hgo.1) hgo).trans (congrArg _ ?_)
  rw [henv, Bool.not_true, if_neg Bool.false_ne_true]
  refine blockOp_completes hplan hsb ?_
  exact (if_pos hpage).trans hdone

end

/-- Settles O45: a fence waits exactly where its sets have it wait, and a block operation completes with its line's. -/
theorem fencesAndBlocks : Obligations.FencesAndBlocks := by
  unfold Obligations.FencesAndBlocks
  refine ⟨?fences, ?blocks⟩
  case fences =>
    intro hart rs1 rs2 pred succ tso s hgo h
    refine ⟨fun hfree => ?completes, fun hsb horders => ?writes, fun hsb hfiom hpred hsucc => ?fiom, fun hsb => ?fenceIWaits,
      fun hsb => ?fenceI, fun hsb hmay => ?sfence⟩
    case completes =>
      refine exec_fence_completes hgo (hfree.imp_right ?_)
      rintro ⟨rfl, hnone⟩
      exact fenceWaits_free hnone
    case writes => exact exec_fence_waits hgo hsb (fenceWaits_of_writes horders)
    case fiom => exact exec_fence_waits hgo hsb (fenceWaits_of_fiom hfiom hpred hsucc)
    case fenceIWaits => rw [exec_fenceI hgo, afterDrain_waits _ hsb]
    case fenceI => rw [exec_fenceI hgo, afterDrain_empty _ hsb]
    case sfence => rw [exec_sfenceVma hgo rs1 rs2 hmay, afterDrain_empty _ hsb]
  case blocks =>
    intro hart rs1 k p ps s t u hgo h hsb
    refine ⟨fun henv hplan => ⟨fun hdone => ?clean, fun hdone => ?flush⟩, fun hkind hplan hdone => ?inval,
      fun henv hplan hpage hdone => exec_cboZero hgo henv hsb hplan hpage hdone⟩
    case clean => exact (exec_cboClean henv).trans (maintain_completes hgo hsb hplan hdone)
    case flush => exact (exec_cboFlush henv).trans (maintain_completes hgo hsb hplan hdone)
    case inval => exact (exec_cboInval hkind).trans (maintain_completes hgo hsb hplan hdone)

end Sys2Proof.Machine
end

section
/-! Named CSR writes (O46): a write of a CSR also delivers what arrived for the hart's interrupt files during a fence of its gallery. -/

namespace Sys2Proof.Machine

/-- Out of a fence, the write of mntimecmp leaves the M-level file with what was recorded in the last fence delivered (R226). -/
theorem csrWrite_mntimecmp_fileM {hart : Nat} (v : Word) {s : State} (hfence : fenced s (hart / 12) = false) :
    ((csrWrite hart 0x7C3 v s).hart hart).fileM = (s.hart hart).fileM.delivered := by
  simp [csrWrite, heard, hfence, Hart.csrWritten, Hart.csrDirty, Hart.extHeld, Hart.withCsr]

/-- Completing an instruction keeps the interrupt files that it leaves. -/
theorem complete_setHart_fileM (hart : Nat) (pc : Word) (g : Hart) (s : State) :
    ((complete hart pc (setHart hart g s)).hart hart).fileM = g.fileM := by
  obtain ⟨_, _, _, hsame⟩ := complete_setHart hart pc g s
  rw [hsame.1]

/-- Hart 0 runs in M-mode, out of a fence, with identity 1 recorded in its M-level file during the last fence of its gallery. -/
def lateIdentity : State :=
  { modes := { mode := .run }, harts := [(0, { run := .running, fileM := IntFile.pend {} true 1 })] }

/-- Refutes O46: in M-mode MNTIMECMP_WRITE delivers the identity that waits in the hart's file, where the statement has the write leave
every part of the hart but mntimecmp, the pc and the counters as it was. -/
theorem not_namedCsrWrites : ¬ Obligations.NamedCsrWrites := by
  unfold Obligations.NamedCsrWrites
  intro h
  have hgo : goes lateIdentity 0 := by decide +kernel
  obtain ⟨_, hinM, _⟩ := h 0 0 lateIdentity hgo
  obtain ⟨hstated, _⟩ := hinM rfl
  have hmodel : exec (.mntimecmpWrite 0 0) lateIdentity =
      .next (csrWrite 0 0x7C3 0 (complete 0 ((lateIdentity.hart 0).pc + 4) lateIdentity)) :=
    congrArg _ (csrStore_of_legal 0 hgo (by decide +kernel))
  have hfiles := congrArg (fun t => (t.hart 0).fileM.late) (Host.Outcome.next.inj (hmodel.symm.trans hstated))
  have hfence : fenced (complete 0 ((lateIdentity.hart 0).pc + 4) lateIdentity) (0 / 12) = false := by decide +kernel
  simp only [complete_setHart_fileM, csrWrite_mntimecmp_fileM 0 hfence] at hfiles
  exact absurd hfiles (by decide +kernel)

end Sys2Proof.Machine
end

section
/-! Vector instructions (O47): accesses that move every element, integer operations element by element, and vsetvl. -/

namespace Sys2Proof.Machine

/-! Loads and stores (R211). -/

section
variable {hart r w rs1 k : Nat} {a : VecAddr} {m : Bool} {s t u : State} (hgo : goes s hart) (hr : r < 32)
include hgo hr

/-- A vector load of legal registers that meets no exception completes with every element loaded. -/
theorem exec_vectorLoad {ff : Bool} {ks : List (Nat × Int)} (hok : (s.hart hart).vecMemOk r w k a m true = true)
    (hff : ff = false ∨ a = .unit)
    (hload : vecLoadFrom hart (s.hart hart) { reg := r, width := w, rs1 := rs1, fields := k, addrs := a, masked := m } ks
      ((s.hart hart).memCount w a - (s.hart hart).vstart) (s.hart hart).vstart s = (t, none)) :
    exec (.vectorLoad hart r w rs1 k a m ff ks) s = .next (vecDone hart true t) := by
  have hrange : (decide (hart < 264) && decide (r < 32) && (!ff || a == .unit)) = true := by
    obtain rfl | rfl := hff <;> simp [hgo.1, hr]
  refine (within_of_runs hrange hgo).trans ?_
  simp only [hok, Bool.not_true, Bool.false_eq_true, if_false, hload]

/-- A vector store of legal registers that meets no exception completes once its entries are in the store buffer. -/
theorem exec_vectorStore {es : List SbEntry} (hok : (s.hart hart).vecMemOk r w k a m false = true)
    (hstore : vecStoreFrom hart (s.hart hart) { reg := r, width := w, rs1 := rs1, fields := k, addrs := a, masked := m }
      ((s.hart hart).memCount w a - (s.hart hart).vstart) (s.hart hart).vstart [] s = (t, es, none))
    (hbuffer : vecBuffer hart es t = (u, true)) :
    exec (.vectorStore hart r w rs1 k a m) s = .next (vecDone hart false u) := by
  have hrange : (decide (hart < 264) && decide (r < 32)) = true := by simp [hgo.1, hr]
  refine (within_of_runs hrange hgo).trans ?_
  simp only [hok, Bool.not_true, Bool.false_eq_true, if_false, hstore, hbuffer]

end

/-! Integer operations (R209). -/

/-- A running hart runs a vector arithmetic instruction. -/
theorem exec_vectorArithmetic {hart : Nat} {s : State} (op : VecOp) (hgo : goes s hart) :
    exec (.vectorArithmetic hart op) s = .next (runVector hart op s) :=
  within_of_guard (decide_eq_true hgo.1) hgo.2

/-- A legal vector instruction writes its hart and completes. -/
theorem vecInsn_legal {hart : Nat} {ok : Bool} (f : Hart → Hart) (s : State) (hok : ok = true) :
    vecInsn hart ok f s = vecDone hart true (setHart hart (f (s.hart hart)) s) :=
  if_pos hok

/-- An integer operation, neither comparison nor merge nor of fixed point, writes each active element. -/
theorem doArith_writes {hart vd vs2 : Nat} {op : VAlu} {src : VecSrc} {m : Bool} {s : State} (hcompare : vecCompare op = false)
    (hmerge : op ≠ .merge) (hfixed : ∀ rm w a b, fixedResult op rm w a b = none) (hready : (s.hart hart).vecReady = true)
    (hform : vecForm op src = true)
    (heew : eewOk (maskSource m ++ [(s.hart hart).source vs2 (s.hart hart).sew] ++ (s.hart hart).sourceOf src (s.hart hart).sew ++
      if [VAlu.macc, .nmsac, .madd, .nmsub].contains op then [(s.hart hart).source vd (s.hart hart).sew] else []) = true)
    (hdest : (s.hart hart).destOk vd (s.hart hart).sew m = true)
    (hvs : (s.hart hart).vsOk vs2 (s.hart hart).sew vd (s.hart hart).sew = true)
    (hsrc : (s.hart hart).srcOk src (s.hart hart).sew vd (s.hart hart).sew = true) :
    doArith hart op vd src vs2 m s = vecDone hart true (setHart hart
      (((s.hart hart).activeBody m).foldl (fun g i => g.withElem vd (s.hart hart).sew i (BitVec.ofNat 64
        (vecResult op (s.hart hart).sew ((s.hart hart).elem vs2 (s.hart hart).sew i).toNat
          ((s.hart hart).vecSrc src (s.hart hart).sew i) ((s.hart hart).elem vd (s.hart hart).sew i).toNat))) (s.hart hart)) s) := by
  have hop : (op == .merge) = false := beq_false_of_ne hmerge
  unfold doArith
  simp only [hcompare, hop, bne, Bool.false_and, Bool.false_eq_true, if_false, hfixed, Option.getD_none]
  refine vecInsn_legal _ s ?_
  simp only [hready, hform, heew, hdest, hvs, hsrc, Bool.not_false, Bool.true_or, Bool.false_or, Bool.and_self]

/-! Configuration (R206). -/

/-- The vtype that an instruction of vsetvl asks for. -/
def Hart.askedVtype (h : Hart) : Src2 → Word
  | .imm v => v &&& 0x7FF
  | .reg n => h.getX n

/-- The hart with vl and vtype set, and vl in rd. -/
def Hart.withVl (h : Hart) (rd vl : Nat) (ty : Word) : Hart :=
  ((h.withCsr 0xC20 (BitVec.ofNat 64 vl)).withCsr 0xC21 ty).withX rd (BitVec.ofNat 64 vl)

section
variable {hart rd : Nat} {avl vt : Src2} {s : State} (hon : (s.hart hart).vecOff = false)
include hon

/-- With an AVL, a supported vtype is set with the vl for it. -/
theorem doSetvl_some {n : Nat} (havl : (s.hart hart).avl rd avl = some n)
    (hty : vtypeOk ((s.hart hart).askedVtype vt) = true) :
    doSetvl hart rd avl vt s = vecDone hart true (setHart hart
      ((s.hart hart).withVl rd (vlFor n (vlmax ((s.hart hart).askedVtype vt))) ((s.hart hart).askedVtype vt)) s) := by
  cases vt <;> simp only [Hart.askedVtype, BitVec.ofNat_eq_ofNat] at hty <;>
    simp [doSetvl, vecInsn, hon, havl, hty, Hart.askedVtype, Hart.withVl]

/-- Without an AVL, a supported vtype of the same VLMAX is set and vl kept. -/
theorem doSetvl_none (havl : (s.hart hart).avl rd avl = none) (hty : vtypeOk ((s.hart hart).askedVtype vt) = true)
    (hvill : (s.hart hart).vill = false) (hmax : vlmax ((s.hart hart).askedVtype vt) = (s.hart hart).vlmax) :
    doSetvl hart rd avl vt s = vecDone hart true (setHart hart
      ((s.hart hart).withVl rd (s.hart hart).vl ((s.hart hart).askedVtype vt)) s) := by
  cases vt <;> simp only [Hart.askedVtype, BitVec.ofNat_eq_ofNat] at hty hmax <;>
    simp [doSetvl, vecInsn, hon, havl, hty, hvill, hmax, Hart.askedVtype, Hart.withVl]

/-- An unsupported vtype sets vill and vl 0. -/
theorem doSetvl_unsupported (hty : vtypeOk ((s.hart hart).askedVtype vt) = false) :
    doSetvl hart rd avl vt s = vecDone hart true (setHart hart ((s.hart hart).withVl rd 0 0x8000000000000000) s) := by
  cases vt <;> simp only [Hart.askedVtype, BitVec.ofNat_eq_ofNat] at hty <;>
    simp [doSetvl, vecInsn, hon, hty, Hart.withVl]

end

/-- A dirty vector state leaves the pc and the integer registers. -/
@[simp] theorem dirtyV_pc (h : Hart) : h.dirtyV.pc = h.pc := by rw [Hart.dirtyV, withCsr_pc]
@[simp] theorem dirtyV_x (h : Hart) : h.dirtyV.x = h.x := by rw [Hart.dirtyV, withCsr_x]

/-- A vector instruction that leaves its hart as `g` completes: vstart is 0 and the state dirty, and no other CSR but counters changes. -/
theorem vecDone_setHart (hart : Nat) (g : Hart) (s : State) :
    let t := vecDone hart true (setHart hart g s)
    onlyHart hart s t ∧ (t.hart hart).x = g.x ∧ (t.hart hart).pc = g.pc + 4 ∧
      ∀ n, counterCsr n = false → n ≠ 0x008 → n ≠ 0x300 → (t.hart hart).csrOf n = g.csrOf n := by
  obtain ⟨honly, hx, hpc, _, hcsr⟩ := complete_setHart hart (g.pc + 4) ((g.withCsr 0x008 0).dirtyV) (setHart hart g s)
  have hdone : vecDone hart true (setHart hart g s) =
      complete hart (g.pc + 4) (setHart hart ((g.withCsr 0x008 0).dirtyV) (setHart hart g s)) := by
    simp only [vecDone, retire, setHart_hart, if_true, dirtyV_pc, withCsr_pc, BitVec.ofNat_eq_ofNat]
  rw [hdone]
  refine ⟨onlyHart_trans (onlyHart_setHart hart g s) honly, hx.trans (dirtyV_x _), hpc, fun n hn h8 h300 => ?_⟩
  rw [hcsr n hn, Hart.dirtyV, csrOf_withCsr_ne _ _ h300, csrOf_withCsr_ne _ _ h8]

/-- vsetvl completes with vl in rd and vl and vtype set. -/
theorem exec_setvl {hart rd vl : Nat} {avl vt : Src2} {ty : Word} {s : State} (hgo : goes s hart)
    (hsets : doSetvl hart rd avl vt s = vecDone hart true (setHart hart ((s.hart hart).withVl rd vl ty) s)) :
    ∃ t, exec (.vectorArithmetic hart (.setvl rd avl vt)) s = .next t ∧ onlyHart hart s t ∧
      wroteX rd (BitVec.ofNat 64 vl) (s.hart hart) (t.hart hart) ∧ (t.hart hart).csrOf 0xC20 = BitVec.ofNat 64 vl ∧
      (t.hart hart).csrOf 0xC21 = ty ∧ (t.hart hart).pc = (s.hart hart).pc + 4 := by
  obtain ⟨honly, hx, hpc, hcsr⟩ := vecDone_setHart hart ((s.hart hart).withVl rd vl ty) s
  refine ⟨_, (exec_vectorArithmetic _ hgo).trans (congrArg _ hsets), honly, ?rd, ?vl, ?vtype, ?pc⟩
  case rd =>
    have hwrote : wroteX rd (BitVec.ofNat 64 vl) (s.hart hart) ((s.hart hart).withVl rd vl ty) := withX_wroteX _ rd _
    exact wroteX_of_x hwrote hx
  case vl =>
    rw [hcsr 0xC20 rfl (by decide) (by decide), Hart.withVl, withX_csrOf, csrOf_withCsr_ne _ _ (by decide), csrOf_withCsr_same]
  case vtype => rw [hcsr 0xC21 rfl (by decide) (by decide), Hart.withVl, withX_csrOf, csrOf_withCsr_same]
  case pc => rw [hpc, Hart.withVl, withX_pc]; rfl

/-- Settles O47: accesses complete with their elements, operations write the active ones, and vsetvl sets vl and vtype. -/
theorem vectorInstructions : Obligations.VectorInstructions := by
  unfold Obligations.VectorInstructions
  refine ⟨?memory, ?arith, ?setvl⟩
  case memory =>
    intro hart r w rs1 k a m ff ks es s t u hgo hr
    exact ⟨exec_vectorLoad hgo hr, exec_vectorStore hgo hr⟩
  case arith =>
    intro hart vd vs2 op src m s hgo hcompare hmerge hfixed h hready hform heew hdest hvs hsrc
    exact (exec_vectorArithmetic _ hgo).trans
      (congrArg _ (doArith_writes hcompare hmerge hfixed hready hform heew hdest hvs hsrc))
  case setvl =>
    intro hart rd avl vt s hgo hon
    refine ⟨fun n havl hty => ?_, fun havl hty hvill hmax => ?_, fun hty => ?_⟩
    · exact exec_setvl hgo (doSetvl_some hon havl hty)
    · exact exec_setvl hgo (doSetvl_none hon havl hty hvill hmax)
    · exact exec_setvl hgo (doSetvl_unsupported hon hty)

end Sys2Proof.Machine
end

section
/-! Waits and interrupts (O48): when wfi completes, and what a hart saves that takes an interrupt. -/

namespace Sys2Proof.Machine

/-! wfi (R225). -/

/-- A hart in wfi that an interrupt wakes completes it. -/
theorem wakeHart_leaves {hart : Nat} {s : State} (hwaits : (s.hart hart).run = .wfi) (hwakes : wakes (heard s hart) (now s) = true) :
    wakeHart hart s = leaveWfi hart s :=
  if_pos ⟨hwaits, hwakes⟩

/-- A hart that executes has no wfi to complete. -/
theorem wakeHart_running {hart : Nat} {s : State} (hruns : (s.hart hart).run = .running) : wakeHart hart s = s := by
  simp [wakeHart, hruns]

/-- A hart that executes: its gallery's mode, and its own state. -/
theorem active_and_running_of_goes {s : State} {hart : Nat} (hgo : goes s hart) :
    s.modes.mode.active = true ∧ (s.hart hart).run = .running := by
  obtain ⟨hactive, hruns⟩ := Bool.and_eq_true_iff.mp hgo.2
  exact ⟨hactive, beq_iff_eq.mp hruns⟩

/-- wfi, where the mode may wait, completes at once with an interrupt pending and enabled, and waits for one without. -/
theorem exec_wfi {hart : Nat} {s : State} (hgo : goes s hart)
    (hmay : (s.hart hart).priv = .m ∨ ((s.hart hart).priv = .s ∧ (s.hart hart).tw = false)) :
    exec (.wfi hart) s = .next (if wakes (heard s hart) (now s) then leaveWfi hart s
      else setHart hart { s.hart hart with run := .wfi } s) := by
  obtain ⟨hactive, hruns⟩ := active_and_running_of_goes hgo
  refine (within_true _ (decide_eq_true hgo.1)).trans (congrArg _ ?_)
  simp only [hactive, Bool.not_true, Bool.false_eq_true, if_false, hruns, if_neg (not_barred hmay)]

/-- A compare that is due completes the wfi of a hart that it wakes (R202). -/
theorem exec_timerCompareReached {hart : Nat} {sup : Bool} {s : State} (hhart : hart < 264) (hactive : s.modes.mode.active = true)
    (hwaits : (s.hart hart).run = .wfi) (hwakes : wakes (heard s hart) (now s) = true)
    (hdue : (if sup then (s.hart hart).stce && decide (((s.hart hart).csrOf 0x14D).toNat ≤ now s)
      else decide (((s.hart hart).csrOf 0x7C3).toNat ≤ now s)) = true) :
    exec (.timerCompareReached hart sup) s = .next (leaveWfi hart s) := by
  rw [← wakeHart_leaves hwaits hwakes]
  exact within_of_guard (decide_eq_true hhart) (Bool.and_eq_true_iff.mpr ⟨hactive, hdue⟩)

/-! Interrupts (R224). -/

/-- A running hart takes the interrupt that comes first. -/
theorem exec_interruptTake {hart cause : Nat} {dest : Priv} {s : State} (hgo : goes s hart)
    (htake : takeable (heard s hart) (now s) = some (cause, dest)) :
    exec (.interruptTake hart) s =
      .next (hartEvent hart 0x00C 1 (setHart hart ((s.hart hart).trapped dest true cause 0) s)) := by
  obtain ⟨hactive, hruns⟩ := active_and_running_of_goes hgo
  refine (within_true _ (decide_eq_true hgo.1)).trans (congrArg _ ?_)
  simp only [hactive, Bool.not_true, Bool.false_eq_true, if_false, wakeHart_running hruns, hruns, if_true, takeInterrupt, htake]

/-- A trap into M-mode saves pc and cause there. -/
theorem trapped_m (h : Hart) (interrupt : Bool) (cause : Nat) (tval : Word) :
    let g := h.trapped .m interrupt cause tval
    g.priv = .m ∧ g.x = h.x ∧ g.csrOf 0x341 = h.pc ∧ g.csrOf 0x342 = causeWord interrupt cause ∧
      g.pc = tvecTarget (h.csrOf 0x305) interrupt cause := by
  simp [Hart.trapped, csrOf_withCsr]

/-- A trap into S-mode saves pc and cause there. -/
theorem trapped_s (h : Hart) (interrupt : Bool) (cause : Nat) (tval : Word) :
    let g := h.trapped .s interrupt cause tval
    g.priv = .s ∧ g.x = h.x ∧ g.csrOf 0x141 = h.pc ∧ g.csrOf 0x142 = causeWord interrupt cause ∧
      g.pc = tvecTarget (h.csrOf 0x105) interrupt cause := by
  simp [Hart.trapped, csrOf_withCsr]

/-- A hart changed and an event counted: the change stands but for counters, and nothing else of the package differs. -/
theorem hartEvent_setHart (hart ev n : Nat) (g : Hart) (s : State) :
    let t := hartEvent hart ev n (setHart hart g s)
    onlyHart hart s t ∧ (t.hart hart).x = g.x ∧ (t.hart hart).pc = g.pc ∧ sameBeyond g (t.hart hart) := by
  have hevent := hartEvent_same hart ev n (setHart hart g s)
  rw [setHart_hart] at hevent
  exact ⟨onlyHart_trans (onlyHart_setHart _ _ _) hevent.1, hevent.2⟩

/-- Settles O48: wfi completes where an interrupt wakes it, and the interrupt that comes first is a trap into its mode. -/
theorem waitsAndInterrupts : Obligations.WaitsAndInterrupts := by
  unfold Obligations.WaitsAndInterrupts
  refine ⟨?wfi, ?timer, ?takenM, ?takenS⟩
  case wfi =>
    intro hart s hgo hmay
    refine ⟨fun hsleeps => ?_, fun hwakes => ?_⟩
    · rw [exec_wfi hgo hmay, hsleeps]; rfl
    · rw [exec_wfi hgo hmay, hwakes]; rfl
  case timer => exact fun _ _ _ hhart hactive hwaits hwakes hdue => exec_timerCompareReached hhart hactive hwaits hwakes hdue
  case takenM =>
    intro hart cause s hgo htake
    obtain ⟨honly, hx, hpc, hsame⟩ := hartEvent_setHart hart 0x00C 1 ((s.hart hart).trapped .m true cause 0) s
    obtain ⟨hpriv, hx', hepc, hcause, htarget⟩ := trapped_m (s.hart hart) true cause 0
    exact ⟨_, exec_interruptTake hgo htake, honly, hsame.priv_eq.trans hpriv, hx.trans hx', (hsame.2 0x341 rfl).trans hepc,
      (hsame.2 0x342 rfl).trans hcause, hpc.trans htarget⟩
  case takenS =>
    intro hart cause s hgo htake
    obtain ⟨honly, hx, hpc, hsame⟩ := hartEvent_setHart hart 0x00C 1 ((s.hart hart).trapped .s true cause 0) s
    obtain ⟨hpriv, hx', hepc, hcause, htarget⟩ := trapped_s (s.hart hart) true cause 0
    exact ⟨_, exec_interruptTake hgo htake, honly, hsame.priv_eq.trans hpriv, hx.trans hx', (hsame.2 0x141 rfl).trans hepc,
      (hsame.2 0x142 rfl).trans hcause, hpc.trans htarget⟩

end Sys2Proof.Machine
end

section
/-! Vitrines (O50, O51): the instructions of a hart, which meet the guard of R244 first, then what a Vitrine does by itself. -/

namespace Sys2Proof.Machine

/-- What a command answers whose end a test decides, by what the test finds. -/
theorem next_cases {o : Out} {p : Prop} [Decidable p] {t u : State} (h : o = .next (if p then t else u)) :
    (p → o = .next t) ∧ (¬p → o = .next u) :=
  ⟨fun hp => h.trans (congrArg _ (if_pos hp)), fun hn => h.trans (congrArg _ (if_neg hn))⟩

/-! The guard that the Vitrine instructions share (R244). -/

section
variable {hart : Nat} {ok : Bool} {s : State} (f : Nat → State → State) (hgo : goes s hart)
include hgo

/-- An instruction of enough privilege acts on the hart's Vitrine, which runs, once no store waits in the buffer. -/
theorem vitInsn_acts (hok : ok = true) (hsb : (s.hart hart).sb = []) (hvit : vitRuns s (hart / 4) = true) :
    vitInsn hart ok f s = .next (f (hart / 4) s) := by
  refine (within_of_runs (decide_eq_true hgo.1) hgo).trans (congrArg _ ?_)
  simp only [hok, hsb, hvit, List.isEmpty_nil, Bool.not_true, Bool.or_self, Bool.false_eq_true, if_false]

/-- An instruction below its privilege is illegal, whatever the store buffer holds and the Vitrine does. -/
theorem vitInsn_illegal (hok : ok = false) : vitInsn hart ok f s = .next (illegal hart s) := by
  refine (within_of_runs (decide_eq_true hgo.1) hgo).trans (congrArg _ ?_)
  simp only [hok, Bool.not_false, if_true]

end

/-! The instructions (R235, R236, R239, R245 to R247). -/

section
variable {hart rd rs1 rs2 a slot : Nat} {s : State} (hgo : goes s hart) (hsb : (s.hart hart).sb = [])
  (hvit : vitRuns s (hart / 4) = true) (ha : ((s.hart hart).getX rs1).toNat = a) (hb : ((s.hart hart).getX rs2).toNat = slot)
include hgo hsb hvit ha

include hb in
/-- vit.load of a block that is read without poison ends by the code of the checks on what was read. -/
theorem exec_vitLoad {t : State} {b : List Byte} (hpriv : (s.hart hart).vitSuper = true)
    (hslot : slot ≤ 3) (hload : loadable (s.vit (hart / 4)) slot = true)
    (hrange : (a % 64 == 0 && vitRange s (hart / 4) a 640) = true)
    (hread : cohBytes (hart / 4 / 3) (vitPart s (hart / 4)) a 640 s = (t, some (b, []))) :
    let v := hart / 4
    let y := (t.vit v).slotAt slot
    exec (.vitLoad hart rd rs1 rs2) s = .next (if loadCode t v slot b = 0
      then vitDone hart rd 0 (setVit v ((t.vit v).withSlot slot
        { state := 1, block := b, stepped := y.stepped, faultCode := y.faultCode }) t)
      else vitDone hart rd (vitFail (loadCode t v slot b)) t) := by
  show execVitLoad hart rd rs1 rs2 s = _
  rw [execVitLoad, vitInsn_acts _ hgo hpriv hsb hvit]
  simp only [ha, hb, Nat.not_lt.mpr hslot, hload, hrange, hread, Bool.not_true, Bool.false_eq_true, if_false, ne_eq, ite_not]

/-- vit.arm of one of the four slots ends by the code of its checks. -/
theorem exec_vitArm (hpriv : (s.hart hart).vitSuper = true) (hslot : a ≤ 3) :
    let v := hart / 4
    let y := (s.vit v).slotAt a
    exec (.vitArm hart rd rs1) s = .next (if armCode s v a = 0
      then vitDone hart rd 0 (setVit v ((s.vit v).withSlot a
        { state := 2, block := y.block, stepped := y.stepped, faultCode := y.faultCode }) s)
      else vitDone hart rd (vitFail (armCode s v a)) s) := by
  show execVitArm hart rd rs1 s = _
  rw [execVitArm, vitInsn_acts _ hgo hpriv hsb hvit]
  simp only [ha, Nat.not_lt.mpr hslot, if_false, ne_eq, ite_not]

/-- vit.disarm of an armed or stopped slot without a record that waits leaves it loaded, without rows and notices. -/
theorem exec_vitDisarm (hpriv : (s.hart hart).vitSuper = true) (hslot : a ≤ 3)
    (harmed : 2 ≤ ((s.vit (hart / 4)).slotAt a).state)
    (hposted : ((vitWaiting s (hart / 4)).any fun r => leAt r 3 1 == a && ofStep r) = false) :
    let x := s.vit (hart / 4)
    exec (.vitDisarm hart rd rs1) s = .next (vitDone hart rd 0 (setVit (hart / 4)
      { x.withSlot a { x.slotAt a with state := 1, rows := [], disarming := false } with
        notices := dropSlot a x.notices } s)) := by
  show execVitDisarm hart rd rs1 s = _
  rw [execVitDisarm, vitInsn_acts _ hgo hpriv hsb hvit]
  simp only [ha, Nat.not_lt.mpr hslot, Nat.not_lt.mpr harmed, hposted, Bool.false_eq_true, if_false]

include hb in
/-- vit.run of a slot that is neither empty nor armed, with room for a job and ranges that are permitted, answers the next ticket and
puts the job behind the others. -/
theorem exec_vitRun {t : State} {d : List Byte} (hpriv : (s.hart hart).vitUser = true) (hslot : slot ≤ 3)
    (hempty : ((s.vit (hart / 4)).slotAt slot).state ≠ 0) (harmed : ((s.vit (hart / 4)).slotAt slot).state ≠ 2)
    (hroom : (s.vit (hart / 4)).jobs.length < 16)
    (hqueue : blkQueue ((s.vit (hart / 4)).slotAt slot).block = 0xFFFFFFFF ∨
      ownQueue s (hart / 4) (blkQueue ((s.vit (hart / 4)).slotAt slot).block) = true)
    (hrange : (a % 64 == 0 && vitRange s (hart / 4) a 64) = true)
    (hread : cohBytes (hart / 4 / 3) (vitPart s (hart / 4)) a 64 s = (t, some (d, [])))
    (hjob : jobRanges t (hart / 4) ((s.vit (hart / 4)).slotAt slot).block d = true) :
    let x := t.vit (hart / 4)
    exec (.vitRun hart rd rs1 rs2) s = .next (vitDone hart rd (BitVec.ofNat 64 (x.tickets + 1)) (setVit (hart / 4)
      { x with tickets := x.tickets + 1
               jobs := x.jobs ++ [{ slot := slot, ticket := x.tickets + 1, desc := d }] } t)) := by
  have hown : ¬(blkQueue ((s.vit (hart / 4)).slotAt slot).block ≠ 0xFFFFFFFF ∧
      ownQueue s (hart / 4) (blkQueue ((s.vit (hart / 4)).slotAt slot).block) = false) := by
    rintro ⟨hsome, hother⟩
    exact hqueue.elim hsome fun howned => Bool.false_ne_true (hother.symm.trans howned)
  show execVitRun hart rd rs1 rs2 s = _
  rw [execVitRun, vitInsn_acts _ hgo hpriv hsb hvit]
  simp only [ha, hb, Nat.not_lt.mpr hslot, hempty, harmed, or_self, Nat.not_le.mpr hroom, hown, hrange, hread, hjob, Bool.not_true,
    Bool.false_eq_true, if_false]

/-- vit.wait on a ticket whose job has ended, and whose record does not wait, answers the job's code. -/
theorem exec_vitWait_ended {code : Nat} (hpriv : (s.hart hart).vitUser = true) (hpos : 0 < a)
    (hissued : a ≤ (s.vit (hart / 4)).tickets) (hended : (s.vit (hart / 4)).ended.lookup a = some code)
    (hposted : jobWaiting s (hart / 4) a = false) :
    exec (.vitWait hart rd rs1) s = .next (vitDone hart rd (BitVec.ofNat 64 code) s) := by
  show execVitWait hart rd rs1 s = _
  rw [execVitWait, vitInsn_acts _ hgo hpriv hsb hvit]
  simp only [ha, Nat.ne_of_gt hpos, Nat.not_lt.mpr hissued, or_self, hended, hposted, Bool.false_eq_true, if_false]

/-- vit.stat of one of the four slots answers its status word. -/
theorem exec_vitStat (hpriv : (s.hart hart).vitUser = true) (hslot : a ≤ 3) :
    let y := (s.vit (hart / 4)).slotAt a
    exec (.vitStat hart rd rs1) s =
      .next (vitDone hart rd (BitVec.ofNat 64 (y.stepped % 2 ^ 32 * 2 ^ 32 + y.faultCode * 256 + y.state)) s) := by
  show execVitStat hart rd rs1 s = _
  rw [execVitStat, vitInsn_acts _ hgo hpriv hsb hvit]
  simp only [ha, Nat.not_lt.mpr hslot, if_false]

end

/-- Settles O50: no store waits and the Vitrine runs, so each instruction ends as its own checks have it. -/
theorem vitrineInstructions : Obligations.VitrineInstructions := by
  unfold Obligations.VitrineInstructions
  intro hart rd rs1 rs2 s hgo hsb hvit
  refine ⟨?load, ?slots, ?run⟩
  case load =>
    intro t b hpriv hslot hload hrange hread
    exact next_cases (exec_vitLoad hgo hsb hvit rfl rfl hpriv hslot hload hrange hread)
  case slots =>
    intro hpriv hslot
    obtain ⟨harms, hrefuses⟩ := next_cases (exec_vitArm (rd := rd) hgo hsb hvit rfl hpriv hslot)
    exact ⟨harms, hrefuses, exec_vitDisarm hgo hsb hvit rfl hpriv hslot⟩
  case run =>
    intro t d hpriv hslot y hempty harmed hroom hqueue hrange hread hjob
    exact exec_vitRun hgo hsb hvit rfl rfl hpriv hslot hempty harmed hroom hqueue hrange hread hjob

/-! Notices, steps and jobs (R237, R238, R240). -/

/-- A notice under way that armed slots take is counted, and joins the Vitrine's notices unless 64 of them wait. -/
theorem exec_sealNotice {v r l c : Nat} {s : State} (hv : v < 66) (hr : r < 256) (hactive : s.modes.mode.active = true)
    (hway : s.acc.notices.contains (v, r, l, c) = true) (hfence : fenced s (v / 3) = false) (harmed : armedOn (s.vit v) r ≠ []) :
    let s1 := addO (nVitrine v) 0x6400 6 1 { s with acc := { s.acc with notices := s.acc.notices.erase (v, r, l, c) } }
    exec (.sealNotice v r l c) s = .next (if (s.vit v).notices.length < 64
      then setVit v { s.vit v with
        notices := (s.vit v).notices ++ [{ ring := r, line := l, cover := c, slots := armedOn (s.vit v) r }] } s1
      else addO (nVitrine v) 0x6400 7 1 s1) := by
  intro s1
  have hrange : (decide (v < 66) && decide (r < 256)) = true := by rw [decide_eq_true hv, decide_eq_true hr]; rfl
  have hslots : (armedOn (s.vit v) r).isEmpty = false := List.isEmpty_eq_false_iff.mpr harmed
  refine (within_true _ hrange).trans (congrArg _ ?_)
  show (if !(s.modes.mode.active && !fenced s (v / 3) && s.acc.notices.contains (v, r, l, c)) then s
    else if (armedOn (s.vit v) r).isEmpty then s1 else if 64 ≤ (s.vit v).notices.length then _ else _) = _
  simp only [hactive, hway, hfence, hslots, Bool.not_false, Bool.and_self, Bool.not_true, Bool.false_eq_true, if_false,
    ← Nat.not_lt, ite_not]
  rfl

section
variable {v : Nat} {f : ArrayFinding} {s t : State} (hv : v < 66) (hruns : vitRuns s v = true) (hposted : vitWaiting s v = [])
include hv hruns hposted

/-- A Vitrine none of whose records waits runs the step of the first slot of its oldest notice. -/
theorem exec_vitrineStep {slot : Nat} {n : Notice} {more : List Notice} {rest : List Nat} (hnotice : (s.vit v).notices = n :: more)
    (hslot : n.slots = slot :: rest) (hstep : stepFound v slot n f (setVit v (noticeDone slot (s.vit v)) s) = some t) :
    exec (.vitrineStep v f) s = .next t := by
  refine (within_true _ (decide_eq_true hv)).trans (congrArg _ ?_)
  simp only [hruns, hposted, hnotice, hslot, hstep, List.isEmpty_nil, Bool.not_true, Bool.false_eq_true, if_false, Option.getD_some]

/-- A Vitrine without notices, none of whose records waits, runs a row of its first job. -/
theorem exec_vitrineJobRow {j : Job} {more : List Job} (hnotices : (s.vit v).notices = []) (hjobs : (s.vit v).jobs = j :: more)
    (hrow : jobFound v j f s = some t) : exec (.vitrineJobRow v f) s = .next t := by
  refine (within_true _ (decide_eq_true hv)).trans (congrArg _ ?_)
  simp only [hruns, hposted, hnotices, hjobs, hrow, List.isEmpty_nil, Bool.not_true, Bool.false_eq_true, if_false, Option.getD_some]

end

/-- Settles O51: a notice is taken or dropped by the room there is, and each piece of work and each answer is its command's. -/
theorem vitrineWork : Obligations.VitrineWork := by
  unfold Obligations.VitrineWork
  refine ⟨?notice, ?step, ?job, ?insns⟩
  case notice =>
    intro v r l c s hv hr hactive hway hfence harmed
    obtain ⟨hjoins, hdrops⟩ := next_cases (exec_sealNotice hv hr hactive hway hfence harmed)
    exact ⟨hjoins, fun hfull => hdrops (Nat.not_lt.mpr hfull)⟩
  case step =>
    intro v slot n more rest f s t hv hruns hposted hnotice hslot hstep
    exact exec_vitrineStep hv hruns hposted hnotice hslot hstep
  case job =>
    intro v j more f s t hv hruns hposted hnotices hjobs hrow
    exact exec_vitrineJobRow hv hruns hposted hnotices hjobs hrow
  case insns =>
    intro hart rd rs1 s hgo hsb hvit
    refine ⟨fun code => ?wait, exec_vitStat hgo hsb hvit rfl, fun hpriv => ?illegal⟩
    case wait => exact exec_vitWait_ended hgo hsb hvit rfl
    case illegal =>
      show execVitArm hart rd rs1 s = _
      rw [execVitArm, vitInsn_illegal _ hgo hpriv]
      rfl

end Sys2Proof.Machine
end

section
/-! Way control (O49): the lock operations and their refusals, the method of a gallery, and disabled ways cleared. -/

namespace Sys2Proof.Machine

/-! A lock control value with its operation. -/

section
variable {op : Nat} (v : Nat) (hop : op < 16)
include hop

theorem withOp_mod : withOp v op % 16 = op := by unfold withOp; omega
/-- The operation leaves the fields above it. -/
theorem withOp_div : withOp v op / 16 = v / 16 := by unfold withOp; omega
/-- The operation leaves WAY (R269). -/
theorem withOp_way : withOp v op / 16 % 16 = v / 16 % 16 := by rw [withOp_div v hop]
/-- The operation leaves LCORE (R269). -/
theorem withOp_core : withOp v op / 4096 % 16 = v / 4096 % 16 := by unfold withOp; omega

end

/-! The rule of lock control (R270, R271). -/

section
variable {who : Requester} {g v : Nat} {s : State}

/-- A refused operation leaves its code in 6120h.02h and changes nothing else (R271). -/
theorem ruleLock_refuses (hrefused : lockRefusal who g v s ≠ 0) :
    ruleLock who g v s = refused (lockRefusal who g v s) (setO (nGal g) 0x6120 2 (lockRefusal who g v s) s) :=
  if_pos hrefused

/-- OPEN that no code refuses opens its way. -/
theorem ruleLock_opens (hallowed : lockRefusal who g v s = 0) (hopen : v % 16 = 1) :
    ruleLock who g v s = openWay g (v / 16 % 16) (v / 4096 % 16) s :=
  (if_neg (not_not_intro hallowed)).trans (if_pos hopen)

/-- Any other operation that no code refuses sets the state of its way, LOCKED for LOCK and else NORMAL. -/
theorem ruleLock_setsState (hallowed : lockRefusal who g v s = 0) (hother : v % 16 ≠ 1) :
    ruleLock who g v s = actionDone (setO (nGal g) 0x6120 2 0
      (setO (nGal g) 0x6110 (v / 16 % 16 + 1) (if v % 16 = 2 then 2 else 0) s)) :=
  (if_neg (not_not_intro hallowed)).trans (if_neg hother)

end

/-- A write whose rule waits for an operation stays outstanding (R399). -/
theorem served_eq_held {acc : Acc} {who : Requester} {node ix sub value : Nat} {s t : State} {rule : Rule}
    (hreaches : reaches acc who node ix sub value s = true)
    (hrule : rule (arrived who node ix sub value s) = answerWaits t) :
    served who node ix sub value rule s = holdRequest t := by
  rw [served_of_reaches rule hreaches, hrule]; rfl

section
variable {g w : Nat} {s : State}

/-- A way is emptied unless its gallery is fenced (R42). -/
theorem emptied_eq_ite : onlyIf (!fenced s g) (emptyWay g w) s = if fenced s g then s else emptyWay g w s := by
  cases hfence : fenced s g
  · rfl
  · rfl

/-- OPEN ends in PRELOAD with its core named once every line has gone, and its answer waits till then (R270). -/
theorem openWay_eq (core : Nat) :
    let t := if fenced s g then s else emptyWay g w s
    openWay g w core s = if openReady t g then
        actionDone (setO (nGal g) 0x6120 2 0 (setO (nGal g) 0x6110 (w + 1) 1
          { t with caches := { t.caches with preloadCore := tblSet 0 t.caches.preloadCore g core } }))
      else answerWaits t := by
  unfold openWay
  rw [emptied_eq_ite]

end

/-! Writes of lock control. -/

section
variable {who : Requester} {g v : Nat} {s : State}

/-- OPEN that no code refuses ends as its way's last line goes, and is outstanding till then (R270, R399). -/
theorem served_lockOpen (hreaches : reaches .wo who (nGal g) 0x6120 1 (withOp v 1) s = true)
    (hallowed : lockRefusal who g (withOp v 1) (arrived who (nGal g) 0x6120 1 (withOp v 1) s) = 0) :
    let a := arrived who (nGal g) 0x6120 1 (withOp v 1) s
    let t := if fenced a g then a else emptyWay g (v / 16 % 16) a
    served who (nGal g) 0x6120 1 (withOp v 1) (ruleLock who g (withOp v 1)) s = if openReady t g then
        ended who (nGal g) 0x6120 1 (setO (nGal g) 0x6120 2 0 (setO (nGal g) 0x6110 (v / 16 % 16 + 1) 1
          { t with caches := { t.caches with preloadCore := tblSet 0 t.caches.preloadCore g (v / 4096 % 16) } }))
      else holdRequest t := by
  intro a t
  have hop : 1 < 16 := by decide
  have hrule := ruleLock_opens hallowed (withOp_mod v hop)
  rw [withOp_way v hop, withOp_core v hop, openWay_eq] at hrule
  split
  case isTrue hready => exact served_eq_ended hreaches (hrule.trans (if_pos hready))
  case isFalse hpending => exact served_eq_held hreaches (hrule.trans (if_neg hpending))

/-- Any other operation that no code refuses ends with the new state of its way and result 00h (R270). -/
theorem served_lock_setsState {op : Nat} (hlow : 1 < op) (hhigh : op ≤ 4)
    (hreaches : reaches .wo who (nGal g) 0x6120 1 (withOp v op) s = true)
    (hallowed : lockRefusal who g (withOp v op) (arrived who (nGal g) 0x6120 1 (withOp v op) s) = 0) :
    served who (nGal g) 0x6120 1 (withOp v op) (ruleLock who g (withOp v op)) s =
      ended who (nGal g) 0x6120 1 (setO (nGal g) 0x6120 2 0 (setO (nGal g) 0x6110 (v / 16 % 16 + 1) (if op = 2 then 2 else 0)
        (arrived who (nGal g) 0x6120 1 (withOp v op) s))) := by
  have hop : op < 16 := by omega
  have hmod := withOp_mod v hop
  have hrule := ruleLock_setsState hallowed (by omega)
  rw [hmod, withOp_way v hop] at hrule
  exact served_eq_ended hreaches hrule

end

/-! The rules of the method and of the disabled ways (R264, R278). -/

section
variable {g : Nat} {s : State}

/-- A new method, taken while no cluster of the gallery belongs to a running partition, makes every way that is not DISABLED NORMAL. -/
theorem ruleWayMethod_changes {v : Nat} (hnew : getO s (nGal g) 0x6100 1 ≠ v)
    (hstopped : ([0, 1, 2].any fun k => match partOfCluster s (3 * g + k) with
      | some p => partState s p == 3
      | none => false) = false) :
    ruleWayMethod g v s = answered (forceGallery g
      (forAll (List.range 16) (fun w s => onlyIf (wayState s g w != 3) (setO (nGal g) 0x6110 (w + 1) 0) s)
        (setO (nGal g) 0x6100 1 v s))) :=
  (if_neg (Bool.not_eq_true _ ▸ hstopped)).trans (if_neg hnew)

/-- In SERVICE the disabled ways of the gallery's site are cleared. -/
theorem ruleClearDisabled_clears (hmode : s.modes.mode = .service) :
    ruleClearDisabled g s = actionDone (forceGallery g (showDisabled g
      { s with panel := { s.panel with wayDisabled := tblSet 0 s.panel.wayDisabled (siteOf s g) 0 } })) :=
  if_neg (not_not_intro hmode)

end

/-- Settles O49: the gallery is in range, so each command answers what its write is answered with. -/
theorem wayActions : Obligations.WayActions := by
  unfold Obligations.WayActions
  intro who g v s hg a w won
  have hrange : decide (g < 22) = true := decide_eq_true hg
  refine ⟨?operations, ?refusal, ?method, ?clears⟩
  case operations =>
    intro op hlow hhigh hreaches hallowed
    refine ⟨?opens, ?locks, ?unlocks, ?cancels⟩
    case opens =>
      rintro rfl t
      obtain ⟨hends, hwaits⟩ := next_cases ((within_true _ hrange).trans (congrArg _ (served_lockOpen hreaches hallowed)))
      exact ⟨hends, fun hpending => hwaits (Bool.not_eq_true _ ▸ hpending)⟩
    all_goals
      rintro rfl
      exact (within_true _ hrange).trans (congrArg _ (served_lock_setsState (by decide) hhigh hreaches hallowed))
  case refusal =>
    intro hreaches hrefused
    exact (within_true _ hrange).trans (congrArg _ (served_eq_turnedAway hreaches (ruleLock_refuses hrefused)))
  case method =>
    intro hreaches b hnew hstopped
    exact (within_true _ hrange).trans
      (congrArg _ (served_eq_written hreaches (by decide) (ruleWayMethod_changes hnew hstopped)))
  case clears =>
    intro hreaches hmode b
    have hrule := ruleClearDisabled_clears (g := g) (s := b) (by rwa [arrived_modes])
    exact (within_true _ hrange).trans (congrArg _ (served_eq_ended hreaches hrule))

end Sys2Proof.Machine
end

section
/-! The machine as a whole (O1, O5, O6, O7): what one step does with the queue, the record and the state that must not go back. -/

namespace Sys2Proof.Machine

/-- A state whose Curator runs with an audit begun at 0 that nothing is left to sample of, and no request and no command waiting. -/
def auditDue : State :=
  { State.reset with
    modes := { State.reset.modes with mode := .run }
    errs := { State.reset.errs with audit := some { start := 0, left := [] } } }

theorem serveWaiting_of_empty {s : State} (hqueue : s.cat.queue = []) : serveWaiting s = s := by
  simp [serveWaiting, hqueue]

theorem tick_errs (s : State) : (tick s).errs = s.errs := by
  unfold tick; split <;> rfl

/-- An idle step ends an audit of which nothing is left. -/
theorem idle_auditDue : (idle auditDue).errs.audit = none := by
  have htick : (tick auditDue).cat.queue = [] := rfl
  rw [idle, serveWaiting_of_empty htick]
  rfl

/-- Refutes O1: an idle step also goes on with the audit that is under way, so one with nothing left ends, where
`serveWaiting (tick s)` keeps it. -/
theorem not_stepRunsFrontCommand : ¬ Obligations.StepRunsFrontCommand := by
  unfold Obligations.StepRunsFrontCommand
  rintro ⟨-, hidle⟩
  have hstep : Host.Outcome.next (idle auditDue) = .next (tick auditDue) := (hidle auditDue rfl).2 rfl
  have haudit := congrArg (fun t => t.errs.audit) (Host.Outcome.next.inj hstep)
  rw [idle_auditDue, tick_errs] at haudit
  exact absurd haudit (by simp [auditDue])

/-- What a command leaves is kept against the state it was run in. -/
theorem keep_of_exec {i : Instr} {s t : State} (hexec : exec i s = .next t) : Keep s t :=
  exec_keep i (Keep.refl s) t hexec

/-- A step keeps everything against the state it found, but for the command it took from the queue. -/
theorem keep_of_step {s t : State} (hstep : step s = .next t) : ∃ rest, Keep { s with pending := rest } t := by
  unfold step at hstep
  split at hstep
  case h_1 =>
    obtain rfl := Host.Outcome.next.inj hstep
    exact ⟨s.pending, idle_keep s (Keep.refl s)⟩
  case h_2 c rest _ => exact ⟨rest, keep_of_exec hstep⟩

/-- Settles O5: a command keeps the queue and adds to the record only. -/
theorem execLeavesQueueAndRecord : Obligations.ExecLeavesQueueAndRecord := by
  unfold Obligations.ExecLeavesQueueAndRecord
  intro i s t hexec
  exact ⟨(keep_of_exec hexec).queue, (keep_of_exec hexec).sent⟩

/-- Settles O6: every step keeps a decommissioning. -/
theorem decommissionIsFinal : Obligations.DecommissionIsFinal := by
  unfold Obligations.DecommissionIsFinal
  intro s t hdecom hstep
  obtain ⟨rest, hkeep⟩ := keep_of_step hstep
  exact hkeep.decom hdecom

/-- Settles O7: no step lowers the counter, and an open value that is taken raises it by one. -/
theorem openValuesAreFresh : Obligations.OpenValuesAreFresh := by
  unfold Obligations.OpenValuesAreFresh
  intro s t hstep
  obtain ⟨rest, hkeep⟩ := keep_of_step hstep
  exact ⟨hkeep.free, rfl, rfl⟩

end Sys2Proof.Machine
end

section
/-! The thermal sensors (O11): what the trip and the throttling of a site count and leave. -/

namespace Sys2Proof.Machine

/-- A counter goes up by one within its width. -/
theorem getO_addO_same (node ix sub v : Nat) (s : State) :
    getO (addO node ix sub v s) node ix sub = (getO s node ix sub + v) % 2 ^ (8 * objSize node ix sub) :=
  getO_setO_same _ _ _ _ _

/-- The trip counter and each site's throttling counter are of 32 bits. -/
theorem objSize_tripCount : objSize nP 0x8403 1 = 4 := by decide

theorem objSize_throttleCount : ∀ n, n < 24 → objSize nP 0x8402 (n + 1) = 4 := by decide

/-- The trip of a package that runs latches THERMTRIP_N and is counted. -/
theorem execThermalTrip_trips {x : Sensor} {s : State} (hx : sensorOk x = true) (hon : s.modes.mode.on = true)
    (hclear : s.power.thermtrip = false) :
    exec (.thermalTrip x) s = .next (addO nP 0x8403 1 1 { s with power := { s.power with thermtrip := true, stat := 4 } }) :=
  within_of_guard hx (by simp [running, hon, hclear])

/-- A powered site that is not throttled yet becomes so and is counted. -/
theorem execThermalThrottleEntry_throttles {n : Nat} {s : State} (hn : n < 24) (hup : s.panel.powered.contains n = true)
    (hnew : s.power.throttled.contains n = false) :
    exec (.thermalThrottleEntry n) s =
      .next (addO nP 0x8402 (n + 1) 1 { s with power := { s.power with throttled := addTo s.power.throttled n } }) :=
  within_of_guard (decide_eq_true hn) (by simp only [hup, hnew, Bool.not_false, Bool.and_self])

/-- Settles O11: the trip and the throttling count in their own objects. -/
theorem thermalProtection : Obligations.ThermalProtection := by
  unfold Obligations.ThermalProtection
  refine ⟨?trip, ?throttle, ?ends⟩
  case trip =>
    intro s x hx hon hclear
    refine ⟨_, execThermalTrip_trips hx hon hclear, rfl, rfl, ?_, rfl, rfl, rfl⟩
    rw [getO_addO_same, objSize_tripCount]
    rfl
  case throttle =>
    intro s n hn hup hnew
    refine ⟨_, execThermalThrottleEntry_throttles hn hup hnew, ?_, ?_, rfl, rfl, rfl⟩
    · exact if_neg (Bool.eq_false_iff.mp hnew)
    · rw [getO_addO_same, objSize_throttleCount n hn]
      rfl
  case ends => exact fun s n hn => within_true _ (decide_eq_true hn)

end Sys2Proof.Machine
end

section
/-! Doorbell stores (O31): the effect of the queue named, or the exception that the checks of the store end in. -/

namespace Sys2Proof.Machine

/-- A device store whose checks end in an exception takes it. -/
theorem hartDeviceStore_faults {hart addr size : Nat} {va : Word} {s t : State} {e : Exc} (f : State → State) (hgo : goes s hart)
    (hreach : reach hart storeAccess va size (va.toNat % size == 0) s = (t, .exc e)) :
    hartDeviceStore hart va addr size f s = takeExc hart e t := by
  simp only [hartDeviceStore, not_idle_of_goes hgo, Bool.false_eq_true, if_false, hreach]

/-- The doorbell of a queue lies on the queue's own page of the device range. -/
theorem inDevice_doorbellAddr {q : Nat} (hq : q < 65536) : inDevice (doorbellAddr q) = true := by
  have hlow : 0x0F0000000000 ≤ doorbellAddr q := by unfold doorbellAddr; omega
  have hhigh : doorbellAddr q < 0x0F0100000000 := by unfold doorbellAddr; omega
  simp only [inDevice, hlow, hhigh, decide_true, Bool.and_self]

theorem devPage_doorbellAddr {q : Nat} (hq : q < 65536) : devPage (doorbellAddr q) = .doorbell q 0 := by
  have hfileM : ¬(0x0F0000000000 ≤ doorbellAddr q ∧ doorbellAddr q < 0x0F0000108000) := by unfold doorbellAddr; omega
  have hfileS : ¬(0x0F0001000000 ≤ doorbellAddr q ∧ doorbellAddr q < 0x0F0001108000) := by unfold doorbellAddr; omega
  have hpage : 0x0F0010000000 ≤ doorbellAddr q ∧ doorbellAddr q < 0x0F0010400000 := by unfold doorbellAddr; omega
  have hqueue : (doorbellAddr q - 0x0F0010000000) / 64 = q := by unfold doorbellAddr; omega
  have hoffset : doorbellAddr q % 64 = 0 := by unfold doorbellAddr; omega
  rw [devPage, if_neg hfileM, if_neg hfileS, if_pos hpage, hqueue, hoffset]

/-- The checks refuse the doorbell of a queue to the harts of any other partition. -/
theorem deviceChecks_foreignDoorbell {s : State} {hart q : Nat} (priv : Priv) (acc : Access) (len : Nat) (hq : q < 65536)
    (hforeign : partOfHart s hart ≠ some (queueOwner s q)) : deviceChecks s hart priv acc (doorbellAddr q) len = false := by
  unfold deviceChecks
  rw [devPage_doorbellAddr hq]
  cases hpart : partOfHart s hart with
  | none => exact Bool.and_false _
  | some p =>
    have hother : ownsPage s p (.doorbell q 0) = false := beq_eq_false_iff_ne.mpr fun h => hforeign (hpart.trans (congrArg some h.symm))
    simp only [hother, Bool.and_false]

/-- A store in M-mode to the doorbell of a queue of another partition is a store access fault at its address. -/
theorem reach_foreignDoorbell {s : State} {hart q : Nat} {va : Word} (len : Nat) (aligned : Bool) (hq : q < 65536)
    (hpriv : (s.hart hart).accPriv storeAccess = .m) (hforeign : partOfHart s hart ≠ some (queueOwner s q))
    (hva : va.toNat = doorbellAddr q) : reach hart storeAccess va len aligned s = (s, .exc (.trap 7 va)) := by
  have hlow : ¬va.toNat / 2 ^ 52 ≠ 0 := by rw [hva]; unfold doorbellAddr; omega
  have hfault : physChecks s hart .m storeAccess va va.toNat len 0 aligned = .exc (.trap 7 va) := by
    rw [physChecks, hva, if_pos (inDevice_doorbellAddr hq), deviceChecks_foreignDoorbell .m storeAccess len hq hforeign, Bool.and_false]
    rfl
  simp only [reach, hpriv, true_or, if_true, if_neg hlow, hfault]

/-- Settles O31: each of the three commands is one device store of four bytes. -/
theorem doorbellStores : Obligations.DoorbellStores := by
  unfold Obligations.DoorbellStores
  intro h q v va s t hh hq hv hactive hrun
  have hgo : goes s h := ⟨hh, by simp [hartRuns, hactive, hrun]⟩
  have hrange : (decide (h < 264) && decide (q < 65536) && decide (v < 2 ^ 32)) = true := by
    simp only [hh, hq, hv, decide_true, Bool.and_self]
  have hpidx : exec (.pidxWrite h va q v) s = .next (hartDeviceStore h va (doorbellAddr q) 4 (storePidx q v) s) :=
    within_true _ hrange
  have hcidx : exec (.cidxWrite h va q v) s = .next (hartDeviceStore h va (doorbellAddr q + 4) 4 (storeCidx q v) s) :=
    within_true _ hrange
  have harm : exec (.armWrite h va q v) s = .next (hartDeviceStore h va (doorbellAddr q + 8) 4 (storeArm q v) s) :=
    within_true _ hrange
  refine ⟨fun hsb hfence => ⟨?pidx, ?cidx, ?arm⟩, ?faults, ?foreign⟩
  case pidx => exact fun hreach => hpidx.trans (congrArg _ (hartDeviceStore_sent _ hgo hreach hsb hfence))
  case cidx => exact fun hreach => hcidx.trans (congrArg _ (hartDeviceStore_sent _ hgo hreach hsb hfence))
  case arm => exact fun hreach => harm.trans (congrArg _ (hartDeviceStore_sent _ hgo hreach hsb hfence))
  case faults =>
    intro e hreach
    exact ⟨hpidx.trans (congrArg _ (hartDeviceStore_faults _ hgo hreach)),
      hcidx.trans (congrArg _ (hartDeviceStore_faults _ hgo hreach)),
      harm.trans (congrArg _ (hartDeviceStore_faults _ hgo hreach))⟩
  case foreign =>
    intro hpriv hforeign hva
    have haddr : va.toNat = doorbellAddr q := by
      rw [hva, BitVec.toNat_ofNat]
      unfold doorbellAddr
      omega
    exact hpidx.trans (congrArg _ (hartDeviceStore_faults _ hgo (reach_foreignDoorbell _ _ hq hpriv hforeign haddr)))

end Sys2Proof.Machine
end

section
/-! Faults of the fabric (O37): the watchdog, the clear of a domain and the correctable directory error. -/

namespace Sys2Proof.Machine

/-- The state of a domain is one byte. -/
theorem objSize_domainState : ∀ d, d < 16 → objSize nC 0x6810 (d + 1) = 1 := by decide

/-- A domain that was cleared is CLEARED, and no line of the directory and no message of it is left. -/
theorem clearPhase_state {d : Nat} (s : State) (hd : d < 16) : getO (clearPhase d s) nC 0x6810 (d + 1) = 3 := by
  rw [clearPhase, clearDomain, getO_setO_same, objSize_domainState d hd]
  rfl

theorem clearPhase_dir {d : Nat} {s : State} : ∀ e ∈ (clearPhase d s).conc.dir, e.1 / 2 ^ 46 ≠ d :=
  fun _ he => bne_iff_ne.mp (List.mem_filter.mp he).2

theorem clearPhase_msgs {d : Nat} {s : State} : ∀ m ∈ (clearPhase d s).conc.msgs, m.2.dom ≠ d :=
  fun _ hm => bne_iff_ne.mp (List.mem_filter.mp hm).2

/-- The clear of a domain ends the stop that was requested, or leaves the partition down. -/
theorem execDomainClear_down {d : Nat} {s : State} (hd : d < 16) (hclear : clearWaits s d = false)
    (hstate : domState s d = 1 ∨ domState s d = 2) (hnone : tblFind s.parts.stopping d = none) :
    exec (.domainClear d) s = .next (setO nS 0x7040 (d + 1) 5 (clearPhase d s)) := by
  refine (within_true _ (decide_eq_true hd)).trans (congrArg _ ?_)
  simp only [hclear, hstate, hnone, Bool.false_eq_true, if_false, if_true]

theorem execDomainClear_stops {d : Nat} {x : Stopping} {s : State} (hd : d < 16) (hclear : clearWaits s d = false)
    (hstate : domState s d = 1 ∨ domState s d = 2) (hstop : tblFind s.parts.stopping d = some x) :
    exec (.domainClear d) s = .next (endStop d x (clearPhase d s)) := by
  refine (within_true _ (decide_eq_true hd)).trans (congrArg _ ?_)
  simp only [hclear, hstate, hstop, Bool.false_eq_true, if_false, if_true]

/-- The watchdog takes down the domain of the transaction found. -/
theorem execTransactionWatchdog_finds {l k : Nat} {t : Tx} {s : State} (hl : l < 2 ^ 46)
    (hfind : s.conc.tx.find? (fun t => t.1 % 2 ^ 46 == l && decide (t.2.start + t.2.req.limit * 1000 < now s)) = some (k, t)) :
    exec (.transactionWatchdog l) s = .next (domainDown (k / 2 ^ 46) 4 0xFF s) := by
  refine (within_true _ (decide_eq_true hl)).trans (congrArg _ ?_)
  rw [hfind]

/-- A correctable directory error below the limit of its way is counted and recorded. -/
theorem execDirectoryEntryError_correctable {k set way n : Nat} {s t : State} (hk : k < 32) (hset : set < 16384) (hway : way < 16)
    (hactive : s.modes.mode.active = true) (hgood : s.conc.faultyWays.contains (k * 16 + way) = false)
    (hcount : countHit (hitKey 6 (k * 16 + way) 1) (getO s nP 0x8204 2) (addO nC 0x6800 7 1 s) = (t, n))
    (hbelow : classifyOf n (getO s nP 0x8204 1) ≠ 2) :
    exec (.directoryEntryError k set way .correctable) s = .next
      (record { cls := 1, action := 1, kind := 6, unit := k, sub := way * 2 ^ 16 + set,
                classify := classifyOf n (getO s nP 0x8204 1), count := n } t) := by
  have hcl : (classifyOf n (getO s nP 0x8204 1) == 2) = false := beq_eq_false_iff_ne.mpr hbelow
  show within _ _ = _
  simp only [within, hk, hset, hway, hactive, hgood, hcount, hcl, decide_true, Bool.and_self, Bool.not_true, Bool.or_self,
    Bool.false_eq_true, if_false, if_true, onlyIf]

/-- Settles O37. -/
theorem fabricFaults : Obligations.FabricFaults := by
  unfold Obligations.FabricFaults
  refine ⟨fun l k t s hl hfind => execTransactionWatchdog_finds hl hfind, ?clear, ?directory⟩
  case clear =>
    intro d s hd hclear hstate
    exact ⟨execDomainClear_down hd hclear hstate, fun x => execDomainClear_stops hd hclear hstate,
      clearPhase_state s hd, clearPhase_dir, clearPhase_msgs⟩
  case directory =>
    exact fun k set way s t n hk hset hway hactive hgood hcount hbelow =>
      execDirectoryEntryError_correctable hk hset hway hactive hgood hcount hbelow

end Sys2Proof.Machine
end

section
/-! Messages of the fabric (O35, O36): the message taken is the one in front, and each is handled by its own receiver. -/

namespace Sys2Proof.Machine

/-! The message taken (R309). -/

section
variable {p : Msg → Bool} {m : Msg} {n : Nat} {rest : List (Nat × Msg)} {s : State}

/-- The message in front is the oldest of its kind: it is taken where its gallery is not fenced and its module has a width. -/
theorem takeMsg_front (hfront : s.conc.msgs = (n, m) :: rest) (hp : p m = true) (hfence : fenced s m.gallery = false)
    (hwidth : getO s (nGal m.gallery) (0x6010 + n) 1 ≠ 0) :
    takeMsg p s = some (m, { s with conc := { s.conc with msgs := rest } }) := by
  have hfind : s.conc.msgs.find? (fun x => p x.2) = some (n, m) := by rw [hfront]; exact List.find?_cons_of_pos hp
  have hfirst : isFirst s (n, m) = true := by simp [isFirst, hfront]
  have herase : s.conc.msgs.erase (n, m) = rest := by rw [hfront]; exact List.erase_cons_head ..
  simp only [takeMsg, hfind, hfirst, hfence, bne_iff_ne.mpr hwidth, Bool.not_false, Bool.and_self, if_true, herase]

theorem arrive_front {line : Nat} {f : Msg → State → State} (hfront : s.conc.msgs = (n, m) :: rest) (hp : p m = true)
    (hfence : fenced s m.gallery = false) (hwidth : getO s (nGal m.gallery) (0x6010 + n) 1 ≠ 0) :
    arrive line p f s = f m { s with conc := { s.conc with msgs := rest } } := by
  simp only [arrive, takeMsg_front hfront hp hfence hwidth]

/-- A message that no agent has sent takes down the domain that owns its line's address (R323, log entry 102). -/
theorem arrive_unsent {line part : Nat} {f : Msg → State → State} (hempty : s.conc.msgs = []) (hactive : s.modes.mode.active = true)
    (hpart : partOfAddr s (64 * line) = some part) : arrive line p f s = domainDown part 5 0xFF s := by
  have hnone : takeMsg p s = none := by simp [takeMsg, hempty]
  have hstray : strayMessage line s = domainDown part 5 0xFF s := by
    simp only [strayMessage, hpart, fabricRuns, hactive, onlyIf, if_true, badMessage]
  simp only [arrive, hnone, hempty, List.any_nil, Bool.false_eq_true, if_false, hstray]

end

/-! Snoops at an L2 (R310, R311) and their answers at a slice (R314). -/

/-- A snoop that no LR hold keeps is answered by the L2 from its line. -/
theorem takeSnoop_answers {k : SnpKind} {g l d n : Nat} {rest : List (Nat × Msg)} {s t : State} {r : RspKind} {x : LineData}
    (hheld : lrHeld s g l = false) (hfront : s.conc.msgs = (n, .snp k g l d) :: rest) (hfence : fenced s g = false)
    (hwidth : getO s (nGal g) (0x6010 + n) 1 ≠ 0)
    (hanswer : snoopL2 k g d l { s with conc := { s.conc with msgs := rest } } = (t, r, x)) :
    takeSnoop k g l s =
      if r = .d then sendMsg (.snpData g l d x) (sendMsg (.rsp r g l d) t) else sendMsg (.rsp r g l d) t := by
  rw [takeSnoop, hheld, takeMsg_front hfront (by simp) hfence hwidth]
  simp only [Bool.false_eq_true, if_false, hanswer]

/-- Data of a snoop that the slice waits for is taken; data that comes before its RspD is held. -/
theorem meetSnpData_awaited {g l d k : Nat} {x : LineData} {t : Tx} {u : State} (htx : waitingTx u d l = some (k, t))
    (hawait : t.awaitData.getLsbD g = true) : meetSnpData g l d x u = takeSnpData g l d x u := by
  simp only [meetSnpData, htx, hawait, if_true]

theorem meetSnpData_early {g l d k : Nat} {x : LineData} {t : Tx} {u : State} (htx : waitingTx u d l = some (k, t))
    (hawait : t.awaitData.getLsbD g = false) (hsnooped : t.snoops.getLsbD g = true) (hnew : tblFind t.early g = none) :
    meetSnpData g l d x u = setTx (k / 2 ^ 46) (k % 2 ^ 46) { t with early := tblInsert t.early g x } u := by
  simp only [meetSnpData, htx, hawait, hsnooped, hnew, Option.isNone_none, Bool.false_eq_true, if_false, and_self, if_true]

/-- Settles O35: each command takes the message in front. -/
theorem snoopsAndAnswers : Obligations.SnoopsAndAnswers := by
  unfold Obligations.SnoopsAndAnswers
  intro g l d n rest s hok hfence hwidth u
  refine ⟨?snoop, ?answer, ?data, ?writeback⟩
  case snoop =>
    intro k t r x hheld hfront hanswer v w
    have htaken : takeSnoop k g l s = w := takeSnoop_answers hheld hfront hfence hwidth hanswer
    refine ⟨?_, ?_, ?_, ?_⟩
    all_goals
      rintro rfl
      exact (within_true _ hok).trans (congrArg _ htaken)
  case answer =>
    intro r hfront
    exact (within_true _ hok).trans (congrArg _ (arrive_front hfront (by simp) hfence hwidth))
  case data =>
    intro x k t hfront htx
    have htaken : exec (.snpdata g l) s = .next (admitWaiting (meetSnpData g l d x u)) :=
      (within_true _ hok).trans (congrArg _ (arrive_front hfront (by simp) hfence hwidth))
    refine ⟨fun hawait => ?_, fun hawait hsnooped hnew => ?_⟩
    · rw [htaken, meetSnpData_awaited htx hawait]
    · rw [htaken, meetSnpData_early htx hawait hsnooped hnew]
  case writeback =>
    intro x hfront
    exact (within_true _ hok).trans (congrArg _ (arrive_front hfront (by simp) hfence hwidth))

/-! Grants and the ends of transactions (R310, R313, R314). -/

section
variable {g l d : Nat} {u : State}

/-- Data and a completion that grant a state go to the L2 that asked. -/
theorem takeReply_data {x : LineData} {gr : Grant} (hgrant : gr ≠ .none) :
    takeReply (.data (.l2 g) l d x gr) u = takeGrant g l d gr (some x) u := if_neg hgrant

theorem takeReply_cmp {gr : Grant} {zero : Bool} (hgrant : gr ≠ .none) :
    takeReply (.cmp (.l2 g) l d gr zero) u = takeGrant g l d gr (if zero then some {} else none) u := if_neg hgrant

/-- A writeback's acknowledgement frees a line that waits for one. -/
theorem takeWback_waits (hstate : (u.l2 g l).st = .wp) : takeWback g l d u = removeL2 g l u := if_pos hstate

theorem takeWback_unexpected (hstate : (u.l2 g l).st ≠ .wp) : takeWback g l d u = domainDown d 5 0xFF u := if_neg hstate

/-- An acknowledgement closes the transaction that waits for the sender's. -/
theorem takeAck_closes {t : Tx} (htx : u.txAt d l = some t) (hwaits : t.waitAck = true) (hagent : t.req.agent = .l2 g) :
    takeAck g l d u = serveQueue d l queueBound (closeTx d l t u) := by
  simp only [takeAck, htx, hwaits, hagent, and_self, if_true]

theorem takeAck_unexpected (htx : u.txAt d l = none) : takeAck g l d u = domainDown d 5 0xFF u := by
  simp only [takeAck, htx, badMessage]

end

/-- Settles O36. -/
theorem grantsAndEnds : Obligations.GrantsAndEnds := by
  unfold Obligations.GrantsAndEnds
  refine ⟨?taken, ?unsent⟩
  case taken =>
    intro g l d n rest s hok hfence hwidth u bad
    refine ⟨?data, ?completion, ?wback, ?ack, within_true _ hok⟩
    case data =>
      intro x gr hgrant hfront
      have htaken : exec (.data (.l2 g) l) s = .next (admitWaiting (takeReply (.data (.l2 g) l d x gr) u)) :=
        (within_true _ hok).trans (congrArg _ (arrive_front hfront (by simp) hfence hwidth))
      rw [htaken, takeReply_data hgrant]
    case completion =>
      intro gr zero hgrant hfront
      have htaken : exec (.cmp (.l2 g) l) s = .next (admitWaiting (takeReply (.cmp (.l2 g) l d gr zero) u)) :=
        (within_true _ hok).trans (congrArg _ (arrive_front hfront (by simp) hfence hwidth))
      rw [htaken, takeReply_cmp hgrant]
    case wback =>
      intro hfront
      have htaken : exec (.wback g l) s = .next (admitWaiting (takeWback g l d u)) :=
        (within_true _ hok).trans (congrArg _ (arrive_front (m := .wbAck g l d) hfront (by simp) hfence hwidth))
      refine ⟨fun hstate => ?_, fun hstate => ?_⟩
      · rw [htaken, takeWback_waits (u := u) hstate]
      · rw [htaken, takeWback_unexpected (u := u) hstate]
    case ack =>
      intro hfront
      have htaken : exec (.ack g l) s = .next (admitWaiting (takeAck g l d u)) :=
        (within_true _ hok).trans (congrArg _ (arrive_front (m := .ack g l d) hfront (by simp) hfence hwidth))
      refine ⟨fun t htx hwaits hagent => ?_, fun htx => ?_⟩
      · rw [htaken, takeAck_closes htx hwaits hagent]
      · rw [htaken, takeAck_unexpected htx]
  case unsent =>
    intro g l p s hok hempty hactive hpart
    exact ⟨(within_true _ hok).trans (congrArg _ (arrive_unsent hempty hactive hpart)),
      (within_true _ hok).trans (congrArg _ (arrive_unsent hempty hactive hpart)),
      (within_true _ hok).trans (congrArg _ (arrive_unsent hempty hactive hpart)),
      (within_true _ hok).trans (congrArg _ (arrive_unsent hempty hactive hpart))⟩

end Sys2Proof.Machine
end

section
/-! Requests of the fabric (O34): what an L2 and an I/O agent send once the requests that wait have been tried. -/

namespace Sys2Proof.Machine

section
variable {g d l : Nat} {s t : State}

/-- An L2 whose domain may ask does what its command does, from the state that trying the waiting requests leaves. -/
theorem askL2_asks (f : State → State) (htried : admitWaiting s = t) (hactive : t.modes.mode.active = true) (hup : domState t d = 0)
    (hgallery : ownsOnGallery t d g = true) (hline : lineOwned t d l = true) (hopen : agentOpen t (.l2 g) d l = false) :
    askL2 g d l f s = f t := by
  subst htried
  simp only [askL2, fabricRuns, hactive, hup, hgallery, hline, hopen, beq_self_eq_true, Bool.not_false, Bool.and_self, if_true]

/-! An L2's request for a line it lacks (R258, R259). -/

section
variable {c : Option Nat} {r : Req}

/-- A line for which no miss is pending misses. -/
theorem l2Ask_new (hsend : maySend t g l = true) (hnew : tblFind t.caches.misses (l2Key g l) = none) :
    l2Ask g l c r t = missLine g l c r t := by
  simp only [l2Ask, hsend, hnew, Bool.not_true, Bool.false_eq_true, if_false]

/-- A pending miss waits while its victim's acknowledgement is due. -/
theorem l2Ask_waits {m : Miss} (hsend : maySend t g l = true) (hmiss : tblFind t.caches.misses (l2Key g l) = some m)
    (hdue : (t.l2 g m.victim).st = .wp) : l2Ask g l c r t = t := by
  simp only [l2Ask, hsend, hmiss, hdue, Bool.not_true, Bool.false_eq_true, if_false, if_true]

/-- A pending miss then fills its way, where that is still normal and empty. -/
theorem l2Ask_fills {m : Miss} (hsend : maySend t g l = true) (hmiss : tblFind t.caches.misses (l2Key g l) = some m)
    (hdone : (t.l2 g m.victim).st ≠ .wp) (hnormal : wayState t g m.way = 0) (hempty : slotLine t g m.way (l % 16384) = none) :
    l2Ask g l c r t = startFill g l m.way r t := by
  simp only [l2Ask, hsend, hmiss, hdone, hnormal, hempty, Option.isNone_none, Bool.not_true, Bool.false_eq_true, if_false, and_self,
    if_true]

end

/-- A CMO goes out for a line with nothing pending. -/
theorem sendCmo_sends (k : ReqKind) (hask : ∀ f, askL2 g d l f s = f t) (hidle : (t.l2 g l).pendingSt = false)
    (hmay : mayAsk t g l = true) : sendCmo k g d l s = sendReq l { kind := k, agent := .l2 g, dom := d } t := by
  simp only [sendCmo, hask, hidle, hmay, Bool.not_true, Bool.or_self, Bool.false_eq_true, if_false]

/-- An I/O agent of the domain sends its request. -/
theorem askAgent_asks {r : Req} (htried : admitWaiting s = t) (hactive : t.modes.mode.active = true) (hup : domState t r.dom = 0)
    (hagent : agentOf t r.dom r.agent = true) (hline : lineOwned t r.dom l = true) (hopen : agentOpen t r.agent r.dom l = false)
    (hmay : mayAsk t (agentGallery r.agent) l = true) : askAgent l r s = sendReq l r t := by
  subst htried
  simp only [askAgent, fabricRuns, hactive, hup, hagent, hline, hopen, hmay, beq_self_eq_true, Bool.not_false, Bool.and_self, if_true]

end

/-- Settles O34: each command is the request of its sender. -/
theorem fabricRequests : Obligations.FabricRequests := by
  unfold Obligations.FabricRequests
  refine ⟨?l2, ?agent⟩
  case l2 =>
    intro g d l c v s t hok htried hactive hup hgallery hline hopen
    have hask (f : State → State) : askL2 g d l f s = f t := askL2_asks f htried hactive hup hgallery hline hopen
    have hrds (hi : (t.l2 g l).st = .i) :
        exec (.rds g d l c v) s = .next (l2Ask g l c { kind := .rdS, agent := .l2 g, dom := d, victim := v } t) :=
      (within_true _ hok).trans (congrArg _ ((hask _).trans (if_pos hi)))
    refine ⟨?miss, ?pending, ?shared, ?maintenance⟩
    case miss =>
      intro hi hsend hnew
      refine ⟨(hrds hi).trans (congrArg _ (l2Ask_new hsend hnew)), ?_, ?_⟩
      · exact (within_true _ hok).trans (congrArg _ ((hask _).trans ((if_pos hi).trans (l2Ask_new hsend hnew))))
      · exact (within_true _ hok).trans (congrArg _ ((hask _).trans ((if_pos hi).trans (l2Ask_new hsend hnew))))
    case pending =>
      intro m hi hsend hmiss
      exact ⟨fun hdue => (hrds hi).trans (congrArg _ (l2Ask_waits hsend hmiss hdue)),
        fun hdone hnormal hempty => (hrds hi).trans (congrArg _ (l2Ask_fills hsend hmiss hdone hnormal hempty))⟩
    case shared =>
      intro hs hdom hsend
      have hnot : (t.l2 g l).st ≠ .i := by rw [hs]; decide
      exact ⟨(within_true _ hok).trans (congrArg _ (hask _)),
        (within_true _ hok).trans (congrArg _ ((hask _).trans (if_neg hnot)))⟩
    case maintenance =>
      intro hidle hmay
      exact ⟨(within_true _ hok).trans (congrArg _ (sendCmo_sends _ hask hidle hmay)),
        (within_true _ hok).trans (congrArg _ (sendCmo_sends _ hask hidle hmay)),
        (within_true _ hok).trans (congrArg _ (sendCmo_sends _ hask hidle hmay))⟩
  case agent =>
    intro a d l x k w s t ha hd hl htried hactive hup hagent hline hopen hmay
    have hrange : (agentOk a && decide (d < 16) && decide (l < 2 ^ 46)) = true := by
      simp only [ha, hd, hl, decide_true, Bool.and_self]
    exact ⟨(within_true _ hrange).trans (congrArg _ (askAgent_asks htried hactive hup hagent hline hopen hmay)),
      (within_true _ hrange).trans (congrArg _ (askAgent_asks htried hactive hup hagent hline hopen hmay))⟩

end Sys2Proof.Machine
end

section
/-! Interrupt-file stores, posts and Dray (O32): a post, an event condition, and one turn of a load. -/

namespace Sys2Proof.Machine

/-! Posts and event conditions (R340, R356). -/

/-- An entry that fits is posted to a valid target. -/
theorem execQueuePost_posts {q p : Nat} {e : List Byte} {s : State} (hq : q < 65536) (hp : p < 16)
    (hactive : s.modes.mode.active = true) (hvalid : validTarget s q p = true) (hfits : e.length ≤ qRoom s q) :
    exec (.queuePost q p e) s = .next (post q p e s) := by
  refine within_of_guard (by simp only [hq, hp, decide_true, Bool.and_self]) ?_
  simp only [hactive, hvalid, hfits, decide_true, Bool.and_self]

/-- The event condition of an enabled queue is evaluated after the access to it. -/
theorem execQueueEventDelay_evaluates {q : Nat} {f g : ArrayFinding} {s : State} (hq : q < 65536)
    (hactive : s.modes.mode.active = true) (henabled : qEnabled s q = true) :
    exec (.queueEventDelay q f g) s = .next (queueEval q (queueAccess q f g s)) := by
  refine (within_of_guard (decide_eq_true hq) hactive).trans ?_
  rw [onlyIf, if_pos henabled]

/-! One turn of a load (R345, R350). -/

/-- A queue that has a load to take is a running queue of loads whose record does not wait. -/
theorem hasLoad_queue {s : State} {q : Nat} (hload : hasLoad s q = true) :
    qRunning s q = true ∧ (qKind s q == 1) = true ∧ recordWaits s q = false := by
  simp only [hasLoad, Bool.and_eq_true, Bool.not_eq_true'] at hload
  obtain ⟨⟨⟨⟨hruns, hkind⟩, -⟩, hrecord⟩, -⟩ := hload
  exact ⟨hruns, hkind, hrecord⟩

section
variable {q : Nat} {s : State}

/-- A load command whose queue has the turn begins its load or goes on with the one in progress. -/
theorem drayTake_new (own : Nat) (hactive : s.modes.mode.active = true) (hload : hasLoad s q = true) (hturn : isTurn s q = true)
    (hnone : (s.queue q).load = none) : drayTake own q s = takeLoad own q s := by
  obtain ⟨hruns, hkind, hrecord⟩ := hasLoad_queue hload
  simp only [drayTake, hactive, hruns, hkind, hrecord, hload, hturn, hnone, Bool.and_self, Bool.not_true, Bool.false_eq_true, if_false]

theorem drayTake_going {own : Nat} {g : Going} (hactive : s.modes.mode.active = true) (hload : hasLoad s q = true)
    (hturn : isTurn s q = true) (hgoing : (s.queue q).load = some g) (hop : g.op = own) :
    drayTake own q s = goOnLoad q g (nowServed q s) := by
  obtain ⟨hruns, hkind, hrecord⟩ := hasLoad_queue hload
  simp only [drayTake, hactive, hruns, hkind, hrecord, hload, hturn, hgoing, hop, Bool.and_self, Bool.not_true, Bool.false_eq_true,
    if_false, onlyIf, decide_true, if_true]

/-- A descriptor of the command's own operation that is well formed, and whose ranges are the partition's, starts its load. -/
theorem takeLoad_starts {own : Nat} {b : List Byte} {l : Load} {t : State}
    (hread : ioRead (slotAddr s q (qC s q)) 64 s = (t, b, [])) (hparse : parseLoad b = some l)
    (hranges : ((l.reads ++ l.writes).all fun r => ioRangeOk t (queueOwner s q) r.1 r.2) = true) (hop : leAt b 0 1 = own) :
    takeLoad own q s = startLoad q (leAt b 0 1) l (leAt b 4 4) (leAt b 1 1 % 2 == 1) (nowServed q t) := by
  have hown : ¬(leAt b 0 1 ≠ own ∧ 1 ≤ leAt b 0 1 ∧ leAt b 0 1 ≤ 3) := fun h => h.1 hop
  simp only [takeLoad, hread, hparse, hranges, hown, ne_eq, not_true_eq_false, Bool.not_true, Bool.false_eq_true, if_false]

end

/-- A turn moves at most 4 KiB, something where the row is not at its end, and nothing beyond it. -/
theorem turnLen_bounds (l : Load) (r off : Nat) :
    turnLen l r off ≤ 4096 ∧ (off < l.row → 0 < turnLen l r off ∧ off + turnLen l r off ≤ l.row) := by
  unfold turnLen
  omega

section
variable {q : Nat} {g h : Going} {s t : State}

/-- A turn keeps what the load is. -/
theorem turn_keeps (hturn : turn q g s = (t, h)) : h.load = g.load ∧ h.tag = g.tag ∧ h.cmpl = g.cmpl := by
  obtain rfl := congrArg Prod.snd hturn
  unfold turn
  dsimp only
  split <;> exact ⟨rfl, rfl, rfl⟩

/-- A turn that reaches the end of its row goes to the next; one that does not goes on in it. -/
theorem turn_endsRow (hturn : turn q g s = (t, h)) (hend : g.off + turnLen g.load g.r g.off = g.load.row) :
    h.r = g.r + 1 ∧ h.off = 0 := by
  obtain rfl := congrArg Prod.snd hturn
  unfold turn
  dsimp only
  rw [if_pos hend]
  exact ⟨rfl, rfl⟩

theorem turn_inRow (hturn : turn q g s = (t, h)) (hend : g.off + turnLen g.load g.r g.off ≠ g.load.row) :
    h.r = g.r ∧ h.off = g.off + turnLen g.load g.r g.off := by
  obtain rfl := congrArg Prod.snd hturn
  unfold turn
  dsimp only
  rw [if_neg hend]
  exact ⟨rfl, rfl⟩

/-- After its turn a load ends, where its last row is done, or stays in progress. -/
theorem goOnLoad_of_turn (hturn : turn q g s = (t, h)) :
    goOnLoad q g s = if h.r = g.load.rows then endLoad q (if h.lost then 4 else if h.poisoned then 1 else 0) g.tag
        (g.load.rows * g.load.row) g.cmpl t
      else setQueue q { t.queue q with load := some h } t := by
  obtain ⟨hload, htag, hcmpl⟩ := turn_keeps hturn
  simp only [goOnLoad, hturn, loadStatus, hload, htag, hcmpl]

end

/-- Settles O32: each command's effect, then the turn of a load. -/
theorem postsAndLoads : Obligations.PostsAndLoads := by
  unfold Obligations.PostsAndLoads
  refine ⟨⟨?file, ?posts, ?event⟩, ?loads, turnLen_bounds, ?turns⟩
  case file =>
    intro h g v m va s t hh hg hv hactive hrun hreach hsb hfence
    have hgo : goes s h := ⟨hh, by simp [hartRuns, hactive, hrun]⟩
    exact (within_true _ (by simp only [hh, hg, hv, decide_true, Bool.and_self])).trans
      (congrArg _ (hartDeviceStore_sent _ hgo hreach hsb hfence))
  case posts => exact fun q p e s hq hp hactive hvalid hfits => execQueuePost_posts hq hp hactive hvalid hfits
  case event => exact fun q f g s hq hactive henabled => execQueueEventDelay_evaluates hq hactive henabled
  case loads =>
    intro q s hq hactive hload hturn
    have hrange := decide_eq_true hq
    refine ⟨?new, ?going⟩
    case new =>
      intro b l t hnone hread hparse hranges u
      have hstarts (own : Nat) (hop : leAt b 0 1 = own) : drayTake own q s = u :=
        (drayTake_new own hactive hload hturn hnone).trans (takeLoad_starts hread hparse hranges hop)
      exact ⟨fun hop => (within_true _ hrange).trans (congrArg _ (hstarts 1 hop)),
        fun hop => (within_true _ hrange).trans (congrArg _ (hstarts 2 hop)),
        fun hop => (within_true _ hrange).trans (congrArg _ (hstarts 3 hop))⟩
    case going =>
      intro g hgoing
      exact ⟨fun hop => (within_true _ hrange).trans (congrArg _ (drayTake_going hactive hload hturn hgoing hop)),
        fun hop => (within_true _ hrange).trans (congrArg _ (drayTake_going hactive hload hturn hgoing hop)),
        fun hop => (within_true _ hrange).trans (congrArg _ (drayTake_going hactive hload hturn hgoing hop))⟩
  case turns =>
    exact fun q g s t h hturn => ⟨turn_endsRow hturn, turn_inRow hturn, goOnLoad_of_turn hturn⟩

end Sys2Proof.Machine
end

section
/-! Writes of the queues', sources' and channels' objects (O33): what each rule makes of the state its request reaches. -/

namespace Sys2Proof.Machine

/-- The arrival of a request changes no object and nothing of the Archive. -/
theorem arrived_getO (who : Requester) (node ix sub value : Nat) (s : State) (n i x : Nat) :
    getO (arrived who node ix sub value s) n i x = getO s n i x := getO_congr (arrived_obj ..) ..

@[simp] theorem arrived_arch (who : Requester) (node ix sub value : Nat) (s : State) :
    (arrived who node ix sub value s).arch = s.arch := appear_arch s who

/-! The rules (R342, R343, R353, R384). -/

section
variable {q e c p : Nat} {s : State}

/-- A queue that was not enabled and may be is enabled from its reset. -/
theorem ruleQueueEnable_enables (hnew : getO s (nQueue q) 0xB100 1 ≠ 1) (hmay : queueMayEnable s q = true) :
    ruleQueueEnable q 1 s = answered (queueReset q (setO (nQueue q) 0xB100 1 1 s)) := by
  simp only [ruleQueueEnable, if_true, if_neg hnew, hmay]

/-- A source of a partition goes to one of its harts with an identity that exists. -/
theorem ruleSourceEnable_enables (howner : sourceOwner s e = p) (hpart : p ≠ 0xFF) (hhart : getO s (nSource e) 0xB200 3 < 264)
    (howned : partOfHart s (getO s (nSource e) 0xB200 3) = some p) (hlow : 1 ≤ getO s (nSource e) 0xB200 5)
    (hhigh : getO s (nSource e) 0xB200 5 ≤ 1023) : ruleSourceEnable e 1 s = answered (setO (nSource e) 0xB200 1 1 s) := by
  subst howner
  simp only [ruleSourceEnable, if_true]
  exact if_pos ⟨hpart, hhart, howned, hlow, hhigh⟩

/-- An enabled channel is reset. -/
theorem ruleChannelReset_resets (hon : getO s nP (0xA200 + c) 1 = 1) :
    ruleChannelReset c s = actionDone (settle (chanReset c s)) := by
  simp only [ruleChannelReset, onlyIf, hon, beq_self_eq_true, if_true]

/-- The state that the enable of a channel commits. -/
def channelEnabled (c : Nat) (s : State) : State :=
  runAll [setO nP (0xA200 + c) 1 1, setO nP (0xA200 + c) 7 1, setO nP (0xA200 + c) 4 (((s.chan c).trueD + 1) % 2 ^ 32),
    setChan c { s.chan c with opened := [], taken := [], lost := [] }] s

theorem ruleChannelEnable_enables (hnew : getO s nP (0xA200 + c) 1 ≠ 1) (hmay : channelMayEnable s c = true) :
    ruleChannelEnable c 1 s = answered (channelEnabled c s) := by
  simp only [ruleChannelEnable, if_true, if_neg hnew, hmay, channelEnabled]

/-- A channel enabled has nothing open and nothing taken, and keeps its D. -/
theorem channelEnabled_chan : (channelEnabled c s).chan c = { s.chan c with opened := [], taken := [], lost := [] } := by
  simp only [channelEnabled, runAll, setChan_chan]

end

/-- Settles O33: each command is one served write. -/
theorem queueWrites : Obligations.QueueWrites := by
  unfold Obligations.QueueWrites
  refine ⟨?enable, ?disable, ?reset, ?source, ?channel⟩
  case enable =>
    intro who q s hq hreaches hnew hmay
    exact (within_true _ (decide_eq_true hq)).trans (congrArg _ (served_eq_written hreaches (by decide)
      (ruleQueueEnable_enables (by rwa [arrived_getO]) hmay)))
  case disable =>
    intro who q s hq hreaches
    exact (within_true _ (decide_eq_true hq)).trans (congrArg _ (served_eq_written hreaches (by decide) rfl))
  case reset =>
    intro who q s hq hreaches henabled
    refine (within_true _ (decide_eq_true hq)).trans (congrArg _ (served_eq_ended hreaches ?_))
    rw [ruleQueueReset, onlyIf, if_pos henabled]
  case source =>
    intro who e p s he hreaches howner hpart hhart howned hlow hhigh
    refine (within_true _ (decide_eq_true he)).trans (congrArg _ (served_eq_written hreaches (by decide) ?_))
    rw [← arrived_getO who (nSource e) 0xB200 1 1 s] at hhart howned hlow hhigh
    exact ruleSourceEnable_enables howner hpart hhart howned hlow hhigh
  case channel =>
    intro who c s hc
    refine ⟨fun hreaches hon => ?_, fun hreaches hnew hmay => ?_⟩
    · exact (within_true _ (decide_eq_true hc)).trans (congrArg _ (served_eq_ended hreaches
        (ruleChannelReset_resets (by rwa [arrived_getO]))))
    · have hrule := ruleChannelEnable_enables (by rwa [arrived_getO]) hmay
      refine ⟨_, (within_true _ (decide_eq_true hc)).trans (congrArg _ (served_eq_written hreaches (by decide) hrule)), ?_⟩
      rw [channelEnabled_chan]
      exact ⟨rfl, rfl, congrArg (fun a => (tblGet {} a.chan c).trueD) (arrived_arch ..)⟩

end Sys2Proof.Machine
end

section
/-! The Archive (O29, O30): its packets, grants and objects, and the medium side. -/

namespace Sys2Proof.Machine

/-! Packets and grants (R364-R376). -/

/-- A packet command takes the oldest packet of its served channel, where the operation code is its own. -/
theorem archiveTake_takes {own c : Nat} {l k : List Nat} {s t : State} {b : List Byte} (hserved : channelServed s c = true)
    (hheld : (s.chan c).taken.length < qHeld s (getO s nP (0xA200 + c) 2))
    (hmapped : mappedRange s
      (slotAddr s (getO s nP (0xA200 + c) 2) (qC s (getO s nP (0xA200 + c) 2) + (s.chan c).taken.length)) 64 = true)
    (hread : ioRead (slotAddr s (getO s nP (0xA200 + c) 2) (qC s (getO s nP (0xA200 + c) 2) + (s.chan c).taken.length)) 64 s =
      (t, b, []))
    (hok : packetOk b = true) (hop : leAt b 0 1 = own) :
    archiveTake own c l k s =
      settle (if own = 5 then takeData c b t else if own = 6 then takeQuery c b t else takeCommand c b l k t) := by
  simp only [archiveTake, hserved, hmapped, hread, hok, hop, decide_eq_false (Nat.not_le.mpr hheld), Bool.not_true, Bool.or_self,
    Bool.false_eq_true, if_false, ne_eq, not_true_eq_false, false_and]

/-- The next grant of the die that the channel's first command waits for is recorded and sent, where it fits. -/
theorem execTransferReady_grants {c : Nat} {h m : Cmd} {s : State} (hc : c < 64) (hhead : (s.chan c).head = some h)
    (hnext : nextGrant s (nsDie s h.ns) = some (c, m)) (hactive : s.modes.mode.active = true) (hop : m.op = 1)
    (hfits : grantFits s (nsDie s h.ns) m = true) :
    exec (.transferReady c) s = .next (settle (pushRecord c 0 (grantRecord c m (now s)) (giveGrant c m s))) := by
  refine (within_true _ (decide_eq_true hc)).trans (congrArg _ ?_)
  simp only [hhead, hnext, hactive, hop, hfits, beq_self_eq_true, Bool.and_self, if_true]

/-- A command whose oldest grant has had no data in time fails. -/
theorem execGrantTimeout_fails {c q k t : Nat} {rest : List (Nat × Nat)} {m : Cmd} {s : State} (hc : c < 64) (hq : q < 2 ^ 32)
    (hfind : (s.chan c).find q = some m) (hop : m.op = 1) (hgrants : m.grants = (k, t) :: rest) (hactive : s.modes.mode.active = true)
    (hlate : t + getO s nP (0xA200 + c) 0x0A * 1000 ≤ now s) :
    exec (.grantTimeout c q) s = .next (settle (endCmd c { m with grants := [] } 8 (m.lba + m.entered) s)) := by
  refine (within_true _ (by simp only [hc, hq, decide_true, Bool.and_self])).trans (congrArg _ ?_)
  simp only [hfind, hop, hgrants, hactive, hlate, decide_true, Bool.and_self, if_true]

/-- A namespace with no command open is disabled. -/
theorem ruleNsEnable_disables {n : Nat} {s : State} (hidle : nsOpen s n = false) :
    ruleNsEnable n 0 s = answered (fittedWrite (setO nP (0xA100 + n) 1 0 s)) := by
  simp only [ruleNsEnable, hidle, zero_ne_one, Bool.false_eq_true, and_false, if_false]

/-- In SERVICE the retirements of dies and frames are cleared. -/
theorem ruleClearArchive_clears {s : State} (hmode : s.modes.mode = .service) :
    ruleClearArchive s = actionDone { s with arch := { s.arch with retiredDies := [], retiredFrames := [] } } :=
  if_neg (not_not_intro hmode)

/-- Settles O29. -/
theorem archiveCommands : Obligations.ArchiveCommands := by
  unfold Obligations.ArchiveCommands
  refine ⟨?packets, ?grant, ?late, ?objects⟩
  case packets =>
    intro c l k s t b hc hserved q a hheld hmapped hread hok
    have htakes (own : Nat) (l k : List Nat) (hop : leAt b 0 1 = own) :=
      archiveTake_takes (l := l) (k := k) hserved hheld hmapped hread hok hop
    have hcommand (own : Nat) (l k : List Nat) (hdata : own ≠ 5) (hquery : own ≠ 6) (hop : leAt b 0 1 = own) :
        archiveTake own c l k s = settle (takeCommand c b l k t) := by
      rw [htakes own l k hop, if_neg hdata, if_neg hquery]
    have hdata (hop : leAt b 0 1 = 5) : archiveTake 5 c [] [] s = settle (takeData c b t) := by
      rw [htakes 5 [] [] hop, if_pos rfl]
    have hquery (hop : leAt b 0 1 = 6) : archiveTake 6 c [] [] s = settle (takeQuery c b t) := by
      rw [htakes 6 [] [] hop, if_neg (by decide), if_pos rfl]
    have hrange := decide_eq_true hc
    exact ⟨fun hop => (within_true _ hrange).trans (congrArg _ (hcommand 1 [] [] (by decide) (by decide) hop)),
      fun hop => (within_true _ hrange).trans (congrArg _ (hcommand 2 l k (by decide) (by decide) hop)),
      fun hop => (within_true _ hrange).trans (congrArg _ (hcommand 3 [] [] (by decide) (by decide) hop)),
      fun hop => (within_true _ hrange).trans (congrArg _ (hcommand 4 [] [] (by decide) (by decide) hop)),
      fun hop => (within_true _ hrange).trans (congrArg _ (hdata hop)),
      fun hop => (within_true _ hrange).trans (congrArg _ (hquery hop))⟩
  case grant => exact fun c h m s hc hhead hnext hactive hop hfits => execTransferReady_grants hc hhead hnext hactive hop hfits
  case late =>
    exact fun c q k t rest m s hc hq hfind hop hgrants hactive hlate => execGrantTimeout_fails hc hq hfind hop hgrants hactive hlate
  case objects =>
    intro who s
    refine ⟨?namespaces, ?retirements⟩
    case namespaces =>
      intro n hn hreaches hidle
      exact (within_true _ (decide_eq_true hn)).trans
        (congrArg _ (served_eq_written hreaches (by decide) (ruleNsEnable_disables hidle)))
    case retirements =>
      intro hreaches hmode
      have hrule := ruleClearArchive_clears (s := arrived who nP 0x8205 7 1 s) (by rwa [arrived_modes])
      rw [arrived_arch] at hrule
      exact congrArg _ (served_eq_ended hreaches hrule)

/-! The medium side (R361-R387). -/

section
variable {d u : Nat} {s : State}

/-- A unit whose oldest write has reached the age limit is drained. -/
theorem execDrainAgeExpiry_drains {t : Nat} (hd : d < 4) (hu : u < 16384) (hold : (s.frame (unitKey d u)).oldest = some t)
    (hactive : s.modes.mode.active = true) (hage : t + getO s nP 0xA000 7 * 1000 ≤ now s) :
    exec (.drainAgeExpiry d u) s = .next (startDrain (unitKey d u) s) := by
  refine (within_true _ (by simp only [hd, hu, decide_true, Bool.and_self])).trans (congrArg _ ?_)
  simp only [hold, hactive, hage, decide_true, Bool.and_self, if_true]

/-- Programming ends in the commit of D. -/
theorem execUnitProgramComplete_commits (a b : BitVec 32) (hd : d < 4) (hu : u < 16384)
    (hbusy : (s.frame (unitKey d u)).programming = true) (hup : dieUp s d = true) (hon : s.modes.mode.on = true)
    (hkeep : s.modes.mode ≠ .keep) :
    exec (.unitProgramComplete d u a b) s =
      .next (commitAll (settle (programUnit (unitKey d u) (readFrame (unitKey d u) a b s)))) := by
  refine within_of_guard (by simp only [hd, hu, decide_true, Bool.and_self]) ?_
  simp only [hbusy, hup, hon, bne_iff_ne.mpr hkeep, Bool.and_self]

/-- What a package that is on and not in KEEP serves. -/
theorem on_and_not_keep (hon : s.modes.mode.on = true) (hkeep : s.modes.mode ≠ .keep) :
    (s.modes.mode.on && s.modes.mode != .keep) = true := by simp only [hon, bne_iff_ne.mpr hkeep, Bool.and_self]

/-- The scan of a unit in which no sector is bad only goes on to the next unit. -/
theorem execMediumScan_clean (hd : d < 4) (hactive : s.modes.mode.active = true) (hup : dieUp s d = true)
    (hidle : (s.arch.frame.any fun e => e.1 / 2 ^ 14 == d && e.2.programming) = false)
    (hgood : ∀ i, i < 32 → (tblGet {} s.arch.medium (unitKey d (tblGet 0 s.arch.scanPos d) * 32 + i)).bad = false) :
    exec (.mediumScan d 0 0 0) s = .next (settle (scanAdvance d s)) := by
  have hbad : ((List.range 32).filter fun i => (0 : BitVec 32).getLsbD i ||
      (tblGet {} s.arch.medium (unitKey d (tblGet 0 s.arch.scanPos d) * 32 + i)).bad) = [] :=
    List.filter_eq_nil_iff.mpr fun i hi => by
      have hzero : (0 : BitVec 32).getLsbD i = false := BitVec.getLsbD_zero
      simp only [hgood i (List.mem_range.mp hi), hzero, Bool.or_self, Bool.false_eq_true, not_false_eq_true]
  have hfixed : ((List.range 32).filter fun i => ((0 : BitVec 32) ||| 0).getLsbD i && !([] : List Nat).contains i) = [] :=
    List.filter_eq_nil_iff.mpr fun i _ => by
      have hzero : ((0 : BitVec 32) ||| 0).getLsbD i = false := BitVec.getLsbD_zero
      simp only [hzero, Bool.false_and, Bool.false_eq_true, not_false_eq_true]
  refine (within_of_guard (decide_eq_true hd) ?_).trans (congrArg _ ?_)
  · simp only [hactive, hup, hidle, Bool.not_false, Bool.and_self]
  · simp only [hbad, hfixed, forAll, List.foldl_nil, List.any_nil, onlyIf, Bool.false_eq_true, if_false]

section
variable (hd : d < 4) (hon : s.modes.mode.on = true) (hkeep : s.modes.mode ≠ .keep) (hlost : getO s nP (0xA010 + d) 1 = 2)
  (hdue : tblGet 0 s.arch.lostAt (10 + d) + 100000000 ≤ now s)
include hd hon hkeep hlost hdue

/-- A die that was lost is trained again once its time has come: an attempt that fails is kept with its time only. -/
theorem execArchiveDieRetrain_fails : exec (.archiveDieRetrain d none) s =
    .next { s with arch := { s.arch with lostAt := tblSet 0 s.arch.lostAt (10 + d) (now s) } } := by
  refine within_of_guard (decide_eq_true hd) ?_
  simp only [hon, bne_iff_ne.mpr hkeep, hlost, hdue, decide_true, beq_self_eq_true, Bool.and_self]

/-- One that succeeds settles the training, where the die's history allows it. -/
theorem execArchiveDieRetrain_trains (l : BitVec 16) {t : State}
    (ht : { s with arch := { s.arch with lostAt := tblSet 0 s.arch.lostAt (10 + d) (now s) } } = t) :
    exec (.archiveDieRetrain d (some l)) s = .next
      (if neverTrained t (24 + d) 0 = true then
        settleTraining (24 + d) (initialTraining (24 + d) true (fun _ => l.toNat) t)
      else if sameHistory t (24 + d) 0 = true then settleTraining (24 + d)
        (setEpoch (24 + d) 0 (nextEpoch (getMod t (24 + d) 0 3)) true (trainModule (24 + d) true 0 l.toNat t))
      else mismatch (24 + d) t) := by
  subst ht
  refine within_of_guard (decide_eq_true hd) ?_
  simp only [hon, bne_iff_ne.mpr hkeep, hlost, hdue, decide_true, beq_self_eq_true, Bool.and_self]

end

/-- The frames of a die that has been lost for a second are discarded. -/
theorem execArchiveDieLossTimeout_discards (hd : d < 4) (hlost : getO s nP (0xA010 + d) 1 = 2)
    (hdue : tblGet 0 s.arch.lostAt d + 1000000000 ≤ now s) :
    exec (.archiveDieLossTimeout d) s = .next (settle (discardFrames d s)) := by
  refine within_of_guard (decide_eq_true hd) ?_
  simp only [hlost, hdue, decide_true, beq_self_eq_true, Bool.and_self]

end

/-- Settles O30. -/
theorem archiveMediumAndObjects : Obligations.ArchiveMediumAndObjects := by
  unfold Obligations.ArchiveMediumAndObjects
  refine ⟨?drain, ?program, ?durable, ?scan, ?loss, ?retrain, ?discard⟩
  case drain => exact fun d u t s hd hu hold hactive hage => execDrainAgeExpiry_drains hd hu hold hactive hage
  case program => exact fun d u a b s hd hu hbusy hup hon hkeep => execUnitProgramComplete_commits a b hd hu hbusy hup hon hkeep
  case durable => exact fun c s hc hon hkeep => within_of_guard (decide_eq_true hc) (on_and_not_keep hon hkeep)
  case scan => exact fun d s hd hactive hup hidle hgood => execMediumScan_clean hd hactive hup hidle hgood
  case loss => exact fun d s hd hon hkeep => within_of_guard (decide_eq_true hd) (on_and_not_keep hon hkeep)
  case retrain =>
    intro d l s hd hon hkeep hlost hdue t
    exact ⟨execArchiveDieRetrain_fails hd hon hkeep hlost hdue, execArchiveDieRetrain_trains hd hon hkeep hlost hdue l rfl⟩
  case discard => exact fun d s hd hlost hdue => execArchiveDieLossTimeout_discards hd hlost hdue

end Sys2Proof.Machine
end

section
/-! Catalogue requests (O38): which are served, wait, are discarded or refused, and what the CAN FD port does. -/

namespace Sys2Proof.Machine

/-! The outstanding request (R397, R398). -/

section
variable {who : Requester} {op : CatOp} {r : CatReq} {s : State}

/-- A request that is not received changes nothing; the repetition of the one last answered only arrives. -/
theorem request_unreceived (h : received s who = false) : request who op r s = s := by
  simp only [request, requestUnit, h, Bool.not_false, if_true]

theorem request_repeated (h : received s who = true) (hrepeats : repeats s who op r = true) : request who op r s = appear who s := by
  simp only [request, requestUnit, h, hrepeats, Bool.not_true, Bool.false_eq_true, if_false, if_true]

/-- Any other is admitted. -/
theorem request_admitted (h : received s who = true) (hnew : repeats s who op r = false) :
    request who op r s =
      admitRequest { who := who, op := op, req := r, since := now s, keeps := true } (serveRequest who op r) (appear who s) := by
  simp only [request, requestUnit, h, hnew, Bool.not_true, Bool.false_eq_true, if_false]

/-- Whether the four places of CAN FD are taken depends on the queue alone. -/
theorem canFull_congr {t : State} (who : Requester) (h : s.cat.queue = t.cat.queue) : canFull s who = canFull t who := by
  cases who with
  | can _ => simp only [canFull, h]
  | session _ => rfl
  | mailbox _ => rfl

theorem canFull_of_empty (who : Requester) (h : s.cat.queue = []) : canFull s who = false := by
  cases who with
  | can _ => simp [canFull, h]
  | session _ => rfl
  | mailbox _ => rfl

end

section
variable {w : Waiting} {serve : State → State} {s : State}

/-- A request is served at once where none is outstanding. -/
theorem admitRequest_serves (hempty : s.cat.queue = []) : admitRequest w serve s = serveNow w serve s := by
  have hfind : s.cat.queue.find? (·.who == w.who) = none := by rw [hempty]; rfl
  have hidle : s.cat.queue.isEmpty = true := by rw [hempty]; rfl
  simp only [admitRequest, hfind, canFull_of_empty w.who hempty, hidle, Bool.false_eq_true, if_false, if_true]

/-- It waits behind the outstanding ones of others. -/
theorem admitRequest_waits (hbusy : s.cat.queue ≠ []) (hothers : ∀ x ∈ s.cat.queue, x.who ≠ w.who)
    (hroom : canFull s w.who = false) : admitRequest w serve s = { s with cat := { s.cat with queue := s.cat.queue ++ [w] } } := by
  have hfind : s.cat.queue.find? (·.who == w.who) = none :=
    List.find?_eq_none.mpr fun x hx => by simpa using hothers x hx
  have hbusy' : s.cat.queue.isEmpty = false := by simpa [List.isEmpty_iff] using hbusy
  simp only [admitRequest, hfind, hroom, hbusy', Bool.false_eq_true, if_false]

section
variable {x : Waiting} {rest : List Waiting} (hqueue : s.cat.queue = x :: rest) (hwho : x.who = w.who)
include hqueue hwho

/-- The requester's own outstanding request is found. -/
theorem find_own : s.cat.queue.find? (·.who == w.who) = some x := by
  rw [hqueue]
  exact List.find?_cons_of_pos (beq_iff_eq.mpr hwho)

/-- A repetition of it is discarded; a further request is refused as busy. -/
theorem admitRequest_discards (hwkeeps : w.keeps = true) (hkeeps : x.keeps = true) (hmay : mayRepeat w.who = true)
    (hop : x.op = w.op) (hreq : x.req = w.req) : admitRequest w serve s = s := by
  simp only [admitRequest, find_own hqueue hwho, hwkeeps, hkeeps, hmay, hop, hreq, beq_self_eq_true, Bool.and_self, if_true]

theorem admitRequest_busy (hother : x.op ≠ w.op ∨ x.req ≠ w.req) :
    admitRequest w serve s = keepRequest w (respondRefused w.who 0x08000021 1 s) := by
  have hdiffers : ¬(w.keeps && x.keeps && mayRepeat w.who && x.op == w.op && x.req == w.req) = true := by
    simp only [Bool.and_eq_true, beq_iff_eq]
    rintro ⟨⟨-, hop⟩, hreq⟩
    exact hother.elim (· hop) (· hreq)
  simp only [admitRequest, find_own hqueue hwho, if_neg hdiffers]

end

end

/-! CAN FD (R413, R414). -/

section
variable {s : State}

/-- A frame for the node, or for all, acts; a classical one and one for another node are dropped and counted. -/
theorem canFrame_acts {f : CanFrame} (act : State → State) (hon : canOn s = true) (hfd : f.classical = false)
    (hnode : f.node = 0 ∨ f.node = s.cat.canNodeId) : canFrame f act s = act s := by
  have hours : ¬(f.classical || (f.node != 0 && f.node != s.cat.canNodeId)) = true := by
    simp only [hfd, Bool.false_or, Bool.and_eq_true, bne_iff_ne]
    exact fun h => hnode.elim h.1 h.2
  simp only [canFrame, hon, Bool.not_true, Bool.false_eq_true, if_false, if_neg hours]

theorem canFrame_drops {f : CanFrame} (act : State → State) (hon : canOn s = true)
    (hother : f.classical = true ∨ (f.node ≠ 0 ∧ f.node ≠ s.cat.canNodeId)) : canFrame f act s = addO nV 0x1200 8 1 s := by
  have hdropped : (f.classical || (f.node != 0 && f.node != s.cat.canNodeId)) = true := by
    simpa only [Bool.or_eq_true, Bool.and_eq_true, bne_iff_ne] using hother
  simp only [canFrame, hon, Bool.not_true, Bool.false_eq_true, if_false, hdropped, if_true]

/-- The heartbeat goes out when its period has passed. -/
theorem execHeartbeatTimer_beats (hon : canOn s = true) (hperiod : getO s nV 0x1017 0 ≠ 0)
    (hdue : s.cat.lastBeat + getO s nV 0x1017 0 * 1000000 ≤ now s) :
    exec .heartbeatTimer s =
      .next (emit (.heartbeat s.cat.canNodeId s.cat.nmt) { s with cat := { s.cat with lastBeat := now s } }) := by
  have hbeats : (canOn s && getO s nV 0x1017 0 != 0 && decide (s.cat.lastBeat + getO s nV 0x1017 0 * 1000000 ≤ now s)) = true := by
    simp only [hon, bne_iff_ne.mpr hperiod, hdue, decide_true, Bool.and_self]
  exact congrArg Host.Outcome.next (if_pos hbeats)

section
variable (hruns : canRuns s = true)
include hruns

/-- The bus-off of an active or a passive port is counted. -/
theorem execCanBusOff_off (hstate : getO s nV 0x1200 5 = 1 ∨ getO s nV 0x1200 5 = 2) :
    exec (.canBusOff .busOff) s = .next (setO nV 0x1200 5 3 (addO nV 0x1200 6 1 s)) := by
  refine congrArg Host.Outcome.next ?_
  obtain hactive | hpassive := hstate
  · simp only [hruns, hactive, Bool.not_true, Bool.false_eq_true, if_false]
  · simp only [hruns, hpassive, Bool.not_true, Bool.false_eq_true, if_false]

/-- The port becomes error passive, active again, and boots up once it has recovered. -/
theorem execCanBusOff_passive (hstate : getO s nV 0x1200 5 = 1) :
    exec (.canBusOff .passive) s = .next (setO nV 0x1200 5 2 s) := by
  refine congrArg Host.Outcome.next ?_
  simp only [hruns, hstate, Bool.not_true, Bool.false_eq_true, if_false]

theorem execCanBusOff_active (hstate : getO s nV 0x1200 5 = 2) :
    exec (.canBusOff .active) s = .next (setO nV 0x1200 5 1 s) := by
  refine congrArg Host.Outcome.next ?_
  simp only [hruns, hstate, Bool.not_true, Bool.false_eq_true, if_false]

theorem execCanBusOff_recovered (hstate : getO s nV 0x1200 5 = 3) :
    exec (.canBusOff .recovered) s = .next (bootUp (setO nV 0x1200 5 1 s)) := by
  refine congrArg Host.Outcome.next ?_
  simp only [hruns, hstate, Bool.not_true, Bool.false_eq_true, if_false]

end

end

/-- Settles O38. -/
theorem catalogueRequests : Obligations.CatalogueRequests := by
  unfold Obligations.CatalogueRequests
  refine ⟨?requests, ?frames, ?bus, ?transfers⟩
  case requests =>
    intro who r s
    refine ⟨fun hunreceived => ?_, ?_⟩
    · exact ⟨congrArg _ (request_unreceived hunreceived), congrArg _ (request_unreceived hunreceived),
        congrArg _ (request_unreceived hunreceived)⟩
    · intro op hreceived cmd w
      have hcmd : exec cmd s = .next (request who op r s) := by cases op <;> rfl
      have hadmit (hnew : repeats s who op r = false) :
          exec cmd s = .next (admitRequest w (serveRequest who op r) (appear who s)) :=
        hcmd.trans (congrArg _ (request_admitted hreceived hnew))
      have harrives := appear_queue who s
      refine ⟨?repeated, ?served, ?waits, ?own⟩
      case repeated => exact fun hrepeats => hcmd.trans (congrArg _ (request_repeated hreceived hrepeats))
      case served =>
        exact fun hnew hempty => (hadmit hnew).trans (congrArg _ (admitRequest_serves (harrives.trans hempty)))
      case waits =>
        intro hnew hbusy hothers hroom
        rw [hadmit hnew, admitRequest_waits (by rwa [harrives]) (by rwa [harrives]) (by rwa [canFull_congr _ harrives]), harrives]
      case own =>
        intro x rest hnew hqueue hwho
        have hours := harrives.trans hqueue
        exact ⟨fun hkeeps hmay hop hreq => (hadmit hnew).trans (congrArg _ (admitRequest_discards hours hwho rfl hkeeps hmay hop hreq)),
          fun hother => (hadmit hnew).trans (congrArg _ (admitRequest_busy hours hwho hother))⟩
  case frames =>
    intro f s hon
    refine ⟨fun hfd hnode => ?_, fun hother => ?_, execHeartbeatTimer_beats hon⟩
    · exact ⟨congrArg _ (canFrame_acts _ hon hfd hnode), congrArg _ (canFrame_acts _ hon hfd hnode),
        congrArg _ (canFrame_acts _ hon hfd hnode), congrArg _ (canFrame_acts _ hon hfd hnode)⟩
    · exact ⟨congrArg _ (canFrame_drops _ hon hother), congrArg _ (canFrame_drops _ hon hother),
        congrArg _ (canFrame_drops _ hon hother), congrArg _ (canFrame_drops _ hon hother)⟩
  case bus =>
    exact fun s hruns => ⟨execCanBusOff_off hruns, execCanBusOff_passive hruns, execCanBusOff_active hruns,
      execCanBusOff_recovered hruns⟩
  case transfers =>
    intro c s hlow hhigh
    have hclient : (decide (1 ≤ c) && decide (c ≤ 127)) = true := by simp only [hlow, hhigh, decide_true, Bool.and_self]
    exact ⟨within_true _ hclient, fun hreceived => within_of_guard hclient hreceived⟩

end Sys2Proof.Machine
end

section
/-! The field ports (O40): sessions, configuration, links, and the frames for a port's own address. -/

namespace Sys2Proof.Machine

section
variable {p n : Nat} {s : State}

/-- A client whose chain is good, on a port that is up, opens the lowest free session. -/
theorem execDtlsHandshake_opens {ch : CertChain} {role : Nat} (hp : p < 2) (hup : portUp s p = true)
    (hrole : chainRole s ch = some role) (hfree : freeSession s = some n) :
    exec (.dtlsHandshake p ch) s = .next (emit (.handshake n Config.identityKey) (appear (.session n)
      { s with cat := { s.cat with sessions := tblInsert s.cat.sessions n { port := p, role := role, lastUse := now s } } })) := by
  refine (within_true _ (decide_eq_true hp)).trans (congrArg _ ?_)
  simp only [hup, hrole, hfree, Bool.not_true, Bool.false_eq_true, if_false]

/-- A session idle for its limit closes. -/
theorem execSessionIdleClose_closes {x : Session} (hn : n < 8) (hopen : tblFind s.cat.sessions n = some x)
    (hidle : x.lastUse + getO s nV 0x1300 2 * 1000000000 ≤ now s) : exec (.sessionIdleClose n) s = .next (closeSession n s) := by
  refine (within_true _ (decide_eq_true hn)).trans (congrArg _ ?_)
  simp only [hopen, hidle, if_true]

/-- The objects of the field ports are the Catalogue's own. -/
theorem resolveNode_port : ∀ p, p < 2 → resolveNode nV (portIx p) = some nV := by decide

/-- The link state of a port is one byte. -/
theorem objSize_linkState : ∀ p, p < 2 → objSize nV (portIx p) 7 = 1 := by decide

/-- The link state written is the one read. -/
theorem getO_linkState {v : Nat} (hp : p < 2) (hv : v < 256) : getO (setO nV (portIx p) 7 v s) nV (portIx p) 7 = v := by
  rw [getO_setO_same, objSize_linkState p hp]
  exact Nat.mod_eq_of_lt hv

/-! Frames for the port (R410, R411). -/

section
variable (hp : p < 2) (hup : portUp s p = true)
include hp hup

/-- ARP and echo requests for the port's own address are answered. -/
theorem fieldFrame_arp : exec (.fieldPortFrameReceived p (.arpRequest (getO s nV (portIx p) 3))) s =
    .next (emit (.fieldArp p (getO s nV (portIx p) 3)) (addO nV (portIx p) 8 1 s)) := by
  refine (within_true _ (decide_eq_true hp)).trans (congrArg _ ?_)
  simp only [hup, Bool.not_true, Bool.false_eq_true, if_false, if_true]

theorem fieldFrame_echo : exec (.fieldPortFrameReceived p (.icmpEcho (getO s nV (portIx p) 3))) s =
    .next (emit (.fieldEcho p (getO s nV (portIx p) 3)) (addO nV (portIx p) 8 1 s)) := by
  refine (within_true _ (decide_eq_true hp)).trans (congrArg _ ?_)
  simp only [hup, Bool.not_true, Bool.false_eq_true, if_false, if_true]

/-- A Catalogue frame is taken, any other is dropped and counted. -/
theorem fieldFrame_catalogue : exec (.fieldPortFrameReceived p .catalogue) s = .next (addO nV (portIx p) 8 1 s) := by
  refine (within_true _ (decide_eq_true hp)).trans (congrArg _ ?_)
  simp only [hup, Bool.not_true, Bool.false_eq_true, if_false]

theorem fieldFrame_other :
    exec (.fieldPortFrameReceived p .other) s = .next (addO nV (portIx p) 9 1 (addO nV (portIx p) 8 1 s)) := by
  refine (within_true _ (decide_eq_true hp)).trans (congrArg _ ?_)
  simp only [hup, Bool.not_true, Bool.false_eq_true, if_false]

section
variable {x : Session} (hopen : tblFind s.cat.sessions n = some x) (hport : x.port = p)
include hopen hport

/-- A bad record closes its session; an access unit is served. -/
theorem fieldFrame_badRecord :
    exec (.fieldPortFrameReceived p (.badRecord n)) s = .next (closeSession n (addO nV (portIx p) 8 1 s)) := by
  refine (within_true _ (decide_eq_true hp)).trans (congrArg _ ?_)
  simp only [hup, hopen, hport, Bool.not_true, Bool.false_eq_true, if_false, if_true]

theorem fieldFrame_accessUnit (b : List Byte) :
    exec (.fieldPortFrameReceived p (.accessUnit n b)) s = .next (sessionUnit n b (addO nV (portIx p) 8 1 s)) := by
  refine (within_true _ (decide_eq_true hp)).trans (congrArg _ ?_)
  simp only [hup, hopen, hport, Bool.not_true, Bool.false_eq_true, if_false, if_true]

end

end

end

/-- Settles O40. -/
theorem fieldNetworks : Obligations.FieldNetworks := by
  unfold Obligations.FieldNetworks
  refine ⟨?opens, ?idle, ?config, ?loss, ?returns, ?frames⟩
  case opens => exact fun p role n ch s hp hup hrole hfree => execDtlsHandshake_opens hp hup hrole hfree
  case idle => exact fun n x s hn hopen hidle => execSessionIdleClose_closes hn hopen hidle
  case config =>
    intro who p sub v row s hp hrow hro htk hsize
    exact (within_true _ (decide_eq_true hp)).trans
      (congrArg _ (writeNamed_of_row s (resolveNode_port p hp) hrow hro htk hsize))
  case loss =>
    exact fun p s hp hup => ⟨_, within_of_guard (decide_eq_true hp) hup, getO_linkState hp (by decide), rfl, rfl⟩
  case returns =>
    intro p s hp hon henabled
    have hreturns : (s.modes.mode.on && getO s nV (portIx p) 1 == 1) = true := by
      simp only [hon, henabled, beq_self_eq_true, Bool.and_self]
    exact ⟨_, within_of_guard (decide_eq_true hp) hreturns, getO_linkState hp (by decide), rfl, rfl⟩
  case frames =>
    intro p s hp hup
    exact ⟨fieldFrame_arp hp hup, fieldFrame_echo hp hup, fieldFrame_catalogue hp hup,
      fun n x hopen hport => ⟨fieldFrame_badRecord hp hup hopen hport, fieldFrame_accessUnit hp hup hopen hport⟩,
      fieldFrame_other hp hup⟩

end Sys2Proof.Machine
end

section
/-! Audits, counters and defaults (O55): how an audit begins, goes on and ends, and what the counters' controls leave. -/

namespace Sys2Proof.Machine

/-! Audits (R456-R458). -/

section
variable {s : State} {a : Audit}

/-- The audit in progress goes on where the timer finds one; else one begins when its period has passed. -/
theorem audit_of_none (hnone : s.errs.audit = none) :
    audit s = continueAudit { s with errs := { s.errs with audit := some { start := now s, left := auditInstances s } } } := by
  simp only [audit, hnone, Option.isSome_none, Bool.false_eq_true, if_false]

theorem audit_of_some (hsome : s.errs.audit = some a) : audit s = continueAudit s := by
  simp only [audit, hsome, Option.isSome_some, if_true]

theorem execAuditTimer_begins (hruns : curatorRuns s = true) (hperiod : getO s nP 0x8300 2 ≠ 0)
    (hdue : getO s nP 0x8312 1 + getO s nP 0x8300 2 * 1000000000 ≤ now s) : exec .auditTimer s = .next (audit s) := by
  refine congrArg Host.Outcome.next (if_pos ?_)
  simp only [hruns, bne_iff_ne.mpr hperiod, hdue, decide_true, Bool.and_self, Bool.or_true]

theorem execAuditTimer_goesOn (hruns : curatorRuns s = true) (hsome : s.errs.audit = some a) :
    exec .auditTimer s = .next (audit s) := by
  refine congrArg Host.Outcome.next (if_pos ?_)
  simp only [hruns, hsome, Option.isSome_some, Bool.true_or, Bool.and_self]

/-- What is quiescent is sampled; an audit ends where nothing else is left, or where its wait is over. -/
theorem continueAudit_of_some (hruns : curatorRuns s = true) (hsome : s.errs.audit = some a) :
    continueAudit s =
      if (a.left.filter fun i => !quiescent s i).isEmpty || decide (a.start + getO s nP 0x8300 3 * 1000000 ≤ now s) then
        endAudit a (forAll (a.left.filter fun i => !quiescent s i) (fun i s => notQuiescent i.1 s)
          (forAll (a.left.filter (quiescent s)) sample s))
      else { forAll (a.left.filter (quiescent s)) sample s with
        errs := { (forAll (a.left.filter (quiescent s)) sample s).errs with
          audit := some { a with left := a.left.filter fun i => !quiescent s i } } } := by
  simp only [continueAudit, hsome, hruns, Bool.not_true, Bool.false_eq_true, if_false]

/-- An action that asks for an audit ends with it. -/
theorem ruleAudit_ends (who : Requester) (hends : (audit s).errs.audit = none) : ruleAudit who s = actionDone (audit s) := by
  simp only [ruleAudit, hends]

theorem ruleAudit_waits (who : Requester) (hgoes : (audit s).errs.audit = some a) :
    ruleAudit who s = actionPending { audit s with
      errs := { (audit s).errs with audit := some { a with asked := a.asked ++ [(who, s.cat.nextTag)] } } } := by
  simp only [ruleAudit, hgoes]

end

/-! The package counters (R466, R467). -/

/-- The two words of a package counter set to zero. -/
def clearCounter (i : Nat) (s : State) : State := setO nP (0x9100 + i) 4 0 (setO nP (0x9100 + i) 5 0 s)

theorem ruleClearCounters_eq (s : State) : ruleClearCounters s = actionDone (forAll (List.range 32) clearCounter s) := rfl

/-- The counter cleared reads zero, and one that reads zero still does when any is cleared. -/
theorem clearCounter_same (i : Nat) (s : State) :
    getO (clearCounter i s) nP (0x9100 + i) 4 = 0 ∧ getO (clearCounter i s) nP (0x9100 + i) 5 = 0 := by
  have hwords : objKey nP (0x9100 + i) 5 ≠ objKey nP (0x9100 + i) 4 := by simp only [objKey]; omega
  rw [clearCounter, getO_setO_same, getO_setO_ne _ _ _ _ _ hwords, getO_setO_same]
  exact ⟨Nat.zero_mod _, Nat.zero_mod _⟩

theorem clearCounter_ne {i k : Nat} (s : State) (hik : i ≠ k) (sub : Nat) (hsub : sub < 2 ^ 8) :
    getO (clearCounter k s) nP (0x9100 + i) sub = getO s nP (0x9100 + i) sub := by
  have hhigh : objKey nP (0x9100 + i) sub ≠ objKey nP (0x9100 + k) 4 := by simp only [objKey]; omega
  have hlow : objKey nP (0x9100 + i) sub ≠ objKey nP (0x9100 + k) 5 := by simp only [objKey]; omega
  rw [clearCounter, getO_setO_ne _ _ _ _ _ hhigh, getO_setO_ne _ _ _ _ _ hlow]

/-- After all are cleared each reads zero. -/
theorem clearCounters_zero {i : Nat} (hi : i < 32) (s : State) :
    getO (forAll (List.range 32) clearCounter s) nP (0x9100 + i) 4 = 0 ∧
      getO (forAll (List.range 32) clearCounter s) nP (0x9100 + i) 5 = 0 := by
  refine forAll_establishes (P := fun t => getO t nP (0x9100 + i) 4 = 0 ∧ getO t nP (0x9100 + i) 5 = 0) (List.mem_range.mpr hi)
    (clearCounter_same i) (fun k t hzero => ?_) s
  by_cases hik : i = k
  · subst hik
    exact clearCounter_same i t
  · rwa [clearCounter_ne t hik 4 (by decide), clearCounter_ne t hik 5 (by decide)]

/-- An event is selected on a counter that is disabled, which starts from zero. -/
theorem ruleCounter_selects {i v : Nat} {s : State} (hoff : getO s nP (0x9100 + i) 6 ≠ 1)
    (hevent : v = 0 ∨ isPackageEvent v = true) :
    ruleCounter i 1 v s = answered (setO nP (0x9100 + i) 1 v (setO nP (0x9100 + i) 4 0 (setO nP (0x9100 + i) 5 0 s))) := by
  simp only [ruleCounter, hoff, and_false, if_false, hevent, if_true]

/-! The harts' counters (R462, R463). -/

/-- A counter that holds all ones wraps to zero and sets its overflow. -/
theorem bump_wraps {h : Hart} {i : Nat} (hfull : h.csrOf (0xB00 + i) = BitVec.allOnes 64) :
    h.bump i 1 = (h.withCsr (0xB00 + i) 0).withCsr (0x320 + i) (setField (h.csrOf (0x320 + i)) 63 1 1) := by
  have htop : (BitVec.allOnes 64).toNat + 1 = 2 ^ 64 := by decide
  have hzero : BitVec.ofNat 64 (2 ^ 64) = 0 := by decide
  simp only [Hart.bump, hfull, htop, hzero, Nat.le_refl, if_true]

theorem execHartCounterWrap_wraps {hart i : Nat} {s : State} (hh : hart < 264) (hlow : 3 ≤ i) (hhigh : i ≤ 31)
    (hrun : (s.hart hart).run ≠ .inReset)
    (hcounts : (s.hart hart).counts (getO s nP 0x2103 1 % 2 == 1) (field ((s.hart hart).csrOf (0x320 + i)) 0 12) i = true)
    (hfull : (s.hart hart).csrOf (0xB00 + i) = BitVec.allOnes 64) :
    exec (.hartCounterWrap hart i) s = .next (setHart hart ((s.hart hart).bump i 1) s) := by
  refine within_of_guard (by simp only [hh, hlow, hhigh, decide_true, Bool.and_self]) ?_
  simp only [bne_iff_ne.mpr hrun, hcounts, hfull, beq_self_eq_true, Bool.and_self]

/-- Settles O55. -/
theorem countersAndAudits : Obligations.CountersAndAudits := by
  unfold Obligations.CountersAndAudits
  refine ⟨?begins, ?goesOn, ?request, ?clear, ?select, ?wrap, ?restore⟩
  case begins =>
    intro s hruns hperiod hdue hnone
    rw [execAuditTimer_begins hruns hperiod hdue, audit_of_none hnone]
  case goesOn =>
    intro s a hruns hsome
    refine ⟨by rw [execAuditTimer_goesOn hruns hsome, audit_of_some hsome], ?_⟩
    intro left t
    have hcontinues := continueAudit_of_some hruns hsome
    refine ⟨fun hleft => ?_, fun hover => ?_, fun hleft hwaits => ?_⟩
    · have hnone : (a.left.filter fun i => !quiescent s i) = [] := hleft
      rw [hcontinues, hnone]
      exact if_pos (Bool.true_or _)
    · rw [hcontinues, if_pos (by simp only [hover, decide_true, Bool.or_true])]
    · have hsome : ¬((a.left.filter fun i => !quiescent s i).isEmpty ||
          decide (a.start + getO s nP 0x8300 3 * 1000000 ≤ now s)) = true := by
        obtain ⟨i, hi, hbusy⟩ := List.any_eq_true.mp hleft
        have hmem : i ∈ a.left.filter fun i => !quiescent s i := List.mem_filter.mpr ⟨hi, hbusy⟩
        simp only [Bool.or_eq_true, List.isEmpty_iff, decide_eq_true_eq, not_or]
        exact ⟨List.ne_nil_of_mem hmem, Nat.not_le.mpr hwaits⟩
      rw [hcontinues, if_neg hsome]
  case request =>
    intro who s hreaches u
    exact ⟨fun hends => congrArg _ (served_eq_ended hreaches (ruleAudit_ends who hends)),
      fun a hgoes => congrArg _ (served_eq_pending hreaches (ruleAudit_waits who hgoes))⟩
  case clear =>
    intro who s hreaches
    refine ⟨forAll (List.range 32) clearCounter (arrived who nP 0x9000 3 1 s), ?_, fun i hi => clearCounters_zero hi _⟩
    exact congrArg Host.Outcome.next (served_eq_ended hreaches (ruleClearCounters_eq _))
  case select =>
    intro who i v s hi hreaches hoff hevent
    exact (within_true _ (decide_eq_true hi)).trans
      (congrArg _ (served_eq_written hreaches (by decide) (ruleCounter_selects hoff hevent)))
  case wrap =>
    intro hart i s hh hlow hhigh hrun hcounts hfull
    refine ⟨_, execHartCounterWrap_wraps hh hlow hhigh hrun hcounts hfull, onlyHart_setHart hart _ s, ?_, ?_⟩
    · rw [setHart_hart, bump_wraps hfull, csrOf_withCsr_ne _ _ (by omega), csrOf_withCsr_same]
    · rw [setHart_hart, bump_wraps hfull, csrOf_withCsr_same]
  case restore => exact fun who s t hreaches _ hrule => congrArg _ (served_eq_ended hreaches hrule)

end Sys2Proof.Machine
end

section
/-! The life of a partition (O53): its configuration, its start, stop and restart, and the automatic start. -/

namespace Sys2Proof.Machine

/-! Actions that may meet a read error of the boot flash (R397, R399). -/

section
variable {who : Requester} {node ix sub value : Nat} {s : State}

/-- What a write that reaches the rule of an action object has passed. -/
theorem reaches_action (h : reaches .wo who node ix sub value s = true) :
    ∃ row, rowOf (node / 2 ^ 24) ix sub = some row ∧ row.acc = .wo ∧ received s who = true ∧ s.cat.queue = [] ∧
      s.modes.mode ≠ .keep ∧
      (ix == 0x2000 && sub == 2 && decide (roleOf (arrived who node ix sub value s) who < 3)) = false ∧
      roleRefusal (arrived who node ix sub value s) who node ix sub value = none ∧ row.chk.ok value = true := by
  unfold reaches at h
  cases hrow : rowOf (node / 2 ^ 24) ix sub with
  | none =>
    rw [hrow] at h
    exact absurd h Bool.false_ne_true
  | some row =>
    simp only [hrow, Bool.and_eq_true, beq_iff_eq, bne_iff_ne, Bool.not_eq_true', Option.isNone_iff_eq_none, List.isEmpty_iff] at h
    obtain ⟨⟨⟨⟨⟨⟨⟨hacc, hreceived⟩, hidle⟩, hmode⟩, hrequest⟩, hrole⟩, hvalue⟩, -⟩ := h
    exact ⟨row, rfl, hacc, hreceived, hidle, hmode, hrequest, hrole, hvalue⟩

/-- Who may write does not depend on what is under service. -/
theorem arrivedWith_role (f : Bool) :
    roleOf (arrivedWith f who node ix sub value s) who = roleOf (arrived who node ix sub value s) who ∧
      roleRefusal (arrivedWith f who node ix sub value s) who node ix sub value =
        roleRefusal (arrived who node ix sub value s) who node ix sub value := ⟨rfl, rfl⟩

theorem servedWith_of_idle (f : Bool) (rule : Rule) (hreceived : received s who = true) (hidle : s.cat.queue = []) :
    servedWith f who node ix sub value rule s =
      closed (serveWrite who node ix sub value rule (arrivedWith f who node ix sub value s)) := by
  rw [servedWith, if_pos hreceived, admitRequest_serves ((appear_queue who s).trans hidle), serveNow_closed _ _ _ rfl]
  rfl

/-- A rule that makes an action of its write has the action's result as the answer. -/
theorem servedWith_eq_action {f : Bool} {rule : Rule} {t : State} {st d : Nat} (hreaches : reaches .wo who node ix sub value s = true)
    (hrule : rule (arrivedWith f who node ix sub value s) = (t, .action st d)) :
    servedWith f who node ix sub value rule s = closed (respondAction who node ix sub st d t) := by
  obtain ⟨row, hrow, hacc, hreceived, hidle, hmode, hrequest, hrole, hvalue⟩ := reaches_action hreaches
  obtain ⟨hrole', hrefusal⟩ := arrivedWith_role (who := who) (node := node) (ix := ix) (sub := sub) (value := value) (s := s) f
  have hkeep : ((arrivedWith f who node ix sub value s).modes.mode == Mode.keep) = false := by
    have hmodes : (arrivedWith f who node ix sub value s).modes = s.modes := appear_modes s who
    rw [hmodes]
    exact beq_eq_false_iff_ne.mpr hmode
  rw [servedWith_of_idle f rule hreceived hidle]
  have hwo : (Acc.wo == Acc.rwp) = false := rfl
  simp only [serveWrite, hkeep, hrow, hacc, hrole', hrequest, hrefusal, hrole, hvalue, hrule, hwo, Bool.false_and, Bool.not_true,
    Bool.false_eq_true, if_false]

/-- The flash error of a write is the one under service. -/
theorem flashFails_arrivedWith (f : Bool) : flashFails (arrivedWith f who node ix sub value s) = f := by
  simp [flashFails, arrivedWith, writeOf]

end

/-! Configuration (R417-R421). -/

/-- No configuration is written while the partition's images are promoted. -/
theorem rulePartition_busy {ix sub v : Nat} {s : State} (h : promoting s = true) :
    rulePartition ix sub v s = (s, .refuse 0x08000021 2) := if_pos h

/-! Start, stop and restart (R424-R428). -/

section
variable {who : Requester} {p : Nat} {a t : State}

/-- The state of a partition is one byte, which a released partition has as RUNNING. -/
theorem objSize_partState : ∀ p, p < 16 → objSize nS 0x7040 (p + 1) = 1 := by decide

/-- What the release of a partition ends with: it runs, its start is counted and timed, and it is held no more. -/
def markRunning (p time : Nat) (s : State) : State :=
  runAll [setO nS 0x7040 (p + 1) 3, addO nS 0x7041 (p + 1) 1, setO nS 0x7044 (p + 1) time,
    fun s => { s with parts := { s.parts with held := dropFrom s.parts.held p } }] s

theorem releasePartition_marks (p : Nat) (s : State) : ∃ time u, releasePartition p s = markRunning p time u := ⟨_, _, rfl⟩

/-- Changes listed are made one after the other. -/
theorem runAll_cons (f : State → State) (l : List (State → State)) (s : State) : runAll (f :: l) s = runAll l (f s) := rfl
theorem runAll_nil (s : State) : runAll [] s = s := rfl

/-- The list of held partitions is beside the state of a partition. -/
theorem partState_notHeld (p : Nat) (s : State) :
    partState { s with parts := { s.parts with held := dropFrom s.parts.held p } } p = partState s p := rfl

theorem markRunning_runs (hp : p < 16) (time : Nat) (s : State) : partState (markRunning p time s) p = 3 := by
  have hstarts : objKey nS 0x7040 (p + 1) ≠ objKey nS 0x7041 (p + 1) := by simp only [objKey]; omega
  have htime : objKey nS 0x7040 (p + 1) ≠ objKey nS 0x7044 (p + 1) := by simp only [objKey]; omega
  simp only [markRunning, runAll_cons, runAll_nil]
  refine (partState_notHeld p _).trans ?_
  rw [partState, getO_setO_ne _ _ _ _ _ htime, addO, getO_setO_ne _ _ _ _ _ hstarts, getO_setO_same, objSize_partState p hp]
  rfl

theorem releasePartition_runs (hp : p < 16) (s : State) : partState (releasePartition p s) p = 3 := by
  obtain ⟨time, u, hmarks⟩ := releasePartition_marks p s
  rw [hmarks]
  exact markRunning_runs hp time u

/-- An image that was placed is released. -/
theorem runStart_releases {f : Bool} (hruns : runStart p f a = (t, true)) : ∃ u, t = releasePartition p u := by
  unfold runStart at hruns
  split at hruns
  case h_1 u _ => exact ⟨u, (congrArg Prod.fst hruns).symm⟩
  case h_2 => exact absurd (congrArg Prod.snd hruns) Bool.false_ne_true

/-- A start whose preconditions hold, and that no fence holds up, runs the partition. -/
theorem ruleStart_runs {f : Bool} (hflash : flashFails a = f) (hmay : startRefusal a p = 0) (hgo : startWaits a p = false)
    (hruns : runStart p f a = (t, true)) : ruleStart who p a = (t, .action 0 0) := by
  have hlaunch (act : Option (Requester × Nat)) : launch p act f a = (t, 0) := by
    simp only [launch, hgo, hruns, Bool.false_eq_true, if_false]
  simp only [ruleStart, hmay, OfNat.zero_ne_ofNat, if_false, ne_eq, not_true_eq_false, hflash, hlaunch, startDetail]

/-- A stop that may be made begins, and is pending where its domain is UP. -/
theorem ruleStop_stops {n : Nat} (hmay : mayStop a p = true)
    (hbegins : beginStop p { action := some (who, a.cat.nextTag) } a = (t, n)) : ruleStop who p a = (t, .action n 0) := by
  simp only [ruleStop, hmay, hbegins, if_true]

theorem beginStop_pending {x : Stopping} {n : Nat} (hbegins : beginStop p x a = (t, n)) (hup : domState a p = 0) : n = 1 := by
  have hn := congrArg Prod.snd hbegins
  simp only [beginStop, hup, if_true] at hn
  exact hn.symm

theorem beginStop_ends {x : Stopping} {n : Nat} (hbegins : beginStop p x a = (t, n)) (hdown : domState a p ≠ 0) : n = 0 := by
  have hn := congrArg Prod.snd hbegins
  simp only [beginStop, hdown, if_false] at hn
  exact hn.symm

/-- A restart begins with the stop; where that ends at once the partition is started again. -/
theorem ruleRestart_waits {f : Bool} (hflash : flashFails a = f) (hmay : mayStop a p = true)
    (hbegins : beginStop p { action := some (who, a.cat.nextTag), restart := true, flash := f } a = (t, 1)) :
    ruleRestart who p a = actionPending t := by
  simp only [ruleRestart, hmay, hflash, hbegins, Bool.not_true, Bool.false_eq_true, if_false]
  rfl

theorem ruleRestart_starts {f : Bool} {u : State} {st d : Nat} (hflash : flashFails a = f) (hmay : mayStop a p = true)
    (hbegins : beginStop p { action := some (who, a.cat.nextTag), restart := true, flash := f } a = (t, 0))
    (hstarts : relaunch p (some (who, a.cat.nextTag)) f t = (u, st, d)) : ruleRestart who p a = (u, .action st d) := by
  simp only [ruleRestart, hmay, hflash, hbegins, hstarts, Bool.not_true, Bool.false_eq_true, if_false]

end

/-- A partition that may start by itself does, or is stopped for good as it would for the fourth time in 60 s. -/
theorem execAutomaticStart_decides {p : Nat} {s : State} (f : Bool) (hp : p < 16) (hdown : partState s p = 5)
    (hcause : getO s nS 0x7043 (p + 1) = 2) (hauto : getO s nS (0x7000 + p) 6 = 1) (hfree : s.parts.held.contains p = false)
    (himage : getO s nC 0x6812 (p + 1) ≠ 1 ∨ ownPromotion s p = false) :
    exec (.automaticStart p f) s = .next
      (if 3 ≤ ((tblGet [] s.parts.autoTimes p).filter fun t => decide (now s < t + 60000000000)).length
        then setO nS 0x7043 (p + 1) 6 s else autoStart p f s) := by
  have hgood : ¬(getO s nC 0x6812 (p + 1) = 1 ∧ ownPromotion s p = true) :=
    fun h => himage.elim (· h.1) fun hfalse => Bool.false_ne_true (hfalse.symm.trans h.2)
  refine (within_true _ (decide_eq_true hp)).trans (congrArg _ ?_)
  simp only [hdown, hcause, hauto, hfree, hgood, ne_eq, not_true_eq_false, Bool.false_eq_true, or_self, if_false]

/-- Settles O53. -/
theorem partitionLife : Obligations.PartitionLife := by
  unfold Obligations.PartitionLife
  refine ⟨?config, ?busy, ?start, ?stop, ?restart, ?auto⟩
  case config =>
    intro who ix sub v s t hlow hhigh hreaches hrule
    exact (within_true _ (by simp only [hlow, hhigh, decide_true, Bool.and_self])).trans
      (congrArg _ (served_eq_written hreaches (by decide) hrule))
  case busy =>
    intro who ix sub v s hlow hhigh hreaches hbusy
    exact (within_true _ (by simp only [hlow, hhigh, decide_true, Bool.and_self])).trans
      (congrArg _ (served_eq_turnedAway hreaches (rulePartition_busy hbusy)))
  case start =>
    intro who p f s t hreaches a hmay hgo hruns
    refine ⟨congrArg Host.Outcome.next (servedWith_eq_action hreaches (ruleStart_runs (flashFails_arrivedWith f) hmay hgo hruns)), ?_⟩
    intro hp
    obtain ⟨u, rfl⟩ := runStart_releases hruns
    exact releasePartition_runs hp u
  case stop =>
    intro who p n s t hreaches a hmay hbegins
    exact ⟨congrArg Host.Outcome.next (servedWith_eq_action hreaches (ruleStop_stops hmay hbegins)),
      beginStop_pending hbegins, beginStop_ends hbegins⟩
  case restart =>
    intro who p n f s t hreaches a act hmay hbegins
    refine ⟨?_, ?_⟩
    · rintro rfl
      exact congrArg Host.Outcome.next (servedWith_eq_action hreaches (ruleRestart_waits (flashFails_arrivedWith f) hmay hbegins))
    · rintro u st d rfl hstarts
      exact congrArg Host.Outcome.next
        (servedWith_eq_action hreaches (ruleRestart_starts (flashFails_arrivedWith f) hmay hbegins hstarts))
  case auto => exact fun p f s hp hdown hcause hauto hfree himage => execAutomaticStart_decides f hp hdown hcause hauto hfree himage

end Sys2Proof.Machine
end

section
/-! Debug (O56): requests to a hart that 7500h opens, and to one that takes none. -/

namespace Sys2Proof.Machine

/-! The harts that take requests (R468, R470). -/

/-- The numbers of a request's harts are of 20 bits. -/
theorem hartsOk_of_lt {hart : Nat} {l : List Nat} (hhart : hart < 2 ^ 20) (hl : ∀ h ∈ l, h < 2 ^ 20) : hartsOk hart l = true := by
  have hall : l.all hartselOk = true := List.all_eq_true.mpr fun h hh => decide_eq_true (hl h hh)
  have hsel : hartselOk hart = true := decide_eq_true hhart
  rw [hartsOk, hsel, hall, Bool.and_self]

theorem hartsOk_one {hart : Nat} (hhart : hart < 2 ^ 20) : hartsOk hart [] = true :=
  hartsOk_of_lt hhart fun _ h => absurd h List.not_mem_nil

/-- A mode in which the harts run is not OFF. -/
theorem on_of_active {m : Mode} (h : m.active = true) : m.on = true := by
  cases m with
  | off => exact absurd h (by decide)
  | _ => rfl

/-- A hart that may be debugged is of a package that is on and whose debugging is enabled. -/
theorem authenticated_of_debuggable {hart : Nat} {s : State} (h : debuggable s hart = true) : authenticated s = true := by
  simp only [debuggable, debugOpen, Bool.and_eq_true, beq_iff_eq] at h
  obtain ⟨⟨⟨-, hactive⟩, henabled, -⟩, -⟩ := h
  exact (authenticated_iff s).mpr ⟨on_of_active hactive, henabled⟩

/-- There is no hart beyond the 264. -/
theorem debuggable_nonexistent {hart : Nat} (s : State) (h : 264 ≤ hart) : debuggable s hart = false := by
  simp only [debuggable, decide_eq_false (Nat.not_lt.mpr h), Bool.false_and]

/-- A request without an acknowledgement of the reset leaves that alone. -/
theorem ackReset_false (hart : Nat) (s : State) : ackReset false hart s = s := by
  simp only [ackReset, Bool.false_and, Bool.false_eq_true, if_false]

section
variable {hart : Nat} {s : State}

/-- Halt, resume and restart of one hart. -/
theorem execDebugHalt_one (hhart : hart < 2 ^ 20) : exec (.debugHalt hart [] false) s = .next (haltRequest hart s) :=
  (within_true _ (hartsOk_one hhart)).trans (congrArg (fun t => Host.Outcome.next (haltRequest hart t)) (ackReset_false hart s))

theorem execDebugResume_one (hhart : hart < 2 ^ 20) : exec (.debugResume hart [] false) s = .next (resumeRequest hart s) :=
  (within_true _ (hartsOk_one hhart)).trans (congrArg (fun t => Host.Outcome.next (resumeRequest hart t)) (ackReset_false hart s))

theorem execDebugHartreset_one (hhart : hart < 2 ^ 20) : exec (.debugHartreset hart []) s = .next (resetRequest hart s) :=
  within_true _ (hartsOk_one hhart)

/-! A hart that takes none. -/

section
variable (hclosed : debuggable s hart = false)
include hclosed

theorem haltRequest_closed : haltRequest hart s = s := by
  simp only [haltRequest, hclosed, Bool.not_false, if_true]

theorem resumeRequest_closed : resumeRequest hart s = s := by
  simp only [resumeRequest, hclosed, Bool.false_and, Bool.false_eq_true, if_false]

theorem resetRequest_closed : resetRequest hart s = s := by
  simp only [resetRequest, hclosed, Bool.false_eq_true, if_false]

theorem execDebugStep_closed {i : RvInsn} {len : Nat} (hhart : hart < 2 ^ 20) (hok : progOk (.scalar i len) = true) :
    exec (.debugStep hart i len) s = .next s := by
  have hsel : hartselOk hart = true := decide_eq_true hhart
  refine (within_true _ (by rw [hsel, hok]; rfl)).trans (congrArg _ ?_)
  simp only [hclosed, Bool.false_and, Bool.not_false, if_true]

end

/-- An access to the registers of a hart that is not halted, or takes no request, has cmderr 4. -/
theorem execAccessRegister_notHalted {r : DbgReg} {w : Option Word} {p : List ProgInsn} (hhart : hart < 2 ^ 20)
    (hp : programOk p = true) (hauth : authenticated s = true) (hnot : debuggable s hart = false ∨ (s.hart hart).run ≠ .debug) :
    exec (.accessRegister hart r w 8 p) s = .next (setCmderr 4 s) := by
  have hsel : hartselOk hart = true := decide_eq_true hhart
  have hrefused : (!debuggable s hart || (s.hart hart).run != .debug) = true := by
    obtain hclosed | hruns := hnot
    · rw [hclosed]; rfl
    · rw [bne_iff_ne.mpr hruns, Bool.or_true]
  refine (within_true _ (by rw [hsel, hp]; rfl)).trans (congrArg _ ?_)
  simp only [hauth, Bool.not_true, Bool.false_eq_true, if_false, ne_eq, not_true_eq_false, and_false, hrefused, if_true]

/-! A hart that 7500h opens (R469-R471). -/

/-- A running hart halts with its pc saved. -/
theorem haltHart_keeps (cause : Nat) : onlyHart hart s (haltHart hart cause s) ∧ ((haltHart hart cause s).hart hart).run = .debug ∧
    ((haltHart hart cause s).hart hart).priv = .m ∧ ((haltHart hart cause s).hart hart).csrOf 0x7B1 = (s.hart hart).pc ∧
    ((haltHart hart cause s).hart hart).x = (s.hart hart).x := by
  refine ⟨onlyHart_setHart hart _ s, ?_⟩
  rw [haltHart, setHart_hart]
  exact ⟨rfl, rfl, (csrOf_withCsr_ne _ _ (by decide)).trans (csrOf_withCsr_same _ _ _), rfl⟩

/-- A halted hart resumes where it was. -/
theorem resumeHart_keeps (hhalted : (s.hart hart).run = .debug) :
    onlyHart hart s (resumeHart hart s) ∧ ((resumeHart hart s).hart hart).run = .running ∧
    ((resumeHart hart s).hart hart).pc = (s.hart hart).csrOf 0x7B1 ∧
    ((resumeHart hart s).hart hart).priv = privOf (field ((s.hart hart).csrOf 0x7B0) 0 2) := by
  rw [resumeHart, if_pos hhalted]
  refine ⟨onlyHart_setHart hart _ s, ?_⟩
  rw [setHart_hart]
  exact ⟨rfl, rfl, rfl⟩

section
variable (hopen : debuggable s hart = true)
include hopen

theorem haltRequest_running (hruns : (s.hart hart).run = .running) : haltRequest hart s = haltHart hart 3 s := by
  simp only [haltRequest, hopen, hruns, Bool.not_true, Bool.false_eq_true, if_false]

theorem resumeRequest_halted (hwhole : (s.hart hart).stepping = false) : resumeRequest hart s = resumeHart hart s := by
  simp only [resumeRequest, hopen, hwhole, Bool.not_false, Bool.and_self, if_true]

theorem resetRequest_open : resetRequest hart s = hartReset hart s := by
  simp only [resetRequest, hopen, if_true]

section
variable (hhart : hart < 2 ^ 20) (hhalted : (s.hart hart).run = .debug)
include hhart hhalted

/-- A step without interrupts runs the instruction and halts after it, with cause 4. -/
theorem execDebugStep_steps {i : RvInsn} {len : Nat} (hok : progOk (.scalar i len) = true)
    (hstepie : ((s.hart hart).csrOf 0x7B0).getLsbD 11 = false)
    (hgoes : ((runScalar hart i len (resumeHart hart s)).hart hart).run = .running) :
    exec (.debugStep hart i len) s = .next (haltHart hart 4 (runScalar hart i len (resumeHart hart s))) := by
  have hsel : hartselOk hart = true := decide_eq_true hhart
  refine (within_true _ (by rw [hsel, hok]; rfl)).trans (congrArg _ ?_)
  simp only [hopen, hhalted, hstepie, hgoes, beq_self_eq_true, Bool.and_self, Bool.not_true, Bool.false_and, Bool.false_eq_true,
    if_false, if_true]

/-- An access to the registers of a halted hart is the transfer, and then the program. -/
theorem execAccessRegister_halted {r : DbgReg} {w : Option Word} {p : List ProgInsn} (hp : programOk p = true) :
    exec (.accessRegister hart r w 8 p) s = .next (postExec hart p s (transfer hart r w 8 s)) := by
  have hsel : hartselOk hart = true := decide_eq_true hhart
  have hserved : (!debuggable s hart || (s.hart hart).run != .debug) = false := by rw [hopen, hhalted]; rfl
  refine (within_true _ (by rw [hsel, hp]; rfl)).trans (congrArg _ ?_)
  simp only [authenticated_of_debuggable hopen, Bool.not_true, Bool.false_eq_true, if_false, ne_eq, not_true_eq_false, and_false,
    hserved]

theorem execAccessRegister_transfers {r : DbgReg} {w : Option Word} :
    exec (.accessRegister hart r w 8 []) s = .next (transfer hart r w 8 s) := by
  rw [execAccessRegister_halted hopen hhart hhalted rfl, postExec, if_pos (Or.inr rfl)]

end

end

/-- An integer register is read to data 0 and written whole. -/
theorem transfer_readGpr (n : Nat) : transfer hart (.gpr n) none 8 s = setData0 ((s.hart hart).getX n) s := rfl

theorem transfer_writeGpr (n : Nat) (v : Word) :
    transfer hart (.gpr n) (some v) 8 s = setCmderr 0 (setHart hart ((s.hart hart).withX n v) s) := rfl

end

/-- Settles O56. -/
theorem debugCommands : Obligations.DebugCommands := by
  unfold Obligations.DebugCommands
  refine ⟨?opened, ?closes, fun hart s h => debuggable_nonexistent s h, ?array, ?jtag⟩
  case opened =>
    intro hart s hlow hopen h
    have hhart : hart < 2 ^ 20 := Nat.lt_trans hlow (by decide)
    refine ⟨?halt, ?resume, ?step, ?reset, ?read, ?write, ?program, ?runs⟩
    case halt =>
      intro hruns
      exact ⟨_, (execDebugHalt_one hhart).trans (congrArg _ (haltRequest_running hopen hruns)), haltHart_keeps 3⟩
    case resume =>
      intro hhalted hwhole
      exact ⟨_, (execDebugResume_one hhart).trans (congrArg _ (resumeRequest_halted hopen hwhole)), resumeHart_keeps hhalted⟩
    case step => exact fun i len hhalted hok hstepie hgoes => execDebugStep_steps hopen hhart hhalted hok hstepie hgoes
    case reset => exact (execDebugHartreset_one hhart).trans (congrArg _ (resetRequest_open hopen))
    case read =>
      exact fun n hhalted => (execAccessRegister_transfers hopen hhart hhalted).trans (congrArg _ (transfer_readGpr n))
    case write =>
      exact fun n v hhalted => (execAccessRegister_transfers hopen hhart hhalted).trans (congrArg _ (transfer_writeGpr n v))
    case program => exact fun r w p hp hhalted => execAccessRegister_halted hopen hhart hhalted hp
    case runs =>
      exact fun r w p hp hruns => execAccessRegister_notHalted hhart hp (authenticated_of_debuggable hopen) (Or.inr hruns)
  case closes =>
    intro hart s hhart hclosed
    exact ⟨fun i len hok => execDebugStep_closed hclosed hhart hok,
      (execDebugHalt_one hhart).trans (congrArg _ (haltRequest_closed hclosed)),
      (execDebugResume_one hhart).trans (congrArg _ (resumeRequest_closed hclosed)),
      (execDebugHartreset_one hhart).trans (congrArg _ (resetRequest_closed hclosed)),
      fun r w p hp hauth => execAccessRegister_notHalted hhart hp hauth (Or.inl hclosed)⟩
  case array =>
    intro hart l s hhart hl
    have hok := hartsOk_of_lt hhart hl
    exact ⟨fun ack => ⟨within_true _ hok, within_true _ hok⟩, within_true _ hok⟩
  case jtag => exact fun ir s hir hon => within_of_guard (decide_eq_true hir) hon

end Sys2Proof.Machine
end

section
/-! Access to the counters (O60): the writable bits of mcounteren and scounteren, and who reads hpmcounter3 to hpmcounter31. -/

namespace Sys2Proof.Machine

/-- A CSR instruction of a hart that goes is what its access does. -/
theorem csrInstruction_runs {hart len rd num : Nat} {op : CsrOp} {src : Src2} {s : State} (hgo : goes s hart)
    (hlen : len = 2 ∨ len = 4) (hnum : num < 4096) :
    exec (.scalarInstruction hart (.csr op rd num src) len) s = .next (doCsr hart len op rd num src s) := by
  refine execScalarInstruction_runs hgo hlen ?_
  simp only [scalarOk, hnum, decide_true, beq_self_eq_true, Bool.true_or, Bool.or_true, Bool.and_self]

/-! Writes. -/

/-- A CSR outside the counters that may be written is written with its operand, whatever the read of it gives. -/
theorem doCsr_writes {hart len rd num rs : Nat} {s : State} (hlegal : (s.hart hart).csrLegal num true = true) :
    ∃ t, doCsr hart len .rw rd num (.reg rs) s = csrWrite hart num ((s.hart hart).getX rs) t := by
  have hrw : (CsrOp.rw == CsrOp.rw) = true := rfl
  simp only [doCsr, hrw, Bool.true_or, hlegal, Bool.not_true, Bool.false_eq_true, if_false, onlyIf, if_true]
  exact ⟨_, rfl⟩

/-- Only a write of a counter or of its event touches a counter held at zero. -/
theorem extHeld_other (h : Hart) (e : Bool) {n : Nat} (hn : ¬((0x323 ≤ n ∧ n ≤ 0x33F) ∨ (0xB03 ≤ n ∧ n ≤ 0xB1F))) :
    h.extHeld e n = h := by
  simp only [Hart.extHeld, hn, false_and, if_false]

/-- mcounteren has bits 0 to 31 writable, scounteren bits 0 to 2. -/
theorem csrWrite_mcounteren (hart : Nat) (v : Word) (s : State) :
    ((csrWrite hart 0x306 v s).hart hart).csrOf 0x306 = v &&& 0xFFFFFFFF := by
  have hwritten : (heard s hart).csrWritten 0x306 v = (heard s hart).withCsr 0x306 (v &&& 0xFFFFFFFF) := rfl
  have hdirty (h : Hart) : h.csrDirty 0x306 = h := rfl
  have hext (h : Hart) (e : Bool) : h.extHeld e 0x306 = h := extHeld_other h e (by omega)
  rw [csrWrite, setHart_hart, hwritten, hdirty, hext, csrOf_withCsr_same]

theorem csrWrite_scounteren (hart : Nat) (v : Word) (s : State) :
    ((csrWrite hart 0x106 v s).hart hart).csrOf 0x106 = v &&& 7 := by
  have hwritten : (heard s hart).csrWritten 0x106 v = (heard s hart).withCsr 0x106 (v &&& 7) := rfl
  have hdirty (h : Hart) : h.csrDirty 0x106 = h := rfl
  have hext (h : Hart) (e : Bool) : h.extHeld e 0x106 = h := extHeld_other h e (by omega)
  rw [csrWrite, setHart_hart, hwritten, hdirty, hext, csrOf_withCsr_same]

/-- M-mode may write mcounteren, M-mode and S-mode scounteren. -/
theorem csrLegal_mcounteren {h : Hart} (hpriv : h.priv = .m) : h.csrLegal 0x306 true = true := by
  rw [Hart.csrLegal, hpriv]
  rfl

theorem csrLegal_scounteren {h : Hart} (hpriv : h.priv ≠ .u) : h.csrLegal 0x106 true = true := by
  cases hmode : h.priv with
  | u => exact absurd hmode hpriv
  | s => rw [Hart.csrLegal, hmode]; rfl
  | m => rw [Hart.csrLegal, hmode]; rfl

/-! Reads of hpmcounter3 to hpmcounter31. -/

section
variable {i : Nat} (hlow : 3 ≤ i) (hhigh : i ≤ 31)
include hlow hhigh

/-- A read of hpmcounter i is allowed in M-mode, and in S-mode where mcounteren has its bit. -/
theorem csrLegal_hpmcounter (h : Hart) :
    h.csrLegal (0xC00 + i) false = (h.priv == .m || ((h.csrOf 0x306).getLsbD i && h.priv == .s)) := by
  have hexists : csrExists (0xC00 + i) = true := by
    have hfirst : 0xC00 ≤ 0xC00 + i := by omega
    have hlast : 0xC00 + i ≤ 0xC1F := by omega
    simp only [csrExists, hfirst, hlast, decide_true, Bool.and_self, Bool.or_true, Bool.true_or]
  have hlevel : (0xC00 + i) / 0x100 % 4 = 0 := by omega
  have hdebug : ¬0xC00 + i ≤ 0x7B3 := by omega
  have hfloat : ¬(0xC00 + i = 0x001 ∨ 0xC00 + i = 0x002 ∨ 0xC00 + i = 0x003) := by omega
  have hvector : ¬((0x008 ≤ 0xC00 + i ∧ 0xC00 + i ≤ 0x00F) ∨ (0xC20 ≤ 0xC00 + i ∧ 0xC00 + i ≤ 0xC22)) := by omega
  have hcounter : 0xC00 ≤ 0xC00 + i ∧ 0xC00 + i ≤ 0xC1F := by omega
  have huser : ¬0xC00 + i ≤ 0xC02 := by omega
  have hbit : 0xC00 + i - 0xC00 = i := by omega
  simp only [Hart.csrLegal, hexists, hlevel, hdebug, if_neg hfloat, if_neg hvector, if_pos hcounter, huser, hbit, Nat.zero_le,
    decide_true, decide_false, Bool.and_false, Bool.false_and, Bool.not_false, Bool.true_or, Bool.and_self, Bool.true_and,
    Bool.or_false]

/-- A counter that is not open reads what its machine counter holds. -/
theorem csrRead_hpmcounter {hart : Nat} {s : State}
    (hclosed : (s.hart hart).countsOpen (getO s nP 0x2103 1 % 2 == 1) i = false) :
    csrRead hart (0xC00 + i) s = (s, (s.hart hart).csrOf (0xB00 + i)) := by
  have hindex : (0xC00 + i) % 0x20 = i := by omega
  have hne : 0xC00 + i ≠ 0xC00 := by omega
  have hvalue : csrValue s hart (0xC00 + i) = (heard s hart).csrOf (0xB00 + i) := by
    have hcounter : 0xC03 ≤ 0xC00 + i ∧ 0xC00 + i ≤ 0xC1F := by omega
    have hoffset : 0xC00 + i - 0xC00 = i := by omega
    have hbefore : 0xC00 + i ≠ 0x001 ∧ 0xC00 + i ≠ 0x002 ∧ 0xC00 + i ≠ 0x00F ∧ 0xC00 + i ≠ 0xC22 ∧ 0xC00 + i ≠ 0xC01 ∧
        0xC00 + i ≠ 0xC02 := by omega
    obtain ⟨h1, h2, h3, h4, h5, h6⟩ := hbefore
    rw [csrValue]
    simp only [if_neg h1, if_neg h2, if_neg h3, if_neg h4, if_neg h5, if_neg h6, if_pos hcounter, hoffset]
  have hheard : (heard s hart).csrOf (0xB00 + i) = (s.hart hart).csrOf (0xB00 + i) := by
    unfold heard
    dsimp only
    split <;> rfl
  simp only [csrRead, hindex, hclosed, Bool.false_eq_true, and_false, if_false, if_neg hne, hvalue, hheard]

end

/-- A read of a CSR that is not allowed is an illegal instruction. -/
theorem doCsr_illegal {hart len rd num : Nat} {s : State} (hillegal : (s.hart hart).csrLegal num false = false) :
    doCsr hart len .rs rd num (.reg 0) s = takeExc hart (.trap 2 (takeFree s).2) (takeFree s).1 := by
  have hread : (CsrOp.rs == CsrOp.rw || !(0 % 32 == 0)) = false := rfl
  simp only [doCsr, hread, hillegal, Bool.not_false, if_true]
  rfl

/-- One that is allowed, and changes nothing, writes the value to rd. -/
theorem doCsr_reads {hart len rd num : Nat} {v : Word} {s : State} (hlegal : (s.hart hart).csrLegal num false = true)
    (hread : csrRead hart num s = (s, v)) :
    doCsr hart len .rs rd num (.reg 0) s = writeX hart rd v ((s.hart hart).pc + BitVec.ofNat 64 len) s := by
  have honly : (CsrOp.rs == CsrOp.rw || !(0 % 32 == 0)) = false := rfl
  have hrs : ¬(CsrOp.rs = CsrOp.rw ∧ rd % 32 = 0) := fun h => CsrOp.noConfusion h.1
  simp only [doCsr, honly, hlegal, Bool.not_true, Bool.false_eq_true, if_false, if_neg hrs, hread, onlyIf, retire, setHart_hart,
    withX_pc, writeX]

/-- Settles O60. -/
theorem counterAccess : Obligations.CounterAccess := by
  unfold Obligations.CounterAccess
  refine ⟨?writes, ?reads⟩
  case writes =>
    intro hart rd rs len s hgo hlen
    refine ⟨fun hpriv => ?_, fun hpriv => ?_⟩
    · obtain ⟨t, hwrites⟩ := doCsr_writes (len := len) (rd := rd) (rs := rs) (csrLegal_mcounteren hpriv)
      exact ⟨_, csrInstruction_runs hgo hlen (by decide), by rw [hwrites, csrWrite_mcounteren]⟩
    · obtain ⟨t, hwrites⟩ := doCsr_writes (len := len) (rd := rd) (rs := rs) (csrLegal_scounteren hpriv)
      exact ⟨_, csrInstruction_runs hgo hlen (by decide), by rw [hwrites, csrWrite_scounteren]⟩
  case reads =>
    intro hart rd i len s hgo hlen hlow hhigh free
    have hruns := csrInstruction_runs (op := .rs) (rd := rd) (src := .reg 0) hgo hlen (show 0xC00 + i < 4096 by omega)
    have hlegal := csrLegal_hpmcounter hlow hhigh (s.hart hart)
    refine ⟨fun hdenied => ?_, fun hallowed => ?_⟩
    · refine hruns.trans (congrArg _ (doCsr_illegal (hlegal.trans ?_)))
      obtain huser | ⟨hsuper, hbit⟩ := hdenied
      · simp [huser]
      · simp [hsuper, hbit]
    · refine ⟨_, hruns, fun hclosed => ?_⟩
      have hmay : (s.hart hart).csrLegal (0xC00 + i) false = true := by
        rw [hlegal]
        obtain hmachine | ⟨hsuper, hbit⟩ := hallowed
        · simp [hmachine]
        · simp [hsuper, hbit]
      rw [doCsr_reads hmay (csrRead_hpmcounter hlow hhigh hclosed)]
      obtain ⟨-, -, -, hwrote⟩ := writeX_same hart rd ((s.hart hart).csrOf (0xB00 + i)) ((s.hart hart).pc + BitVec.ofNat 64 len) s
      exact hwrote

end Sys2Proof.Machine
end
